-- ==== Sys2Proof/Word.lean ====
section
/-! DEFINITION. Words, bytes and the plainest containers: the bit-vector abbreviations of the manual's
data units (R3, R4), the half of a base, four-fold groups (the four sectors of a line) and sparse maps kept
as sorted lists in one canonical form. -/

namespace Sys2Proof

/-- One byte (R3). -/
abbrev Byte := BitVec 8
/-- A 32-bit field or word (R6, R64). -/
abbrev W32 := BitVec 32
/-- A 64-bit word: a step word, an instruction word, a global address. -/
abbrev W64 := BitVec 64
/-- A 48-bit device physical address (R24). -/
abbrev Dpa := BitVec 48
/-- A 32 B sector (R163). -/
abbrev Sec256 := BitVec 256
/-- A 64 B switch word or flit (R69, R278). -/
abbrev W512 := BitVec 512
/-- A 128 B line, or the 32 lanes of a vector register (R57, R113). -/
abbrev W1024 := BitVec 1024

/-- One of the two halves of the base (R20). -/
inductive Half where
  | h0
  | h1
  deriving DecidableEq, Repr

/-- The number of a half: 0 or 1. -/
def Half.num : Half → Nat
  | .h0 => 0
  | .h1 => 1

/-- The other half of the base. -/
def Half.other : Half → Half
  | .h0 => .h1
  | .h1 => .h0

/-- The half with a given number (R27: offset bit [32]; any non-zero bit is H1). -/
def Half.ofBit (n : Nat) : Half := if n = 0 then .h0 else .h1

/-- Four things of one kind: the four sectors of a line, the four slots of an eviction buffer entry. -/
structure Quad (α : Type) where
  q0 : α
  q1 : α
  q2 : α
  q3 : α
  deriving DecidableEq, Repr

/-- Member `i` of a group of four; an index past 3 counts as 3. -/
def Quad.get {α : Type} (q : Quad α) : Nat → α
  | 0 => q.q0
  | 1 => q.q1
  | 2 => q.q2
  | _ => q.q3

/-- The group with member `i` replaced. -/
def Quad.set {α : Type} (q : Quad α) (i : Nat) (x : α) : Quad α :=
  match i with
  | 0 => { q with q0 := x }
  | 1 => { q with q1 := x }
  | 2 => { q with q2 := x }
  | _ => { q with q3 := x }

/-- Four copies of one value. -/
def Quad.all {α : Type} (x : α) : Quad α := ⟨x, x, x, x⟩

/-- The group with a function applied to each member. -/
def Quad.map {α β : Type} (f : α → β) (q : Quad α) : Quad β := ⟨f q.q0, f q.q1, f q.q2, f q.q3⟩

/-- The members in order. -/
def Quad.toList {α : Type} (q : Quad α) : List α := [q.q0, q.q1, q.q2, q.q3]

/-- A group from a function of the index. -/
def Quad.ofFn {α : Type} (f : Nat → α) : Quad α := ⟨f 0, f 1, f 2, f 3⟩

/-- A sparse map from numbers: a list of (key, value) pairs, keys strictly rising. -/
abbrev NMap (α : Type) := List (Nat × α)

namespace NMap

/-- The value listed at a key, if any. -/
def find? {α : Type} : NMap α → Nat → Option α
  | [], _ => none
  | (k', v) :: rest, k => if k = k' then some v else find? rest k

/-- The map with a value listed at a key, its keys kept in rising order. -/
def insert {α : Type} : NMap α → Nat → α → NMap α
  | [], k, v => [(k, v)]
  | (k', v') :: rest, k, v =>
    if k < k' then (k, v) :: (k', v') :: rest
    else if k = k' then (k, v) :: rest
    else (k', v') :: insert rest k v

/-- The map without a key. -/
def erase {α : Type} : NMap α → Nat → NMap α
  | [], _ => []
  | (k', v') :: rest, k => if k = k' then erase rest k else (k', v') :: erase rest k

/-- The value at a key, or the default where none is listed. -/
def getD {α : Type} (m : NMap α) (k : Nat) (d : α) : α := (find? m k).getD d

/-- Write a value in a map whose unlisted keys read as `d`: writing `d` removes the entry, so that equal
maps are equal data. -/
def setD {α : Type} [DecidableEq α] (m : NMap α) (k : Nat) (d v : α) : NMap α :=
  if v = d then erase m k else insert m k v

/-- The listed keys. -/
def keys {α : Type} (m : NMap α) : List Nat := m.map Prod.fst

/-- The keys rise strictly. -/
def sorted {α : Type} : NMap α → Bool
  | [] => true
  | [_] => true
  | (k, _) :: (k', v') :: rest => decide (k < k') && sorted ((k', v') :: rest)

/-- The canonical form of a map whose unlisted keys read as `d`: keys strictly rising, and no entry equal
to `d`. -/
def wf {α : Type} [DecidableEq α] (d : α) (m : NMap α) : Bool :=
  sorted m && m.all (fun kv => decide (kv.2 ≠ d))

end NMap

end Sys2Proof
end

