-- ==== Sys2Proof/Syntax.lean ====
section
/-! DEFINITION. The commands the base takes from outside: one constructor of `Instr` for each row of the
opcode table, with the operand types they use. A command is a register write, a message or packet that arrives,
a timer or sensor event, a step that a sequencer or engine of the base performs, or a management command.
What only the world outside can decide (an error found by check bits, a reading, a training result, a
signature of a far end) is an operand of the command that reports it. -/

namespace Sys2Proof

/-! ### Names of resources -/

/-- A physical cell: half, physical array P0–P71, cell index 16 × row + column (R81, chapter 2). -/
structure CellRef where
  half : Half
  phys : Fin 72
  cell : Fin 256
  deriving DecidableEq, Repr

/-- Who issues an access or a register write. `mp`: the management processor of a half; `array`: logical
array i of a half; `dolly`: a Dolly queue of a half; `guest`: a guest site acting for a function;
`host`: the host port acting for a function's queue pair or session; `remote`: a device over a neighbour
port (R28, R190). -/
inductive Agent where
  | mp (h : Half)
  | array (h : Half) (i : Fin 64)
  | dolly (h : Half) (q : Fin 256)
  | guest (g : Fin 4) (f : Fin 16)
  | host (f : Fin 16)
  | remote (dev : BitVec 16)
  deriving DecidableEq, Repr

/-! ### Cells and arithmetic (chapter 2) -/

/-- A compass side of a cell (R69). -/
inductive Dir where
  | n | e | s | w
  deriving DecidableEq, Repr

/-- A MAC operand format, by its code in the configuration image. -/
inductive MacFmt where
  | none | mxfp4 | mxe3m2 | mxe2m3 | mxe4m3 | mxe5m2 | e4m3 | e5m2 | mxint8 | int4 | int8 | bf16 | fp16
  deriving DecidableEq, Repr

/-- An error that the check bits of one local store word show on a read (R68). -/
inductive EccKind where
  | single | double
  deriving DecidableEq, Repr

/-- A local store word read with an error: its word number and the error. -/
structure LsErr where
  word : Fin 4096
  kind : EccKind
  deriving DecidableEq, Repr

/-- An error shown by a local store word that a Dolly engine reads: logical array L0–L127, cell and word (R68, R248). -/
structure ArrErr where
  arr : Fin 128
  cell : Fin 256
  err : LsErr
  deriving DecidableEq, Repr

/-- One cycle of MAC operands, one MAC issue word: A is 8 rows by k elements (row by row), B is k elements by 8 columns
(row by row). An element is named by the bit place of its lowest bit in its operand's source: in the local store (bit 0 of
word 0 first), or in the head word of the input port (R41, R86). `scaleA`, `scaleB`: the local store byte addresses of
the scale bytes of the 8 rows and the 8 columns, empty where no operand has scales. `bank` is bit 0 of the MAC issue word;
`last` ends the accumulation (its last group may be short); `residueFail`: a residue check of this issue failed (R77, R78);
`takeA`, `takeB`: the head word of the port that feeds the operand is used up; `fwdA`, `fwdB`: the operand's source word is
passed to operand forwarding; `lsErrs`: errors the check bits of local store words showed. -/
structure MacSlice where
  bank : Bool
  a : List Nat
  b : List Nat
  scaleA : List Nat
  scaleB : List Nat
  last : Bool
  residueFail : Bool
  takeA : Bool
  takeB : Bool
  fwdA : Bool
  fwdB : Bool
  lsErrs : List LsErr
  deriving DecidableEq, Repr

/-- The narrow formats of conversions, packing and MX blocks (R39). -/
inductive NFmt where
  | bf16 | fp16 | e5m2 | e4m3 | e3m2 | e2m3 | e2m1 | int32 | int8 | int4 | mxint8
  deriving DecidableEq, Repr

/-- FP32 operations of two operands. -/
inductive FBin where
  | add | sub | mul | div | min | max
  deriving DecidableEq, Repr

/-- FP32 operations of one operand. -/
inductive FUn where
  | neg | abs | sqrt | recip | rsqrt | exp2 | log2
  deriving DecidableEq, Repr

/-- Compares. `unordered` is an FP32 compare only. -/
inductive Cmp where
  | eq | ne | lt | le | gt | ge | unordered
  deriving DecidableEq, Repr

/-- INT32 operations of two operands. -/
inductive IBin where
  | add | sub | mulLow | mulHighS | mulHighU | min | max
  deriving DecidableEq, Repr

/-- Logic and shift operations. -/
inductive LBin where
  | and | or | xor | shl | shrL | shrA
  deriving DecidableEq, Repr

/-- Lane reductions (R63). -/
inductive RedKind where
  | sumF | sumI | maxF | minF | maxI | minI
  deriving DecidableEq, Repr

/-- One vector instruction, by the table of vector operations. Vector registers are `Fin 32`, mask registers
`Fin 8`; local store addresses are byte addresses taken modulo 16 KiB; `stride` counts words. -/
inductive VOp where
  | fbin (op : FBin) (d a b : Fin 32)
  | fun1 (op : FUn) (d a : Fin 32)
  | fma (d a b c : Fin 32)
  | fms (d a b c : Fin 32)
  | fcmp (c : Cmp) (m : Fin 8) (a b : Fin 32)
  | icmp (c : Cmp) (m : Fin 8) (a b : Fin 32)
  | sel (d : Fin 32) (m : Fin 8) (a b : Fin 32)
  | ibin (op : IBin) (d a b : Fin 32)
  | lbin (op : LBin) (d a b : Fin 32)
  | lnot (d a : Fin 32)
  | cvtTo (f : NFmt) (d a : Fin 32)
  | cvtFrom (f : NFmt) (d a : Fin 32)
  | pack (f : NFmt) (d a : Fin 32)
  | unpack (f : NFmt) (d a : Fin 32)
  | mxQuant (f : NFmt) (scaleOut elemOut a : Fin 32)
  | mxDequant (f : NFmt) (d scaleIn elemIn : Fin 32)
  | reduce (k : RedKind) (d a : Fin 32)
  | permute (d a idx : Fin 32)
  | bcast (d a : Fin 32) (lane : Fin 32)
  | rotate (d a : Fin 32) (by_ : Fin 32)
  | rand16 (d : Fin 32)
  | accRead (bank : Bool) (d : Fin 32) (half : Bool)
  | accClear (bank : Bool)
  | accSwap
  | lsLoad (d : Fin 32) (addr : Nat) (stride : Int)
  | lsStore (a : Fin 32) (addr : Nat) (stride : Int)
  | gather (d idx : Fin 32)
  | scatter (a idx : Fin 32)
  | send (port : Dir) (lo : Fin 32) (upper : Bool)
  | recv (port : Dir) (d : Fin 32) (upper : Bool)
  deriving DecidableEq, Repr

/-- The datapath whose residue check failed (R77). -/
inductive Datapath where
  | macProduct | macGroup | macAcc | vecFp | vecInt
  deriving DecidableEq, Repr

/-- Where a switch word goes: out of a port to the neighbour (or to the crossbar port attached there), or
into the local store at a 64 B row of the cell. For an output whose configured source is the local store,
`row` is the 64 B row it reads. -/
inductive SwMove where
  | out (port : Dir) (row : Fin 256)
  | intoLs (port : Dir) (row : Fin 256)
  deriving DecidableEq, Repr

/-! ### Memory accesses (chapters 4 and 5) -/

/-- An element type of an add-to-line (R132). -/
inductive AddTy where
  | fp32 | bf16 | fp16 | int32 | int64
  deriving DecidableEq, Repr

/-- The operation of an add-to-line (R132). -/
inductive AddOp where
  | add | min | max
  deriving DecidableEq, Repr

/-- The memory access of an agent: its address, and whether the address is a GA or a DPA (R24, R29). -/
inductive MemAddr where
  | dpa (a : BitVec 48)
  | ga (a : BitVec 64)
  deriving DecidableEq, Repr

/-- Errors that the check bits of one memory sector show on a read: words with a single-bit error, whether any
word has a double-bit error, and whether the metadata parity failed (R163, R164); `rowBad`: when the read makes the
controller redirect the row, the other columns in which the copy finds an uncorrectable word (R173). -/
structure ReadErr where
  single : List (Fin 8)
  double : Bool
  metaErr : Bool
  rowBad : List (Fin 32)
  deriving DecidableEq, Repr

/-- An error that the check bits show on a lookup: of a slice's data word, tag or state (R121), or of a directory
entry of the line's set, which is looked up in the same cycle (R200, R201, R218); `copyOk`: the entry's copy reads
correctly. For a far cache lookup, a tag error names the set looked up (R459). -/
inductive SliceErr where
  | none
  | dataSingle
  | dataDouble
  | tagSingle
  | tagDouble (set : Fin 1024) (way : Fin 16)
  | dirSingle
  | dirBad (way : Fin 16) (copyOk : Bool)
  deriving DecidableEq, Repr

/-- A scratchpad access (R115, R116). -/
inductive SpAccess where
  | read (len : Fin 129)
  | write (bytes : List (BitVec 8))
  | add (ty : AddTy) (op : AddOp) (mask : Fin 16) (data : BitVec 1024)
  deriving DecidableEq, Repr

/-- A step of stack training that can fail (R157, R158). -/
structure TrainReport where
  /-- dies and density the stack reports, when its identity could be read -/
  ident : Option (Nat × Nat)
  /-- the channel (0–63) and the step that failed after retries -/
  failed : Option (Fin 64 × Fin 12)
  /-- lane repairs: channel within the stack and its `LANE_MAP` value -/
  lanes : List (Fin 64 × BitVec 32)
  /-- free hard repair resources that the identity read of step 1 finds: channel within the stack, bank group (SID and BG)
  and how many -/
  ppr : List (Fin 64 × Fin 16 × Nat)
  /-- spares whose row fails the zero fill: channel within the stack and spare number -/
  badSpares : List (Fin 64 × Fin 1024)
  deriving DecidableEq, Repr

/-- What the reads of the traffic checker meet beyond what the stored content gives (R178, R180): for an OFFLINE run,
differing bits, the first failing sector index, failing lanes; for an INLINE run, the reads that found an error, in order. -/
structure TgFindings where
  count : Nat
  first : Option Nat
  laneLo : BitVec 32
  laneHi : BitVec 8
  reads : List (BitVec 26 × ReadErr)
  deriving DecidableEq, Repr

/-- The reading of a stack's temperature, in °C (R160). -/
abbrev TempC := Int

/-! ### Continuity (chapter 6) -/

/-- A holder of copies outside the home slice, as a requester or a snoop target (R182). `xFar`: the other
half's far cache; `member`: a remote device by member index. -/
inductive Holder where
  | site (g : Fin 4)
  | xFar
  | member (m : Fin 4096)
  deriving DecidableEq, Repr

/-- Scopes of ordering operations. -/
inductive Scope where
  | agent | base | group
  deriving DecidableEq, Repr

/-- Ordering of an atomic or a request (R195). -/
inductive MOrd where
  | rlx | acq | rel | acqRel
  deriving DecidableEq, Repr

/-- An atomic operation (R195). -/
inductive AtomOp where
  | swap | cas | fetchAdd | fetchMin | fetchMax | fetchAnd | fetchOr | fetchXor | load | store
  deriving DecidableEq, Repr

/-- The type of an atomic's word (R195). -/
inductive AtomTy where
  | b32 | b64 | int32 | int64 | fp32
  deriving DecidableEq, Repr

/-- An atomic: its operation, type, operand and compare operand (R195). -/
structure Atomic where
  op : AtomOp
  ty : AtomTy
  operand : BitVec 64
  compare : BitVec 64
  deriving DecidableEq, Repr

/-- Fields that every request to a home carries. `addr` is a DPA from a guest die and a GA from a far cache;
from the other half's far cache its low 48 bits are the DPA. -/
structure CohHdr where
  src : Holder
  tag : Fin 4096
  take : BitVec 8
  addr : BitVec 64
  func : Fin 16
  epoch : Bool
  scope : Scope
  ord : MOrd
  deriving DecidableEq, Repr

/-- One sector of write data: 32 B, its byte mask, its poison bit. -/
structure SecWr where
  data : BitVec 256
  mask : BitVec 32
  poison : Bool
  deriving DecidableEq, Repr

/-- Data of up to four sectors: each present sector with its poison bit. -/
abbrev LinePart := List (Fin 4 × BitVec 256 × Bool)

/-- The reduction of a partial or of an A line. -/
structure RedOp where
  ty : AddTy
  op : AddOp
  deriving DecidableEq, Repr

/-- A state granted by `DATA`. -/
inductive Granted where
  | s | e | nc
  deriving DecidableEq, Repr

/-- The access that an agent makes to remote memory through its far cache (R184). -/
inductive FarOp where
  | read (mask : Fin 16)
  | write (secs : List (Fin 4 × SecWr))
  | add (ro : RedOp) (secs : LinePart)
  | atomic (a : Atomic) (off : Fin 128) (scope : Scope) (ord : MOrd)
  deriving DecidableEq, Repr

/-- How a Slate point is reached: the departure of its barrier, or a message with the other epoch bit (R225). -/
inductive PointCause where
  | barrier
  | message (member : Fin 4096)
  deriving DecidableEq, Repr

/-! ### Dolly and Storyboard (chapter 7) -/

/-- A remote cue signal: the sending device, the cue handle on this base, the increment, the identifier the
answer carries back (R256). -/
structure RSig where
  dev : BitVec 16
  cue : BitVec 32
  inc : Fin 256
  tag : BitVec 32
  deriving DecidableEq, Repr

/-- The answer to a remote write branch of a multicast, or an answer at RDMA level (R264). -/
inductive BranchErr where
  | refused | fenced | target
  deriving DecidableEq, Repr

/-! ### Neighbour links and Clapper (chapter 8) -/

/-- A packet (R282, R283). `addr`, `xfield`, `auxf` are read per kind; `masks` are the four byte masks when
`XMASK` is 1; `data` the sectors carried. -/
structure Packet where
  dest : BitVec 16
  kind : BitVec 4
  mc : Bool
  dl : Bool
  age : Nat
  src : BitVec 16
  op : BitVec 8
  xmask : Bool
  rsv : Bool
  epoch : Bool
  tag : BitVec 12
  take : BitVec 8
  func : BitVec 4
  scope : BitVec 2
  ord : BitVec 2
  auxf : BitVec 4
  poison : BitVec 16
  xfield : BitVec 16
  addr : BitVec 64
  masks : List (BitVec 32)
  data : List (BitVec 256)
  deriving DecidableEq, Repr

/-- A DATA flit as it arrives (R278): sequence number, class, payload bytes in use. `intact`: its check code
held and its codeword was corrected. -/
structure DataFlit where
  ftype : BitVec 2
  seq : BitVec 16
  vc : Fin 8
  dl : Bool
  payload : List (BitVec 8)
  intact : Bool
  deriving DecidableEq, Repr

/-- A CTRL flit (R279): acknowledgement, NAK and credit returns as (vc, dl, flits). -/
structure CtrlFlit where
  ackSeq : BitVec 16
  ackValid : Bool
  nak : Bool
  credits : List (Fin 7 × Bool × BitVec 16)
  intact : Bool
  deriving DecidableEq, Repr

/-- What training of a neighbour port finds (R276, R277): wavelengths failed in either direction, whether the
far end permits half width, spare fibres used, class buffers of the far end as (vc, dl, flits), and the peer's
`LINK_INFO`: device, port, identifier valid; `skew`: the largest skew between wavelengths, in ns (R274). -/
structure PortTraining where
  badLambda : BitVec 16
  peerHalfOk : Bool
  txSpare : Bool
  rxSpare : Bool
  credits : List (Fin 7 × Bool × Nat)
  peerDev : BitVec 16
  peerPort : BitVec 4
  peerValid : Bool
  skew : Nat
  deriving DecidableEq, Repr

/-- The content of an `MC_ACK` (R298): targets that acknowledged, failure entries as (device, whole subtree),
and whether more than eight existed. -/
structure McAckInfo where
  okCount : Nat
  failCount : Nat
  fails : List (BitVec 16 × Bool)
  more : Bool
  deriving DecidableEq, Repr

/-- A Clapper message (R302). -/
structure ClapMsg where
  coll : BitVec 16
  take : BitVec 8
  round : BitVec 16
  status : Fin 3
  value : Nat
  firstExcl : BitVec 16
  red : Option (BitVec 256)
  src : BitVec 16
  deriving DecidableEq, Repr

/-- A Reel block packet (R311): stream identifier and take, sender, address in the slot area, sectors with their
poison bits. -/
structure BlockPkt where
  coll : BitVec 16
  take : BitVec 8
  dev : BitVec 16
  addr : BitVec 48
  secs : List (BitVec 256 × Bool)
  deriving DecidableEq, Repr

/-! ### Zoram, halves and guest dies (chapter 10) -/

/-- A bundle seen from its receiving end: bundle n between the halves received by half h, or bundle b of a
guest site received by the base (R333). -/
inductive BundleRef where
  | z (h : Half) (n : Fin 16)
  | site (g : Fin 4) (b : Fin 4)
  deriving DecidableEq, Repr

/-- A sideband lane received by the base: lane l of a half towards the other half, or a guest site's lane. -/
inductive SbRef where
  | half (h : Half) (l : Fin 2)
  | site (g : Fin 4)
  deriving DecidableEq, Repr

/-- LINK flit content (R338). -/
structure ZLink where
  ackSeq : BitVec 16
  ackValid : Bool
  nak : Bool
  credits : List (Fin 5 × Nat)
  deriving DecidableEq, Repr

/-- One slot of a frame (R337), with the fields of its descriptor. -/
inductive ZSlot where
  | empty
  | header (zc : Fin 8) (last : Bool) (flit : BitVec 512)
  | data (zc : Fin 8) (last : Bool) (poison : BitVec 2) (pair : Bool) (grant : BitVec 2) (tag : BitVec 12)
      (take : BitVec 8) (flit : BitVec 512)
  | link (l : ZLink)
  deriving DecidableEq, Repr

/-- A frame as it arrives: its number, whether its CRC passes, its payload slots 0–14 (R337). -/
structure ZFrame where
  num : BitVec 16
  intact : Bool
  slots : List ZSlot
  deriving DecidableEq, Repr

/-- A sideband message type (R347). -/
structure SbMsg where
  ty : BitVec 8
  payload : List (BitVec 8)
  deriving DecidableEq, Repr

/-- A tap request per tap (R347, R349). -/
inductive TapReq where
  | hold | inc | dec
  deriving DecidableEq, Repr

/-- A capability record (R352). -/
structure CapRec where
  zver : BitVec 8
  role : BitVec 8
  bundles : Nat
  rates : BitVec 8
  agent : BitVec 8
  fwClass : Nat
  maxTags : Nat
  vendor : BitVec 16
  product : BitVec 16
  dieRev : BitVec 8
  orient : BitVec 8
  deriving DecidableEq, Repr

/-- What one direction of a bundle shows at training: lanes failing PRBS31 at the receiver this time, lanes
failing in each of up to three repeats (the last value stands for later repeats), and whether the forwarded
clock locked (R336, R356, R357). -/
structure DirTraining where
  fails : List (BitVec 528)
  clockOk : Bool
  deriving DecidableEq, Repr

/-- Which attachment or sideband restarts, and how a lane was lost (R350). -/
inductive LaneLoss where
  | signal | lock
  deriving DecidableEq, Repr

/-- The agent whose cue message travels on Zoram: the other half's agents, or a guest site (R346). -/
inductive ZSrc where
  | half (h : Half)
  | site (g : Fin 4)
  deriving DecidableEq, Repr

/-- Why H0 fences H1 (R359). -/
inductive FenceWhy where
  | bundles | resetNotice | command
  deriving DecidableEq, Repr

/-- Causes of the fence of a guest site (R362, R363), by the codes of `FENCE_CAUSE`. -/
inductive SiteCause where
  | link | snoop | violation | command
  deriving DecidableEq, Repr

/-! ### Host port (chapter 11) -/

/-- The IPv6 address of the base that duplicate address detection or a claim by another node is about (R369). -/
inductive V6Which where
  | linkLocal | configured
  deriving DecidableEq, Repr

/-- The content of a frame as far as the receive classification looks (R367). `addressClaim`: another node answers or asks for
an address that the base is checking for duplicates (R369). -/
inductive EthBody where
  | macControl (opcode : BitVec 16)
  | neighbourOrEcho (toBase : Bool)
  | addressClaim (w : V6Which)
  | fragmentOrOption
  | udp (dport : BitVec 16)
  | other
  deriving DecidableEq, Repr

/-- An Ethernet frame as the receive classification reads it (R367): the first matching row decides. -/
structure EthFrame where
  fcsOk : Bool
  dest : BitVec 48
  src : BitVec 48
  tagged : Bool
  body : EthBody
  deriving DecidableEq, Repr

/-- The BTH of a RoCEv2 request or response: destination queue pair number field (24 bits), PSN, and whether
the invariant CRC held; `ce`: the packet arrived marked with congestion experienced (R371, R376). -/
structure Bth where
  dqpn : BitVec 24
  psn : BitVec 24
  icrcOk : Bool
  ce : Bool
  deriving DecidableEq, Repr

/-- What a requester queue pair receives (R373). -/
inductive RoceResp where
  | ack (psn : BitVec 24)
  | readData (psn : BitVec 24) (bytes : List (BitVec 8))
  | seqNak (psn : BitVec 24)
  | rnrNak (psn : BitVec 24)
  | errNak (psn : BitVec 24)
  deriving DecidableEq, Repr

/-- A Cadun transport datagram (R377, R378): its header fields and its payload. -/
structure CtGram where
  ses : BitVec 16
  seq : BitVec 32
  ackSeq : BitVec 32
  mac : BitVec 128
  ty : BitVec 8
  ver : BitVec 8
  magic : BitVec 16
  len : BitVec 16
  payload : List (BitVec 8)
  deriving DecidableEq, Repr

/-- An OPEN (R377): the function, the host nonce, the sizes asked and the message check. -/
structure OpenReq where
  func : Fin 16
  nonce : BitVec 128
  c : Nat
  e : Nat
  mac : BitVec 128
  deriving DecidableEq, Repr

/-! ### Cadun (chapter 12) -/

/-- A command by its session and its running reel index; the command's bytes lie in the session's reel. -/
structure CmdRef where
  ses : Fin 64
  index : BitVec 32
  deriving DecidableEq, Repr

/-! ### Power, clocks, boot (chapters 13, 14, 16) -/

/-- What a buck reports (R413). -/
inductive BuckFaultKind where
  | undervoltage | overcurrent | overtemperature
  deriving DecidableEq, Repr

/-- How a clock is lost (R421). -/
inductive ClockLossKind where
  | reference | corePll
  deriving DecidableEq, Repr

/-- What one half's array tests find at a cold boot (R79, R81): physical arrays that fail, cells that fail the
self-test as (physical array, cell). -/
structure ArrayTests where
  bad : List (Fin 72)
  cells : List (Fin 72 × Fin 256)
  deriving DecidableEq, Repr

/-- A firmware image as the boot ROM reads it from a slot that is as manufactured (R431, R432): whether its format and length
are good, its `PARTS`, `SVN` and `VERSION`, its image digest, and whether its signature verifies. -/
structure FwImage where
  formatOk : Bool
  parts : BitVec 8
  svn : Fin 64
  version : BitVec 32
  digest : BitVec 512
  sigOk : Bool
  deriving DecidableEq, Repr

/-- What a cold boot meets (R424): the ORIENT straps agree, the Zoram training of the 16 bundles, the array
tests of both halves, the training of each stack by name, whether H1 accepts the image and says hello, straps,
the serials that stacks report, the images in slots 0 and 1 as far as no `FW_WRITE` has changed them. -/
structure BootReport where
  orientOk : Bool
  zoram : List (DirTraining × DirTraining)
  tests0 : ArrayTests
  tests1 : ArrayTests
  stackReps : List (Fin 16 × TrainReport)
  serials : List (Fin 16 × BitVec 64)
  helloH1 : Bool
  straps : BitVec 8
  image0 : Option FwImage
  image1 : Option FwImage
  deriving DecidableEq, Repr

/-- The readings of one half's die sensors: none when the sensor reads fail (R419). -/
abbrev DieTemps := Option (List (Fin 22 × Int))

/-! ### Dailies, I3C, test access (chapters 15, 16) -/

/-- An event that a block detects by itself and that has no command of its own: local to the collector. -/
structure DailyIn where
  code : BitVec 16
  sev : Fin 4
  func : Option (Fin 16)
  index : BitVec 16
  addr : BitVec 64
  cause : BitVec 32
  deriving DecidableEq, Repr

/-- The dynamic address assignment of the I3C bus (R476). -/
inductive DaaKind where
  | setdasa | entdaa
  deriving DecidableEq, Repr

/-! ### Identifiers with takes, commit groups, snoops -/

/-- An identifier whose take is kept by number (R220). -/
inductive TakeId where
  | cue (n : Fin 8192)
  | queue (n : Fin 512)
  | qp (n : Fin 4096)
  | key (n : Fin 1024)
  | coll (h : Half) (k : Fin 128)
  | reel (h : Half) (k : Fin 64)
  | session (n : Fin 64)
  | siteTag (g : Fin 4)
  deriving DecidableEq, Repr

/-- A commit group of one block (R15–R19). Groups that exist in H0's block only carry no half. -/
inductive GroupRef where
  | ctxImage (i : Fin 64) (k : Fin 4)
  | maint (f : Fin 16)
  | dirPeek
  | dqRing (q : Fin 256)
  | reel (k : Fin 64)
  | vcBuf (p : Fin 8)
  | coll (k : Fin 128)
  | reg (q : Fin 128)
  | net
  | pkg
  | dring
  deriving DecidableEq, Repr

/-- The home that sent a snoop and how its answer names it: `x`: the other half of the base, from a slice;
`dev`: a remote device. -/
structure SnoopRef where
  dev : Option (BitVec 16)
  slice : Fin 256
  tag : Fin 4096
  take : BitVec 8
  deriving DecidableEq, Repr

/-! ### Operands that say how the hardware fared in a command -/

/-- A cell that ends its phase; `residueFail`: a residue check of the accumulator additions before the bank swap into its next
phase failed (R77). -/
structure PhaseCell where
  cell : Fin 256
  residueFail : Bool
  deriving DecidableEq, Repr

/-- An array that starts a phase; `residueFail`: the cells in which a residue check of the accumulator additions before the bank
swap failed (R77). -/
structure PhaseStart where
  array : Fin 64
  residueFail : List (Fin 256)
  deriving DecidableEq, Repr

/-- A scratchpad access, and the errors that the words of the way show (R121). -/
structure SpOp where
  acc : SpAccess
  err : SliceErr
  deriving DecidableEq, Repr

/-- Who answers a snoop, with the function and the epoch of the answer's header (R225). -/
structure SnoopSrc where
  holder : Holder
  func : Fin 16
  epoch : Bool
  deriving DecidableEq, Repr

/-- A descriptor, by its index, that an engine works on; `errs`: errors that the local store words it reads show (R68). -/
structure DescTurn where
  n : BitVec 32
  errs : List ArrErr
  deriving DecidableEq, Repr

/-! ### The commands -/

/-- The commands: one constructor per row of the opcode table, in its order. -/
inductive Instr where
  /-- CONFIG_STORE (R12): an in-band store of `size` bytes to a configuration address. -/
  | configStore (ag : Agent) (addr : BitVec 48) (size : Nat) (v : BitVec 32)
  /-- COMMIT (R17): writing 1 to a commit group's COMMIT field. -/
  | commit (ag : Agent) (h : Half) (g : GroupRef)
  /-- MAC_ISSUE (R44). -/
  | macIssue (c : CellRef) (sl : MacSlice)
  /-- RESIDUE_FAULT (R78): the fault that follows a failed residue check of a cell. -/
  | residueFault (c : CellRef) (dp : Datapath)
  /-- VECTOR_INSTRUCTION (R57); `mask`: the mask register applied, if any. -/
  | vectorInstruction (c : CellRef) (op : VOp) (mask : Option (Fin 8)) (residueFail : Bool) (lsErrs : List LsErr)
  /-- LS_WRITEBACK (R68): the corrected word is written back. -/
  | lsWriteback (c : CellRef) (word : Fin 4096)
  /-- SWITCH_WORD (R69): one 64 B word moves; `parityErr` marks it arriving with a parity error. -/
  | switchWord (c : CellRef) (mv : SwMove) (parityErr : Bool) (lsErrs : List LsErr)
  /-- PHASE_END (R88): a cell of a context reports its phase ended. -/
  | phaseEnd (h : Half) (i : Fin 64) (cell : PhaseCell)
  /-- STALL_WATCHDOG (R75). -/
  | stallWatchdog (h : Half) (i : Fin 64)
  /-- LOAD (R89): CTX_CTRL action LOAD on context k of a logical array. -/
  | load (ag : Agent) (h : Half) (i : Fin 64) (k : Fin 4)
  /-- LOAD_COMPLETE (R89): the write stage of context k ends. -/
  | loadComplete (h : Half) (i : Fin 64) (k : Fin 4)
  /-- START (R100). -/
  | start (ag : Agent) (h : Half) (i : Fin 64) (k : Fin 4)
  /-- STOP (R100). -/
  | stop (ag : Agent) (h : Half) (i : Fin 64) (k : Fin 4)
  /-- STOP_TAKES_EFFECT (R100). -/
  | stopTakesEffect (h : Half) (i : Fin 64)
  /-- DROP (R100). -/
  | drop (ag : Agent) (h : Half) (i : Fin 64) (k : Fin 4)
  /-- END (R101): the sequencer of a logical array performs its current step. -/
  | stepEnd (h : Half) (i : Fin 64)
  /-- PHASE (R98). -/
  | phase (h : Half) (i : PhaseStart)
  /-- STREAM_START (R93). -/
  | streamStart (h : Half) (i : Fin 64)
  /-- STREAM_WAIT (R98). -/
  | streamWait (h : Half) (i : Fin 64)
  /-- STREAM_READ_DATA (R93): the next word of a read port's active stream. -/
  | streamReadData (h : Half) (i : Fin 64) (port : Fin 4)
  /-- CUE_WAIT (R96). -/
  | cueWait (h : Half) (i : Fin 64)
  /-- CUE_SIGNAL (R97). -/
  | cueSignal (h : Half) (i : Fin 64)
  /-- LOOP (R98). -/
  | loop (h : Half) (i : Fin 64)
  /-- DELAY (R98). -/
  | delay (h : Half) (i : Fin 64)
  /-- DELAY_EXPIRE (R98). -/
  | delayExpire (h : Half) (i : Fin 64)
  /-- CUE_VALUE_WRITE (R108). -/
  | cueValueWrite (ag : Agent) (n : Fin 8192) (v : BitVec 32)
  /-- CUE_OWNER_WRITE (R108). -/
  | cueOwnerWrite (ag : Agent) (n : Fin 8192) (v : BitVec 32)
  /-- TAKE_ADVANCE (R222). -/
  | takeAdvance (id : TakeId)
  /-- SLICE_READ (R119): a read of the named sectors of one line. -/
  | sliceRead (ag : Agent) (addr : MemAddr) (mask : Fin 16) (tag : Nat) (err : SliceErr)
  /-- SLICE_WRITE (R119). -/
  | sliceWrite (ag : Agent) (addr : MemAddr) (secs : List (Fin 4 × SecWr)) (tag : Nat) (err : SliceErr)
  /-- ADD_TO_LINE (R132). -/
  | addToLine (ag : Agent) (addr : MemAddr) (ro : RedOp) (secs : LinePart) (tag : Nat) (err : SliceErr)
  /-- FILL_DATA (R119): the n-th sector returned to a slice arrives. -/
  | fillData (sl : Fin 256) (n : Nat)
  /-- EBUF_HANDOVER (R130): the n-th eviction buffer entry of a slice is handed over. -/
  | ebufHandover (sl : Fin 256) (n : Nat)
  /-- SCRATCHPAD_ACCESS (R115). -/
  | scratchpadAccess (ag : Agent) (addr : BitVec 48) (acc : SpOp) (tag : Nat)
  /-- SEG_MAP_WRITE (R111). -/
  | segMapWrite (ag : Agent) (h : Half) (seg : Fin 2048) (v : BitVec 32)
  /-- WAY_MAP_WRITE (R116). -/
  | wayMapWrite (ag : Agent) (h : Half) (w : Fin 16) (v : BitVec 32)
  /-- WAY_ZERO_DONE (R116). -/
  | wayZeroDone (h : Half) (w : Fin 16)
  /-- MAINT_COMMIT (R142). -/
  | maintCommit (ag : Agent) (h : Half) (f : Fin 16)
  /-- PREFETCH (R141): the running operation of a port acts on its next `count` lines. -/
  | prefetch (h : Half) (f : Fin 16) (count : Nat)
  /-- PREFETCH_LOCK (R140). -/
  | prefetchLock (h : Half) (f : Fin 16) (count : Nat)
  /-- FLUSH (R145). -/
  | flush (h : Half) (f : Fin 16) (count : Nat)
  /-- INVALIDATE (R144). -/
  | invalidate (h : Half) (f : Fin 16) (count : Nat)
  /-- FLUSH_INV (R145). -/
  | flushInv (h : Half) (f : Fin 16) (count : Nat)
  /-- MARK_DEAD (R136). -/
  | markDead (h : Half) (f : Fin 16) (count : Nat)
  /-- MAINT_RECORD (R148). -/
  | maintRecord (h : Half) (f : Fin 16)
  /-- MAINT_FAIL_TIMEOUT (R149). -/
  | maintFailTimeout (h : Half) (f : Fin 16)
  /-- MEMORY_SECTOR_READ (R164): a channel performs the n-th access of its queue, a read. -/
  | memorySectorRead (c : Fin 1024) (n : Nat) (err : ReadErr)
  /-- MEMORY_SECTOR_WRITE (R165). -/
  | memorySectorWrite (c : Fin 1024) (n : Nat) (err : ReadErr)
  /-- WCB_AGE_EXPIRE (R168): the n-th write-combining entry. -/
  | wcbAgeExpire (c : Fin 1024) (n : Nat) (err : ReadErr)
  /-- MEMORY_SIDE_ADD (R170). -/
  | memorySideAdd (c : Fin 1024) (n : Nat) (err : ReadErr)
  /-- TEMP_READING (R161). -/
  | tempReading (st : Fin 16) (t : TempC)
  /-- THERMAL_RETURN (R162). -/
  | thermalReturn (st : Fin 16)
  /-- HOLD_EXPIRE (R162). -/
  | holdExpire (c : Fin 1024)
  /-- RECALIBRATION (R159). -/
  | recalibration (c : Fin 1024) (ok : Bool)
  /-- SCRUB_READ (R166). -/
  | scrubRead (c : Fin 1024) (err : ReadErr)
  /-- STACK_LOST (R177). -/
  | stackLost (st : Fin 16)
  /-- STACK_TEMP_READ_FAIL (R177). -/
  | stackTempReadFail (st : Fin 16)
  /-- CATASTROPHIC_TEMP (R177). -/
  | catastrophicTemp (st : Fin 16)
  /-- STACK_TRAIN (R157). -/
  | stackTrain (st : Fin 16) (rep : TrainReport)
  /-- TG_START (R178). -/
  | tgStart (ag : Agent) (c : Fin 1024)
  /-- TG_STOP (R180). -/
  | tgStop (ag : Agent) (c : Fin 1024)
  /-- TG_PASSES_DONE (R180). -/
  | tgPassesDone (c : Fin 1024) (f : TgFindings)
  /-- RD_S (R197), arriving at the home. -/
  | rdS (hd : CohHdr)
  /-- RD_X (R197). -/
  | rdX (hd : CohHdr)
  /-- UPGRADE (R197). -/
  | upgrade (hd : CohHdr)
  /-- RD_NC (R197). -/
  | rdNc (hd : CohHdr) (mask : Fin 16)
  /-- WR_NC (R197). -/
  | wrNc (hd : CohHdr) (secs : List (Fin 4 × SecWr))
  /-- ADD_NC (R197). -/
  | addNc (hd : CohHdr) (ro : RedOp) (secs : LinePart)
  /-- JOIN_A (R197). -/
  | joinA (hd : CohHdr) (ro : RedOp)
  /-- ATOMIC (R196), at a byte offset of the line. -/
  | atomic (hd : CohHdr) (a : Atomic) (off : Fin 128)
  /-- WB (R197). -/
  | wb (hd : CohHdr) (keep : Bool) (secs : LinePart)
  /-- MERGE_A (R197). -/
  | mergeA (hd : CohHdr) (ro : RedOp) (secs : LinePart)
  /-- EVICT_E (R197). -/
  | evictE (hd : CohHdr)
  /-- RENEW (R206). -/
  | renew (hd : CohHdr)
  /-- INV (R197), arriving at the far cache of a half from a home with a snoop tag. -/
  | inv (h : Half) (addr : BitVec 64) (snoop : SnoopRef)
  /-- RECALL (R197). -/
  | recall (h : Half) (addr : BitVec 64) (snoop : SnoopRef)
  /-- DOWNGRADE (R197). -/
  | downgrade (h : Half) (addr : BitVec 64) (snoop : SnoopRef)
  /-- COLLECT (R215). -/
  | collect (h : Half) (addr : BitVec 64) (snoop : SnoopRef)
  /-- DATA (R205), arriving at the far cache of a half for a request tag. -/
  | data (h : Half) (tag : Fin 4096) (take : BitVec 8) (g : Granted) (secs : LinePart) (lease : Nat)
  /-- GRANT (R205). -/
  | grant (h : Half) (tag : Fin 4096) (take : BitVec 8) (nc : Bool) (lease : Nat)
  /-- ACK_LOCAL (R190). -/
  | ackLocal (h : Half) (tag : Fin 4096) (take : BitVec 8)
  /-- ACK_GLOBAL (R190). -/
  | ackGlobal (h : Half) (tag : Fin 4096) (take : BitVec 8)
  /-- ATOMIC_RESULT (R286). -/
  | atomicResult (h : Half) (tag : Fin 4096) (take : BitVec 8) (old : BitVec 64)
  /-- SNOOP_ACK (R212), arriving at the home slice. -/
  | snoopAck (sl : Fin 256) (tag : Fin 4096) (take : BitVec 8) (src : SnoopSrc) (pend : Bool)
  /-- SNOOP_DATA (R197): M data, or a partial under `ro` (R285). -/
  | snoopData (sl : Fin 256) (tag : Fin 4096) (take : BitVec 8) (src : SnoopSrc) (ro : Option RedOp) (secs : LinePart)
  /-- ACK (R213), arriving at the far cache of a half. -/
  | ack (h : Half) (tag : Fin 4096) (take : BitVec 8)
  /-- NACK (R206). -/
  | nack (h : Half) (tag : Fin 4096) (take : BitVec 8)
  /-- RETRY (R199). -/
  | retry (h : Half) (tag : Fin 4096) (take : BitVec 8)
  /-- RETRY_RESEND (R199). -/
  | retryResend (h : Half) (tag : Fin 4096)
  /-- ERROR (R197). -/
  | error (h : Half) (tag : Fin 4096) (take : BitVec 8) (cause : BitVec 4)
  /-- FAR_CACHE_ACCESS (R184). -/
  | farCacheAccess (ag : Agent) (addr : BitVec 64) (op : FarOp) (rtag : Nat) (err : SliceErr)
  /-- LEASE_GIVE_UP (R207). -/
  | leaseGiveUp (h : Half) (set : Fin 4096) (way : Fin 16)
  /-- LEASE_DEADLINE (R209): the deadline of a member for a line of a slice. -/
  | leaseDeadline (sl : Fin 256) (line : Fin 67108864) (m : Fin 4096)
  /-- REQ_TIMEOUT (R211). -/
  | reqTimeout (h : Half) (tag : Fin 4096)
  /-- RP_COLLECT_TIMEOUT (R216). -/
  | rpCollectTimeout (sl : Fin 256) (line : Fin 67108864)
  /-- SLATE_POINT (R226). -/
  | slatePoint (f : Fin 16) (cause : PointCause)
  /-- SLATE_STREAM_START (R231). -/
  | slateStreamStart (f : Fin 16)
  /-- SLATE_COMPLETE (R232). -/
  | slateComplete (f : Fin 16)
  /-- DQ_ENABLE (R242): ENABLE written 1, with the other bits of `DQ_CTL` as `v`. -/
  | dqEnable (ag : Agent) (h : Half) (q : Fin 256) (v : BitVec 32)
  /-- DQ_DISABLE (R242). -/
  | dqDisable (ag : Agent) (h : Half) (q : Fin 256)
  /-- DQ_STOP (R242). -/
  | dqStop (ag : Agent) (h : Half) (q : Fin 256)
  /-- DQ_RESUME (R242). -/
  | dqResume (ag : Agent) (h : Half) (q : Fin 256)
  /-- DOORBELL (R239): a write to DQ_TAIL. -/
  | doorbell (ag : Agent) (h : Half) (q : Fin 256) (tail : BitVec 32)
  /-- DQ_REC_HEAD_WRITE (R257). -/
  | dqRecHeadWrite (ag : Agent) (h : Half) (q : Fin 256) (v : BitVec 32)
  /-- DESCRIPTOR_READ (R239): the engine reads the descriptor at HEAD. -/
  | descriptorRead (h : Half) (q : Fin 256)
  /-- NOP (R245): the descriptor with running index n of the queue. -/
  | nop (h : Half) (q : Fin 256) (n : BitVec 32)
  /-- COPY (R246). -/
  | copy (h : Half) (q : Fin 256) (n : DescTurn)
  /-- ADD (R251). -/
  | add (h : Half) (q : Fin 256) (n : DescTurn)
  /-- FILL (R252). -/
  | fill (h : Half) (q : Fin 256) (n : BitVec 32)
  /-- GATHER (R250). -/
  | gather (h : Half) (q : Fin 256) (n : DescTurn)
  /-- SCATTER (R250). -/
  | scatter (h : Half) (q : Fin 256) (n : DescTurn)
  /-- MCAST (R263). -/
  | mcast (h : Half) (q : Fin 256) (n : DescTurn)
  /-- MCAST_BRANCH_TIMEOUT (R264): destination d of the descriptor. -/
  | mcastBranchTimeout (h : Half) (q : Fin 256) (n : BitVec 32) (d : Fin 16)
  /-- RDMA_WRITE (R261). -/
  | rdmaWrite (h : Half) (q : Fin 256) (n : BitVec 32)
  /-- RDMA_READ (R261). -/
  | rdmaRead (h : Half) (q : Fin 256) (n : BitVec 32)
  /-- REEL (R266). -/
  | reel (h : Half) (q : Fin 256) (n : BitVec 32)
  /-- RSIGNAL (R256). -/
  | rsignal (h : Half) (q : Fin 256) (n : BitVec 32)
  /-- DESCRIPTOR_COMPLETE (R254). -/
  | descriptorComplete (h : Half) (q : Fin 256) (n : BitVec 32)
  /-- RSIGNAL_RECEIVE (R256), arriving at a half. -/
  | rsignalReceive (r : RSig)
  /-- RSIG_ACK (R256), for the queue handle and running index that the RSIGNAL carried. -/
  | rsigAck (queue : BitVec 32) (n : BitVec 32)
  /-- RSIG_REFUSED (R256). -/
  | rsigRefused (queue : BitVec 32) (n : BitVec 32)
  /-- REEL_VALID_WRITE (R265): a write of REEL_ID of entry k of a half. -/
  | reelValidWrite (ag : Agent) (h : Half) (k : Fin 64) (v : BitVec 32)
  /-- BLOCK (R311): block data for a slot area, at its DPA. -/
  | block (blk : BlockPkt)
  /-- ARRIVAL (R267). -/
  | arrival (coll : BitVec 16) (take : BitVec 8) (dev : BitVec 16) (sendNo : BitVec 16)
  /-- ARRIVAL_ACK (R266). -/
  | arrivalAck (coll : BitVec 16) (take : BitVec 8) (dev : BitVec 16) (sendNo : BitVec 16)
  /-- REEL_FREE (R267). -/
  | reelFree (h : Half) (k : Fin 64)
  /-- CREDIT (R267). -/
  | credit (coll : BitVec 16) (take : BitVec 8) (dev : BitVec 16)
  /-- PORT_ENABLE (R276): a write of PORT_CTL that sets or clears ENABLE. -/
  | portEnable (ag : Agent) (p : Fin 16) (v : BitVec 32)
  /-- PORT_TRAINING_TIMEOUT (R276). -/
  | portTrainingTimeout (p : Fin 16)
  /-- PORT_UP (R276). -/
  | portUp (p : Fin 16) (tr : PortTraining)
  /-- DATA_FLIT (R280), received on a port. -/
  | dataFlit (p : Fin 16) (f : DataFlit)
  /-- CTRL_FLIT (R279), received on a port. -/
  | ctrlFlit (p : Fin 16) (f : CtrlFlit)
  /-- NAK_TIMER (R280). -/
  | nakTimer (p : Fin 16)
  /-- ACK_TIMER (R280). -/
  | ackTimer (p : Fin 16)
  /-- ACK_STALL_TIMEOUT (R281). -/
  | ackStallTimeout (p : Fin 16)
  /-- LOSS_OF_SIGNAL (R281); `otherWay`: the other direction still works. -/
  | lossOfSignal (p : Fin 16) (otherWay : Bool)
  /-- LINK_INFO (R294). -/
  | linkInfo (p : Fin 16) (dev : BitVec 16) (peerPort : BitVec 4) (valid : Bool)
  /-- PACKET_DELIVER (R290): the packet at the front of the receive queue of a class. -/
  | packetDeliver (p : Fin 16) (vc : Fin 8) (dl : Bool)
  /-- PACKET_FORWARD (R291); `us`: the packet's time at the base, rounded up to 1 µs. -/
  | packetForward (p : Fin 16) (vc : Fin 8) (dl : Bool) (us : Nat)
  /-- MC_PACKET (R297). -/
  | mcPacket (p : Fin 16) (vc : Fin 8) (dl : Bool) (us : Nat)
  /-- MC_HOLD_EXPIRE (R297): branch b (a port number, or 16 for the base itself) of operation n. -/
  | mcHoldExpire (n : Nat) (b : Fin 17)
  /-- MC_ACK (R298), from a branch of the operation with this source, tag and take. -/
  | mcAck (src : BitVec 16) (tag : BitVec 12) (take : BitVec 8) (b : Fin 17) (info : McAckInfo)
  /-- COLL_VALID_WRITE (R300): a write of COLL_ID of entry k of a half. -/
  | collValidWrite (ag : Agent) (h : Half) (k : Fin 128) (v : BitVec 32)
  /-- LOCAL_ARRIVAL (R301). -/
  | localArrival (h : Half) (k : Fin 128)
  /-- ARRIVE (R301). -/
  | arrive (m : ClapMsg)
  /-- DEPART (R301). -/
  | depart (m : ClapMsg)
  /-- CHILD_WAIT_TIMEOUT (R305). -/
  | childWaitTimeout (h : Half) (k : Fin 128)
  /-- DEPART_WAIT_TIMEOUT (R306). -/
  | departWaitTimeout (h : Half) (k : Fin 128)
  /-- BAND_NOTICE (R308): the band change of a stack reaches entry k of a half. -/
  | bandNotice (h : Half) (k : Fin 128)
  /-- DELAY_NOTICE (R309). -/
  | delayNotice (m : ClapMsg)
  /-- EXTEND (R309). -/
  | extend (m : ClapMsg)
  /-- WINDOW_BOUNDARY (R321) of regulator q of a half. -/
  | windowBoundary (h : Half) (q : Fin 128)
  /-- FRAME_RECEIVE (R339). -/
  | frameReceive (b : BundleRef) (f : ZFrame)
  /-- LINK_FLIT (R338). -/
  | linkFlit (b : BundleRef) (l : ZLink)
  /-- BUNDLE_RETRAIN (R356), with what both directions show (for a guest site, only the first is the base's). -/
  | bundleRetrain (b : BundleRef) (rx : DirTraining) (tx : DirTraining)
  /-- BUNDLE_LIST_CHANGE (R343) at one side. -/
  | bundleListChange (src : ZSrc)
  /-- ZORAM_AGE_DISCARD (R344): the message at the front of a channel's receive queue. -/
  | zoramAgeDiscard (b : BundleRef) (zc : Fin 5)
  /-- ZORAM_TRAINING (R356): all 16 bundles; each with what H0 receives and what H1 receives. -/
  | zoramTraining (dirs : List (DirTraining × DirTraining))
  /-- SB_ACK (R347). -/
  | sbAck (s : SbRef) (ty : BitVec 8) (crc : BitVec 16)
  /-- SIDEBAND_RESEND (R347). -/
  | sidebandResend (s : SbRef)
  /-- SIDEBAND_STAGE_TIMEOUT (R348). -/
  | sidebandStageTimeout (s : SbRef)
  /-- TS1 (R348): lane, stage and ORIENT of the sender; `locked`: symbol lock reached. -/
  | ts1 (s : SbRef) (lane : Fin 2) (stage : Fin 6) (orient : Bool) (locked : Bool)
  /-- TAP_REQ (R349): requests for the pre-cursor, the post-cursor and the main tap. -/
  | tapReq (s : SbRef) (pre post main : TapReq)
  /-- TAP_ACK (R349). -/
  | tapAck (s : SbRef) (pre : Fin 9) (post : Fin 17) (limits : BitVec 3)
  /-- SB_LANE_LOSS (R350). -/
  | sbLaneLoss (s : SbRef) (why : LaneLoss)
  /-- EYE_GO (R351): a write of EYE_CTL with EYE_GO 1. -/
  | eyeGo (ag : Agent) (s : SbRef) (v : BitVec 32)
  /-- EYE_SCAN_DONE (R351), with the count of differing decisions. -/
  | eyeScanDone (s : SbRef) (errors : Nat)
  /-- CAP (R353), received from the far side. -/
  | cap (s : SbRef) (c : CapRec)
  /-- CAP_GRANT (R353). -/
  | capGrant (s : SbRef) (c : CapRec)
  /-- SPLICE (R336): the far side's view of a direction of a bundle, with its CRC. -/
  | splice (b : BundleRef) (rxDir : Bool) (view : BitVec 528) (crc : BitVec 32)
  /-- BUNDLE_STATE (R343). -/
  | bundleState (b : BundleRef) (st : Fin 5) (lastRx lastTx : BitVec 16)
  /-- RESET_NOTICE (R359), received by a half. -/
  | resetNotice (h : Half)
  /-- FENCE_H1 (R359). -/
  | fenceH1 (why : FenceWhy)
  /-- H0_LOSS_AT_H1 (R360). -/
  | h0LossAtH1
  /-- GUEST_MESSAGE (R361): the message at the front of a channel's receive queue from a guest die. -/
  | guestMessage (g : Fin 4) (b : Fin 4) (zc : Fin 5)
  /-- SNOOP_LIMIT_EXPIRE (R362). -/
  | snoopLimitExpire (g : Fin 4)
  /-- GUEST_SITE_FENCE (R363). -/
  | guestSiteFence (g : Fin 4) (cause : SiteCause)
  /-- FENCE (R362): a guest's full fence of a scope. -/
  | fence (g : Fin 4) (tag : BitVec 12) (scope : Scope)
  /-- GS_OPEN_WRITE (R365): a write of GS_CTL. -/
  | gsOpenWrite (ag : Agent) (g : Fin 4) (v : BitVec 32)
  /-- SIGNAL (R346). -/
  | signal (src : ZSrc) (func : Fin 16) (cue : BitVec 32) (inc : Fin 256)
  /-- WAIT (R346). -/
  | wait (src : ZSrc) (func : Fin 16) (tag : BitVec 12) (cue : BitVec 32) (threshold : BitVec 16) (consume : Bool)
  /-- WAIT_DONE (R346), received by the half whose agent waits. -/
  | waitDone (h : Half) (tag : BitVec 12)
  /-- CFG_RD (R346). -/
  | cfgRd (src : ZSrc) (func : Fin 16) (tag : BitVec 12) (addr : BitVec 48) (size : Nat)
  /-- CFG_WR (R346). -/
  | cfgWr (src : ZSrc) (func : Fin 16) (tag : BitVec 12) (addr : BitVec 48) (size : Nat) (v : BitVec 32)
  /-- BAND (R346), received by the Clapper block of a half. -/
  | band (h : Half) (st : Fin 16) (b : Fin 5)
  /-- ETH_FRAME_RECEIVE (R367). -/
  | ethFrameReceive (f : EthFrame)
  /-- HOST_LINK_DOWN (R368). -/
  | hostLinkDown
  /-- HOST_LINK_UP (R368). -/
  | hostLinkUp
  /-- ANNOUNCE_TIMER (R370). -/
  | announceTimer
  /-- DISCOVER (R370), from a sender. -/
  | discover (sender : BitVec 128)
  /-- RDMA_WRITE_REQUEST (R374): one packet's worth of a received RDMA WRITE. -/
  | rdmaWriteRequest (b : Bth) (va : BitVec 64) (rkey : BitVec 32) (bytes : List (BitVec 8))
  /-- RDMA_READ_REQUEST (R374). -/
  | rdmaReadRequest (b : Bth) (va : BitVec 64) (rkey : BitVec 32) (len : BitVec 32)
  /-- FETCH_ADD (R375). -/
  | fetchAdd (b : Bth) (va : BitVec 64) (rkey : BitVec 32) (operand : BitVec 64)
  /-- CMP_SWAP (R375). -/
  | cmpSwap (b : Bth) (va : BitVec 64) (rkey : BitVec 32) (compare operand : BitVec 64)
  /-- ROCE_RESPONSE (R373), for a destination queue pair number field. -/
  | roceResponse (dqpn : BitVec 24) (r : RoceResp)
  /-- ROCE_ACK_TIMEOUT (R373). -/
  | roceAckTimeout (qp : Fin 4096)
  /-- PFC_FRAME (R376): priorities named, and those of them that pause. -/
  | pfcFrame (enable pause : BitVec 8)
  /-- CONGESTION_NOTIFICATION (R376). -/
  | congestionNotification (dqpn : BitVec 24)
  /-- RATE_RECOVERY (R376). -/
  | rateRecovery (qp : Fin 4096)
  /-- OPEN (R377). -/
  | ctOpen (o : OpenReq)
  /-- CLOSE (R378). -/
  | ctClose (g : CtGram)
  /-- ENTRIES (R379). -/
  | entries (g : CtGram)
  /-- CT_ACK (R378). -/
  | ctAck (g : CtGram)
  /-- CT_RESEND (R378). -/
  | ctResend (ses : Fin 64)
  /-- SESSION_LOST_TIMEOUT (R378). -/
  | sessionLostTimeout (ses : Fin 64)
  /-- AUTO_PENDING (R381). -/
  | autoPending (c : CmdRef)
  /-- SES_CMD_DB (R383). -/
  | sesCmdDb (ag : Agent) (ses : Fin 64) (v : BitVec 32)
  /-- SES_CPL_HEAD (R383). -/
  | sesCplHead (ag : Agent) (ses : Fin 64) (v : BitVec 32)
  /-- DEV_INFO (R391). -/
  | devInfo (c : CmdRef)
  /-- DEVICE_ID_SET (R30). -/
  | deviceIdSet (c : CmdRef)
  /-- DEVICE_RESET (R423). -/
  | deviceReset (c : CmdRef)
  /-- FUNC_CREATE (R395). -/
  | funcCreate (c : CmdRef)
  /-- FUNC_DESTROY (R403). -/
  | funcDestroy (c : CmdRef)
  /-- CUT (R401). -/
  | cut (c : CmdRef)
  /-- FUNC_QUERY (R407). -/
  | funcQuery (c : CmdRef)
  /-- CLUSTER_ASSIGN (R395). -/
  | clusterAssign (c : CmdRef)
  /-- CLUSTER_RELEASE (R395). -/
  | clusterRelease (c : CmdRef)
  /-- PART_CREATE (R396). -/
  | partCreate (c : CmdRef)
  /-- PART_RESIZE (R397). -/
  | partResize (c : CmdRef)
  /-- PART_DESTROY (R397). -/
  | partDestroy (c : CmdRef)
  /-- WAYS_SET (R398). -/
  | waysSet (c : CmdRef)
  /-- PART_EXPORT (R399). -/
  | partExport (c : CmdRef)
  /-- CUE_ALLOC (R393). -/
  | cueAlloc (c : CmdRef)
  /-- CUE_FREE (R393). -/
  | cueFree (c : CmdRef)
  /-- DQ_ALLOC (R393). -/
  | dqAlloc (c : CmdRef)
  /-- DQ_FREE (R393). -/
  | dqFree (c : CmdRef)
  /-- REG_ALLOC (R393). -/
  | regAlloc (c : CmdRef)
  /-- REG_FREE (R393). -/
  | regFree (c : CmdRef)
  /-- REG_SET (R325). -/
  | regSet (c : CmdRef)
  /-- QP_ALLOC (R393). -/
  | qpAlloc (c : CmdRef)
  /-- QP_MODIFY (R394). -/
  | qpModify (c : CmdRef)
  /-- QP_FREE (R393). -/
  | qpFree (c : CmdRef)
  /-- MK_CREATE (R394). -/
  | mkCreate (c : CmdRef)
  /-- MK_DESTROY (R374). -/
  | mkDestroy (c : CmdRef)
  /-- SESSION_LOCAL (R383). -/
  | sessionLocal (c : CmdRef)
  /-- SESSION_CLOSE (R391). -/
  | sessionClose (c : CmdRef)
  /-- GROUP_SET (R186). -/
  | groupSet (c : CmdRef)
  /-- ROUTE_LOAD (R291). -/
  | routeLoad (c : CmdRef)
  /-- SLATE_ARM (R224). -/
  | slateArm (c : CmdRef)
  /-- SLATE_ABORT (R234). -/
  | slateAbort (c : CmdRef)
  /-- GUEST_OPEN (R363). -/
  | guestOpen (c : CmdRef)
  /-- GUEST_FENCE (R363). -/
  | guestFence (c : CmdRef)
  /-- H1_FENCE (R359). -/
  | h1Fence (c : CmdRef)
  /-- H1_REJOIN (R426), with what the rejoin meets. -/
  | h1Rejoin (c : CmdRef) (rep : BootReport)
  /-- STACK_MAINT (R179), with the training of a returned stack. -/
  | stackMaint (c : CmdRef) (rep : TrainReport)
  /-- RETIRED_LIST (R175). -/
  | retiredList (c : CmdRef)
  /-- FIELD_READ (R404). -/
  | fieldRead (c : CmdRef)
  /-- FIELD_WRITE (R404). -/
  | fieldWrite (c : CmdRef)
  /-- FIELD_WRITE_GROUP (R405). -/
  | fieldWriteGroup (c : CmdRef)
  /-- SETTINGS_STORE (R441). -/
  | settingsStore (c : CmdRef)
  /-- FW_WRITE (R435); `readBackOk`: the flash read back as written. -/
  | fwWrite (c : CmdRef) (readBackOk : Bool)
  /-- FW_ACTIVATE (R436). -/
  | fwActivate (c : CmdRef)
  /-- ATTEST_QUOTE (R445). -/
  | attestQuote (c : CmdRef)
  /-- IDENTITY_READ (R429). -/
  | identityRead (c : CmdRef)
  /-- MP_HELLO (R387), received by a half. -/
  | mpHello (h : Half) (fw : BitVec 32) (slot : Bool)
  /-- MP_WORK (R387), received by H1. -/
  | mpWork (item : BitVec 16) (opcode : BitVec 16) (args : List (BitVec 8))
  /-- MP_DONE (R387), received by H0. -/
  | mpDone (item : BitVec 16) (status : BitVec 8) (result : List (BitVec 8))
  /-- MP_BEAT (R388): the heartbeat that a half sends and the other receives. -/
  | mpBeat (sender : Half)
  /-- MP_BEAT_LOSS (R388). -/
  | mpBeatLoss
  /-- WATCHDOG_EXPIRE (R388). -/
  | watchdogExpire (h : Half)
  /-- DOMAIN_GATE (R410). -/
  | domainGate (h : Half) (i : Fin 35)
  /-- DOMAIN_WAKE (R410). -/
  | domainWake (h : Half) (i : Fin 35)
  /-- BUCK_FAULT (R413). -/
  | buckFault (h : Half) (i : Fin 35) (k : BuckFaultKind)
  /-- VIN_FAST_THRESHOLD (R414). -/
  | vinFastThreshold
  /-- VIN_TRIP (R414); `aonKept`: the AON domains kept power. -/
  | vinTrip (aonKept : Bool)
  /-- GF_REPORT (R415), with H1's demand, measured power, throttle level and hottest sensor. -/
  | gfReport (demand power : BitVec 16) (level : Fin 16) (hot : Int)
  /-- GF_GRANT (R416). -/
  | gfGrant (grant exchange : BitVec 16)
  /-- GRANT_ACK_TIMEOUT (R416). -/
  | grantAckTimeout
  /-- GAFFER_FALLBACK (R416). -/
  | gafferFallback (h : Half)
  /-- THROTTLE_ADJUST (R417), with the half's power over the last 10 µs and its cluster power, in W. -/
  | throttleAdjust (h : Half) (power cluster : Nat)
  /-- DIE_SENSOR_READ (R419). -/
  | dieSensorRead (h : Half) (temps : DieTemps)
  /-- CLOCK_LOSS (R421). -/
  | clockLoss (h : Half) (k : ClockLossKind)
  /-- TIME_SET (R422), with H0's count. -/
  | timeSet (t : BitVec 64)
  /-- TRIP_NOTICE (R416), received by a half. -/
  | tripNotice (h : Half) (cause : BitVec 8)
  /-- COLD_BOOT (R424). -/
  | coldBoot (rep : BootReport)
  /-- BOOT_HOLD_RELEASE (R475). -/
  | bootHoldRelease (rep : BootReport)
  /-- BOOT_GO (R434), with the digest and length sent to H1. -/
  | bootGo (digest : BitVec 512) (len : BitVec 32)
  /-- H1_RESET (R423). -/
  | h1Reset
  /-- FLOOR_RAISE (R442). -/
  | floorRaise
  /-- DAILIES_RECORD (R454): the collector of a half takes the next record of its input queue. -/
  | dailiesRecord (h : Half)
  /-- DAILIES_READ (R456): the management processor of a half reads the next record of its ring. -/
  | dailiesRead (h : Half)
  /-- SAMPLE (R457). -/
  | sample (h : Half)
  /-- I3C_POINTER_WRITE (R476), 4 bytes as one little-endian value. -/
  | i3cPointerWrite (h : Half) (v : BitVec 32)
  /-- I3C_READ (R476). -/
  | i3cRead (h : Half)
  /-- BYPASS (R477), shifted into a die's instruction register. -/
  | bypass (h : Half)
  /-- IDCODE (R477). -/
  | idcode (h : Half)
  /-- SAMPLE/PRELOAD (R477): the pins sampled, and the values preloaded. -/
  | samplePreload (h : Half) (preload : BitVec 32)
  /-- EXTEST (R477). -/
  | extest (h : Half)
  /-- MOD_PRESENT_CHANGE (R478); `high`: MOD_PRESENT_N is high. -/
  | modPresentChange (high : Bool)
  /-- COMMAND_BUS_PARITY_ERROR (R177). -/
  | commandBusParityError (c : Fin 1024)
  /-- LEASE_END (R207). -/
  | leaseEnd (h : Half) (set : Fin 4096) (way : Fin 16)
  /-- REFRESH_MANAGEMENT_REQUEST (R153). -/
  | refreshManagementRequest (c : Fin 1024)
  /-- PER_BANK_REFRESH (R160). -/
  | perBankRefresh (c : Fin 1024)
  /-- RESET_N_ASSERT (R474). -/
  | resetNAssert
  /-- PWR_GOOD_HIGH (R471). -/
  | pwrGoodHigh
  /-- VIN_MAIN_RESTORED (R414). -/
  | vinMainRestored
  /-- REFCLK_AON_RETURN (R423). -/
  | refclkAonReturn
  /-- DYNAMIC_ADDRESS_ASSIGNMENT (R476). -/
  | dynamicAddressAssignment (h : Half) (kind : DaaKind) (addr : BitVec 7)
  /-- DUPLICATE_ADDRESS_DETECTION_END (R369). -/
  | duplicateAddressDetectionEnd (w : V6Which)
  deriving DecidableEq, Repr

end Sys2Proof
end

