-- ==== Sys2Proof/Machine/State.lean ====
section
/-! DEFINITION. The state of the base as plain data, group by group in the order of the manual's chapters, and
the state right after a cold reset, before any step of the boot order. Sparse maps are `NMap`s in canonical
form; memories are lists of `Host.Cell`. -/

namespace Sys2Proof.Machine

open Sys2Proof

/-- The two parts (chapter 0): MB1 has one half, MB2 two. -/
inductive Part where
  | mb1
  | mb2
  deriving DecidableEq, Repr

/-! ### What the base sends out -/

/-- A Continuity message as the base sends it (R285, R345): its code and the fields it uses. -/
structure CohMsg where
  code : Nat
  tag : Nat
  take : BitVec 8
  addr : BitVec 64
  func : Nat
  epoch : Bool
  secs : LinePart
  redop : Nat
  nc : Bool
  keep : Bool
  lease : Nat
  granted : Nat
  cause : Nat
  word : BitVec 64
  masks : List W32
  sect : Nat
  scope : Nat
  ord : Nat
  last : Bool
  deriving DecidableEq, Repr

/-- Where a Continuity message goes: a remote device, a guest site, the far cache or a home slice of a half. -/
inductive CohDst where
  | dev (d : BitVec 16)
  | site (g : Nat)
  | far (h : Half)
  | slice (l : Nat)
  deriving DecidableEq, Repr

/-- A Clapper operation sent (R302). -/
inductive ClapOp where
  | arrive | depart | delay | extend
  deriving DecidableEq, Repr

/-- A Cadun transport datagram sent: session, type, sequence number, acknowledgement, message check and entries. -/
structure CtOut where
  ses : Nat
  ty : Nat
  seq : Nat
  ackSeq : Nat
  mac : List Byte
  payload : List Byte
  deriving DecidableEq, Repr

/-- The fields of a Zoram header that name the request which a message is about (R345). -/
structure ZHead where
  func : Nat
  tag : Nat
  take : BitVec 8
  deriving DecidableEq, Repr

/-- What the base shows to the world, newest first in `State.out`. -/
inductive Out where
  /-- read data of one sector, with its poison bit, to the agent that asked with a tag -/
  | rdata (ag : Agent) (tag : Nat) (addr : Nat) (d : Sec256) (poison : Bool)
  /-- an access completed: its writes are accepted -/
  | done (ag : Agent) (tag : Nat)
  /-- an access completed with an error response -/
  | accErr (ag : Agent) (tag : Nat)
  /-- the old value of an atomic -/
  | atomOld (ag : Agent) (tag : Nat) (v : W64)
  /-- scratchpad read data -/
  | spData (ag : Agent) (tag : Nat) (bytes : List Byte) (poison : Bool)
  /-- a configuration read answered -/
  | cfgData (ag : Agent) (addr : Nat) (v : W32)
  /-- a configuration write answered without an error response -/
  | cfgDone (ag : Agent) (addr : Nat)
  /-- a configuration access answered with an error response -/
  | cfgErr (ag : Agent) (addr : Nat)
  | coh (dst : CohDst) (m : CohMsg)
  | clap (dst : BitVec 16) (op : ClapOp) (m : ClapMsg) (poison : Bool)
  | reel (dst : BitVec 16) (op : Nat) (coll : BitVec 16) (take : BitVec 8) (slot : Nat) (addr : Nat) (secs : List (Sec256 × Bool))
  | rsignal (dst : BitVec 16) (cue : W32) (inc : Nat) (queue : W32) (index : W32)
  | rsigAnswer (dst : BitVec 16) (ok : Bool) (tag : W32)
  | mcAck (port : Nat) (src : BitVec 16) (tag : BitVec 12) (take : BitVec 8) (info : McAckInfo)
  | mcWrite (group : Nat) (tag : Nat) (take : BitVec 8) (addr : Nat) (last : Bool) (secs : List (Sec256 × Bool))
  | slateDone (f : Nat) (round : Nat)
  | flit (port : Nat) (f : DataFlit)
  | ctrl (port : Nat) (f : CtrlFlit)
  | linkInfo (port : Nat) (dev : BitVec 16) (valid : Bool)
  /-- a codeword, or an alignment marker, on a wavelength of a port -/
  | codeword (port wave : Nat) (symbols : List (BitVec 10))
  | alignMarker (port wave : Nat)
  /-- the flits that an access of an agent of this half costs across Zoram, towards the other half and back -/
  | crossFlits (h : Half) (towards back : Nat)
  /-- a flit message of class (channel) on a bundle: Zoram classes CUE, CFG, SERVICE and forwarded packets -/
  | zCue (dst : ZSrc) (op : Nat) (head : ZHead) (cue : W32) (inc thr : Nat) (consume : Bool)
  | zCfg (dst : ZSrc) (head : ZHead) (v : W32) (refused : Bool)
  | zService (dst : ZSrc) (op : Nat) (head : ZHead) (b0 b1 : Nat)
  /-- a packet that a half forwards to a port of the other: its input port, its class there, the packet -/
  | zPacket (dst : ZSrc) (port vc : Nat) (pkt : Packet)
  /-- a frame on a bundle: its number, its slots, and what the physical lanes carry in each unit interval -/
  | zFrame (b : BundleRef) (num : BitVec 16) (slots : List ZSlot) (lanes : List (BitVec 528))
  | side (s : SbRef) (ty : Nat) (payload : List Byte)
  | announce (dst : BitVec 128) (payload : List Byte)
  | neighbourAnswer
  | roce (qp : Nat) (op : Nat) (psn : Nat) (va : Nat) (rkey : Nat) (len : Nat) (bytes : List Byte)
  | roceNak (qp : Nat) (code : Nat) (psn : Nat)
  | cnp (qp : Nat)
  | ct (o : CtOut)
  | ctRefuse (ses : BitVec 16) (reason : Nat)
  | ctReply (ses : Nat) (take : BitVec 8) (nonce : BitVec 128) (c e : Nat)
  | i3cAck (h : Half)
  | i3cNack (h : Half)
  | i3cData (h : Half) (v : W32)
  | jtag (h : Half) (ir : Nat) (dr : Nat)
  | irq (h : Half) (reg : Nat)
  deriving DecidableEq, Repr

/-! ### The register file (chapters 0, 16): values that fields hold as plain registers -/

/-- Plain register values: `val` the value written last or counted (for class C, the committed set); `pend`
values written to C fields and not committed; `taken` sets that a block took at its named event; `latch` the high
words latched by reads of low words (R10). A register with no entry in `val` holds its reset value. Keys are the
numbers of `Regs.key`. -/
structure RegFile where
  val : NMap W32
  pend : NMap W32
  taken : NMap W32
  latch : NMap W32
  deriving DecidableEq, Repr

/-! ### Fabric (chapters 2, 3) -/

/-- Context states (R72), by code. -/
inductive CtxState where
  | empty | loading | ready | running | waiting | done | faulted | stale
  deriving DecidableEq, Repr

/-- A cell record of an image (chapter 3). -/
structure CellRec where
  cell : Nat
  fmtA : Nat
  fmtB : Nat
  phases : Nat
  route : Nat
  progStart : Nat
  progWords : Nat
  preSrc : Nat
  preBytes : Nat
  preDst : Nat
  deriving DecidableEq, Repr

/-- A stream record (chapter 3). -/
structure StreamRec where
  port : Nat
  edge : Nat
  base : Nat
  rowBytes : Nat
  count1 : Nat
  count2 : Nat
  stride1 : Int
  stride2 : Int
  deriving DecidableEq, Repr

/-- A step word read as its step (R98), with its `PREEMPT` bit beside it. -/
inductive StepOp where
  | stEnd
  | stPhase (p : Nat) (wait : Bool)
  | stStream (i : Nat)
  | stStreamWait (i : Nat)
  | stCueWait (cue threshold : Nat) (consume : Bool)
  | stCueSignal (cue inc : Nat)
  | stLoop (target count k : Nat)
  | stDelay (cycles : Nat)
  deriving DecidableEq, Repr

/-- A loaded image, as the loader read it (R89): header values and sections. -/
structure Image where
  addr : Nat
  bytes : Nat
  crc : W32
  arith : Nat
  seed : W32
  seedFromField : Bool
  nextCtx : Option Nat
  lsBase : Nat
  lsRows : Nat
  cells : List CellRec
  progs : List (Nat × List W64)
  steps : List (StepOp × Bool)
  streams : List StreamRec
  cues : List W32
  cueOff : Nat
  cueCount : Nat
  deriving DecidableEq, Repr

/-- A stream of a running context: words done, whether it is complete, whether a refusal stopped it (R93). -/
structure StreamSt where
  pos : Nat
  complete : Bool
  stopped : Bool
  deriving DecidableEq, Repr

/-- One context of a logical array (R72, R100). `held`: the step a STOP left it at; `running`: cells still in a
phase; `words`: the instruction words a cell has run in its phase; `phaseWait`: the phase that the next step waits for (R98);
`loadFrom`: the image address of a load whose check stage still waits for memory; `delayUntil`: the clock a DELAY ends at; `issued`: the current step is issued and waits;
`startWhenReady`: a chain waits for this context's load (R101). -/
structure Ctx where
  st : CtxState
  lastResult : Nat
  fault : Nat
  step : Nat
  img : Option Image
  loadImg : Option Image
  loadFrom : Option Nat
  lc : List Nat
  stopPend : Bool
  held : Bool
  running : List (Nat × Nat)
  words : NMap Nat
  phaseWait : Option Nat
  issued : Bool
  delayUntil : Option Nat
  streams : NMap StreamSt
  staleAtEnd : Bool
  startWhenReady : Bool
  flagged : Bool
  deriving DecidableEq, Repr

/-- A logical array: the physical array that serves it, its home cluster, whether it moved to a spare (R81–R83,
R105), and the clock of the last progress of its running context (R75). -/
structure LArr where
  phys : Option Nat
  home : Option Nat
  spared : Bool
  progress : Nat
  deriving DecidableEq, Repr

/-- A physical array: its role (0 serves, 1 spare, 2 retired, 3 bad), the logical array it serves, its map-out
list (R79, R81, R105). -/
structure PArr where
  role : Nat
  logical : Nat
  mapOut : List Nat
  deriving DecidableEq, Repr

/-- A local store word (R68): its value, its poison bit. -/
structure LsWord where
  v : W32
  p : Bool
  deriving DecidableEq, Repr

/-- One accumulator (R46). -/
structure Acc where
  v : W32
  p : Bool
  deriving DecidableEq, Repr

/-- The open group of one accumulator (R44): the exact sum of its products in units of 2^-300, infinities and
NaNs seen, whether every term so far is −0, and poison. -/
structure GroupAcc where
  sum : Int
  pinf : Bool
  ninf : Bool
  nan : Bool
  allNegZero : Bool
  p : Bool
  deriving DecidableEq, Repr

/-- A 64 B switch word with its poison bit. -/
structure SwWord where
  v : W512
  p : Bool
  deriving DecidableEq, Repr

/-- The head word of an input buffer that some destination has taken already: which destinations. -/
structure HeadTaken where
  out : List Dir
  ls : Bool
  macA : Bool
  macB : Bool
  vec : Bool
  deriving DecidableEq, Repr

/-- A physical cell (chapter 2). Accumulators: key 64 × bank + 8 × row + column. `failed`: a residue check failed in a run
of this logical array and context, and its fault is still to come (R78); `takFA`, `takFB`: the outputs that have taken the
head of each queue of forwarded operand words (R70); `conflict`: the cycles counted by R67. -/
structure CellSt where
  ls : NMap LsWord
  fixes : List Nat
  accs : NMap Acc
  bank : Bool
  group : List GroupAcc
  groupLen : Nat
  bufN : List SwWord
  bufE : List SwWord
  bufS : List SwWord
  bufW : List SwWord
  takN : HeadTaken
  takE : HeadTaken
  takS : HeadTaken
  takW : HeadTaken
  fwdA : List SwWord
  fwdB : List SwWord
  vecOut : List (Dir × SwWord)
  nv : Bool
  of : Bool
  iw : Bool
  lsCe : Bool
  lsUe : Bool
  swPar : Bool
  resFail : Bool
  ceCount : Nat
  failed : Option (Nat × Nat)
  takFA : List Dir
  takFB : List Dir
  conflict : W32
  deriving DecidableEq, Repr

/-- A vector register: 32 lanes of 32 bits, and a poison bit per lane. -/
structure VReg where
  lanes : W1024
  poison : W32
  deriving DecidableEq, Repr

/-- The vector unit state of one context of a cell (R57), with its LFSR (R53). -/
structure VecSt where
  v : NMap VReg
  m : NMap W32
  mp : NMap W32
  lfsr : W32
  deriving DecidableEq, Repr

/-- Everything of the arrays. Keys: physical arrays 72 × half + p; logical arrays 64 × half + i; contexts
4 × (64 × half + i) + k; cells 256 × (72 × half + p) + c; vector state 4 × cell key + k; crossbar port queues (streams by
number, the active one first) 8 × (64 × half + i) + port. `wasOut`: the cells, with their physical arrays, that stood in a map-out list
when the last cold reset cleared it (R79). -/
structure FabricSt where
  fusedOut : List Nat
  wasOut : List (Nat × Nat)
  phys : NMap PArr
  larr : NMap LArr
  ctxs : NMap Ctx
  cells : NMap CellSt
  vecs : NMap VecSt
  portQ : NMap (List Nat)
  deriving DecidableEq, Repr

/-! ### Cues and takes (R94–R97, R220–R223) -/

/-- Who waits on a cue. -/
inductive Waiter where
  | ctx (h : Half) (i k : Nat)
  | desc (q : Nat) (index : W32)
  | site (g tag : Nat)
  | reelFree (h : Half) (k : Nat)
  | collArrive (h : Half) (k : Nat)
  | half (h : Half) (tag : Nat)
  deriving DecidableEq, Repr

/-- A wait entered on a cue (R95). -/
structure CueWaitSt where
  who : Waiter
  threshold : Nat
  consume : Bool
  deriving DecidableEq, Repr

/-- A cue: its value, and its waits in order of arrival. -/
structure Cue where
  value : Nat
  waits : List CueWaitSt
  deriving DecidableEq, Repr

/-- A take (R222): its value, the clock of its last advance, and whether an advance is due. -/
structure TakeSt where
  take : Nat
  last : Option Nat
  due : Bool
  deriving DecidableEq, Repr

/-! ### Shared buffer (chapter 4) -/

/-- A partial sum of one sector: element type, operation, operand, poison (R118, R132). -/
structure PSum where
  ro : RedOp
  d : Sec256
  p : Bool
  deriving DecidableEq, Repr

/-- A sector of a held line (R118). -/
inductive Sector where
  | inv
  | filling (held : Option PSum)
  | valid (d : Sec256) (p : Bool)
  | modified (d : Sec256) (p : Bool)
  | partSum (s : PSum)
  deriving DecidableEq, Repr

/-- A line held in a frame: its tag and its sectors. -/
structure LineSt where
  tag : Nat
  secs : Quad Sector
  deriving DecidableEq, Repr

/-- A frame in use (R118); a frame with no entry is FREE. -/
inductive Frame where
  | held (l : LineSt)
  | packed (a : LineSt) (b : Option LineSt)
  deriving DecidableEq, Repr

/-- An eviction buffer slot (R129). -/
inductive Slot where
  | none
  | write (w : SecWr) (compressed : Bool) (reducePending : Bool)
  | reduce (s : PSum)
  | deadmark
  deriving DecidableEq, Repr

/-- An eviction buffer entry: line index within the slice (SLA[32:7]), slots, clock it was made. -/
structure EbEntry where
  line : Nat
  slots : Quad Slot
  t : Nat
  deriving DecidableEq, Repr

/-- What a slice access does to a sector. -/
inductive SecOp where
  | read
  | write (w : SecWr)
  | add (s : PSum)
  | prefetch (lock : Bool)
  deriving DecidableEq, Repr

/-- A slice access to one sector: slice, line index, sector, operation, agent, function, reply tag, clock of
issue, the address for its reply; `quiet`: a step of the base's own engines, which takes its data itself; `reg`: the
regulator that governs it. -/
structure SAcc where
  sl : Nat
  line : Nat
  sec : Nat
  op : SecOp
  ag : Agent
  func : Nat
  tag : Nat
  t : Nat
  addr : Nat
  quiet : Bool
  reg : Option Nat
  deriving DecidableEq, Repr

/-- A sector returned by a channel to its slice. `pass`: a read that does not allocate; `failed`: the fill
failed at the hold or by the loss of its stack. -/
structure FillRet where
  line : Nat
  sec : Nat
  d : Sec256
  poison : Bool
  dead : Bool
  compressed : Bool
  reducePending : Bool
  failed : Bool
  pass : Option SAcc
  deriving DecidableEq, Repr

/-- An entry that an operation must see accepted (R146): slice, line, the clock it was met, slots in it. -/
structure WaitEntry where
  sl : Nat
  line : Nat
  t : Nat
  slots : Nat
  deriving DecidableEq, Repr

/-- A maintenance operation as submitted, with its progress and counts (R142, R148). `pos`: lines of a range done, or for a
way operation 2 × frame key + place of the next line; `noRec`: its record address was at fault (R143); `blockedT`: since
when its next line waits for an eviction buffer entry (R149). -/
structure MaintOp where
  addr : Nat
  len : Nat
  ctl : Nat
  recAddr : Nat
  cue : W32
  started : Bool
  pos : Nat
  result : Nat
  refused : Bool
  present : Nat
  affected : Nat
  written : Nat
  locked : Nat
  discarded : Nat
  failed : Nat
  unreached : Bool
  waitFor : List WaitEntry
  noRec : Bool
  blockedT : Option Nat
  deriving DecidableEq, Repr

/-- A maintenance port (R142). `late`: records of operations that found the queue full and are not written yet. -/
structure MaintPort where
  run : Option MaintOp
  queue : List MaintOp
  recFailed : Bool
  late : List MaintOp
  deriving DecidableEq, Repr

/-- An arbitration point (R317, R318): grants made since the last of priority P0 while one waited, and the grants that each
regulator had in the current round of P1 (key 256: the traffic of R316). -/
structure ArbSt where
  sinceP0 : Nat
  served : NMap Nat
  deriving DecidableEq, Repr

/-- Everything of the slices but the memory behind them. Keys: frames 16384 × slice + 16 × set + way; PLRU bits
1024 × slice + set; waits 4 × (2^26 × slice + line) + sector; ways 16 × half + way. `quietFails`: reads of the base's
own engines that failed at a hold, by agent and wait key; `quietWaits`: their writes that wait at a slice, with the clock since
when; `others`: sectors still to be requested with a line that was evicted
compressed (R128), as slice, line and sector; `arb`: the arbitration of each slice. -/
structure BufferSt where
  frames : NMap Frame
  plru : NMap (BitVec 15)
  ebuf : NMap (List EbEntry)
  waits : NMap (List SAcc)
  stalled : NMap (List SAcc)
  rets : NMap (List FillRet)
  wayFunc : NMap Nat
  wayZero : NMap Nat
  scratch : List Host.Cell
  scratchPoison : NMap Bool
  quietFails : List (Agent × Nat)
  quietWaits : List (Agent × Nat × Nat)
  maint : NMap MaintPort
  others : List (Nat × Nat × Nat)
  arb : NMap ArbSt
  deriving DecidableEq, Repr

/-! ### Memory stacks and channels (chapter 5) -/

/-- Why a channel reads a sector. -/
inductive ReadWhy where
  | fill
  | prefetch
  | pass (a : SAcc)
  | scrub
  deriving DecidableEq, Repr

/-- What a channel queue entry does (R165, R168, R170). -/
inductive ChanKind where
  | read (why : ReadWhy)
  | write (d : Sec256) (poison compressed reducePending : Bool)
  | rmw (w : SecWr)
  | dead
  | add (s : PSum)
  deriving DecidableEq, Repr

/-- An access accepted by a channel queue: line within the slice, sector of the line, what it does, the clock of
acceptance. -/
structure ChanOp where
  line : Nat
  sec : Nat
  op : ChanKind
  t : Nat
  deriving DecidableEq, Repr

/-- A write-combining entry (R168). -/
structure WcbEnt where
  line : Nat
  sec : Nat
  w : SecWr
  t : Nat
  deriving DecidableEq, Repr

/-- A redirect entry (R173, R174). -/
structure Redir where
  row : Nat
  bank : Nat
  spare : Nat
  deriving DecidableEq, Repr

/-- The traffic generator of a channel (R178, R180): the settings it took at its start are the fields, which are
of class S. -/
structure TgSt where
  run : Bool
  done : Bool
  pass : Nat
  errCount : Nat
  errAddr : Nat
  anyErr : Bool
  laneLo : W32
  laneHi : BitVec 8
  deriving DecidableEq, Repr

/-- A pseudo-channel. `ceRows`: rows with the most recent single-bit errors and the distinct words found. -/
structure Chan where
  inService : Bool
  q : List ChanOp
  wcb : List WcbEnt
  redir : NMap Redir
  spareRetired : List Nat
  laneMap : W32
  ceRows : List (Nat × List Nat)
  recalFails : Nat
  parTimes : List Nat
  scrubPos : Nat
  scrubPasses : Nat
  refBank : Nat
  refreshes : Nat
  tg : TgSt
  arb : ArbSt
  deriving DecidableEq, Repr

/-- A memory stack. `ppr`: free hard repair resources by bank group, 16 × channel within the stack + SID and BG (R157). `fence`: 0 none, 1 THERMAL, 2 MAINT, 3 LOST or excluded; `fenceT`: the clock of the fence;
`low`: the last reading was at or below its band's return limit; `ret`: the reading at t1 of a return and its clock. -/
structure StackSt where
  band : Nat
  fence : Nat
  fenceT : Nat
  selfRefresh : Bool
  excluded : Bool
  lost : Bool
  temp : Int
  tempMax : Int
  lowCount : Nat
  ret : Option (Int × Nat)
  dies : Nat
  density : Nat
  laneRepairs : Nat
  ppr : List (Nat × Nat)
  trained : Bool
  lastTempT : Nat
  lastAccess : Nat
  holdFuncs : List Nat
  noticeBand : Nat
  deriving DecidableEq, Repr

/-- A retired granule (R175): its slice and its number within the slice; its DPA and owner are what the segment map gives. -/
structure RetGranule where
  sl : Nat
  granule : Nat
  deriving DecidableEq, Repr

/-- Memory. `dram` is the content of every stack, keyed by byte: 32 × (2^26 × channel + sector index) + byte;
unlisted bytes read 0 (the zero fill). `side` holds the side bits poison 1, dead 2, compressed 4 and
reduce-pending 8 of sector 2^26 × channel + index, whose check fields and parity bit follow from them and the data
(`sideWord`); a sector that the traffic generator wrote holds 16 + 32 × its whole side word. `repairLog` is the repair log in the flash (R176), a record
as one 64-bit number. -/
structure MemSt where
  dram : List Host.Cell
  side : NMap Nat
  chans : NMap Chan
  stacks_ : NMap StackSt
  retired : List RetGranule
  repairLog : List Nat
  deriving DecidableEq, Repr

/-! ### Continuity (chapter 6) -/

/-- Directory states (R197, R201). -/
inductive DirState where
  | s | e | a
  deriving DecidableEq, Repr

/-- A directory entry (R201). `locals`: bits of guest sites 0–3 and X (bit 4); `members`: precise member indices
with the deadline of each; `vec`: coarse vector; `leaseEnd`: latest deadline, as a clock. -/
structure DirEnt where
  tag : Nat
  st : DirState
  locals : Nat
  coarse : Bool
  members : List (Nat × Nat)
  vec : W64
  redop : Nat
  leaseEnd : Nat
  deriving DecidableEq, Repr

/-- What a request to a home asks (R197). `snoopData` stands for an answer to a snoop that a Slate holds (R225, R230). -/
inductive HKind where
  | rdS | rdX | upgrade
  | rdNc (mask : Nat)
  | wrNc (secs : List (Fin 4 × SecWr))
  | addNc (ro : RedOp) (secs : LinePart)
  | joinA (ro : RedOp)
  | atomic (a : Atomic) (off : Nat)
  | wb (keep : Bool) (secs : LinePart)
  | mergeA (ro : RedOp) (secs : LinePart)
  | evictE
  | renew
  | own (accs : List SAcc)
  | maint (code : Nat)
  | snoopData (tag : Nat) (take : BitVec 8) (ro : Option RedOp) (secs : LinePart)
  deriving DecidableEq, Repr

/-- A request at its home: who asks (none: an agent of the base, which `who` names with its tag where an atomic's old
value goes to it), what, for which line, when it arrived, and whether it is a release or an atomic at GROUP scope
(R193). `wasA`: it found the line in A (R197); `multi`: one line of a request of several, which is answered once (R190); `acq`: an
acquire of an agent of the base (R191). -/
structure HReq where
  hd : Option CohHdr
  who : Option (Agent × Nat)
  kind : HKind
  sl : Nat
  line : Nat
  t : Nat
  grp : Bool
  wasA : Bool
  multi : Bool
  acq : Bool
  deriving DecidableEq, Repr

/-- Why a transaction's snoops were sent, which decides what answers do. -/
inductive SnoopWhy where
  | request
  | rpCollect
  | sweep
  | dirEvict
  | slate
  deriving DecidableEq, Repr

/-- An open transaction of a line (R199): its request, the holders still to answer with the clock at which each
counts as gone (0: no deadline), whether the write was performed at BASE already (R190), whether reads are held until it
is performed at GROUP (R193), whether returned data is discarded (R145). -/
structure HomeTx where
  req : Option HReq
  why : SnoopWhy
  waits : List (Holder × Nat)
  performed : Bool
  blocked : Bool
  hadRemote : Bool
  hold : Bool
  discard : Bool
  deriving DecidableEq, Repr

/-- A snoop outstanding at a slice (tag 0–4095): line, holder, its message code, take, clock sent. -/
structure SnoopOut where
  line : Nat
  holder : Holder
  code : Nat
  take : BitVec 8
  t : Nat
  pend : Bool
  deriving DecidableEq, Repr

/-- The state of a far cache line (R182, R184). -/
inductive FarState where
  | s | e | m
  | a (ro : RedOp)
  deriving DecidableEq, Repr

/-- A far cache line (R184, R185): GA of the line, function tag, state, sectors with poison, the clock its lease
ends, whether it must be sent as OLD (R226). -/
structure FarLine where
  ga : W64
  func : Nat
  st : FarState
  data : Quad (Sec256 × Bool)
  lease : Nat
  leaseLen : Nat
  old : Bool
  deriving DecidableEq, Repr

/-- What a far cache request was sent for. -/
inductive FarWhy where
  | access (ag : Agent) (op : FarOp) (rtag : Nat)
  | line (key : Nat)
  deriving DecidableEq, Repr

/-- A far cache request outstanding (tag of a half): the message code, the GA, the agent's access, its take, the
clock sent, whether ACK_LOCAL arrived, a RETRY to resend at a clock, the data, REDOP and KEEP that the message carried, whether an
atomic's result arrived. -/
structure FarReq where
  code : Nat
  ga : W64
  func : Nat
  why : Option FarWhy
  take : BitVec 8
  sentT : Nat
  ackedLocal : Bool
  retryAt : Option Nat
  secs : LinePart
  epoch : Bool
  redop : Nat
  keep : Bool
  result : Bool
  deriving DecidableEq, Repr

/-- An access that waits at a far cache for an outstanding request of its line, or for an OLD line to be sent
(R213, R227). -/
structure FarHeld where
  h : Half
  ag : Agent
  ga : W64
  op : FarOp
  rtag : Nat
  deriving DecidableEq, Repr

/-- Slate states (R235). -/
inductive SlateState where
  | idle | armed | pointed | streaming | complete | failed
  deriving DecidableEq, Repr

/-- The Slate of a function (R224–R234). Granule states other than UNCOPIED are listed by granule number:
1 PRESERVED, 2 DONE, 3 FAILED; `copies` gives the preserve granule of a PRESERVED one. `pointing`: the point is reached and
guest dies still answer (R226); `waitQ`: requests held until then; `want`: accesses of the base's engines that wait for a preserve
granule, by agent and granule (R230). -/
structure SlateSt where
  st : SlateState
  epoch : Bool
  cause : Nat
  id : Nat
  preserve : Nat
  barrier : Nat
  parts : List Nat
  devices : List (BitVec 16)
  grans : NMap Nat
  copies : NMap Nat
  held : List HReq
  heldCount : Nat
  preserved : Nat
  flushedAt : Option Nat
  round : Nat
  pointing : Bool
  waitQ : List HReq
  want : List (Agent × Nat)
  deriving DecidableEq, Repr

/-- Everything of Continuity. Keys: directory 16384 × slice + 16 × set + way; transactions 2^26 × slice + line;
far cache 65536 × half + 16 × set + way; requests 4096 × half + tag; snoops 4096 × slice + tag; tag use
(tag key) × 256 + take, holding clock + 1 of the last use. `multi`: requests of several lines, 4096 × member + tag: the lines not yet
performed at BASE and at GROUP (R190); `mcFails`: targets that failed a multicast snoop: its tag, its take, the devices (R203). -/
structure CohSt where
  dir : NMap DirEnt
  dirPlru : NMap (BitVec 15)
  recovery : List Nat
  txs : NMap HomeTx
  lineQ : NMap (List HReq)
  snoops : NMap SnoopOut
  far : NMap FarLine
  farQ : List FarHeld
  farPlru : NMap (BitVec 15)
  reqs : NMap FarReq
  reqTake : NMap (BitVec 8)
  snoopTake : NMap (BitVec 8)
  tagUse : NMap Nat
  staleSeen : NMap Nat
  slates : NMap SlateSt
  peek : NMap W32
  multi : NMap (Nat × Nat)
  mcFails : List (Nat × BitVec 8 × List (BitVec 16))
  deriving DecidableEq, Repr

/-! ### Dolly (chapter 7) -/

/-- A descriptor as read from its slot. -/
structure Desc where
  opcode : Nat
  waitEn : Bool
  waitConsume : Bool
  sigEn : Bool
  sigScope : Bool
  order : Nat
  slate : Bool
  recOk : Bool
  srcKind : Nat
  dstKind : Nat
  arg : Nat
  waitThreshold : Nat
  sigInc : Nat
  waitCue : W32
  sigCue : W32
  src : W64
  dst : W64
  rowBytes : Nat
  count1 : Nat
  count2 : Nat
  srcStride1 : W32
  dstStride1 : W32
  srcStride2 : W32
  dstStride2 : W32
  aux : W32
  tag : W32
  deriving DecidableEq, Repr

/-- Where a descriptor that was read stands: not started yet, running, or all its accesses done. -/
inductive DescPhase where
  | waiting | running | complete
  deriving DecidableEq, Repr

/-- What an engine's access to remote memory came back with: sectors read (number in the line, data, poison), a write
or add accepted, or an error: 0 refused at the base, 1–15 the cause of an `ERROR` (R286), 16 no answer in time. -/
inductive RAns where
  | data (secs : List (Nat × Sec256 × Bool))
  | done
  | err (cause : Nat)
  deriving DecidableEq, Repr

/-- One branch of an `MCAST` (R264): data read and not yet accepted (bytes with poison), bytes accepted, clock of the
last acceptance, its remote access outstanding; `group`, `tag`, `take`: the multicast operation of an MGROUP branch. -/
structure BranchSt where
  addr : W64
  kind : Nat
  group : Nat
  tag : Nat
  take : BitVec 8
  pos : Nat
  held : List (Byte × Bool)
  rtag : Option Nat
  rans : Option RAns
  lastT : Nat
  sent : Bool
  failed : Bool
  doneB : Bool
  deriving DecidableEq, Repr

/-- A descriptor that was read and has not ended. `ended`: it ended with a status that stops the queue, or was
abandoned: it signals nothing. `waitIn`: its wait is entered. `begun`: the checks at its start are made. `pos`: bytes
written of its shape, in order; `piece`: bytes read and not yet written, each with its poison; `unit`, `units`: the
granule being read and those read by a Slate read. `rtag`, `rans`: its remote access outstanding and the answer.
`sentT`, `posted`: when and whether its message to the far side was sent. `idxVals`: the index list of R250.
`asked`: bytes requested by its RDMA reads, or 1 once a Reel credit is taken for it; `slot`: the stream slot it sends into.
`blocked`: it could not go on when its engine last came to it; `uid`: a number of its own, which its RDMA packets bear;
`lsErrs`: errors of local store words that the engine's present turn meets. -/
structure DescRun where
  index : W32
  d : Desc
  phase : DescPhase
  status : Nat
  ended : Bool
  consumed : Bool
  waitIn : Bool
  begun : Bool
  pos : Nat
  bytes : Nat
  poisoned : Bool
  piece : List (Byte × Bool)
  unit : Nat
  units : List Nat
  rtag : Option Nat
  rans : Option RAns
  sentT : Nat
  posted : Bool
  idxVals : List Nat
  branches : List BranchSt
  targetErr : Nat
  asked : Nat
  slot : Nat
  blocked : Bool
  uid : Nat
  lsErrs : List ArrErr
  deriving DecidableEq, Repr

/-- Queue states (R241), by code. -/
inductive QState where
  | disabled | idle | running | waiting | recfull | stopping | stopped | error
  deriving DecidableEq, Repr

/-- A Dolly queue (R238–R242): its latched ring settings and its indices. -/
structure QueueSt where
  st : QState
  ring : Nat
  ringLog : Nat
  recBase : Nat
  recLog : Nat
  head : W32
  tail : W32
  recHead : W32
  recTail : W32
  errIndex : Nat
  errStatus : Nat
  active : List DescRun
  deriving DecidableEq, Repr

/-- A Reel stream (R265–R268): 0 CLOSED, 1 OPEN, 2 FAILED; latched settings; `acked` blocks whose arrival was
acknowledged; `waiting`: its wait on FREE_CUE is entered. -/
structure ReelSt where
  st : Nat
  credits : Nat
  sent : Nat
  recv : Nat
  next : BitVec 16
  prev : BitVec 16
  base : Nat
  slots : Nat
  slotLog : Nat
  arriveCue : Nat
  freeCue : Nat
  freeDue : Nat
  deriving DecidableEq, Repr

/-- Queues by number 0–511; Reel streams by 64 × half + entry; `nextTag` numbers the engines' remote accesses. -/
structure DollySt where
  nextTag : Nat
  queues : NMap QueueSt
  reels : NMap ReelSt
  deriving DecidableEq, Repr

/-! ### Neighbour links (chapter 8) -/

/-- A packet waiting for credit at a port: its class, how much of its bytes is still to be cut into flits, the clock since when it
waits (R292). -/
structure TxPkt where
  vc : Nat
  dl : Bool
  pkt : Packet
  left : List Byte
  t : Nat
  deriving DecidableEq, Repr

/-- A multicast copy held for a branch, and since when (R292). -/
structure HeldCopy where
  pkt : Packet
  last : Bool
  t : Nat
  deriving DecidableEq, Repr

/-- One branch of a multicast operation (R297): port 0–15, or 16 for the base itself. -/
structure McBranch where
  port : Nat
  held : List HeldCopy
  lastT : Nat
  tookLast : Bool
  acked : Bool
  failed : Bool
  info : McAckInfo
  deriving DecidableEq, Repr

/-- A multicast operation followed by this replication point (R296); `up`: the port it came from, none when
this base is its source. -/
structure McOp where
  src : BitVec 16
  tag : BitVec 12
  take : BitVec 8
  group : Nat
  up : Option Nat
  branches : List McBranch
  complete : Bool
  deriving DecidableEq, Repr

/-- Link states (R313), by code. -/
inductive LState where
  | down | training | upFull | upHalf | failed
  deriving DecidableEq, Repr

/-- A neighbour port. Class keys: 2 × vc + dl. `unacked`: packets sent whose last flit is not acknowledged, with their
virtual channel and that flit's number. `trainStep2`: the training in
progress began at step 2 (R276). `txWave`: the place in the set in use of the wavelength that takes the next block;
`txBlocks`, `txWords`: by wavelength, the blocks of the codeword in progress and the codewords since the last marker. -/
structure PortSt where
  st : LState
  txSpare : Bool
  rxSpare : Bool
  halfGroup : Bool
  badLambda : BitVec 16
  trainFails : Nat
  trainT : Nat
  trainStep2 : Bool
  peerDev : BitVec 16
  peerPort : Nat
  peerValid : Bool
  everPeer : Bool
  txSeq : BitVec 16
  acked : BitVec 16
  replay : List DataFlit
  lastAdvance : Nat
  nakTimes : List Nat
  credits : NMap Nat
  txq : List TxPkt
  unacked : List (Nat × Packet × BitVec 16)
  rrNext : Nat
  rxSeq : BitVec 16
  rxNak : Bool
  lastNak : Nat
  ackDue : Bool
  rxBytes : NMap (List Byte)
  rxFlits : NMap (List Nat)
  rxPkts : NMap (List Packet)
  freed : NMap Nat
  txWave : Nat
  txBlocks : NMap (List Nat)
  txWords : NMap Nat
  deriving DecidableEq, Repr

/-- Latched settings of a collective entry (R300). -/
structure CollCfg where
  root : BitVec 16
  parent : BitVec 16
  children : List (BitVec 16)
  isRoot : Bool
  isRed : Bool
  redop : Nat
  delayEn : Bool
  timeout : Nat
  arriveCue : Nat
  departCue : Nat
  redSrc : Nat
  redDst : Nat
  faultCue : Nat
  faultEn : Bool
  deriving DecidableEq, Repr

/-- A collective entry (R300–R309): 0 CLOSED, 1 OPEN, 2 ARRIVED, 3 BROKEN. `arrT`: clock of the local arrival;
`sentT`: clock its `ARRIVE` was sent; `got`: children that arrived; `val`: the running reduce value with poison; `own`: the member's own part is in it;
`told`: the children have been sent `DEPART` of this round;
`ext` and `notified`: extension and notices in 0.1 ms units. -/
structure CollSt where
  st : Nat
  cfg : CollCfg
  round : Nat
  lastStatus : Nat
  firstExcl : BitVec 16
  exclCount : Nat
  lastContrib : Nat
  lastDelay : Nat
  startT : Nat
  arrT : Option Nat
  sentT : Option Nat
  got : List (BitVec 16)
  gone : List (BitVec 16)
  roundExcl : Nat
  roundFirst : BitVec 16
  val : Option (Sec256 × Bool)
  ext : Nat
  notices : List (BitVec 16 × Nat)
  waitIn : Bool
  arrDue : Bool
  own : Bool
  told : Bool
  deriving DecidableEq, Repr

/-- Everything of the links. -/
structure LinkSt where
  ports : NMap PortSt
  mcops : List McOp
  colls : NMap CollSt
  deriving DecidableEq, Repr

/-! ### Regulators (chapter 9) -/

/-- A regulator's running counts (R316, R321, R329, R330). Byte counts are in bytes; `taken`: a commit has given
it its set. `busyUs`: 1 µs intervals of the window in which a governed access was outstanding. -/
structure RegulSt where
  active : Bool
  winStart : Nat
  count : Nat
  outstanding : Nat
  busyUs : Nat
  busyLast : Nat
  reads : Nat
  lates : Nat
  deliv : Nat
  admitted : Bool
  unadmitted : Bool
  demanding : Bool
  miss : Bool
  missCause : Nat
  missLate : Bool
  missCount : Nat
  worst : Nat
  held : List HReq
  deriving DecidableEq, Repr

/-! ### Zoram (chapter 10) -/

/-- A message on Zoram (R345), as assembled from its flits; `flits`: how many have arrived. -/
structure ZMsg where
  cls : Nat
  op : Nat
  tag : Nat
  take : BitVec 8
  func : Nat
  scope : Nat
  ord : Nat
  epoch : Bool
  sect : Nat
  auxf : Nat
  nc : Bool
  kp : Bool
  ga : Bool
  state : Nat
  addr : W64
  masks : List W32
  inl : Sec256
  data : LinePart
  flits : Nat
  deriving DecidableEq, Repr

/-- A message in a transmit queue of Zoram: what it is, its flits that have not been sent, whether one has, and the clock at
which it was queued (R341, R344). -/
structure ZTx where
  out : Out
  slots : List ZSlot
  begun : Bool
  t : Nat
  deriving DecidableEq, Repr

/-- A bundle at one of its ends (R334–R339): 0 DOWN, 1 TRAINING, 2 FULL, 3 HALF, 4 DISABLED. `bad`, `assembly`,
`driverBad`: final map, assembly map and transmitter's view of the direction it receives; `rxView`: the far receiver's
view of the direction it sends and `txBad` its final map; `rxq`: messages received with the clock of their arrival, `part`:
those still incomplete, by channel; `txq`: messages with flits to send, by channel; `rr`: the next of ZC1, ZC2 and ZC4 in
turn; `frame`: the slots of the frame in the making; `replay`: frames sent and not acknowledged; `resend`: slots of such
frames to be sent in new frames; `linkDue`: LINK flits to be sent; `peerRx`: the last frame that the far end accepted, as its
`BUNDLE_STATE` says. -/
structure BundleSt where
  st : Nat
  bad : BitVec 528
  assembly : BitVec 528
  driverBad : BitVec 528
  clockFail : Bool
  union : Bool
  rxNext : BitVec 16
  rxNak : Bool
  txNext : BitVec 16
  txAcked : BitVec 16
  nakTimes : List Nat
  lastAdvance : Nat
  credits : NMap Nat
  rxq : NMap (List (ZMsg × Nat))
  part : NMap ZMsg
  freed : NMap Nat
  framesSinceAck : Nat
  txq : NMap (List ZTx)
  rr : Nat
  frame : List ZSlot
  replay : List (BitVec 16 × List ZSlot)
  resend : List ZSlot
  linkDue : List ZLink
  rxView : BitVec 528
  txBad : BitVec 528
  peerRx : BitVec 16
  deriving DecidableEq, Repr

/-- A sideband lane as the base receives it (R347–R351). `tapPre`, `tapPost`: taps that the far transmitter applied;
`txPre`, `txPost`, `txLimits`: the base's own transmitter on the lane beside it; `sent`: messages not acknowledged, with the
times sent and the clock of the last send (kept with lane 0 of a half). -/
structure SbSt where
  stage : Nat
  stageT : Nat
  los : Bool
  lol : Bool
  active : Bool
  tapPre : Nat
  tapPost : Nat
  txPre : Nat
  txPost : Nat
  txLimits : Nat
  restarts : Nat
  sent : List (SbMsg × Nat × Nat)
  ts1Count : Nat
  peerOrient : Option Bool
  eyeRun : Bool
  eyeErrors : Nat
  deriving DecidableEq, Repr

/-- A guest site (R361–R365): 0 CLOSED, 1 BRINGUP, 2 ACTIVE, 3 FENCED; what was granted to its guest (R353); `violTimes`:
clocks of recent violations; `capRec`: the guest's last capability record. -/
structure SiteSt where
  st : Nat
  cause : Nat
  coherent : Bool
  fwClass : Nat
  bundles : Nat
  rate : Nat
  tags : Nat
  vendor : BitVec 16
  product : BitVec 16
  violTimes : List Nat
  capRec : List Byte
  deriving DecidableEq, Repr

/-- Everything of Zoram. `halves`: 0 TRAINING, 1 WHOLE, 2 H0_ONLY. `xWaits`: waits of this base's agents on
cues of the other half, by 4096 × half of the agent + tag. Bundle keys: 16 × half + n for the bundles
between the halves, 64 + 4 × site + b for guest sites. Sideband keys: 2 × half + lane, 8 + site. -/
structure ZoramSt where
  halves : Nat
  bundles : NMap BundleSt
  upList0 : List Nat
  upList1 : List Nat
  sbs : NMap SbSt
  sites : NMap SiteSt
  mismatches : NMap Nat
  h1Reset : Bool
  xWaits : NMap Waiter
  xNext : Nat
  deriving DecidableEq, Repr

/-! ### Host port (chapter 11) -/

/-- A request packet that a queue pair sent and that is not acknowledged (R373): its PSN and how many it takes, whether it is
an RDMA READ request, remote address, length, payload, and the queue, descriptor and place in the transfer it serves. -/
structure QpPkt where
  psn : Nat
  span : Nat
  read : Bool
  va : Nat
  rkey : Nat
  len : Nat
  bytes : List Byte
  queue : Nat
  index : W32
  pos : Nat
  take : Nat
  run : Nat
  deriving DecidableEq, Repr

/-- A queue pair's running state (R371–R376); its settings and packet sequence numbers are registers. States: 0 RESET, 1
INIT, 2 RTR, 3 RTS, 4 ERR. `sent`: packets not acknowledged, oldest first; `lastT`: the clock of the last progress or
resend; `users`: descriptors with messages to post, in the order in which they started; `rate`: sending rate in 2^-16 of the
line rate; `atoms`: old values of the last atomics performed, by PSN. -/
structure QpSt where
  st : Nat
  cause : Nat
  sent : List QpPkt
  lastT : Nat
  retries : Nat
  rnrs : Nat
  users : List (Nat × W32)
  rate : Nat
  lastCnp : Option Nat
  lastCnpSent : Option Nat
  lastRec : Nat
  atoms : List (Nat × W64)
  deriving DecidableEq, Repr

/-- An entry of a reel: 128 bytes. -/
abbrev ReelEntry := List Byte

/-- A command of a session between its acceptance and its final completion: index, entry, clock of acceptance,
started, PENDING written, a final completion decided but waiting on take advances. -/
structure CmdSt where
  index : W32
  entry : ReelEntry
  t : Nat
  pendSent : Bool
  started : Bool
  due : Option (Nat × List Byte × List Nat)
  deriving DecidableEq, Repr

/-- A datagram sent and not acknowledged: type, sequence number, entries, and the running index of its completion or
event. -/
structure UnackGram where
  ty : Nat
  seq : Nat
  payload : List Byte
  item : Nat
  deriving DecidableEq, Repr

/-- A session (R377–R383): 0 CLOSED, 1 OPEN, 2 LOST. `key`: its session key, in bytes; `c`, `e`: reel sizes; `rxSeq`,
`txSeq`: the last datagram accepted and the last numbered; `nextIndex`: the next command index expected; `cpls`: completions
written and not consumed (running index, command index, final); the tails and heads are running indices; `evSecond`,
`evCount`: events written in the current second. -/
structure SesSt where
  st : Nat
  func : Nat
  isLocal : Bool
  key : Option (List Byte)
  c : Nat
  e : Nat
  rxSeq : W32
  txSeq : W32
  nextIndex : W32
  cmds : List CmdSt
  cpls : List (W32 × W32 × Bool)
  cplTail : W32
  cplHead : W32
  evTail : W32
  evHead : W32
  evSeq : W32
  evLost : Nat
  evSecond : Nat
  evCount : Nat
  unacked : List UnackGram
  resends : Nat
  lastSend : Nat
  lostT : Nat
  retx : Nat
  deriving DecidableEq, Repr

/-- The host port. `held`: frames that wait for a priority which the link partner pauses; `v6…Ok`, `v6…Bad`: duplicate
address detection ended without and with a conflict; `answers`, `answersSecond`: neighbour and echo answers in the current
second. -/
structure HostSt where
  link : Nat
  laneLock : BitVec 8
  paused : BitVec 8
  held : NMap (List Out)
  qps : NMap QpSt
  sessions : NMap SesSt
  v6LocalOk : Bool
  v6CfgOk : Bool
  v6LocalBad : Bool
  v6CfgBad : Bool
  lastAnnounce : Nat
  answers : Nat
  answersSecond : Nat
  deriving DecidableEq, Repr

/-! ### Cadun (chapter 12) -/

/-- A function (R395–R407): 0 FREE, 1 ACTIVE, 2 CUTTING, 3 RELEASING. `cutT`: clock the Cut was accepted;
`cutWaits`: the `CUT` commands that the Cut answers, by session and index; `cutKeys`: the takes whose advance
the Cut waits for. -/
structure FuncSt where
  st : Nat
  lastCause : Nat
  cutCount : Nat
  cutT : Nat
  cutWaits : List (Nat × W32)
  cutKeys : List Nat
  destroy : Bool
  deriving DecidableEq, Repr

/-- A management processor (R387, R388, R407): 0 BOOTING, 1 RUNNING, 2 HALTED; heartbeats sent, the clock of the last one
received; what the other's `MP_HELLO` said; work items passed on or taken up. -/
structure MpSt where
  st : Nat
  fwSlot : Bool
  beat : Nat
  beatSeenT : Nat
  hello : Option (W32 × Bool)
  works : List Nat
  deriving DecidableEq, Repr

/-- Cadun's own state. `holds`: the segments or ways that a command in progress holds and that were not held before, by
2^32 × session + index. -/
structure CadunSt where
  funcs : NMap FuncSt
  holds : NMap (List Nat)
  mp0 : MpSt
  mp1 : MpSt
  lastStoreT : Option Nat
  deriving DecidableEq, Repr

/-! ### Power and clocks (chapter 13) -/

/-- A power domain (R409): 0 OFF, 1 ON, 2 GATED, 3 SLEEP, 4 WAKING, 5 FAULT. -/
structure DomSt where
  st : Nat
  cause : Nat
  wakes : Nat
  deriving DecidableEq, Repr

/-- A Gaffer (R415–R419). Powers in W, over the last 100 µs; `last`: those of the last ten 10 µs, with what the throttle
removed. -/
structure GafSt where
  power : Nat
  removed : Nat
  last : List (Nat × Nat)
  throttle : Nat
  vinLow : Bool
  tempHold : Bool
  fallback : Bool
  grant : Nat
  pendGrant : Option Nat
  exchange : Nat
  lastMsg : Nat
  lastEnter : Option Nat
  lastLeave : Option Nat
  deriving DecidableEq, Repr

/-- The reset record of a half's AON domain (R423, R427). -/
structure ResetRec where
  cause : Nat
  pinReset : Bool
  tripKind : Nat
  tripDom : Nat
  boots : Nat
  deriving DecidableEq, Repr

/-- Power, clocks and resets. Domain keys 35 × half + i; die sensors 22 × half + k as (last, highest). `time0`: the clock at
which `TIME` of H0 was 0; `time1`, `time1At`: `TIME` of H1 when it was set, and the clock then. `down`: the base is in
reset; `held`: BOOT_HOLD holds the boot after step 5; `tripHot`: a boot waits for H0's sensors to cool; `refLost`: REFCLK_AON
is absent; `pllLost`: PLLs out of lock by 8 × half + place in `PLL_LOCK`; `resetDueT`: the clock at which `DEVICE_RESET`
begins the cold boot; `readyT`: the clock of the last host-ready. -/
structure PowerSt where
  doms : NMap DomSt
  gaf0 : GafSt
  gaf1 : GafSt
  die : NMap (Int × Int)
  time0 : Nat
  time1 : Nat
  time1At : Nat
  rec0 : ResetRec
  rec1 : ResetRec
  down : Bool
  held : Bool
  tripHot : Bool
  refLost : Bool
  pllLost : NMap Bool
  resetDueT : Option Nat
  readyT : Nat
  deriving DecidableEq, Repr

/-! ### Identity (chapter 14) -/

/-- Fused values of one die (R428). The secret has no reader but the boot ROM; it is `Config.deviceSecret`. -/
structure DieFuses where
  lot : BitVec 48
  wafer : Nat
  x : BitVec 8
  y : BitVec 8
  rev : Nat
  floor : Nat
  deriving DecidableEq, Repr

/-- Identity, firmware, settings, measurements. The flash (128 MiB) and the two NVMs (512 KiB each) are sparse
byte lists; an erased or unwritten byte reads 0xFF in the flash and 0 in the NVM. `images`: what the boot ROM read of the
slots that are as manufactured; `slotsWritten`: those that `FW_WRITE` has changed; `active`: the active settings record, empty for factory settings; `activeB`: it stands in
area B. -/
structure IdentSt where
  die0 : DieFuses
  die1 : DieFuses
  serial : BitVec 128
  orientConflict : Bool
  devId : BitVec 16
  idValid : Bool
  bootState : Nat
  refused : Bool
  refStack : Nat
  refDies : Nat
  refDensity : Nat
  serials : NMap W64
  flash : List Host.Cell
  nvm0 : List Host.Cell
  nvm1 : List Host.Cell
  fwVersion : W32
  runSlot : Bool
  fallback : Bool
  svn : Nat
  digest : W512
  setSource : Nat
  setSeq : Nat
  storeCount : Nat
  meas : List W512
  extends_ : Nat
  mlog : List (List Byte)
  logFull : Bool
  images : NMap FwImage
  slotsWritten : List Nat
  active : List Byte
  activeB : Bool
  floorChecked : Bool
  dkPub : Sec256
  akPub : Sec256
  h1Reported : Bool
  deriving DecidableEq, Repr

/-! ### Dailies (chapter 15) -/

/-- A record before the collector stamps it (R454, R455). `src` is its block class, `detail` up to 80 bytes as a
number. -/
structure DRec where
  code : Nat
  sev : Nat
  func : Option Nat
  cls : Nat
  half : Half
  index : Nat
  addr : Nat
  count : Nat
  cause : Nat
  detail : Nat
  deriving DecidableEq, Repr

/-- A record in its ring, as read by the management processor: its number, time, drops and content. -/
structure RingRec where
  seq : Nat
  time : Nat
  dropped : Nat
  r : DRec
  deriving DecidableEq, Repr

/-- One half's collector (R454–R457). `recent`: records of the last 1 ms that fold (code, class, index, function)
with the clock written; `folded`: occurrences waiting for the next such record; `ucd`: up to 16 UC-D records of
this boot. -/
structure CollectorSt where
  inq : List DRec
  seq : Nat
  dropped : Nat
  recent : List ((Nat × Nat × Nat × Option Nat) × Nat)
  folded : List ((Nat × Nat × Nat × Option Nat) × Nat)
  ring : List RingRec
  lostNext : Nat
  ucd : List RingRec
  lastSample : Nat
  on : Bool
  deriving DecidableEq, Repr

/-- Degraded operation of a half (R461–R464): the substitution installed. -/
structure DegSt where
  subValid : Bool
  subStack : Nat
  subClosed : Bool
  subMaint : Bool
  deriving DecidableEq, Repr

/-! ### Pins (chapter 16) -/

/-- Pins, straps, the I3C targets and the test access port. Instruction codes: 0 BYPASS, 1 IDCODE, 2
SAMPLE/PRELOAD, 3 EXTEST. -/
structure PinSt where
  resetN : Bool
  pwrGood : Bool
  tripN : Bool
  bootHoldBall : Bool
  straps : BitVec 8
  modPresentN : Bool
  modResetN : Bool
  ptr0 : W32
  ptr1 : W32
  dyn0 : Option (BitVec 7)
  dyn1 : Option (BitVec 7)
  ir0 : Nat
  ir1 : Nat
  bsr0 : W32
  bsr1 : W32
  boundary0 : Option W32
  boundary1 : Option W32
  deriving DecidableEq, Repr

/-! ### The whole -/

/-- The state of the base. `clock` counts 0.1 µs from the model's start; `freeCtr` numbers free values (the model's
own field); `pending` is the queue of waiting commands, first in, first out. -/
structure State where
  part : Part
  clock : Nat
  pending : List Instr
  out : List Out
  freeCtr : Nat
  regs : RegFile
  fab : FabricSt
  cues : NMap Cue
  takes : NMap TakeSt
  buf : BufferSt
  mem : MemSt
  coh : CohSt
  dolly : DollySt
  link : LinkSt
  reg : NMap RegulSt
  zor : ZoramSt
  host : HostSt
  cad : CadunSt
  pwr : PowerSt
  ident : IdentSt
  col0 : CollectorSt
  col1 : CollectorSt
  deg0 : DegSt
  deg1 : DegSt
  pins : PinSt
  deriving DecidableEq, Repr
/-! ### Values right after a cold reset -/

/-- A `RegFile` right after a cold reset. -/
def RegFile.init : RegFile :=
  { val := [], pend := [], taken := [], latch := [] }

/-- A `HeadTaken` right after a cold reset. -/
def HeadTaken.init : HeadTaken :=
  { out := [], ls := false, macA := false, macB := false, vec := false }

/-- A `CellSt` right after a cold reset: the spec gives local store words and accumulators no reset value, the model takes 0
(DESIGN CHOICE, log entry 31). -/
def CellSt.init : CellSt :=
  { ls := [], fixes := [], accs := [], bank := false, group := [], groupLen := 0, bufN := [], bufE := [],
    bufS := [], bufW := [], takN := HeadTaken.init, takE := HeadTaken.init, takS := HeadTaken.init,
    takW := HeadTaken.init, fwdA := [], fwdB := [], vecOut := [], nv := false, of := false, iw := false,
    lsCe := false, lsUe := false, swPar := false, resFail := false, ceCount := 0, failed := none,
    takFA := [], takFB := [], conflict := 0 }

/-- A `VReg` right after a cold reset. -/
def VReg.init : VReg :=
  { lanes := 0, poison := 0 }

/-- A `VecSt` right after a cold reset: the spec gives vector and mask registers and LFSR states no reset value, the model
takes 0 (DESIGN CHOICE, log entry 31). -/
def VecSt.init : VecSt :=
  { v := [], m := [], mp := [], lfsr := 0 }

/-- A `Ctx` right after a cold reset. -/
def Ctx.init : Ctx :=
  { st := .empty, lastResult := 0, fault := 0, step := 0, img := none, loadImg := none, loadFrom := none,
    lc := [], stopPend := false, held := false, running := [], words := [], phaseWait := none, issued := false, delayUntil := none,
    streams := [], staleAtEnd := false, startWhenReady := false, flagged := false }

/-- A `StreamSt` right after a cold reset. -/
def StreamSt.init : StreamSt :=
  { pos := 0, complete := false, stopped := false }

/-- A `LArr` right after a cold reset. -/
def LArr.init : LArr :=
  { phys := none, home := none, spared := false, progress := 0 }

/-- A `PArr` right after a cold reset. -/
def PArr.init : PArr :=
  { role := 3, logical := 0, mapOut := [] }

/-- A `FabricSt` right after a cold reset. -/
def FabricSt.init : FabricSt :=
  { fusedOut := [], wasOut := [], phys := [], larr := [], ctxs := [], cells := [], vecs := [], portQ := [] }

/-- A `Cue` right after a cold reset. -/
def Cue.init : Cue :=
  { value := 0, waits := [] }

/-- A `TakeSt` right after a cold reset. -/
def TakeSt.init : TakeSt :=
  { take := 0, last := none, due := false }

/-- A `MaintPort` right after a cold reset. -/
def MaintPort.init : MaintPort :=
  { run := none, queue := [], recFailed := false, late := [] }

/-- An `ArbSt` right after a cold reset. -/
def ArbSt.init : ArbSt :=
  { sinceP0 := 0, served := [] }

/-- A `BufferSt` right after a cold reset. -/
def BufferSt.init : BufferSt :=
  { frames := [], plru := [], ebuf := [], waits := [], stalled := [], rets := [], wayFunc := [],
    wayZero := [], scratch := [], scratchPoison := [], quietFails := [], quietWaits := [], maint := [],
    others := [], arb := [] }

/-- A `TgSt` right after a cold reset. -/
def TgSt.init : TgSt :=
  { run := false, done := false, pass := 0, errCount := 0, errAddr := 0, anyErr := false, laneLo := 0,
    laneHi := 0 }

/-- A `Chan` right after a cold reset. -/
def Chan.init : Chan :=
  { inService := false, q := [], wcb := [], redir := [], spareRetired := [], laneMap := 0x3F3F#32, ceRows := [],
    recalFails := 0, parTimes := [], scrubPos := 0, scrubPasses := 0, refBank := 0, refreshes := 0,
    tg := TgSt.init, arb := ArbSt.init }

/-- A `StackSt` right after a cold reset. -/
def StackSt.init : StackSt :=
  { band := 0, fence := 0, fenceT := 0, selfRefresh := false, excluded := false, lost := false, temp := 0,
    tempMax := -128, lowCount := 0, ret := none, dies := 0, density := 0, laneRepairs := 0, ppr := [],
    trained := false, lastTempT := 0, lastAccess := 0, holdFuncs := [], noticeBand := 0 }

/-- A `MemSt` right after a cold reset. -/
def MemSt.init : MemSt :=
  { dram := [], side := [], chans := [], stacks_ := [], retired := [], repairLog := [] }

/-- A `SlateSt` right after a cold reset. -/
def SlateSt.init : SlateSt :=
  { st := .idle, epoch := false, cause := 0, id := 0, preserve := 0, barrier := 0, parts := [], devices := [],
    grans := [], copies := [], held := [], heldCount := 0, preserved := 0, flushedAt := none, round := 0,
    pointing := false, waitQ := [], want := [] }

/-- A `CohSt` right after a cold reset. -/
def CohSt.init : CohSt :=
  { dir := [], dirPlru := [], recovery := [], txs := [], lineQ := [], snoops := [], far := [], farQ := [],
    farPlru := [], reqs := [], reqTake := [], snoopTake := [], tagUse := [], staleSeen := [], slates := [],
    peek := [], multi := [], mcFails := [] }

/-- A `QueueSt` right after a cold reset. -/
def QueueSt.init : QueueSt :=
  { st := .disabled, ring := 0, ringLog := 0, recBase := 0, recLog := 0, head := 0, tail := 0, recHead := 0,
    recTail := 0, errIndex := 0, errStatus := 0, active := [] }

/-- A `ReelSt` right after a cold reset. -/
def ReelSt.init : ReelSt :=
  { st := 0, credits := 0, sent := 0, recv := 0, next := 0, prev := 0, base := 0, slots := 0, slotLog := 0,
    arriveCue := 0, freeCue := 0, freeDue := 0 }

/-- A `DollySt` right after a cold reset. -/
def DollySt.init : DollySt :=
  { nextTag := 0, queues := [], reels := [] }

/-- A `PortSt` right after a cold reset. -/
def PortSt.init : PortSt :=
  { st := .down, txSpare := false, rxSpare := false, halfGroup := false, badLambda := 0, trainFails := 0,
    trainT := 0, trainStep2 := false, peerDev := 0, peerPort := 0, peerValid := false, everPeer := false, txSeq := 0, acked := 0,
    replay := [], lastAdvance := 0, nakTimes := [], credits := [], txq := [], unacked := [], rrNext := 0,
    rxSeq := 0, rxNak := false, lastNak := 0, ackDue := false, rxBytes := [], rxFlits := [], rxPkts := [],
    freed := [], txWave := 0, txBlocks := [], txWords := [] }

/-- A `CollCfg` right after a cold reset. -/
def CollCfg.init : CollCfg :=
  { root := 0, parent := 0, children := [], isRoot := false, isRed := false, redop := 0, delayEn := false,
    timeout := 0, arriveCue := 0, departCue := 0, redSrc := 0, redDst := 0, faultCue := 0, faultEn := false }

/-- A `CollSt` right after a cold reset. -/
def CollSt.init : CollSt :=
  { st := 0, cfg := CollCfg.init, round := 0, lastStatus := 0, firstExcl := 0, exclCount := 0,
    lastContrib := 0, lastDelay := 0, startT := 0, arrT := none, sentT := none, got := [], gone := [],
    roundExcl := 0, roundFirst := 0, val := none, ext := 0, notices := [], waitIn := false, arrDue := false,
    own := false, told := false }

/-- A `LinkSt` right after a cold reset. -/
def LinkSt.init : LinkSt :=
  { ports := [], mcops := [], colls := [] }

/-- A `RegulSt` right after a cold reset. -/
def RegulSt.init : RegulSt :=
  { active := false, winStart := 0, count := 0, outstanding := 0, busyUs := 0, busyLast := 0, reads := 0,
    lates := 0, deliv := 0, admitted := false, unadmitted := false, demanding := false, miss := false,
    missCause := 0, missLate := false, missCount := 0, worst := 0, held := [] }

/-- A `BundleSt` right after a cold reset. -/
def BundleSt.init : BundleSt :=
  { st := 0, bad := 0, assembly := 0, driverBad := 0, clockFail := false, union := false, rxNext := 0,
    rxNak := false, txNext := 0, txAcked := 0, nakTimes := [], lastAdvance := 0, credits := [], rxq := [],
    part := [], freed := [], framesSinceAck := 0, txq := [], rr := 0, frame := [], replay := [], resend := [],
    linkDue := [], rxView := 0, txBad := 0, peerRx := 0 }

/-- A `SbSt` right after a cold reset. -/
def SbSt.init : SbSt :=
  { stage := 0, stageT := 0, los := false, lol := false, active := false, tapPre := 0, tapPost := 0,
    txPre := 0, txPost := 0, txLimits := 0, restarts := 0, sent := [], ts1Count := 0, peerOrient := none,
    eyeRun := false, eyeErrors := 0 }

/-- A `SiteSt` right after a cold reset. -/
def SiteSt.init : SiteSt :=
  { st := 0, cause := 0, coherent := false, fwClass := 0, bundles := 0, rate := 0, tags := 0, vendor := 0,
    product := 0, violTimes := [], capRec := [] }

/-- A `ZoramSt` right after a cold reset. -/
def ZoramSt.init : ZoramSt :=
  { halves := 0, bundles := [], upList0 := [], upList1 := [], sbs := [], sites := [], mismatches := [],
    h1Reset := false, xWaits := [], xNext := 0 }

/-- A `QpSt` right after a cold reset. -/
def QpSt.init : QpSt :=
  { st := 0, cause := 0, sent := [], lastT := 0, retries := 0, rnrs := 0, users := [], rate := 65536,
    lastCnp := none, lastCnpSent := none, lastRec := 0, atoms := [] }

/-- A `SesSt` right after a cold reset. -/
def SesSt.init : SesSt :=
  { st := 0, func := 0, isLocal := false, key := none, c := 0, e := 0, rxSeq := 0, txSeq := 0, nextIndex := 0,
    cmds := [], cpls := [], cplTail := 0, cplHead := 0, evTail := 0, evHead := 0, evSeq := 0, evLost := 0,
    evSecond := 0, evCount := 0, unacked := [], resends := 0, lastSend := 0, lostT := 0, retx := 0 }

/-- A `HostSt` right after a cold reset. -/
def HostSt.init : HostSt :=
  { link := 0, laneLock := 0, paused := 0, held := [], qps := [], sessions := [], v6LocalOk := false,
    v6CfgOk := false, v6LocalBad := false, v6CfgBad := false, lastAnnounce := 0, answers := 0,
    answersSecond := 0 }

/-- A `FuncSt` right after a cold reset. -/
def FuncSt.init : FuncSt :=
  { st := 0, lastCause := 0, cutCount := 0, cutT := 0, cutWaits := [], cutKeys := [], destroy := false }

/-- A `MpSt` right after a cold reset. -/
def MpSt.init : MpSt :=
  { st := 0, fwSlot := false, beat := 0, beatSeenT := 0, hello := none, works := [] }

/-- A `CadunSt` right after a cold reset. -/
def CadunSt.init : CadunSt :=
  { funcs := [], holds := [], mp0 := MpSt.init, mp1 := MpSt.init, lastStoreT := none }

/-- A `DomSt` right after a cold reset. -/
def DomSt.init : DomSt :=
  { st := 0, cause := 0, wakes := 0 }

/-- A `GafSt` right after a cold reset. -/
def GafSt.init : GafSt :=
  { power := 0, removed := 0, last := [], throttle := 0, vinLow := false, tempHold := false, fallback := false,
    grant := 1800, pendGrant := none, exchange := 0, lastMsg := 0, lastEnter := none, lastLeave := none }

/-- A `ResetRec` right after a cold reset. -/
def ResetRec.init : ResetRec :=
  { cause := 0, pinReset := false, tripKind := 0, tripDom := 0, boots := 0 }

/-- A `PowerSt` right after a cold reset. -/
def PowerSt.init : PowerSt :=
  { doms := [(0, { DomSt.init with st := 1 }), (35, { DomSt.init with st := 1 })], gaf0 := GafSt.init,
    gaf1 := GafSt.init, die := [], time0 := 0, time1 := 0, time1At := 0, rec0 := ResetRec.init,
    rec1 := ResetRec.init, down := true, held := false, tripHot := false, refLost := false, pllLost := [],
    resetDueT := none, readyT := 0 }

/-- A `DieFuses` right after a cold reset. -/
def DieFuses.init : DieFuses :=
  { lot := 0, wafer := 0, x := 0, y := 0, rev := 0, floor := 0 }

/-- A `IdentSt` right after a cold reset. -/
def IdentSt.init : IdentSt :=
  { die0 := DieFuses.init, die1 := DieFuses.init, serial := 0, orientConflict := false, devId := 0,
    idValid := false, bootState := 0, refused := false, refStack := 0, refDies := 0, refDensity := 0,
    serials := [], flash := [], nvm0 := [], nvm1 := [], fwVersion := 0, runSlot := false, fallback := false,
    svn := 0, digest := 0, setSource := 0, setSeq := 0, storeCount := 0, meas := [0, 0, 0, 0], extends_ := 0,
    mlog := [], logFull := false, images := [], slotsWritten := [], active := [], activeB := false,
    floorChecked := false, dkPub := 0, akPub := 0, h1Reported := false }

/-- A `CollectorSt` right after a cold reset. -/
def CollectorSt.init : CollectorSt :=
  { inq := [], seq := 0, dropped := 0, recent := [], folded := [], ring := [], lostNext := 0, ucd := [],
    lastSample := 0, on := false }

/-- A `DegSt` right after a cold reset. -/
def DegSt.init : DegSt :=
  { subValid := false, subStack := 0, subClosed := false, subMaint := false }

/-- A `PinSt` right after a cold reset. -/
def PinSt.init : PinSt :=
  { resetN := false, pwrGood := true, tripN := true, bootHoldBall := false, straps := 0, modPresentN := false,
    modResetN := true, ptr0 := 0, ptr1 := 0, dyn0 := none, dyn1 := none, ir0 := 1, ir1 := 1, bsr0 := 0,
    bsr1 := 0, boundary0 := none, boundary1 := none }

/-- The part modelled from reset (DESIGN CHOICE: MB2, the larger; log entry 2). -/
def State.reset : State :=
  { part := .mb2, clock := 0, pending := [], out := [], freeCtr := 0, regs := RegFile.init,
    fab := FabricSt.init, cues := [], takes := [], buf := BufferSt.init, mem := MemSt.init,
    coh := CohSt.init, dolly := DollySt.init, link := LinkSt.init, reg := [], zor := ZoramSt.init,
    host := HostSt.init, cad := CadunSt.init, pwr := PowerSt.init, ident := IdentSt.init,
    col0 := CollectorSt.init, col1 := CollectorSt.init, deg0 := DegSt.init, deg1 := DegSt.init,
    pins := PinSt.init }

/-! ### Stops -/

/-- Why a command stops the machine. -/
inductive Fault where
  /-- The command names a resource that the part does not have (chapter 0, resource names): on MB1, anything of
  H1. Raised by every command with such an operand. Safe: no such command can reach an MB1. -/
  | absentOnPart
  deriving DecidableEq, Repr

/-- Why a command is refused. -/
inductive Refusal where
  /-- A command whose meaning is not modelled, by its mnemonic. No arm raises it. Safe. -/
  | notModelled (mnemonic : String)
  deriving DecidableEq, Repr

/-- What a meaning answers. -/
abbrev Outcome := Host.Outcome State Fault Refusal

end Sys2Proof.Machine
end

