-- ==== Sys2Proof/Config.lean ====
section
/-! DEFINITION. What the manual leaves open, and what one base carries for life: constants without a body, so
that no proof can depend on a value of them. A claim about the model holds for every choice of them. -/

namespace Sys2Proof

/-- Free values: the number that the manual leaves open at the n-th place where the model needs one. The step
that uses free values advances `State.freeCtr`, so no two uses share a number (log entry 1). -/
opaque Config.freeNat : Nat → Nat

/-- SHAKE256 with 64 bytes of output (R377, R432, R438, R443), named by the manual and defined by its standard. -/
opaque Config.shake256 : List Byte → W512

/-- Verification of an SLH-DSA-SHAKE-256s signature (R432, R441): public key, message, signature. -/
opaque Config.slhVerify : List Byte → List Byte → List Byte → Bool

/-- A byte of an SLH-DSA-SHAKE-128f signature (R439, R445): the three seeds of the key pair, the message, the byte's place. -/
opaque Config.slhSign : List Byte → List Byte → Nat → Byte

/-- The SLH-DSA-SHAKE-128f public key of a key pair's three seeds (R438). -/
opaque Config.publicKey : List Byte → Sec256

/-- The unique device secret fused in H0 (R428). It has no reader but key derivation. -/
opaque Config.deviceSecret : Sec256

/-- The Idael key fused in each die (R428), 64 bytes. -/
opaque Config.idaelKey : List Byte

/-- A byte of the signature of the device certificate, made by Idael at assembly test (R439). -/
opaque Config.certSig : Nat → Byte

/-- The SHAKE256 of the boot ROM and its revision (R443). -/
opaque Config.romDigest : W512

/-- The ROM revision (R443). -/
opaque Config.romRev : Nat

/-- Idael's JEP106 manufacturer code in the IDCODE register (R477), 11 bits. -/
opaque Config.jep106 : BitVec 11

/-- The check matrix of the (39,32) SECDED code over a word that is not zero (R163): the manual names the code's size only. -/
opaque Config.secded : W32 → BitVec 7

/-- The state from which the PRBS31 of a lane starts, by `TG_SEED` and lane (R180). -/
opaque Config.prbsSeed : Nat → Nat → BitVec 31

/-- The place of a sector in a pass in the orders 3 and 4 (R180), by order, seed and distance from `TG_FIRST`: the manual
names neither the bits of the LFSR nor the two rows. -/
opaque Config.tgPlace : Nat → Nat → Nat → Nat

/-- Approximate FP32 functions whose last bits the manual leaves open (R50): kind 0 reciprocal, 1 reciprocal
square root, 2 base-2 exponential, 3 base-2 logarithm; a number that selects one of the values within the stated
error. -/
opaque Config.approxPick : Nat → W32 → Nat

/-- Bits of a lane above a narrow result, by format and input (R55, R58): the manual gives the narrow bits only. -/
opaque Config.cvtPad : Nat → W32 → Nat

end Sys2Proof
end

