-- ==== Sys2Proof/Machine/Bits.lean ====
section
/-! DEFINITION. Bit-field, byte-order and saturation helpers (R4): the one place where bytes become numbers. -/

namespace Sys2Proof

/-- The low `n` bits of a number. -/
def lowBits (n x : Nat) : Nat := x % 2 ^ n

/-- Bits [hi:lo] of a number. -/
def natBits (hi lo x : Nat) : Nat := x / 2 ^ lo % 2 ^ (hi + 1 - lo)

/-- One bit of a number. -/
def natBit (i x : Nat) : Bool := x / 2 ^ i % 2 = 1

/-- A Bool as a number. -/
def b2n (b : Bool) : Nat := if b then 1 else 0

/-- Read `n` little-endian bytes as a number (R4). -/
def leNat : List Byte → Nat
  | [] => 0
  | b :: bs => b.toNat + 256 * leNat bs

/-- The `n` little-endian bytes of a number (R4). -/
def natLe : Nat → Nat → List Byte
  | 0, _ => []
  | n + 1, x => BitVec.ofNat 8 x :: natLe n (x / 256)

/-- Byte `i` of a bit vector, byte 0 in [7:0] (R4). -/
def byteAt {w : Nat} (v : BitVec w) (i : Nat) : Byte := BitVec.ofNat 8 (v.toNat / 2 ^ (8 * i))

/-- Bytes of a bit vector in address order (R4). -/
def bytesOf {w : Nat} (n : Nat) (v : BitVec w) : List Byte := (List.range n).map (byteAt v)

/-- A bit vector from bytes in address order (R4). -/
def ofBytes (w : Nat) (bs : List Byte) : BitVec w := BitVec.ofNat w (leNat bs)

/-- Increment that stops at a limit: the manual's saturating counters. -/
def satAdd (limit x n : Nat) : Nat := min limit (x + n)

end Sys2Proof
end

