-- ==== Sys2Proof/Machine/Float.lean ====
section
/-! DEFINITION. Exact arithmetic on the formats of R39: an element is decoded to sign, integer and power of two,
computed exactly, and rounded once. -/

namespace Sys2Proof.Machine

open Sys2Proof

/-- A number as its encoding gives it: NaN, an infinity, or ±m × 2^e. -/
inductive FVal where
  | nan
  | inf (neg : Bool)
  | fin (neg : Bool) (m : Nat) (e : Int)
  deriving DecidableEq, Repr

/-- How a format codes special values (R39): IEEE infinities and NaNs; E4M3's one NaN; none. -/
inductive Special where
  | ieee | e4m3 | none
  deriving DecidableEq, Repr

/-- A floating-point format: exponent bits, mantissa bits, bias, special values, code of the largest finite
value, emax of R39. -/
structure FFmt where
  eb : Nat
  mb : Nat
  bias : Nat
  sp : Special
  maxCode : Nat
  emax : Int
  deriving DecidableEq, Repr

/-- The formats of R39. -/
def fp32 : FFmt := ⟨8, 23, 127, .ieee, 0x7F7FFFFF, 127⟩
def bf16 : FFmt := ⟨8, 7, 127, .ieee, 0x7F7F, 127⟩
def fp16 : FFmt := ⟨5, 10, 15, .ieee, 0x7BFF, 15⟩
def e5m2 : FFmt := ⟨5, 2, 15, .ieee, 0x7B, 15⟩
def e4m3 : FFmt := ⟨4, 3, 7, .e4m3, 0x7E, 8⟩
def e3m2 : FFmt := ⟨3, 2, 3, .none, 0x1F, 4⟩
def e2m3 : FFmt := ⟨2, 3, 1, .none, 0x1F, 2⟩
def e2m1 : FFmt := ⟨2, 1, 1, .none, 0x7, 2⟩

/-- The width of a format in bits. -/
def FFmt.width (p : FFmt) : Nat := 1 + p.eb + p.mb

/-- The code of infinity of an IEEE format. -/
def FFmt.infCode (p : FFmt) : Nat := (2 ^ p.eb - 1) * 2 ^ p.mb

/-- The sign bit of a format. -/
def FFmt.signBit (p : FFmt) : Nat := 2 ^ (p.eb + p.mb)

/-- The canonical NaN (R42). -/
def FFmt.nanCode (p : FFmt) : Nat :=
  match p.sp with
  | .ieee => p.infCode + 2 ^ (p.mb - 1)
  | _ => 0x7F

/-- Decode an element (R39). -/
def decodeF (p : FFmt) (bits : Nat) : FVal :=
  let neg := natBit (p.eb + p.mb) bits
  let ex := natBits (p.eb + p.mb - 1) p.mb bits
  let ma := lowBits p.mb bits
  let code := ex * 2 ^ p.mb + ma
  let special : Bool :=
    match p.sp with
    | .ieee => decide (ex = 2 ^ p.eb - 1)
    | .e4m3 => decide (code = 0x7F)
    | .none => false
  if special then (if p.sp = .ieee ∧ ma = 0 then .inf neg else .nan)
  else if ex = 0 then .fin neg ma (1 - (p.bias : Int) - p.mb)
  else .fin neg (2 ^ p.mb + ma) ((ex : Int) - p.bias - p.mb)

/-- How a magnitude is rounded: to nearest, ties to even, or stochastically with 16 random bits (R51, R52). -/
inductive Rnd where
  | rne
  | sto (r : Nat)
  deriving DecidableEq, Repr

/-- The code of |x| = (m + ε) × 2^e rounded to a format, 0 < ε < 1 when `sticky`; it may exceed `maxCode`. A value
with `sticky` has more bits than the format keeps. -/
def roundMag (p : FFmt) (rnd : Rnd) (m : Nat) (e : Int) (sticky : Bool) : Nat :=
  if m = 0 then 0
  else
    let top : Int := e + Nat.log2 m
    let emin : Int := 1 - (p.bias : Int)
    let q : Int := max top emin - p.mb
    let sh : Int := q - e
    let mant : Nat :=
      if sh ≤ 0 then m * 2 ^ (-sh).toNat
      else
        let d := 2 ^ sh.toNat
        let lo := m / d
        let rem := m % d
        match rnd with
        | .rne =>
          if d < 2 * rem ∨ (d = 2 * rem ∧ (sticky = true ∨ lo % 2 = 1)) then lo + 1 else lo
        | .sto r =>
          if 65536 ≤ rem * 65536 / d + r then lo + 1 else lo
    ((q + p.mb + p.bias - 1).toNat) * 2 ^ p.mb + mant

/-- Sticky conditions raised by an operation: NV, OF, IW of `CELL_STATUS` (R62). -/
structure Flags where
  nv : Bool
  of : Bool
  iw : Bool
  deriving DecidableEq, Repr

/-- No condition. -/
def Flags.none : Flags := ⟨false, false, false⟩

/-- Conditions of either. -/
def Flags.or (a b : Flags) : Flags := ⟨a.nv || b.nv, a.of || b.of, a.iw || b.iw⟩

/-- Only a NaN from non-NaN operands. -/
def Flags.nvOnly : Flags := ⟨true, false, false⟩

/-- An FP32 result: its bits and its conditions. -/
abbrev FRes := Nat × Flags

/-- The canonical FP32 NaN (R42). -/
def nan32 : Nat := 0x7FC00000

/-- A NaN made from non-NaN operands. -/
def nanNew : FRes := (nan32, .nvOnly)

/-- FP32 infinity with a sign. -/
def inf32 (neg : Bool) : Nat := b2n neg * 0x80000000 + 0x7F800000

/-- FP32 zero with a sign. -/
def zero32 (neg : Bool) : Nat := b2n neg * 0x80000000

/-- Round a magnitude to FP32, to nearest even; a finite overflow becomes infinity and sets OF (R44, R58). -/
def pack32 (neg : Bool) (m : Nat) (e : Int) (sticky : Bool) : FRes :=
  let c := roundMag fp32 .rne m e sticky
  if fp32.maxCode < c then (inf32 neg, ⟨false, true, false⟩) else (b2n neg * 0x80000000 + c, .none)

/-- A signed integer scaled by 2^e, rounded to FP32; `zneg` is the sign of an exact zero. -/
def packInt (x : Int) (e : Int) (zneg : Bool) : FRes :=
  if x = 0 then (zero32 zneg, .none) else pack32 (decide (x < 0)) x.natAbs e false

/-- The signed integer of ±m. -/
def signed (neg : Bool) (m : Nat) : Int := if neg then -(m : Int) else m

/-- The exact sum of two finite values as an integer and its exponent. -/
def addExact (n1 : Bool) (m1 : Nat) (e1 : Int) (n2 : Bool) (m2 : Nat) (e2 : Int) : Int × Int :=
  let e := min e1 e2
  (signed n1 (m1 * 2 ^ (e1 - e).toNat) + signed n2 (m2 * 2 ^ (e2 - e).toNat), e)

/-- FP32 addition of decoded values (R58). -/
def addV (a b : FVal) : FRes :=
  match a, b with
  | .nan, _ => (nan32, .none)
  | _, .nan => (nan32, .none)
  | .inf s, .inf t => if s = t then (inf32 s, .none) else nanNew
  | .inf s, .fin .. => (inf32 s, .none)
  | .fin .., .inf t => (inf32 t, .none)
  | .fin n1 m1 e1, .fin n2 m2 e2 =>
    let r := addExact n1 m1 e1 n2 m2 e2
    packInt r.1 r.2 (n1 && n2)

/-- The exact product of decoded values; `none` for an infinity times a zero. -/
def mulExact (a b : FVal) : Option FVal :=
  match a, b with
  | .nan, _ => some .nan
  | _, .nan => some .nan
  | .inf s, .inf t => some (.inf (s != t))
  | .inf s, .fin t m _ => if m = 0 then none else some (.inf (s != t))
  | .fin s m _, .inf t => if m = 0 then none else some (.inf (s != t))
  | .fin s m e, .fin t k f => some (.fin (s != t) (m * k) (e + f))

/-- A decoded value rounded to FP32. -/
def packV (v : FVal) : FRes :=
  match v with
  | .nan => (nan32, .none)
  | .inf s => (inf32 s, .none)
  | .fin n m e => if m = 0 then (zero32 n, .none) else pack32 n m e false

/-- Change the sign of a decoded value. -/
def negV : FVal → FVal
  | .nan => .nan
  | .inf s => .inf (!s)
  | .fin n m e => .fin (!n) m e

def dec32 (x : Nat) : FVal := decodeF fp32 x

/-- a + b, a − b, a × b, a × b + c on FP32 words (R58). -/
def fadd (a b : Nat) : FRes := addV (dec32 a) (dec32 b)
def fsub (a b : Nat) : FRes := addV (dec32 a) (negV (dec32 b))
def fmul (a b : Nat) : FRes :=
  match mulExact (dec32 a) (dec32 b) with
  | none => nanNew
  | some v => packV v
def ffma (a b : Nat) (c : FVal) : FRes :=
  match mulExact (dec32 a) (dec32 b) with
  | none => match c with
    | .nan => (nan32, .none)
    | _ => nanNew
  | some v => addV v c

/-- a ÷ b, correctly rounded (R58). -/
def fdiv (a b : Nat) : FRes :=
  match dec32 a, dec32 b with
  | .nan, _ => (nan32, .none)
  | _, .nan => (nan32, .none)
  | .inf _, .inf _ => nanNew
  | .inf s, .fin t _ _ => (inf32 (s != t), .none)
  | .fin s _ _, .inf t => (zero32 (s != t), .none)
  | .fin s m e, .fin t k f =>
    if k = 0 then (if m = 0 then nanNew else (inf32 (s != t), .none))
    else if m = 0 then (zero32 (s != t), .none)
    else pack32 (s != t) (m * 2 ^ 64 / k) (e - f - 64) (decide (m * 2 ^ 64 % k ≠ 0))

/-- The integer square root, by `n` result bits from the top. -/
def isqrtGo : Nat → Nat → Nat → Nat
  | 0, _, r => r
  | n + 1, x, r => if (r + 2 ^ n) * (r + 2 ^ n) ≤ x then isqrtGo n x (r + 2 ^ n) else isqrtGo n x r

/-- ⌊√x⌋ for x < 2^160. -/
def isqrt (x : Nat) : Nat := isqrtGo 80 x 0

/-- √a, correctly rounded (R58). -/
def fsqrt (a : Nat) : FRes :=
  match dec32 a with
  | .nan => (nan32, .none)
  | .inf s => if s then nanNew else (inf32 false, .none)
  | .fin n m e =>
    if m = 0 then (zero32 n, .none)
    else if n then nanNew
    else
      let odd := e % 2
      let x := m * 2 ^ odd.toNat * 2 ^ 64
      let r := isqrt x
      pack32 false r ((e - odd) / 2 - 32) (decide (r * r ≠ x))

/-! ### Approximations: any value within the stated error, one for each input (R49, log entry 6) -/

/-- The FP32 magnitude codes whose error against the exact value m × 2^e (within 2^-40 of it, relatively) is at
most `ulps` ulp, from the lowest; ulp is that of the correctly rounded result. -/
def nearCodes (ulps : Nat) (m : Nat) (e : Int) : List Nat :=
  let c := roundMag fp32 .rne m e false
  (List.range (2 * ulps + 1)).filterMap (fun i =>
    if c + i < ulps then none
    else
      let k := c + i - ulps
      match dec32 k with
      | .fin _ km ke =>
        let ce := match dec32 c with
          | .fin _ _ e' => e'
          | _ => 104
        let lo := min (min ke e) ce
        let d := (km : Int) * 2 ^ (ke - lo).toNat - (m : Int) * 2 ^ (e - lo).toNat
        if d.natAbs ≤ ulps * 2 ^ (ce - lo).toNat + m * 2 ^ (e - lo).toNat / 2 ^ 40 then some k else none
      | .inf _ => if i = ulps then some k else none
      | .nan => none)

/-- One of the values within the error, the same for the same input (R49). -/
def approx (kind ulps a : Nat) (neg : Bool) (m : Nat) (e : Int) : FRes :=
  let cs := nearCodes ulps m e
  let c := cs.getD (Config.approxPick kind (BitVec.ofNat 32 a) % max 1 cs.length) (roundMag fp32 .rne m e false)
  if fp32.maxCode < c then (inf32 neg, ⟨false, true, false⟩) else (b2n neg * 0x80000000 + c, .none)

/-- Reciprocal, within 1 ulp. -/
def frecip (a : Nat) : FRes :=
  match dec32 a with
  | .nan => (nan32, .none)
  | .inf s => (zero32 s, .none)
  | .fin n m e => if m = 0 then (inf32 n, .none) else approx 0 1 a n (2 ^ 100 / m) (-100 - e)

/-- Reciprocal square root, within 1 ulp; of ±0 the manual states no result (log entry 7). -/
def frsqrt (a : Nat) : FRes :=
  match dec32 a with
  | .nan => (nan32, .none)
  | .inf s => if s then nanNew else (zero32 false, .none)
  | .fin n m e =>
    if m = 0 then (lowBits 32 (Config.approxPick 1 (BitVec.ofNat 32 a)), .none)
    else if n then nanNew
    else
      let odd := e % 2
      let x := m * 2 ^ odd.toNat
      approx 1 1 a false (isqrt (2 ^ 150 / x)) (-75 - (e - odd) / 2)

/-- 2^(f ÷ 2^64) × 2^70 for the bits of f below `2^n`, with `c` = 2^(2^(n−65)) × 2^70. -/
def exp2Go : Nat → Nat → Nat → Nat → Nat
  | 0, _, _, acc => acc
  | n + 1, f, c, acc =>
    exp2Go n f (isqrt (c * 2 ^ 70)) (if natBit n f then acc * c / 2 ^ 70 else acc)

/-- Base-2 exponential, within 2 ulp. -/
def fexp2 (a : Nat) : FRes :=
  match dec32 a with
  | .nan => (nan32, .none)
  | .inf s => if s then (zero32 false, .none) else (inf32 false, .none)
  | .fin n m e =>
    if m = 0 then (0x3F800000, .none)
    else if 8 ≤ e + Nat.log2 m then
      (if n then (zero32 false, .none) else (inf32 false, ⟨false, true, false⟩))
    else
      let fx : Int := if 0 ≤ e + 64 then signed n (m * 2 ^ (e + 64).toNat) else signed n (m / 2 ^ (-(e + 64)).toNat)
      let k := fx / 2 ^ 64
      let f := (fx % 2 ^ 64).toNat
      approx 2 2 a false (exp2Go 64 f (isqrt (2 * 2 ^ 140)) (2 ^ 70)) (k - 70)

/-- `n` bits of log2 of y ÷ 2^120, 1 ≤ y ÷ 2^120 < 2. -/
def log2Go : Nat → Nat → Nat → Nat
  | 0, _, acc => acc
  | n + 1, y, acc =>
    let y2 := y * y / 2 ^ 120
    if 2 ^ 121 ≤ y2 then log2Go n (y2 / 2) (2 * acc + 1) else log2Go n y2 (2 * acc)

/-- Base-2 logarithm, within 2 ulp. -/
def flog2 (a : Nat) : FRes :=
  match dec32 a with
  | .nan => (nan32, .none)
  | .inf s => if s then nanNew else (inf32 false, .none)
  | .fin n m e =>
    if m = 0 then (inf32 true, .none)
    else if n then nanNew
    else
      let t := Nat.log2 m
      let x : Int := (e + t) * 2 ^ 90 + log2Go 90 (m * 2 ^ 120 / 2 ^ t) 0
      if x = 0 then (zero32 false, .none) else approx 3 2 a (decide (x < 0)) x.natAbs (-90)

/-! ### Comparisons, minimum, maximum -/

/-- A total key of non-NaN FP32 words: −0 below +0. -/
def fkey (a : Nat) : Int := if natBit 31 a then -(lowBits 31 a : Int) - 1 else lowBits 31 a

/-- The word is a NaN. -/
def isNan32 (a : Nat) : Bool := decide (0x7F800000 < lowBits 31 a)

/-- The words differ at most in the sign of zero. -/
def feq (a b : Nat) : Bool := decide (a = b) || (decide (lowBits 31 a = 0) && decide (lowBits 31 b = 0))

/-- Minimum and maximum: a NaN input gives NaN, −0 is less than +0. -/
def fmin (a b : Nat) : FRes :=
  if isNan32 a || isNan32 b then (nan32, .none) else (if fkey a ≤ fkey b then a else b, .none)
def fmax (a b : Nat) : FRes :=
  if isNan32 a || isNan32 b then (nan32, .none) else (if fkey a ≤ fkey b then b else a, .none)

/-- FP32 compare: any comparison with NaN is false, except ne and unordered. -/
def fcmp (c : Cmp) (a b : Nat) : Bool :=
  let un := isNan32 a || isNan32 b
  let lt := !feq a b && decide (fkey a < fkey b)
  match c with
  | .eq => !un && feq a b
  | .ne => un || !feq a b
  | .lt => !un && lt
  | .le => !un && (lt || feq a b)
  | .gt => !un && !lt && !feq a b
  | .ge => !un && !lt
  | .unordered => un

/-! ### Conversions (R51–R55) -/

/-- The floating-point format of a narrow format, if it is one. -/
def floatOf : NFmt → Option FFmt
  | .bf16 => some bf16
  | .fp16 => some fp16
  | .e5m2 => some e5m2
  | .e4m3 => some e4m3
  | .e3m2 => some e3m2
  | .e2m3 => some e2m3
  | .e2m1 => some e2m1
  | _ => none

/-- The width of a narrow format. -/
def widthOf : NFmt → Nat
  | .bf16 => 16
  | .fp16 => 16
  | .e5m2 => 8
  | .e4m3 => 8
  | .e3m2 => 6
  | .e2m3 => 6
  | .e2m1 => 4
  | .int32 => 32
  | .int8 => 8
  | .int4 => 4
  | .mxint8 => 8

/-- Convert a finite magnitude to a floating-point format under `SAT` (R55): its code with sign and OF. An MX
element, which has no special codes, always saturates. -/
def narrowFin (p : FFmt) (sat : Bool) (rnd : Rnd) (neg : Bool) (m : Nat) (e : Int) : FRes :=
  let c := roundMag p rnd m e false
  let s := b2n neg * p.signBit
  if p.maxCode < c then
    match p.sp, sat with
    | .ieee, false => (s + p.infCode, ⟨false, true, false⟩)
    | .e4m3, false => (0x7F, ⟨true, true, false⟩)
    | _, _ => (s + p.maxCode, ⟨false, true, false⟩)
  else (s + c, .none)

/-- Convert to a floating-point format (R55). -/
def narrowF (p : FFmt) (sat : Bool) (rnd : Rnd) (v : FVal) : FRes :=
  match v with
  | .nan => (p.nanCode, .none)
  | .inf neg =>
    match p.sp with
    | .ieee => (b2n neg * p.signBit + p.infCode, .none)
    | .e4m3 => if sat then (b2n neg * p.signBit + p.maxCode, .none) else (0x7F, .nvOnly)
    | .none => (b2n neg * p.signBit + p.maxCode, .none)
  | .fin neg m e => narrowFin p sat rnd neg m e

/-- The integer nearest ±m × 2^e under a rounding. -/
def roundInt (rnd : Rnd) (m : Nat) (e : Int) : Nat :=
  if 0 ≤ e then m * 2 ^ e.toNat
  else
    let d := 2 ^ (-e).toNat
    let lo := m / d
    let rem := m % d
    match rnd with
    | .rne => if d < 2 * rem ∨ (d = 2 * rem ∧ lo % 2 = 1) then lo + 1 else lo
    | .sto r => if 65536 ≤ rem * 65536 / d + r then lo + 1 else lo

/-- Two's complement of `w` bits. -/
def twos (w : Nat) (x : Int) : Nat := (x % 2 ^ w).toNat

/-- The signed value of `w` bits. -/
def sext (w x : Nat) : Int := if natBit (w - 1) x then (lowBits w x : Int) - 2 ^ w else lowBits w x

/-- Convert to an integer format of `w` bits, saturating to the range (R55). -/
def narrowI (w : Nat) (rnd : Rnd) (v : FVal) : FRes :=
  let hi : Int := 2 ^ (w - 1) - 1
  let lo : Int := -(2 ^ (w - 1))
  match v with
  | .nan => (0, .nvOnly)
  | .inf neg => (twos w (if neg then lo else hi), .none)
  | .fin neg m e =>
    let x := signed neg (roundInt rnd m e)
    if hi < x then (twos w hi, ⟨false, true, false⟩)
    else if x < lo then (twos w lo, ⟨false, true, false⟩)
    else (twos w x, .none)

/-- Convert an FP32 word to a narrow format (R51–R55). INT32 is not narrower and rounds to nearest even. An
MXINT8 element counts steps of 2^-6. -/
def narrow (f : NFmt) (sat : Bool) (rnd : Rnd) (v : FVal) : FRes :=
  match floatOf f with
  | some p => narrowF p sat rnd v
  | none =>
    match f with
    | .int32 => narrowI 32 .rne v
    | .mxint8 =>
      match v with
      | .fin n m e =>
        let x := signed n (roundInt rnd m (e + 6))
        if 127 < x then (127, ⟨false, true, false⟩)
        else if x < -127 then (twos 8 (-127), ⟨false, true, false⟩) else (twos 8 x, .none)
      | w => narrowI 8 rnd w
    | .int4 => narrowI 4 rnd v
    | _ => narrowI 8 rnd v

/-- The value of an element of a narrow format (R39). -/
def widen (f : NFmt) (bits : Nat) : FVal :=
  match floatOf f with
  | some p => decodeF p (lowBits p.width bits)
  | none =>
    let w := widthOf f
    let x := sext w bits
    .fin (decide (x < 0)) x.natAbs (if f = .mxint8 then -6 else 0)

/-! ### MAC products and groups (R44) -/

/-- The value of a MAC operand element by its format code. -/
def macValue (f : MacFmt) (bits : Nat) : FVal :=
  match f with
  | .none => .fin false 0 0
  | .mxfp4 => widen .e2m1 bits
  | .mxe3m2 => widen .e3m2 bits
  | .mxe2m3 => widen .e2m3 bits
  | .mxe4m3 => widen .e4m3 bits
  | .mxe5m2 => widen .e5m2 bits
  | .e4m3 => widen .e4m3 bits
  | .e5m2 => widen .e5m2 bits
  | .mxint8 => widen .mxint8 bits
  | .int4 => widen .int4 bits
  | .int8 => widen .int8 bits
  | .bf16 => widen .bf16 bits
  | .fp16 => widen .fp16 bits

/-- The format's elements share scales. -/
def macIsMx (f : MacFmt) : Bool :=
  match f with
  | .mxfp4 | .mxe3m2 | .mxe2m3 | .mxe4m3 | .mxe5m2 | .mxint8 => true
  | _ => false

/-- The format accumulates in INT32. -/
def macIsInt (f : MacFmt) : Bool :=
  match f with
  | .int4 | .int8 => true
  | _ => false

/-- The bits of an element of a format (R39, R41). -/
def macWidth (f : MacFmt) : Nat :=
  match f with
  | .mxfp4 | .int4 => 4
  | .mxe3m2 | .mxe2m3 => 6
  | .bf16 | .fp16 => 16
  | _ => 8

/-- The depth k of a slice of a format: 8, 4 or 2 (chapter 2). -/
def macDepth (f : MacFmt) : Nat :=
  match f with
  | .mxfp4 | .int4 => 8
  | .bf16 | .fp16 => 2
  | _ => 4

/-- The pair of formats is one of R43's table. -/
def macPair (a b : MacFmt) : Bool :=
  let eight (f : MacFmt) : Bool := match f with
    | .mxe3m2 | .mxe2m3 | .mxe4m3 | .mxe5m2 | .e4m3 | .e5m2 => true
    | _ => false
  (a == .mxfp4 && (b == .mxfp4 || eight b)) || (eight a && (b == .mxfp4 || eight b)) ||
  (a == .mxint8 && b == .mxint8) || (macIsInt a && macIsInt b) ||
  (a == .bf16 && b == .bf16) || (a == .fp16 && b == .fp16)

end Sys2Proof.Machine
end

