-- ==== Sys2Proof/Machine/Coding.lean ====
section
/-! DEFINITION. The block stream of a neighbour port (R274, R275, R278, R279): flits as bytes, blocks, the transcoding to
256B/257B and the RS(544,514) code, as IEEE 802.3 has them for 200 Gb/s lanes (PRESUMED, log entry 91). -/

namespace Sys2Proof.Machine

open Sys2Proof

/-- One byte of CRC-32 of IEEE 802.3, reflected. -/
def crc32Byte (crc b : Nat) : Nat :=
  (List.range 8).foldl (fun c _ => if c % 2 = 1 then (c / 2) ^^^ 0xEDB88320 else c / 2) (crc ^^^ b)

/-- CRC-32 of IEEE 802.3. -/
def crc32 (bs : List Byte) : Nat := (bs.foldl (fun c b => crc32Byte c b.toNat) 0xFFFFFFFF) ^^^ 0xFFFFFFFF

/-- A flit with its first word and content, its unused bytes zero and its check code last (R278). -/
def flitImage (w0 : Nat) (content : List Byte) : List Byte :=
  let b := natLe 4 w0 ++ content.take 56 ++ List.replicate (56 - content.length) 0
  b ++ natLe 4 (crc32 b)

/-- The bytes of a DATA flit (R278). -/
def dataImage (f : DataFlit) : List Byte :=
  flitImage (f.ftype.toNat + f.vc.val * 2 ^ 2 + b2n f.dl * 2 ^ 5 + f.payload.length % 64 * 2 ^ 6 + f.seq.toNat * 2 ^ 12)
    f.payload

/-- The bytes of a CTRL flit (R279). -/
def ctrlImage (c : CtrlFlit) : List Byte :=
  let credit (v d : Nat) : Nat :=
    ((c.credits.filter (fun e => decide (e.1.val = v) && decide (b2n e.2.1 = d))).map (fun e => e.2.2.toNat)).sum
  let content := natLe 2 c.ackSeq.toNat ++ natLe 2 (b2n c.ackValid + b2n c.nak * 2) ++
    (List.range 14).flatMap (fun k => natLe 2 (credit (k / 2) (k % 2)))
  flitImage (2 + content.length * 2 ^ 6) content

/-- The 8 blocks of a flit (R275), byte 0 first; each has the sync header 0b01. -/
def flitBlocks (b : List Byte) : List Nat := (List.range 8).map (fun i => leNat ((b.drop (8 * i)).take 8))

/-- Four data blocks as one block of 257 bits: a 1, then the blocks, its first five bits scrambled with bits [12:8]. -/
def transcode (blocks : List Nat) : Nat :=
  let x := 1 + 2 * (blocks.zipIdx.map (fun e => e.1 * 2 ^ (64 * e.2))).sum
  x / 32 * 32 + (x % 32) ^^^ natBits 12 8 x

/-- Multiplication in the field of 1,024 elements with x^10 + x^3 + 1. -/
def gfMul (a b : Nat) : Nat :=
  (List.range 10).foldl (fun acc i =>
    let d := 2 * acc
    let d := if 1024 ≤ d then d ^^^ 0x409 else d
    if natBit (9 - i) b then d ^^^ a else d) 0

/-- Multiply a polynomial (highest power first) by x + r. -/
def gfTimes (p : List Nat) (r : Nat) : List Nat :=
  List.zipWith (fun a b => a ^^^ b) (p ++ [0]) (0 :: p.map (fun c => gfMul c r))

/-- The generator of RS(544,514): the product of x + α^j for j from 0 to 29, with α = 2. -/
def rsGen : List Nat := ((List.range 30).foldl (fun (a : List Nat × Nat) _ => (gfTimes a.1 a.2, gfMul a.2 2)) ([1], 1)).1

/-- The 30 check symbols of a message of 514 symbols. -/
def rsParity (msg : List Nat) : List Nat :=
  let g := rsGen.drop 1
  msg.foldl (fun r m =>
    let fb := m ^^^ r.headD 0
    List.zipWith (fun a b => a ^^^ gfMul b fb) (r.drop 1 ++ [0]) g) (List.replicate 30 0)

/-- The codeword of 80 blocks of one wavelength: 20 transcoded blocks, cut into 514 symbols of 10 bits, and the check. -/
def codeword (blocks : List Nat) : List (BitVec 10) :=
  let bits := ((List.range 20).map (fun i => transcode ((blocks.drop (4 * i)).take 4) * 2 ^ (257 * i))).sum
  let msg := (List.range 514).map (fun i => natBits (10 * i + 9) (10 * i) bits)
  (msg ++ rsParity msg).map (BitVec.ofNat 10)

/-- Blocks in a codeword, and codewords between alignment markers (R274). -/
def wordBlocks : Nat := 80
def markerWords : Nat := 4096

/-- The skew between wavelengths that a receiver tolerates, in ns (R274). -/
def maxSkew : Nat := 64

end Sys2Proof.Machine
end

