-- ==== Sys2Proof/Machine/Regs.lean ====
section
/-! DEFINITION. The configuration fields (R27 and the offset and field tables of each chapter): one name per
32-bit field, its place in configuration space, its access, change class and reset value. -/

namespace Sys2Proof.Machine

open Sys2Proof

/-- The 32-bit fields by name, in the order of the block classes. -/
inductive Reg where
  | dieLotLo | dieLotHi | diePos | partInfo | devId | refusal | stackMask | pkgSerial | stackSerialLo
  | stackSerialHi | fwInfo | fwState | settingsSeq | settingsState | storeCount | fnState | fnClustersH0
  | fnClustersH1 | fnMem | fnCounts | fnCounts2 | mpStatus | arrayStatus | cellStatus | ctxCtrl | ctxStatus
  | ctxImageLo | ctxImageHi | ctxCommit | arithMode | srSeed | clusterOwner | lmap | cueValue | cueOwner
  | cueStats | segMap | wayMap | partCfg | funcBuf | funcDeadCount | maintAddrLo | maintAddrHi | maintLenLo
  | maintLenHi | maintCtl | maintRecLo | maintRecHi | maintCue | maintCommit | maintStatus | hits | misses
  | evictions | packs | deadRereads | ebufStalls | cohCfg | groupCfg | staleDiscards | badMsg | leaseLosses
  | member | segExport | partCoh | slateStatus | slateHeld | slatePreserved | dirUsed | dirEvictions
  | coarseEntries | leaseExpiries | rpCollects | dirRecovery | peekSel | peekCommit | peekData
  | stackStatus | stackTemp | stackInfo | memCfg | chStatus | chCe | chUe | chRfm | laneMap | tgCtl
  | tgFirst | tgLast | tgSeed | tgPasses | tgGo | tgStatus | tgErrCount | tgErrAddr | tgLaneLo | tgLaneHi
  | spareRetired | redirect | dqOwner | dqCtl | dqStatus | dqTail | dqRingLo | dqRingHi | dqRecLo | dqRecHi
  | dqCommit | dqRecHead | dqErr | dqHead | dqRecTail | engStatus | engRd | engWr | cueRemote | reelId
  | reelNext | reelPrev | reelBaseLo | reelBaseHi | reelCues | reelCommit | reelStatus | rsigRefused
  | regOwner | regCfg | regWindow | regGuar | regLat | regCommit | regCap | regStatus | regDeliv | regMiss
  | regCue | arrReg0 | arrReg1 | guestReg | hostReg | remoteReg | admitCfg | stackLoad | zoramLoad
  | portCtl | portStatus | portPeer | crcErr | replays | retrains | portDrops | vcWeight | vcBuf
  | vcBufCommit | linkCfg | aged | noRoute | badPkt | collStale | routeEntry | mgroup | collId | collTree
  | collChild | collCfg | collCues | redSrcLo | redSrcHi | redDstLo | redDstHi | collCommit | collStatus
  | collExcl | collTiming | zbStatus | zbErr | zbBad | zoramStatus | zaged | zbadMsg | sbStatus | eyeCtl
  | eyeResult | gsCtl | gsStatus | gsPeer | gsViolations | gsSbStatus | gsEyeCtl | gsEyeResult | gzbStatus
  | gzbErr | gzbBad | hpStatus | hpCfg | macLo | macHi | ipv4Addr | hpNet | ipv6 | netCommit | fcsErr
  | rxDiscards | icrcErr | ctRefused | fecCorr | fecUncorr | qpOwner | qpState | qpDest | qpMacLo | qpMacHi
  | qpIp | qpPath | qpQos | qpSqPsn | qpRqPsn | mkCtl | mkBaseLo | mkBaseHi | mkLenLo | mkLenHi | sesStatus
  | sesCmdDb | sesCplHead | sesCue | sesRetx | domCtl | domStatus | domTelem | gafferCfg | gafferStatus
  | gafferGrant | pkgCommit | dieTemp | thermCfg | clkStatus | timeLo | timeHi | resetInfo | dringLo
  | dringHi | dringCommit | dailiesCtl | dailiesStatus | ceTotal | ucfTotal | ucdTotal | overwritten
  | droppedTotal | xbarCe | stackCmdPar | degraded | funcErr | sampleMask | cellConflict
  deriving DecidableEq, Repr

/-- Where H1's block stands for a field: it has its own, it has none (the offset is reserved), it holds a
read-only copy of H0's (R488), or its block reads as zero under R5 (R386). -/
inductive HalfRule where
  | own | none | copy | zero
  deriving DecidableEq, Repr

/-- A row of the offset and field tables. The field at position (a, b, w) lies at
`base + stride × a + sstride × b + 4 × w` of block class `cls`, for a < `count`, b < `scount`, w < `words`.
`rw`: bits that a write sets (or that trigger an action); `sMask`: those of class S; `isC`: the field is of class
C; `w1c`: bits cleared by writing 1; `reset`: the value after a cold reset. -/
structure RegRow where
  cls : Nat
  base : Nat
  stride : Nat
  count : Nat
  sstride : Nat
  scount : Nat
  words : Nat
  h1 : HalfRule
  rw : Nat
  sMask : Nat
  isC : Bool
  w1c : Nat
  reset : Nat
  deriving DecidableEq, Repr

/-- The row of each field. The context fields have their rows in the logical views (R108). -/
def regRow : Reg → RegRow
  | .dieLotLo => ⟨0, 0, 0, 1, 0, 1, 1, .own, 0, 0, false, 0, 0⟩
  | .dieLotHi => ⟨0, 4, 0, 1, 0, 1, 1, .own, 0, 0, false, 0, 0⟩
  | .diePos => ⟨0, 8, 0, 1, 0, 1, 1, .own, 0, 0, false, 0, 0⟩
  | .partInfo => ⟨0, 0xC, 0, 1, 0, 1, 1, .own, 0, 0, false, 0, 0⟩
  | .devId => ⟨0, 0x10, 0, 1, 0, 1, 1, .own, 0, 0, false, 0, 0⟩
  | .refusal => ⟨0, 0x14, 0, 1, 0, 1, 1, .own, 0, 0, false, 0, 0⟩
  | .stackMask => ⟨0, 0x18, 0, 1, 0, 1, 1, .own, 0, 0, false, 0, 0⟩
  | .pkgSerial => ⟨0, 0x20, 0, 1, 0, 1, 4, .own, 0, 0, false, 0, 0⟩
  | .stackSerialLo => ⟨0, 0x100, 8, 8, 0, 1, 1, .own, 0, 0, false, 0, 0⟩
  | .stackSerialHi => ⟨0, 0x104, 8, 8, 0, 1, 1, .own, 0, 0, false, 0, 0⟩
  | .fwInfo => ⟨0, 0x200, 0, 1, 0, 1, 1, .own, 0, 0, false, 0, 0⟩
  | .fwState => ⟨0, 0x204, 0, 1, 0, 1, 1, .own, 0, 0, false, 0, 0⟩
  | .settingsSeq => ⟨0, 0x208, 0, 1, 0, 1, 1, .own, 0, 0, false, 0, 0⟩
  | .settingsState => ⟨0, 0x20C, 0, 1, 0, 1, 1, .own, 0, 0, false, 0, 0⟩
  | .storeCount => ⟨0, 0x210, 0, 1, 0, 1, 1, .own, 0, 0, false, 0, 0⟩
  | .fnState => ⟨1, 0, 0x40, 0x10, 0, 1, 1, .none, 0, 0, false, 0, 0⟩
  | .fnClustersH0 => ⟨1, 4, 0x40, 0x10, 0, 1, 1, .none, 0, 0, false, 0, 0⟩
  | .fnClustersH1 => ⟨1, 8, 0x40, 0x10, 0, 1, 1, .none, 0, 0, false, 0, 0⟩
  | .fnMem => ⟨1, 0xC, 0x40, 0x10, 0, 1, 1, .none, 0, 0, false, 0, 0⟩
  | .fnCounts => ⟨1, 0x10, 0x40, 0x10, 0, 1, 1, .none, 0, 0, false, 0, 0⟩
  | .fnCounts2 => ⟨1, 0x14, 0x40, 0x10, 0, 1, 1, .none, 0, 0, false, 0, 0⟩
  | .mpStatus => ⟨1, 0x10000, 0, 1, 0, 1, 1, .own, 0, 0, false, 0, 0⟩
  | .arrayStatus => ⟨2, 0, 0x10000, 0x48, 0, 1, 1, .own, 0, 0, false, 0, 0⟩
  | .cellStatus => ⟨2, 0x1000, 0x10000, 0x48, 0, 1, 256, .own, 0, 0, false, 0x3F, 0⟩
  | .ctxCtrl => ⟨2, 0x600100, 0x10000, 0x40, 0x40, 4, 1, .own, 7, 0, false, 0, 0⟩
  | .ctxStatus => ⟨2, 0x600104, 0x10000, 0x40, 0x40, 4, 1, .own, 0, 0, false, 0, 0⟩
  | .ctxImageLo => ⟨2, 0x600108, 0x10000, 0x40, 0x40, 4, 1, .own, 0xFFFFFFFF, 0, true, 0, 0⟩
  | .ctxImageHi => ⟨2, 0x60010C, 0x10000, 0x40, 0x40, 4, 1, .own, 0xFFFF, 0, true, 0, 0⟩
  | .ctxCommit => ⟨2, 0x600110, 0x10000, 0x40, 0x40, 4, 1, .own, 1, 0, false, 0, 0⟩
  | .arithMode => ⟨2, 0x600114, 0x10000, 0x40, 0x40, 4, 1, .own, 7, 7, false, 0, 2⟩
  | .srSeed => ⟨2, 0x600118, 0x10000, 0x40, 0x40, 4, 1, .own, 0xFFFFFFFF, 0xFFFFFFFF, false, 0, 0⟩
  | .clusterOwner => ⟨2, 0xA00000, 0x10000, 0x12, 0, 1, 1, .own, 0x1F, 0x1F, false, 0, 0⟩
  | .lmap => ⟨2, 0xC00000, 4, 0x40, 0, 1, 1, .own, 0, 0, false, 0, 0⟩
  | .cueValue => ⟨2, 0xE00000, 4, 0x1000, 0, 1, 1, .own, 0xFFFFFF, 0, false, 0, 0⟩
  | .cueOwner => ⟨2, 0xE10000, 4, 0x1000, 0, 1, 1, .own, 0x1F, 0, false, 0, 0⟩
  | .cueStats => ⟨2, 0xE20000, 0, 1, 0, 1, 1, .own, 0, 0, false, 0, 0⟩
  | .segMap => ⟨3, 0, 4, 0x800, 0, 1, 1, .copy, 0x3F7FFF, 0x3F3FFF, false, 0, 0⟩
  | .wayMap => ⟨3, 0x10000, 4, 0x10, 0, 1, 1, .own, 0x3FF, 0xFF, false, 0, 0⟩
  | .partCfg => ⟨3, 0x10100, 4, 0x40, 0, 1, 1, .copy, 0x3F, 0xF, false, 0, 0x20⟩
  | .funcBuf => ⟨3, 0x10400, 4, 0x10, 0, 1, 1, .own, 3, 0, false, 0, 1⟩
  | .funcDeadCount => ⟨3, 0x10800, 4, 0x10, 0, 1, 1, .own, 0, 0, false, 0, 0⟩
  | .maintAddrLo => ⟨3, 0x20000, 0x40, 0x10, 0, 1, 1, .own, 0xFFFFFFFF, 0, true, 0, 0⟩
  | .maintAddrHi => ⟨3, 0x20004, 0x40, 0x10, 0, 1, 1, .own, 0xFFFF, 0, true, 0, 0⟩
  | .maintLenLo => ⟨3, 0x20008, 0x40, 0x10, 0, 1, 1, .own, 0xFFFFFFFF, 0, true, 0, 0⟩
  | .maintLenHi => ⟨3, 0x2000C, 0x40, 0x10, 0, 1, 1, .own, 0xFFFF, 0, true, 0, 0⟩
  | .maintCtl => ⟨3, 0x20010, 0x40, 0x10, 0, 1, 1, .own, 0xFFFF007F, 0, true, 0, 0⟩
  | .maintRecLo => ⟨3, 0x20014, 0x40, 0x10, 0, 1, 1, .own, 0xFFFFFFFF, 0, true, 0, 0⟩
  | .maintRecHi => ⟨3, 0x20018, 0x40, 0x10, 0, 1, 1, .own, 0xFFFF, 0, true, 0, 0⟩
  | .maintCue => ⟨3, 0x2001C, 0x40, 0x10, 0, 1, 1, .own, 0xFFFFFFFF, 0, true, 0, 0⟩
  | .maintCommit => ⟨3, 0x20020, 0x40, 0x10, 0, 1, 1, .own, 1, 0, false, 0, 0⟩
  | .maintStatus => ⟨3, 0x20024, 0x40, 0x10, 0, 1, 1, .own, 0, 0, false, 0, 0⟩
  | .hits => ⟨3, 0x100000, 0x100, 0x80, 0, 1, 1, .own, 0, 0, false, 0, 0⟩
  | .misses => ⟨3, 0x100004, 0x100, 0x80, 0, 1, 1, .own, 0, 0, false, 0, 0⟩
  | .evictions => ⟨3, 0x100008, 0x100, 0x80, 0, 1, 1, .own, 0, 0, false, 0, 0⟩
  | .packs => ⟨3, 0x10000C, 0x100, 0x80, 0, 1, 1, .own, 0, 0, false, 0, 0⟩
  | .deadRereads => ⟨3, 0x100010, 0x100, 0x80, 0, 1, 1, .own, 0, 0, false, 0, 0⟩
  | .ebufStalls => ⟨3, 0x100014, 0x100, 0x80, 0, 1, 1, .own, 0, 0, false, 0, 0⟩
  | .cohCfg => ⟨4, 0, 0, 1, 0, 1, 1, .own, 0x1FFFF, 0, false, 0, 0x13220⟩
  | .groupCfg => ⟨4, 4, 0, 1, 0, 1, 1, .copy, 0x81FFFFFF, 0x1FFFFFF, false, 0, 0⟩
  | .staleDiscards => ⟨4, 0x10, 0, 1, 0, 1, 1, .own, 0, 0, false, 0, 0⟩
  | .badMsg => ⟨4, 0x14, 0, 1, 0, 1, 1, .own, 0, 0, false, 0, 0⟩
  | .leaseLosses => ⟨4, 0x18, 0, 1, 0, 1, 1, .own, 0, 0, false, 0, 0⟩
  | .member => ⟨4, 0x10000, 4, 0x1000, 0, 1, 1, .copy, 0x1FFFF, 0x1FFFF, false, 0, 0⟩
  | .segExport => ⟨4, 0x20000, 4, 0x800, 0, 1, 1, .copy, 3, 3, false, 0, 0⟩
  | .partCoh => ⟨4, 0x24000, 4, 0x40, 0, 1, 1, .own, 1, 0, false, 0, 1⟩
  | .slateStatus => ⟨4, 0x30000, 0x40, 0x10, 0, 1, 1, .own, 0, 0, false, 0, 0⟩
  | .slateHeld => ⟨4, 0x30004, 0x40, 0x10, 0, 1, 1, .own, 0, 0, false, 0, 0⟩
  | .slatePreserved => ⟨4, 0x30008, 0x40, 0x10, 0, 1, 1, .own, 0, 0, false, 0, 0⟩
  | .dirUsed => ⟨4, 0x40000, 0x100, 0x80, 0, 1, 1, .own, 0, 0, false, 0, 0⟩
  | .dirEvictions => ⟨4, 0x40004, 0x100, 0x80, 0, 1, 1, .own, 0, 0, false, 0, 0⟩
  | .coarseEntries => ⟨4, 0x40008, 0x100, 0x80, 0, 1, 1, .own, 0, 0, false, 0, 0⟩
  | .leaseExpiries => ⟨4, 0x4000C, 0x100, 0x80, 0, 1, 1, .own, 0, 0, false, 0, 0⟩
  | .rpCollects => ⟨4, 0x40010, 0x100, 0x80, 0, 1, 1, .own, 0, 0, false, 0, 0⟩
  | .dirRecovery => ⟨4, 0x40014, 0x100, 0x80, 0, 1, 1, .own, 0, 0, false, 0, 0⟩
  | .peekSel => ⟨4, 0x50000, 0, 1, 0, 1, 1, .own, 0x1FFFFF, 0, true, 0, 0⟩
  | .peekCommit => ⟨4, 0x50004, 0, 1, 0, 1, 1, .own, 1, 0, false, 0, 0⟩
  | .peekData => ⟨4, 0x50008, 0, 1, 0, 1, 5, .own, 0, 0, false, 0, 0⟩
  | .stackStatus => ⟨5, 0, 0x100, 8, 0, 1, 1, .own, 0, 0, false, 0, 0⟩
  | .stackTemp => ⟨5, 4, 0x100, 8, 0, 1, 1, .own, 0, 0, false, 0, 0⟩
  | .stackInfo => ⟨5, 8, 0x100, 8, 0, 1, 1, .own, 0, 0, false, 0, 0⟩
  | .memCfg => ⟨5, 0x1000, 0, 1, 0, 1, 1, .own, 0xFFFFF, 0, false, 0, 0x40A18⟩
  | .chStatus => ⟨5, 0x100000, 0x1000, 0x200, 0, 1, 1, .own, 0, 0, false, 0, 0⟩
  | .chCe => ⟨5, 0x100004, 0x1000, 0x200, 0, 1, 1, .own, 0, 0, false, 0, 0⟩
  | .chUe => ⟨5, 0x100008, 0x1000, 0x200, 0, 1, 1, .own, 0, 0, false, 0, 0⟩
  | .chRfm => ⟨5, 0x10000C, 0x1000, 0x200, 0, 1, 1, .own, 0, 0, false, 0, 0⟩
  | .laneMap => ⟨5, 0x100010, 0x1000, 0x200, 0, 1, 1, .own, 0, 0, false, 0, 0⟩
  | .tgCtl => ⟨5, 0x100100, 0x1000, 0x200, 0, 1, 1, .own, 0xFF07FF, 0xFF07FF, false, 0, 0x100000⟩
  | .tgFirst => ⟨5, 0x100104, 0x1000, 0x200, 0, 1, 1, .own, 0x3FFFFFF, 0x3FFFFFF, false, 0, 0⟩
  | .tgLast => ⟨5, 0x100108, 0x1000, 0x200, 0, 1, 1, .own, 0x3FFFFFF, 0x3FFFFFF, false, 0, 0x3FFFFFF⟩
  | .tgSeed => ⟨5, 0x10010C, 0x1000, 0x200, 0, 1, 1, .own, 0xFFFFFFFF, 0xFFFFFFFF, false, 0, 1⟩
  | .tgPasses => ⟨5, 0x100110, 0x1000, 0x200, 0, 1, 1, .own, 0xFFFF, 0xFFFF, false, 0, 1⟩
  | .tgGo => ⟨5, 0x100114, 0x1000, 0x200, 0, 1, 1, .own, 3, 0, false, 0, 0⟩
  | .tgStatus => ⟨5, 0x100118, 0x1000, 0x200, 0, 1, 1, .own, 0, 0, false, 0, 0⟩
  | .tgErrCount => ⟨5, 0x10011C, 0x1000, 0x200, 0, 1, 1, .own, 0, 0, false, 0, 0⟩
  | .tgErrAddr => ⟨5, 0x100120, 0x1000, 0x200, 0, 1, 1, .own, 0, 0, false, 0, 0⟩
  | .tgLaneLo => ⟨5, 0x100124, 0x1000, 0x200, 0, 1, 1, .own, 0, 0, false, 0, 0⟩
  | .tgLaneHi => ⟨5, 0x100128, 0x1000, 0x200, 0, 1, 1, .own, 0, 0, false, 0, 0⟩
  | .spareRetired => ⟨5, 0x100200, 0x1000, 0x200, 0, 1, 32, .own, 0, 0, false, 0, 0⟩
  | .redirect => ⟨5, 0x400000, 0x1000, 0x200, 0, 1, 1024, .own, 0, 0, false, 0, 0⟩
  | .dqOwner => ⟨6, 0, 0x40, 0x100, 0, 1, 1, .own, 0x1F, 0x1F, false, 0, 0⟩
  | .dqCtl => ⟨6, 4, 0x40, 0x100, 0, 1, 1, .own, 0x7F0F0F, 0x7F0F00, false, 0, 0⟩
  | .dqStatus => ⟨6, 8, 0x40, 0x100, 0, 1, 1, .own, 0, 0, false, 0, 0⟩
  | .dqTail => ⟨6, 0xC, 0x40, 0x100, 0, 1, 1, .own, 0xFFFFFFFF, 0, false, 0, 0⟩
  | .dqRingLo => ⟨6, 0x10, 0x40, 0x100, 0, 1, 1, .own, 0xFFFFFFFF, 0, true, 0, 0⟩
  | .dqRingHi => ⟨6, 0x14, 0x40, 0x100, 0, 1, 1, .own, 0x1FFFFF, 0, true, 0, 0x40000⟩
  | .dqRecLo => ⟨6, 0x18, 0x40, 0x100, 0, 1, 1, .own, 0xFFFFFFFF, 0, true, 0, 0⟩
  | .dqRecHi => ⟨6, 0x1C, 0x40, 0x100, 0, 1, 1, .own, 0x1FFFFF, 0, true, 0, 0⟩
  | .dqCommit => ⟨6, 0x20, 0x40, 0x100, 0, 1, 1, .own, 1, 0, false, 0, 0⟩
  | .dqRecHead => ⟨6, 0x24, 0x40, 0x100, 0, 1, 1, .own, 0xFFFFFFFF, 0, false, 0, 0⟩
  | .dqErr => ⟨6, 0x28, 0x40, 0x100, 0, 1, 1, .own, 0, 0, false, 0, 0⟩
  | .dqHead => ⟨6, 0x2C, 0x40, 0x100, 0, 1, 1, .own, 0, 0, false, 0, 0⟩
  | .dqRecTail => ⟨6, 0x30, 0x40, 0x100, 0, 1, 1, .own, 0, 0, false, 0, 0⟩
  | .engStatus => ⟨6, 0x10000, 0x40, 0x10, 0, 1, 1, .own, 0, 0, false, 0, 0⟩
  | .engRd => ⟨6, 0x10004, 0x40, 0x10, 0, 1, 1, .own, 0, 0, false, 0, 0⟩
  | .engWr => ⟨6, 0x10008, 0x40, 0x10, 0, 1, 1, .own, 0, 0, false, 0, 0⟩
  | .cueRemote => ⟨6, 0x20000, 0, 1, 0, 1, 128, .own, 0xFFFFFFFF, 0, false, 0, 0⟩
  | .reelId => ⟨6, 0x30000, 0x40, 0x40, 0, 1, 1, .own, 0x8F00FFFF, 0xF00FFFF, false, 0, 0⟩
  | .reelNext => ⟨6, 0x30004, 0x40, 0x40, 0, 1, 1, .own, 0xFFFF, 0, true, 0, 0⟩
  | .reelPrev => ⟨6, 0x30008, 0x40, 0x40, 0, 1, 1, .own, 0xFFFF, 0, true, 0, 0⟩
  | .reelBaseLo => ⟨6, 0x3000C, 0x40, 0x40, 0, 1, 1, .own, 0xFFFFFFFF, 0, true, 0, 0⟩
  | .reelBaseHi => ⟨6, 0x30010, 0x40, 0x40, 0, 1, 1, .own, 0x1F0FFFFF, 0, true, 0, 0xB020000⟩
  | .reelCues => ⟨6, 0x30014, 0x40, 0x40, 0, 1, 1, .own, 0x1FFF1FFF, 0, true, 0, 0⟩
  | .reelCommit => ⟨6, 0x30018, 0x40, 0x40, 0, 1, 1, .own, 1, 0, false, 0, 0⟩
  | .reelStatus => ⟨6, 0x3001C, 0x40, 0x40, 0, 1, 1, .own, 0, 0, false, 0, 0⟩
  | .rsigRefused => ⟨6, 0x40000, 0, 1, 0, 1, 1, .own, 0, 0, false, 0, 0⟩
  | .regOwner => ⟨7, 0, 0x40, 0x80, 0, 1, 1, .own, 0x1F, 0, false, 0, 0⟩
  | .regCfg => ⟨7, 4, 0x40, 0x80, 0, 1, 1, .own, 0x3F3F, 0, true, 0, 0⟩
  | .regWindow => ⟨7, 8, 0x40, 0x80, 0, 1, 1, .own, 0x3FF, 0, true, 0, 0x64⟩
  | .regGuar => ⟨7, 0xC, 0x40, 0x80, 0, 1, 1, .own, 0xFFFFFFFF, 0, true, 0, 0⟩
  | .regLat => ⟨7, 0x10, 0x40, 0x80, 0, 1, 1, .own, 0xFF03FF, 0, true, 0, 0x20000⟩
  | .regCommit => ⟨7, 0x14, 0x40, 0x80, 0, 1, 1, .own, 1, 0, false, 0, 0⟩
  | .regCap => ⟨7, 0x18, 0x40, 0x80, 0, 1, 1, .own, 0xFFFFFFFF, 0, false, 0, 0⟩
  | .regStatus => ⟨7, 0x1C, 0x40, 0x80, 0, 1, 1, .own, 0, 0, false, 0, 0⟩
  | .regDeliv => ⟨7, 0x20, 0x40, 0x80, 0, 1, 1, .own, 0, 0, false, 0, 0⟩
  | .regMiss => ⟨7, 0x24, 0x40, 0x80, 0, 1, 1, .own, 0, 0, false, 1, 0⟩
  | .regCue => ⟨7, 0x28, 0x40, 0x80, 0, 1, 1, .own, 0x80001FFF, 0, false, 0, 0⟩
  | .arrReg0 => ⟨7, 0x10000, 8, 0x40, 0, 1, 1, .own, 0xFFFFFFFF, 0, false, 0, 0⟩
  | .arrReg1 => ⟨7, 0x10004, 8, 0x40, 0, 1, 1, .own, 0xFFFF, 0, false, 0, 0⟩
  | .guestReg => ⟨7, 0x11000, 4, 2, 0, 1, 1, .own, 0xFF, 0, false, 0, 0⟩
  | .hostReg => ⟨7, 0x12000, 4, 0x10, 0, 1, 1, .none, 0xFF, 0, false, 0, 0⟩
  | .remoteReg => ⟨7, 0x13000, 4, 0x10, 0, 1, 1, .own, 0xFF, 0, false, 0, 0⟩
  | .admitCfg => ⟨7, 0x20000, 0, 1, 0, 1, 1, .none, 0x7F7F, 0, false, 0, 0x3255⟩
  | .stackLoad => ⟨7, 0x20100, 4, 8, 0, 1, 1, .own, 0, 0, false, 0, 0⟩
  | .zoramLoad => ⟨7, 0x20200, 0, 1, 0, 1, 1, .own, 0, 0, false, 0, 0⟩
  | .portCtl => ⟨8, 0, 0x100, 8, 0, 1, 1, .own, 0xFF3, 0, false, 0, 0x12⟩
  | .portStatus => ⟨8, 4, 0x100, 8, 0, 1, 1, .own, 0, 0, false, 0, 0⟩
  | .portPeer => ⟨8, 8, 0x100, 8, 0, 1, 1, .own, 0, 0, false, 0, 0⟩
  | .crcErr => ⟨8, 0xC, 0x100, 8, 0, 1, 1, .own, 0, 0, false, 0, 0⟩
  | .replays => ⟨8, 0x10, 0x100, 8, 0, 1, 1, .own, 0, 0, false, 0, 0⟩
  | .retrains => ⟨8, 0x14, 0x100, 8, 0, 1, 1, .own, 0, 0, false, 0, 0⟩
  | .portDrops => ⟨8, 0x18, 0x100, 8, 0, 1, 1, .own, 0, 0, false, 0, 0⟩
  | .vcWeight => ⟨8, 0x1C, 0x100, 8, 0, 1, 1, .own, 0xFFFFFF, 0, false, 0, 0x144422⟩
  | .vcBuf => ⟨8, 0x20, 0x100, 8, 0, 1, 7, .own, 0xFFFFFFFF, 0, true, 0, 0⟩
  | .vcBufCommit => ⟨8, 0x3C, 0x100, 8, 0, 1, 1, .own, 1, 0, false, 0, 0⟩
  | .linkCfg => ⟨8, 0x10000, 0, 1, 0, 1, 1, .copy, 0xFF, 0, false, 0, 0x14⟩
  | .aged => ⟨8, 0x10004, 0, 1, 0, 1, 1, .none, 0, 0, false, 0, 0⟩
  | .noRoute => ⟨8, 0x10008, 0, 1, 0, 1, 1, .none, 0, 0, false, 0, 0⟩
  | .badPkt => ⟨8, 0x1000C, 0, 1, 0, 1, 1, .none, 0, 0, false, 0, 0⟩
  | .collStale => ⟨8, 0x10010, 0, 1, 0, 1, 1, .none, 0, 0, false, 0, 0⟩
  | .routeEntry => ⟨8, 0x100000, 4, 0x10000, 0, 1, 1, .copy, 0x7FF, 0, false, 0, 0⟩
  | .mgroup => ⟨8, 0x200000, 4, 0x1000, 0, 1, 1, .copy, 0x3FFFF, 0, false, 0, 0⟩
  | .collId => ⟨8, 0x300000, 0x40, 0x80, 0, 1, 1, .own, 0x8F00FFFF, 0xF00FFFF, false, 0, 0⟩
  | .collTree => ⟨8, 0x300004, 0x40, 0x80, 0, 1, 1, .own, 0xFFFFFFFF, 0, true, 0, 0⟩
  | .collChild => ⟨8, 0x300008, 0x40, 0x80, 0, 1, 4, .own, 0xFFFFFFFF, 0, true, 0, 0⟩
  | .collCfg => ⟨8, 0x300018, 0x40, 0x80, 0, 1, 1, .own, 0xFFFF07FF, 0, true, 0, 0xC80440⟩
  | .collCues => ⟨8, 0x30001C, 0x40, 0x80, 0, 1, 1, .own, 0x1FFF1FFF, 0, true, 0, 0⟩
  | .redSrcLo => ⟨8, 0x300020, 0x40, 0x80, 0, 1, 1, .own, 0xFFFFFFFF, 0, true, 0, 0⟩
  | .redSrcHi => ⟨8, 0x300024, 0x40, 0x80, 0, 1, 1, .own, 0x9FFFFFFF, 0, true, 0, 0⟩
  | .redDstLo => ⟨8, 0x300028, 0x40, 0x80, 0, 1, 1, .own, 0xFFFFFFFF, 0, true, 0, 0⟩
  | .redDstHi => ⟨8, 0x30002C, 0x40, 0x80, 0, 1, 1, .own, 0xFFFF, 0, true, 0, 0⟩
  | .collCommit => ⟨8, 0x300030, 0x40, 0x80, 0, 1, 1, .own, 1, 0, false, 0, 0⟩
  | .collStatus => ⟨8, 0x300034, 0x40, 0x80, 0, 1, 1, .own, 0, 0, false, 0, 0⟩
  | .collExcl => ⟨8, 0x300038, 0x40, 0x80, 0, 1, 1, .own, 0, 0, false, 0, 0⟩
  | .collTiming => ⟨8, 0x30003C, 0x40, 0x80, 0, 1, 1, .own, 0, 0, false, 0, 0⟩
  | .zbStatus => ⟨9, 0, 0x100, 0x10, 0, 1, 1, .own, 0, 0, false, 0, 0⟩
  | .zbErr => ⟨9, 4, 0x100, 0x10, 0, 1, 1, .own, 0, 0, false, 0, 0⟩
  | .zbBad => ⟨9, 0x10, 0x100, 0x10, 0, 1, 17, .own, 0, 0, false, 0, 0⟩
  | .zoramStatus => ⟨9, 0x10000, 0, 1, 0, 1, 1, .own, 0, 0, false, 0, 0⟩
  | .zaged => ⟨9, 0x10004, 0, 1, 0, 1, 1, .own, 0, 0, false, 0, 0⟩
  | .zbadMsg => ⟨9, 0x10008, 0, 1, 0, 1, 1, .own, 0, 0, false, 0, 0⟩
  | .sbStatus => ⟨9, 0x20000, 0x40, 2, 0, 1, 1, .own, 0, 0, false, 0, 0⟩
  | .eyeCtl => ⟨9, 0x20004, 0x40, 2, 0, 1, 1, .own, 0x801F7F7F, 0x1F7F7F, false, 0, 0x140000⟩
  | .eyeResult => ⟨9, 0x20008, 0x40, 2, 0, 1, 1, .own, 0, 0, false, 0, 0⟩
  | .gsCtl => ⟨9, 0x30000, 0x1000, 2, 0, 1, 1, .own, 0xFF07FF, 0x7FE, false, 0, 0x640120⟩
  | .gsStatus => ⟨9, 0x30004, 0x1000, 2, 0, 1, 1, .own, 0, 0, false, 0, 0⟩
  | .gsPeer => ⟨9, 0x30008, 0x1000, 2, 0, 1, 1, .own, 0, 0, false, 0, 0⟩
  | .gsViolations => ⟨9, 0x3000C, 0x1000, 2, 0, 1, 1, .own, 0, 0, false, 0, 0⟩
  | .gsSbStatus => ⟨9, 0x30040, 0x1000, 2, 0, 1, 1, .own, 0, 0, false, 0, 0⟩
  | .gsEyeCtl => ⟨9, 0x30044, 0x1000, 2, 0, 1, 1, .own, 0x801F7F7F, 0x1F7F7F, false, 0, 0x140000⟩
  | .gsEyeResult => ⟨9, 0x30048, 0x1000, 2, 0, 1, 1, .own, 0, 0, false, 0, 0⟩
  | .gzbStatus => ⟨9, 0x30100, 0x1000, 2, 0x100, 4, 1, .own, 0, 0, false, 0, 0⟩
  | .gzbErr => ⟨9, 0x30104, 0x1000, 2, 0x100, 4, 1, .own, 0, 0, false, 0, 0⟩
  | .gzbBad => ⟨9, 0x30110, 0x1000, 2, 0x100, 4, 17, .own, 0, 0, false, 0, 0⟩
  | .hpStatus => ⟨0xA, 0, 0, 1, 0, 1, 1, .zero, 0, 0, false, 0, 0⟩
  | .hpCfg => ⟨0xA, 4, 0, 1, 0, 1, 1, .zero, 0xFFFF3FFF, 0, false, 0, 0xA3C2908⟩
  | .macLo => ⟨0xA, 0x10, 0, 1, 0, 1, 1, .zero, 0xFFFFFFFF, 0, true, 0, 0⟩
  | .macHi => ⟨0xA, 0x14, 0, 1, 0, 1, 1, .zero, 0xFFFF, 0, true, 0, 0⟩
  | .ipv4Addr => ⟨0xA, 0x18, 0, 1, 0, 1, 1, .zero, 0xFFFFFFFF, 0, true, 0, 0⟩
  | .hpNet => ⟨0xA, 0x1C, 0, 1, 0, 1, 1, .zero, 0x7FFFFFF, 0, true, 0, 0⟩
  | .ipv6 => ⟨0xA, 0x20, 0, 1, 0, 1, 4, .zero, 0xFFFFFFFF, 0, true, 0, 0⟩
  | .netCommit => ⟨0xA, 0x30, 0, 1, 0, 1, 1, .zero, 1, 0, false, 0, 0⟩
  | .fcsErr => ⟨0xA, 0x100, 0, 1, 0, 1, 1, .zero, 0, 0, false, 0, 0⟩
  | .rxDiscards => ⟨0xA, 0x104, 0, 1, 0, 1, 1, .zero, 0, 0, false, 0, 0⟩
  | .icrcErr => ⟨0xA, 0x108, 0, 1, 0, 1, 1, .zero, 0, 0, false, 0, 0⟩
  | .ctRefused => ⟨0xA, 0x10C, 0, 1, 0, 1, 1, .zero, 0, 0, false, 0, 0⟩
  | .fecCorr => ⟨0xA, 0x110, 0, 1, 0, 1, 1, .zero, 0, 0, false, 0, 0⟩
  | .fecUncorr => ⟨0xA, 0x114, 0, 1, 0, 1, 1, .zero, 0, 0, false, 0, 0⟩
  | .qpOwner => ⟨0xA, 0x10000, 0x40, 0x1000, 0, 1, 1, .zero, 0x1F, 0x1F, false, 0, 0⟩
  | .qpState => ⟨0xA, 0x10004, 0x40, 0x1000, 0, 1, 1, .zero, 7, 0, false, 0, 0⟩
  | .qpDest => ⟨0xA, 0x10008, 0x40, 0x1000, 0, 1, 1, .zero, 0xFFFFFF, 0xFFFFFF, false, 0, 0⟩
  | .qpMacLo => ⟨0xA, 0x1000C, 0x40, 0x1000, 0, 1, 1, .zero, 0xFFFFFFFF, 0xFFFFFFFF, false, 0, 0⟩
  | .qpMacHi => ⟨0xA, 0x10010, 0x40, 0x1000, 0, 1, 1, .zero, 0xFFFF, 0xFFFF, false, 0, 0⟩
  | .qpIp => ⟨0xA, 0x10014, 0x40, 0x1000, 0, 1, 4, .zero, 0xFFFFFFFF, 0xFFFFFFFF, false, 0, 0⟩
  | .qpPath => ⟨0xA, 0x10024, 0x40, 0x1000, 0, 1, 1, .zero, 0x3FFF, 0x3FFF, false, 0, 0x1DFD⟩
  | .qpQos => ⟨0xA, 0x10028, 0x40, 0x1000, 0, 1, 1, .zero, 0x1FFFFFF, 0, false, 0, 0xDAC000⟩
  | .qpSqPsn => ⟨0xA, 0x1002C, 0x40, 0x1000, 0, 1, 1, .zero, 0xFFFFFF, 0xFFFFFF, false, 0, 0⟩
  | .qpRqPsn => ⟨0xA, 0x10030, 0x40, 0x1000, 0, 1, 1, .zero, 0xFFFFFF, 0xFFFFFF, false, 0, 0⟩
  | .mkCtl => ⟨0xA, 0x80000, 0x20, 0x400, 0, 1, 1, .zero, 0x3FFF00FF, 0x3FFF00EF, false, 0, 0⟩
  | .mkBaseLo => ⟨0xA, 0x80004, 0x20, 0x400, 0, 1, 1, .zero, 0xFFFFFFFF, 0xFFFFFFFF, false, 0, 0⟩
  | .mkBaseHi => ⟨0xA, 0x80008, 0x20, 0x400, 0, 1, 1, .zero, 0xFFFF, 0xFFFF, false, 0, 0⟩
  | .mkLenLo => ⟨0xA, 0x8000C, 0x20, 0x400, 0, 1, 1, .zero, 0xFFFFFFFF, 0xFFFFFFFF, false, 0, 0⟩
  | .mkLenHi => ⟨0xA, 0x80010, 0x20, 0x400, 0, 1, 1, .zero, 0xFFFF, 0xFFFF, false, 0, 0⟩
  | .sesStatus => ⟨0xA, 0xC0000, 0x40, 0x40, 0, 1, 1, .zero, 0x80, 0, false, 0, 0x80⟩
  | .sesCmdDb => ⟨0xA, 0xC0004, 0x40, 0x40, 0, 1, 1, .zero, 0xFFFFFFFF, 0, false, 0, 0⟩
  | .sesCplHead => ⟨0xA, 0xC0008, 0x40, 0x40, 0, 1, 1, .zero, 0xFFFFFFFF, 0, false, 0, 0⟩
  | .sesCue => ⟨0xA, 0xC000C, 0x40, 0x40, 0, 1, 1, .zero, 0xFFFFFFFF, 0, false, 0, 0⟩
  | .sesRetx => ⟨0xA, 0xC0010, 0x40, 0x40, 0, 1, 1, .zero, 0, 0, false, 0, 0⟩
  | .domCtl => ⟨0xB, 0, 0x10, 0x23, 0, 1, 1, .own, 0xFFFF, 0, false, 0, 0x3E84⟩
  | .domStatus => ⟨0xB, 4, 0x10, 0x23, 0, 1, 1, .own, 0, 0, false, 0, 0⟩
  | .domTelem => ⟨0xB, 8, 0x10, 0x23, 0, 1, 1, .own, 0, 0, false, 0, 0⟩
  | .gafferCfg => ⟨0xB, 0x1000, 0, 1, 0, 1, 1, .none, 0x1FFF, 0, true, 0, 0xE10⟩
  | .gafferStatus => ⟨0xB, 0x1004, 0, 1, 0, 1, 1, .own, 0, 0, false, 0, 0⟩
  | .gafferGrant => ⟨0xB, 0x1008, 0, 1, 0, 1, 1, .own, 0, 0, false, 0, 0⟩
  | .pkgCommit => ⟨0xB, 0x100C, 0, 1, 0, 1, 1, .none, 1, 0, false, 0, 0⟩
  | .dieTemp => ⟨0xB, 0x2000, 4, 0x16, 0, 1, 1, .own, 0, 0, false, 0, 0⟩
  | .thermCfg => ⟨0xB, 0x2100, 0, 1, 0, 1, 1, .own, 0xFF, 0, false, 0, 0x69⟩
  | .clkStatus => ⟨0xB, 0x3000, 0, 1, 0, 1, 1, .own, 0, 0, false, 0, 0⟩
  | .timeLo => ⟨0xB, 0x4000, 0, 1, 0, 1, 1, .own, 0, 0, false, 0, 0⟩
  | .timeHi => ⟨0xB, 0x4004, 0, 1, 0, 1, 1, .own, 0, 0, false, 0, 0⟩
  | .resetInfo => ⟨0xB, 0x5000, 0, 1, 0, 1, 1, .own, 0, 0, false, 0, 0⟩
  | .dringLo => ⟨0xC, 0, 0, 1, 0, 1, 1, .own, 0xFFFFFFFF, 0, true, 0, 0⟩
  | .dringHi => ⟨0xC, 4, 0, 1, 0, 1, 1, .own, 0x1FFFFF, 0, true, 0, 0xE0000⟩
  | .dringCommit => ⟨0xC, 8, 0, 1, 0, 1, 1, .own, 1, 0, false, 0, 0⟩
  | .dailiesCtl => ⟨0xC, 0xC, 0, 1, 0, 1, 1, .own, 0x1FFFF, 0, false, 0, 0x64⟩
  | .dailiesStatus => ⟨0xC, 0x10, 0, 1, 0, 1, 1, .own, 0, 0, false, 0, 0⟩
  | .ceTotal => ⟨0xC, 0x20, 0, 1, 0, 1, 1, .own, 0, 0, false, 0, 0⟩
  | .ucfTotal => ⟨0xC, 0x24, 0, 1, 0, 1, 1, .own, 0, 0, false, 0, 0⟩
  | .ucdTotal => ⟨0xC, 0x28, 0, 1, 0, 1, 1, .own, 0, 0, false, 0, 0⟩
  | .overwritten => ⟨0xC, 0x2C, 0, 1, 0, 1, 1, .own, 0, 0, false, 0, 0⟩
  | .droppedTotal => ⟨0xC, 0x30, 0, 1, 0, 1, 1, .own, 0, 0, false, 0, 0⟩
  | .xbarCe => ⟨0xC, 0x34, 0, 1, 0, 1, 1, .own, 0, 0, false, 0, 0⟩
  | .stackCmdPar => ⟨0xC, 0x38, 0, 1, 0, 1, 1, .own, 0, 0, false, 0, 0⟩
  | .degraded => ⟨0xC, 0x40, 0, 1, 0, 1, 1, .own, 0, 0, false, 0, 0⟩
  | .funcErr => ⟨0xC, 0x100, 4, 0x10, 0, 1, 1, .own, 0, 0, false, 0, 0⟩
  | .sampleMask => ⟨0xC, 0x200, 0, 1, 0, 1, 1, .own, 0x1F, 0, false, 0, 3⟩
  | .cellConflict => ⟨0xC, 0x400000, 0x400, 0x48, 0, 1, 256, .own, 0, 0, false, 0, 0⟩

/-- The number of a field name. -/
def regNum (r : Reg) : Nat := r.ctorIdx

/-- The fields of block class 0. -/
def regsOfClass0 : List Reg :=
  [.dieLotLo, .dieLotHi, .diePos, .partInfo, .devId, .refusal, .stackMask, .pkgSerial, .stackSerialLo,
   .stackSerialHi, .fwInfo, .fwState, .settingsSeq, .settingsState, .storeCount]

/-- The fields of block class 1. -/
def regsOfClass1 : List Reg :=
  [.fnState, .fnClustersH0, .fnClustersH1, .fnMem, .fnCounts, .fnCounts2, .mpStatus]

/-- The fields of block class 2. -/
def regsOfClass2 : List Reg :=
  [.arrayStatus, .cellStatus, .ctxCtrl, .ctxStatus, .ctxImageLo, .ctxImageHi, .ctxCommit, .arithMode,
   .srSeed, .clusterOwner, .lmap, .cueValue, .cueOwner, .cueStats]

/-- The fields of block class 3. -/
def regsOfClass3 : List Reg :=
  [.segMap, .wayMap, .partCfg, .funcBuf, .funcDeadCount, .maintAddrLo, .maintAddrHi, .maintLenLo,
   .maintLenHi, .maintCtl, .maintRecLo, .maintRecHi, .maintCue, .maintCommit, .maintStatus, .hits, .misses,
   .evictions, .packs, .deadRereads, .ebufStalls]

/-- The fields of block class 4. -/
def regsOfClass4 : List Reg :=
  [.cohCfg, .groupCfg, .staleDiscards, .badMsg, .leaseLosses, .member, .segExport, .partCoh, .slateStatus,
   .slateHeld, .slatePreserved, .dirUsed, .dirEvictions, .coarseEntries, .leaseExpiries, .rpCollects,
   .dirRecovery, .peekSel, .peekCommit, .peekData]

/-- The fields of block class 5. -/
def regsOfClass5 : List Reg :=
  [.stackStatus, .stackTemp, .stackInfo, .memCfg, .chStatus, .chCe, .chUe, .chRfm, .laneMap, .tgCtl,
   .tgFirst, .tgLast, .tgSeed, .tgPasses, .tgGo, .tgStatus, .tgErrCount, .tgErrAddr, .tgLaneLo, .tgLaneHi,
   .spareRetired, .redirect]

/-- The fields of block class 6. -/
def regsOfClass6 : List Reg :=
  [.dqOwner, .dqCtl, .dqStatus, .dqTail, .dqRingLo, .dqRingHi, .dqRecLo, .dqRecHi, .dqCommit, .dqRecHead,
   .dqErr, .dqHead, .dqRecTail, .engStatus, .engRd, .engWr, .cueRemote, .reelId, .reelNext, .reelPrev,
   .reelBaseLo, .reelBaseHi, .reelCues, .reelCommit, .reelStatus, .rsigRefused]

/-- The fields of block class 7. -/
def regsOfClass7 : List Reg :=
  [.regOwner, .regCfg, .regWindow, .regGuar, .regLat, .regCommit, .regCap, .regStatus, .regDeliv, .regMiss,
   .regCue, .arrReg0, .arrReg1, .guestReg, .hostReg, .remoteReg, .admitCfg, .stackLoad, .zoramLoad]

/-- The fields of block class 8. -/
def regsOfClass8 : List Reg :=
  [.portCtl, .portStatus, .portPeer, .crcErr, .replays, .retrains, .portDrops, .vcWeight, .vcBuf,
   .vcBufCommit, .linkCfg, .aged, .noRoute, .badPkt, .collStale, .routeEntry, .mgroup, .collId, .collTree,
   .collChild, .collCfg, .collCues, .redSrcLo, .redSrcHi, .redDstLo, .redDstHi, .collCommit, .collStatus,
   .collExcl, .collTiming]

/-- The fields of block class 9. -/
def regsOfClass9 : List Reg :=
  [.zbStatus, .zbErr, .zbBad, .zoramStatus, .zaged, .zbadMsg, .sbStatus, .eyeCtl, .eyeResult, .gsCtl,
   .gsStatus, .gsPeer, .gsViolations, .gsSbStatus, .gsEyeCtl, .gsEyeResult, .gzbStatus, .gzbErr, .gzbBad]

/-- The fields of block class 10. -/
def regsOfClass10 : List Reg :=
  [.hpStatus, .hpCfg, .macLo, .macHi, .ipv4Addr, .hpNet, .ipv6, .netCommit, .fcsErr, .rxDiscards, .icrcErr,
   .ctRefused, .fecCorr, .fecUncorr, .qpOwner, .qpState, .qpDest, .qpMacLo, .qpMacHi, .qpIp, .qpPath,
   .qpQos, .qpSqPsn, .qpRqPsn, .mkCtl, .mkBaseLo, .mkBaseHi, .mkLenLo, .mkLenHi, .sesStatus, .sesCmdDb,
   .sesCplHead, .sesCue, .sesRetx]

/-- The fields of block class 11. -/
def regsOfClass11 : List Reg :=
  [.domCtl, .domStatus, .domTelem, .gafferCfg, .gafferStatus, .gafferGrant, .pkgCommit, .dieTemp,
   .thermCfg, .clkStatus, .timeLo, .timeHi, .resetInfo]

/-- The fields of block class 12. -/
def regsOfClass12 : List Reg :=
  [.dringLo, .dringHi, .dringCommit, .dailiesCtl, .dailiesStatus, .ceTotal, .ucfTotal, .ucdTotal,
   .overwritten, .droppedTotal, .xbarCe, .stackCmdPar, .degraded, .funcErr, .sampleMask, .cellConflict]

/-- The fields of a block class (R27). -/
def regsOf : Nat → List Reg
  | 0 => regsOfClass0
  | 1 => regsOfClass1
  | 2 => regsOfClass2
  | 3 => regsOfClass3
  | 4 => regsOfClass4
  | 5 => regsOfClass5
  | 6 => regsOfClass6
  | 7 => regsOfClass7
  | 8 => regsOfClass8
  | 9 => regsOfClass9
  | 10 => regsOfClass10
  | 11 => regsOfClass11
  | 12 => regsOfClass12
  | _ => []

/-- How many fields of this name one half has. -/
def regCount (r : Reg) : Nat := (regRow r).count * (regRow r).scount * (regRow r).words

/-- The key of field `i` of a name (`i` counts over both halves, H0's first). -/
def regKey (r : Reg) (i : Nat) : Nat := i * 256 + regNum r

/-- The default class buffers of a port, by virtual channel: DL 0 in [15:0], DL 1 in [31:16] (R287). -/
def vcBufReset : Nat → Nat
  | 0 => 512
  | 1 => 1024 + 1024 * 65536
  | 2 => 1024 + 1024 * 65536
  | 3 => 2048 + 2048 * 65536
  | 4 => 12288 + 2048 * 65536
  | 5 => 6144 + 1024 * 65536
  | _ => 256 + 256 * 65536

/-- The reset value of a field; NVM fields hold their factory settings until a record is active (R440), and the
package budget depends on the part (R427). -/
def regReset (p : Part) (r : Reg) (i : Nat) : Nat :=
  match r, p with
  | .gafferCfg, .mb1 => 1800
  | .vcBuf, _ => vcBufReset (i % 7)
  | r, _ => (regRow r).reset

/-- The field's value in force: the last written, or for class C the committed set. -/
def RegFile.get (f : RegFile) (p : Part) (r : Reg) (i : Nat) : Nat :=
  (f.val.getD (regKey r i) (BitVec.ofNat 32 (regReset p r i))).toNat

/-- What a read returns (R18): the last value written, pending or committed. -/
def RegFile.seen (f : RegFile) (p : Part) (r : Reg) (i : Nat) : Nat :=
  match f.pend.find? (regKey r i) with
  | some v => v.toNat
  | none => f.get p r i

/-- Set the value in force. -/
def RegFile.put (f : RegFile) (p : Part) (r : Reg) (i : Nat) (v : Nat) : RegFile :=
  { f with val := f.val.setD (regKey r i) (BitVec.ofNat 32 (regReset p r i)) (BitVec.ofNat 32 v) }

/-- Hold a value pending (class C, R13). -/
def RegFile.hold (f : RegFile) (r : Reg) (i : Nat) (v : Nat) : RegFile :=
  { f with pend := f.pend.insert (regKey r i) (BitVec.ofNat 32 v) }

/-- Make the pending values of the listed fields the committed set (R17). -/
def RegFile.commit (f : RegFile) (p : Part) (rs : List (Reg × Nat)) : RegFile :=
  rs.foldl (fun f ri =>
    match f.pend.find? (regKey ri.1 ri.2) with
    | some v => { (f.put p ri.1 ri.2 v.toNat) with pend := f.pend.erase (regKey ri.1 ri.2) }
    | none => f) f

/-- A write is pending in one of the listed fields (R18). -/
def RegFile.isPending (f : RegFile) (rs : List (Reg × Nat)) : Bool :=
  rs.any (fun ri => (f.pend.find? (regKey ri.1 ri.2)).isSome)

/-- Return the listed fields to their reset values, pending values dropped (R9). -/
def RegFile.clear (f : RegFile) (rs : List (Reg × Nat)) : RegFile :=
  rs.foldl (fun f ri =>
    { f with val := f.val.erase (regKey ri.1 ri.2), pend := f.pend.erase (regKey ri.1 ri.2) }) f

/-- The set that a block took at its named event (R17); before the first, the reset values. -/
def RegFile.took (f : RegFile) (p : Part) (r : Reg) (i : Nat) : Nat :=
  (f.taken.getD (regKey r i) (BitVec.ofNat 32 (regReset p r i))).toNat

/-- The block takes the committed values of the listed fields (R17). -/
def RegFile.take (f : RegFile) (p : Part) (rs : List (Reg × Nat)) : RegFile :=
  rs.foldl (fun f ri =>
    let v := BitVec.ofNat 32 (f.get p ri.1 ri.2)
    { f with taken := f.taken.setD (regKey ri.1 ri.2) (BitVec.ofNat 32 (regReset p ri.1 ri.2)) v }) f

/-- The position of an offset [23:0] in a row, if the offset is one of its fields (0 ≤ result < `regCount`). -/
def rowIndex (row : RegRow) (off : Nat) : Option Nat :=
  if off < row.base then none
  else
    let d := off - row.base
    let a := if row.stride = 0 then 0 else min (d / row.stride) (row.count - 1)
    let d1 := d - row.stride * a
    let b := if row.sstride = 0 then 0 else min (d1 / row.sstride) (row.scount - 1)
    let d2 := d1 - row.sstride * b
    if d2 < 4 * row.words && d2 % 4 = 0 then some ((a * row.scount + b) * row.words + d2 / 4) else none

/-- The field of a class at an offset. -/
def regAtIn : List Reg → Nat → Option (Reg × Nat)
  | [], _ => none
  | r :: rest, off =>
    match rowIndex (regRow r) off with
    | some i => some (r, i)
    | none => regAtIn rest off

/-- What a configuration-space offset names (R27). -/
inductive CfgAt where
  /-- a field: its name, its position (counted over both halves), whether through a read-only copy on H1 -/
  | field (r : Reg) (i : Nat) (copy : Bool)
  /-- a context field of a physical view: half, physical array, field, position within the view -/
  | physCtx (h : Half) (p : Nat) (r : Reg) (j : Nat)
  /-- an offset within a listed class that names no field -/
  | reserved
  /-- a field of H1's host port block (R386) -/
  | h1Host
  /-- a class that R27 does not list -/
  | unmapped
  deriving DecidableEq, Repr

/-- The field that an offset of a half names (R27, R108). The logical array views show the physical array that
serves, so their array and cell fields are given by `lphys`. -/
def cfgAt (lphys : Half → Nat → Option Nat) (h : Half) (cls off : Nat) : CfgAt :=
  if 12 < cls then .unmapped
  else if cls = 2 && off < 0x480000 then
    let p := off / 0x10000
    match regAtIn [.arrayStatus, .cellStatus] off with
    | some (r, j) => .field r (h.num * regCount r + j) false
    | none =>
      match regAtIn [.ctxCtrl, .ctxStatus, .ctxImageLo, .ctxImageHi, .ctxCommit, .arithMode, .srSeed]
          (0x600000 + off % 0x10000) with
      | some (r, j) => .physCtx h p r j
      | none => .reserved
  else if cls = 2 && 0x600000 ≤ off && off < 0xA00000 && (off % 0x10000 < 0x100 || 0x1000 ≤ off % 0x10000) then
    match lphys h ((off - 0x600000) / 0x10000) with
    | some p =>
      match regAtIn [.arrayStatus, .cellStatus] (0x10000 * p + off % 0x10000) with
      | some (r, j) => .field r (h.num * regCount r + j) false
      | none => .reserved
    | none => .reserved
  else
    match regAtIn (regsOf cls) off with
    | none => .reserved
    | some (r, j) =>
      match h, (regRow r).h1 with
      | .h0, _ => .field r j false
      | .h1, .own => .field r (regCount r + j) false
      | .h1, .none => .reserved
      | .h1, .copy => .field r j true
      | .h1, .zero => .h1Host

end Sys2Proof.Machine
end

