-- ==== Sys2Proof/Machine/Ops.lean ====
section
/-! DEFINITION. Shared operations of every family: presence of resources, time, free values, output, fields and
counters, Dailies records, ownership and takes. -/

namespace Sys2Proof.Machine

open Sys2Proof

/-! ### Presence and time -/

/-- The part has half `h` (chapter 0). -/
def hasHalf (s : State) (h : Half) : Bool :=
  match h, s.part with
  | .h0, _ => true
  | .h1, .mb2 => true
  | .h1, .mb1 => false

/-- Run a meaning on a resource that the part has; otherwise stop by name. -/
def onPart (there : Bool) (r : Outcome) : Outcome := if there then r else .fault .absentOnPart

/-- Run a meaning on a resource of half `h`. -/
def onHalf (s : State) (h : Half) (r : Outcome) : Outcome := onPart (hasHalf s h) r

/-- The half that homes instance `n` of a resource with `per` instances per half (R20). -/
def halfOf (per n : Nat) : Half := if n < per then .h0 else .h1

/-- The number of halves of the part. -/
def numHalves (s : State) : Nat :=
  match s.part with
  | .mb1 => 1
  | .mb2 => 2

/-- The halves of the part. -/
def halves (s : State) : List Half :=
  match s.part with
  | .mb1 => [.h0]
  | .mb2 => [.h0, .h1]

/-- One tick of the model's clock, 0.1 µs (DESIGN CHOICE, log entry 3). -/
def tick (s : State) : State := { s with clock := s.clock + 1 }

/-- A timer event is delivered when its time has come: the clock stands at `t` or later (log entry 4). -/
def atTime (t : Nat) (s : State) : State := { s with clock := max s.clock t }

/-- Clock units in 1 µs, 1 ms and 1 s. -/
def us (n : Nat) : Nat := 10 * n
/-- Clock units in `n` ms. -/
def ms (n : Nat) : Nat := 10000 * n

/-! ### Power domains, as far as other blocks wake them -/

/-- A power domain by key 35 × half + i. -/
def domAt (s : State) (n : Nat) : DomSt := s.pwr.doms.getD n DomSt.init
/-- Change it. -/
def modDom (n : Nat) (f : DomSt → DomSt) (s : State) : State :=
  let p := s.pwr
  { s with pwr := { p with doms := p.doms.insert n (f (domAt s n)) } }

/-! ### Free values and output -/

/-- A number that the manual leaves open, below `2 ^ w` (log entry 1), and the state with the counter of free
values advanced. -/
def freeNat (w : Nat) (s : State) : Nat × State :=
  (Config.freeNat s.freeCtr % 2 ^ w, { s with freeCtr := s.freeCtr + 1 })

/-- A bit that the manual leaves open. -/
def freeBool (s : State) : Bool × State :=
  (decide (Config.freeNat s.freeCtr % 2 = 1), { s with freeCtr := s.freeCtr + 1 })

/-- Show something to the world. -/
def emit (o : Out) (s : State) : State := { s with out := o :: s.out }

/-! ### Fields and counters -/

/-- The value of a field in force. -/
def rget (s : State) (r : Reg) (i : Nat) : Nat := s.regs.get s.part r i

/-- Bits [hi:lo] of a field in force. -/
def rbits (s : State) (r : Reg) (i hi lo : Nat) : Nat := natBits hi lo (rget s r i)

/-- One bit of a field in force. -/
def rbit (s : State) (r : Reg) (i b : Nat) : Bool := natBit b (rget s r i)

/-- Set a field. -/
def rput (r : Reg) (i v : Nat) (s : State) : State := { s with regs := s.regs.put s.part r i v }

/-- The value of a number with bits [hi:lo] replaced. -/
def setBits (hi lo new old : Nat) : Nat :=
  old - natBits hi lo old * 2 ^ lo + new % 2 ^ (hi + 1 - lo) * 2 ^ lo

/-- Set bits [hi:lo] of a field. -/
def rputBits (r : Reg) (i hi lo v : Nat) (s : State) : State := rput r i (setBits hi lo v (rget s r i)) s

/-- Count `n` in bits [hi:lo] of a counter that saturates. -/
def bumpSat (r : Reg) (i hi lo n : Nat) (s : State) : State :=
  rputBits r i hi lo (satAdd (2 ^ (hi + 1 - lo) - 1) (rbits s r i hi lo) n) s

/-- Count `n` in bits [hi:lo] of a counter that wraps. -/
def bumpWrap (r : Reg) (i hi lo n : Nat) (s : State) : State :=
  rputBits r i hi lo ((rbits s r i hi lo + n) % 2 ^ (hi + 1 - lo)) s

/-! ### Dailies (R454): a block sends a record to its half's collector -/

/-- The collector of a half. -/
def collector (s : State) (h : Half) : CollectorSt :=
  match h with
  | .h0 => s.col0
  | .h1 => s.col1

/-- The state with a half's collector replaced. -/
def setCollector (h : Half) (c : CollectorSt) (s : State) : State :=
  match h with
  | .h0 => { s with col0 := c }
  | .h1 => { s with col1 := c }

/-- Code, source and function: what records fold on (R454, R455). -/
def foldKey (r : DRec) : Nat × Nat × Nat × Option Nat := (r.code, r.cls, r.index, r.func)

/-- Fold a record into a queued one of its kind, if there is one (R454). -/
def foldInto (r : DRec) : List DRec → Option (List DRec)
  | [] => none
  | q :: qs =>
    if foldKey q = foldKey r ∧ q.sev = r.sev then some ({ q with count := q.count + r.count } :: qs)
    else (foldInto r qs).map (q :: ·)

/-- Drop the newest information or CE record of the input queue, if there is one (R454). -/
def dropNewest (q : List DRec) : Option (List DRec) :=
  match q.reverse.findIdx? (fun r => decide (r.sev < 2)) with
  | some k => some (q.reverse.eraseIdx k).reverse
  | none => none

/-- A record reaches the input queue of 512, 64 of them held for UC-F and UC-D records (R454). A UC-F record that
nothing queued matches displaces like a UC-D record (DESIGN CHOICE, log entry 5). -/
def queueRec (r : DRec) (c : CollectorSt) : CollectorSt :=
  if r.sev < 2 then
    if c.inq.length < 448 then { c with inq := c.inq ++ [r] } else { c with dropped := c.dropped + 1 }
  else if c.inq.length < 512 then { c with inq := c.inq ++ [r] }
  else
    match (if r.sev = 2 then foldInto r c.inq else none) with
    | some q => { c with inq := q }
    | none =>
      match dropNewest c.inq with
      | some q => { c with inq := q ++ [r], dropped := c.dropped + 1 }
      | none => { c with inq := c.inq ++ [r] }

/-- Send a record to the collector of its half. -/
def daily (r : DRec) (s : State) : State := setCollector r.half (queueRec r (collector s r.half)) s

/-- A record with a code, severity, function, source index, address and cause; its class is the code's (R458). -/
def event (h : Half) (code sev : Nat) (func : Option Nat) (index addr cause : Nat) (s : State) : State :=
  daily { code := code, sev := sev, func := func, cls := code / 256, half := h, index := index, addr := addr,
          count := 1, cause := cause, detail := 0 } s

/-- The same with a detail. -/
def eventD (h : Half) (code sev : Nat) (func : Option Nat) (index addr cause detail : Nat) (s : State) : State :=
  daily { code := code, sev := sev, func := func, cls := code / 256, half := h, index := index, addr := addr,
          count := 1, cause := cause, detail := detail } s

/-! ### Ownership -/

/-- The function that owns a cluster (R83). -/
def clusterFunc (s : State) (h : Half) (k : Nat) : Option Nat :=
  let v := rget s .clusterOwner (18 * h.num + k)
  if natBit 4 v then some (natBits 3 0 v) else none

/-- The logical array i of a half. -/
def larr (s : State) (h : Half) (i : Nat) : LArr := s.fab.larr.getD (64 * h.num + i) LArr.init

/-- The function that owns a logical array: the owner of its home cluster (R83, R84). -/
def arrayFunc (s : State) (h : Half) (i : Nat) : Option Nat := (larr s h i).home.bind (clusterFunc s h)

/-- The function that owns a Dolly queue. -/
def queueFunc (s : State) (n : Nat) : Option Nat :=
  let v := rget s .dqOwner n
  if natBit 4 v then some (natBits 3 0 v) else none

/-- The function that owns a cue. -/
def cueFunc (s : State) (n : Nat) : Option Nat :=
  let v := rget s .cueOwner n
  if natBit 4 v then some (natBits 3 0 v) else none

/-- The function for which an agent acts; the management processors act as F0 (R28). -/
def agentFunc (s : State) (ag : Agent) : Option Nat :=
  match ag with
  | .mp _ => some 0
  | .array h i => arrayFunc s h i
  | .dolly h q => queueFunc s (256 * h.num + q)
  | .guest _ f => some f
  | .host f => some f
  | .remote _ => none

/-- The half on which an agent lies (R452: guests and the host port at their attachment). -/
def agentHalf (ag : Agent) : Half :=
  match ag with
  | .mp h => h
  | .array h _ => h
  | .dolly h _ => h
  | .guest g _ => halfOf 2 g
  | .host _ => .h0
  | .remote _ => .h0

/-- A number that names an agent in a Dailies record (R14: the event identifies the agent). -/
def agentNum (ag : Agent) : Nat :=
  match ag with
  | .mp h => h.num
  | .array h i => 0x100 + 64 * h.num + i
  | .dolly h q => 0x200 + 256 * h.num + q
  | .guest g f => 0x400 + 16 * g + f
  | .host f => 0x500 + f
  | .remote d => 0x10000 + d.toNat

/-- The half of an agent is there. -/
def agentThere (s : State) (ag : Agent) : Bool := hasHalf s (agentHalf ag)

/-! ### Takes (R220–R223) -/

/-- The key of an identifier's take. -/
def takeKey : TakeId → Nat
  | .cue n => n
  | .queue n => 0x2000 + n
  | .qp n => 0x3000 + n
  | .key n => 0x4000 + n
  | .coll h k => 0x5000 + 128 * h.num + k
  | .reel h k => 0x5400 + 64 * h.num + k
  | .session n => 0x5800 + n
  | .siteTag g => 0x5C00 + g

/-- The take of an identifier. -/
def takeSt (s : State) (k : Nat) : TakeSt := s.takes.getD k TakeSt.init

/-- The current take of an identifier: none between a change that calls for an advance and the advance (R222). -/
def curTake (s : State) (k : Nat) : Option Nat :=
  let t := takeSt s k
  if t.due then none else some t.take

/-- The take advances by one, now. -/
def stepTake (k : Nat) (s : State) : State :=
  let t := takeSt s k
  let new : TakeSt := { take := (t.take + 1) % 256, last := some s.clock, due := false }
  { s with takes := s.takes.insert k new }

/-- The 1 ms since the identifier's last advance has passed (R222). -/
def takeReady (s : State) (k : Nat) : Bool :=
  match (takeSt s k).last with
  | none => true
  | some t => decide (t + ms 1 ≤ s.clock)

/-- Something calls for an advance: at once when 1 ms has passed since the last, else it falls due later and no
take is current until then (R222). -/
def callAdvance (k : Nat) (s : State) : State :=
  if takeReady s k then stepTake k s
  else { s with takes := s.takes.insert k { takeSt s k with due := true } }

/-- Update the entry of a map, starting from a default. -/
def nmod {α : Type} (m : NMap α) (k : Nat) (d : α) (f : α → α) : NMap α := m.insert k (f (m.getD k d))

/-- Apply an update for each member of a list, in order. -/
def forEach {α : Type} (l : List α) (f : α → State → State) (s : State) : State :=
  l.foldl (fun s a => f a s) s

/-- Apply an update when a condition holds. -/
def when (b : Bool) (f : State → State) (s : State) : State := if b then f s else s

end Sys2Proof.Machine
end

