-- ==== Sys2Proof/Machine/ZTx.lean ====
section
/-! DEFINITION. Sending on Zoram (R334–R345): messages as flits, the bundle of a message, credits, the transmit queues, frames
and the lanes that carry them. A message is shown in `State.out` as its first flit is sent, and so is each frame; what it does
where it arrives comes with its own command. -/

namespace Sys2Proof.Machine

open Sys2Proof

/-- The key of a bundle at the base's end. -/
def bundleKey : BundleRef → Nat
  | .z h n => 16 * h.num + n
  | .site g b => 64 + 4 * g + b

def bundleAt (s : State) (k : Nat) : BundleSt := s.zor.bundles.getD k BundleSt.init
def setBundle (k : Nat) (x : BundleSt) (s : State) : State :=
  { s with zor := { s.zor with bundles := s.zor.bundles.insert k x } }
def modBundle (k : Nat) (f : BundleSt → BundleSt) (s : State) : State := setBundle k (f (bundleAt s k)) s

/-- The bundle that a key names. -/
def keyBundle (k : Nat) : BundleRef :=
  if k < 64 then .z (if k < 16 then .h0 else .h1) (Fin.ofNat 16 k) else .site (Fin.ofNat 4 ((k - 64) / 4)) (Fin.ofNat 4 k)

/-- A bundle is up: at full or half width (R358). -/
def bundleUp (x : BundleSt) : Bool := decide (x.st = 2) || decide (x.st = 3)

/-- A guest site. -/
def siteAt (s : State) (g : Nat) : SiteSt := s.zor.sites.getD g SiteSt.init
def setSite (g : Nat) (x : SiteSt) (s : State) : State :=
  { s with zor := { s.zor with sites := s.zor.sites.insert g x } }
def modSite (g : Nat) (f : SiteSt → SiteSt) (s : State) : State := setSite g (f (siteAt s g)) s

/-- The list U of bundles up by which a side is reached, as keys (R342): between the halves the list last applied. -/
def uList (s : State) : ZSrc → List Nat
  | .half .h1 => s.zor.upList0
  | .half .h0 => s.zor.upList1.map (fun n => 16 + n)
  | .site g => if (siteAt s g).st = 2 then (List.range 4).filterMap (fun b =>
      if bundleUp (bundleAt s (64 + 4 * g + b)) then some (64 + 4 * g + b) else none) else []

/-- The bundles between the halves that are up, as a side sees them. -/
def bundlesUp (s : State) (h : Half) : List Nat := (List.range 16).filter (fun n => bundleUp (bundleAt s (16 * h.num + n)))

/-- The list of bundles between the halves has changed and the new one is not applied yet: no message starts (R343). A bundle
that trains again stays in the list and its messages wait (R356). -/
def listMoves (s : State) (k : Nat) : Bool :=
  let moved (h : Half) (l : List Nat) : Bool := decide (l ≠ (List.range 16).filter (fun n =>
    bundleUp (bundleAt s (16 * h.num + n)) || (decide ((bundleAt s (16 * h.num + n)).st = 1) && l.contains n)))
  if k < 16 then moved .h0 s.zor.upList0 else if k < 32 then moved .h1 s.zor.upList1 else false

/-- The hash of a message's address over the bundles (R342). -/
def addrHash (a : Nat) : Nat := Nat.xor (Nat.xor (natBits 11 7 a) (natBits 16 12 a)) (natBits 21 17 a)

/-- The half whose end of the attachment sends. -/
def zSide : ZSrc → Half
  | .half h => h.other
  | .site g => halfOf 2 g

/-! ### Messages as flits (R345, R346) -/

/-- The bytes of a packet (R282, R283). -/
def pktBytes (p : Packet) : List Byte :=
  let w0 := p.dest.toNat + p.kind.toNat * 2 ^ 16 + b2n p.mc * 2 ^ 20 + b2n p.dl * 2 ^ 21 + min p.age 1023 * 2 ^ 22
  let w1 := p.src.toNat + p.op.toNat * 2 ^ 16 + p.data.length % 32 * 2 ^ 24 + b2n p.xmask * 2 ^ 29 + b2n p.rsv * 2 ^ 30
    + b2n p.epoch * 2 ^ 31
  let w2 := p.tag.toNat + p.take.toNat * 2 ^ 12 + p.func.toNat * 2 ^ 20 + p.scope.toNat * 2 ^ 24 + p.ord.toNat * 2 ^ 26
    + p.auxf.toNat * 2 ^ 28
  let w3 := p.poison.toNat + p.xfield.toNat * 2 ^ 16
  natLe 4 w0 ++ natLe 4 w1 ++ natLe 4 w2 ++ natLe 4 w3 ++ natLe 8 p.addr.toNat ++
    (if p.xmask then (p.masks.take 4).flatMap (fun m => natLe 4 m.toNat) else []) ++
    p.data.flatMap (bytesOf 32)

/-- The sectors carried, as a mask. -/
def partMask (l : LinePart) : Nat := (l.map (fun x => 2 ^ x.1.val)).sum

/-- The Zoram channel of a Continuity message (R340). -/
def cohZc (code : Nat) : Nat := if code < 0x20 then 1 else if code < 0x30 then 2 else 3

/-- A header with every optional field zero; masks of whole sectors are all ones. -/
def blankZ (cls op : Nat) (h : ZHead) : ZMsg :=
  { cls := cls, op := op, tag := h.tag, take := h.take, func := h.func, scope := 0, ord := 0, epoch := false, sect := 0,
    auxf := 0, nc := false, kp := false, ga := false, state := 0, addr := 0,
    masks := List.replicate 4 (BitVec.allOnes 32), inl := 0, data := [], flits := 1 }

/-- A Continuity message as a Zoram message. `ATOMIC` and `ATOMIC_RESULT` carry their data in the header; an address beyond
48 bits is a GA. -/
def cohZ (m : CohMsg) : ZMsg :=
  { blankZ 1 m.code ⟨m.func, m.tag, m.take⟩ with
    scope := m.scope, ord := m.ord, epoch := m.epoch, sect := if m.secs = [] then m.sect else partMask m.secs
    auxf := if m.code = 0x3A then m.cause else m.redop, nc := m.nc, kp := m.keep, ga := decide (2 ^ 48 ≤ m.addr.toNat)
    state := m.granted, addr := m.addr, masks := if m.masks = [] then List.replicate 4 (BitVec.allOnes 32) else m.masks
    inl := if m.code = 0x34 then BitVec.ofNat 256 m.word.toNat
      else if m.code = 0x08 then (m.secs.map (fun x => x.2.1)).headD 0 else 0
    data := if m.code = 0x34 ∨ m.code = 0x08 then [] else m.secs }

/-- What is sent as a message of a class: CUE, CFG, LINK or SERVICE. -/
def outZ : Out → ZMsg
  | .coh _ m => cohZ m
  | .zCue _ op h cue inc thr con =>
    { blankZ 3 op h with
      inl := BitVec.ofNat 256 (cue.toNat + inc % 2 ^ 8 * 2 ^ 32 + thr % 2 ^ 16 * 2 ^ 48 + b2n con * 2 ^ 64) }
  | .zCfg _ h v refused => { blankZ 4 3 h with inl := BitVec.ofNat 256 (v.toNat + b2n refused * 2 ^ 32) }
  | .zService _ op h b0 b1 => { blankZ 6 op h with inl := BitVec.ofNat 256 (b0 % 2 ^ 8 + b1 % 2 ^ 8 * 2 ^ 8) }
  | .zPacket _ _ _ k =>
    { blankZ 5 1 ⟨k.func.toNat, 0, 0⟩ with
      inl := ofBytes 256 ((pktBytes k).take 24), masks := if k.xmask then k.masks else List.replicate 4 (BitVec.allOnes 32) }
  | _ => blankZ 6 0 ⟨0, 0, 0⟩

/-- The header flit of a message (R345). -/
def headFlit (m : ZMsg) : BitVec 512 :=
  let w0 := m.cls % 16 + m.op % 256 * 2 ^ 4 + m.tag % 4096 * 2 ^ 12 + m.take.toNat * 2 ^ 24
  let w1 := m.func % 16 + m.scope % 4 * 2 ^ 4 + m.ord % 4 * 2 ^ 6 + b2n m.epoch * 2 ^ 8 + m.sect % 16 * 2 ^ 9 +
    m.auxf % 16 * 2 ^ 13 + b2n m.nc * 2 ^ 17 + b2n m.kp * 2 ^ 18 + b2n m.ga * 2 ^ 19 + m.state % 4 * 2 ^ 20
  let masks := ((m.masks.take 4).zipIdx.map (fun e => e.1.toNat * 2 ^ (128 + 32 * e.2))).sum
  BitVec.ofNat 512 (w0 + w1 * 2 ^ 32 + m.addr.toNat * 2 ^ 64 + masks + m.inl.toNat * 2 ^ 256)

/-- One pair of sectors as a data flit (R345): a sector that is not named is zero. -/
structure PairFlit where
  pair : Bool
  poison : BitVec 2
  flit : BitVec 512
  deriving DecidableEq, Repr

def pairFlit (pair : Bool) (a b : Option (Sec256 × Bool)) : PairFlit :=
  let w (x : Option (Sec256 × Bool)) : Nat := (x.map (fun e => e.1.toNat)).getD 0
  let p (x : Option (Sec256 × Bool)) : Bool := (x.map (fun e => e.2)).getD false
  ⟨pair, BitVec.ofNat 2 (b2n (p a) + 2 * b2n (p b)), BitVec.ofNat 512 (w a + w b * 2 ^ 256)⟩

/-- The data flits of a line's sectors. -/
def lineFlits (l : LinePart) : List PairFlit :=
  let sec (i : Nat) : Option (Sec256 × Bool) := (l.find? (fun e => decide (e.1.val = i))).map (fun e => e.2)
  [0, 1].filterMap (fun p => if (sec (2 * p)).isSome || (sec (2 * p + 1)).isSome then
    some (pairFlit (decide (p = 1)) (sec (2 * p)) (sec (2 * p + 1))) else none)

/-- The data flits of a packet, its sectors in pairs (R346). -/
def pktFlits (k : Packet) : List PairFlit :=
  let sec (i : Nat) : Option (Sec256 × Bool) := (k.data[i]?).map (fun d => (d, natBit i k.poison.toNat))
  (List.range ((k.data.length + 1) / 2)).map (fun i => pairFlit (decide (i % 2 = 1)) (sec (2 * i)) (sec (2 * i + 1)))

/-- The slots of a message on a channel: a header but for `DATA`, which is of data flits alone, then its data (R345). -/
def outSlots (zc : Nat) (o : Out) : List ZSlot :=
  let m := outZ o
  let c : Fin 8 := Fin.ofNat 8 zc
  let isData := decide (m.cls = 1) && decide (m.op = 0x30)
  let fs := match o with
    | .zPacket _ _ _ k => pktFlits k
    | _ => lineFlits m.data
  let fs := if isData && fs.isEmpty then [pairFlit false none none] else fs
  let grant : BitVec 2 := if isData && !m.nc then BitVec.ofNat 2 m.state else 0
  (if isData then [] else [.header c fs.isEmpty (headFlit m)]) ++ fs.zipIdx.map (fun e =>
    .data c (decide (e.2 + 1 = fs.length)) e.1.poison e.1.pair grant (BitVec.ofNat 12 m.tag) m.take e.1.flit)

/-! ### Frames and lanes (R334, R335, R337, R338) -/

/-- A LINK flit (R338). -/
def linkFlit (l : ZLink) : BitVec 512 :=
  let cr := (l.credits.map (fun c => c.2 % 2 ^ 16 * 2 ^ (32 + 16 * c.1.val))).sum
  BitVec.ofNat 512 (l.ackSeq.toNat + b2n l.ackValid * 2 ^ 16 + b2n l.nak * 2 ^ 17 + cr)

/-- The flit in a slot, and the slot's descriptor (R337). -/
def slotFlit : ZSlot → BitVec 512
  | .empty => 0
  | .header _ _ f => f
  | .data _ _ _ _ _ _ _ f => f
  | .link l => linkFlit l
def slotDesc : ZSlot → Nat
  | .empty => 0
  | .header zc last _ => 1 + zc.val * 2 ^ 2 + b2n last * 2 ^ 5
  | .data zc last poison pair grant tag take _ =>
    2 + zc.val * 2 ^ 2 + b2n last * 2 ^ 5 + poison.toNat * 2 ^ 6 + b2n pair * 2 ^ 8 + grant.toNat * 2 ^ 9 +
      tag.toNat * 2 ^ 11 + take.toNat * 2 ^ 23
  | .link _ => 3

/-- The 16 flits of a frame: its payload, then the trailer with the descriptors and the check code. -/
def frameFlits (slots : List ZSlot) : List (BitVec 512) :=
  let body := slots.map slotFlit
  let descs := slots.flatMap (fun sl => natLe 4 (slotDesc sl))
  body ++ [ofBytes 512 (descs ++ natLe 4 (crc32 (body.flatMap (bytesOf 64) ++ descs)))]

/-- What the physical lanes carry in a unit interval: the `n` logical lanes on the good lanes, in order (R335). A lane that
carries none is shown as 0 (DESIGN CHOICE, log entry 96). -/
def lanesOut (bad : BitVec 528) (n : Nat) (w : BitVec 512) : BitVec 528 :=
  BitVec.ofNat 528 ((List.range 528).foldl (fun (a : Nat × Nat) p =>
    if natBit p bad.toNat then a else (a.1 + 1, a.2 + (if a.1 < n then b2n (natBit a.1 w.toNat) * 2 ^ p else 0))) (0, 0)).2

/-- What a flit puts on the lanes: one unit interval at full width, two at half width (R334). -/
def flitLanes (half : Bool) (bad : BitVec 528) (f : BitVec 512) : List (BitVec 528) :=
  if half then [lanesOut bad 256 f, lanesOut bad 256 (f >>> 256)] else [lanesOut bad 512 f]

/-- A frame goes out on a bundle. -/
def emitFrame (k : Nat) (num : BitVec 16) (slots : List ZSlot) (s : State) : State :=
  let x := bundleAt s k
  emit (.zFrame (keyBundle k) num slots ((frameFlits slots).flatMap (flitLanes (decide (x.st = 3)) x.txBad))) s

/-! ### The transmit queues (R339–R344) -/

/-- The receive buffers that a channel's credits start from (R340). -/
def zBuf (zc : Nat) : Nat := [64, 512, 256, 1024, 2048].getD zc 0

/-- The age at which a message leaves a Zoram queue (R344), in clock units. -/
def zAge : Nat := us 250

/-- The frame in the making is complete: EMPTY slots fill it, it takes the next number and is kept for replay (R337, R339). -/
def closeFrame (k : Nat) (s : State) : State :=
  let x := bundleAt s k
  if x.frame = [] then s
  else
    let slots := x.frame ++ List.replicate (15 - x.frame.length) .empty
    emitFrame k x.txNext slots (setBundle k { x with
      frame := [], txNext := x.txNext + 1, replay := x.replay ++ [(x.txNext, slots)]
      lastAdvance := if x.replay = [] then s.clock else x.lastAdvance } s)

/-- A slot of the frame in the making. -/
def putSlot (k : Nat) (sl : ZSlot) (s : State) : State :=
  let x := bundleAt s k
  let s := setBundle k { x with frame := x.frame ++ [sl] } s
  if 14 ≤ x.frame.length then closeFrame k s else s

/-- A channel has a flit and a credit; `hold`: no message starts. -/
def zReady (hold : Bool) (x : BundleSt) (zc : Nat) : Bool :=
  match x.txq.getD zc [] with
  | [] => false
  | m :: _ => decide (0 < x.credits.getD zc 0) && (m.begun || !hold)

/-- The channel that sends next, and the round robin after it (R341). -/
def zPick (hold : Bool) (x : BundleSt) : Option (Nat × Nat) :=
  if zReady hold x 0 then some (0, x.rr)
  else if zReady hold x 3 then some (3, x.rr)
  else ([0, 1, 2].map (fun i => (x.rr + i) % 3)).findSome? (fun i =>
    let zc := [1, 2, 4].getD i 1
    if zReady hold x zc then some (zc, (i + 1) % 3) else none)

/-- The next flit of a channel is sent, for one credit; a message is shown with its first. -/
def sendSlot (k zc rr : Nat) (s : State) : State :=
  let x := bundleAt s k
  match x.txq.getD zc [] with
  | [] => s
  | m :: rest =>
    let x := { x with rr := rr, credits := x.credits.insert zc (x.credits.getD zc 0 - 1) }
    let go (l : List ZTx) (s : State) : State :=
      when (!m.begun) (emit m.out) (setBundle k { x with txq := NMap.setD x.txq zc [] l } s)
    match m.slots with
    | [] => go rest s
    | [sl] => putSlot k sl (go rest s)
    | sl :: more => putSlot k sl (go ({ m with slots := more, begun := true } :: rest) s)

/-- A frame is among those up to the one acknowledged, modulo 2^16. -/
def seqLe (f ack : BitVec 16) : Bool := decide ((ack - f).toNat < 32768)

/-- The channel of a slot. -/
def slotZc : ZSlot → Option Nat
  | .header zc _ _ => some zc.val
  | .data zc _ _ _ _ _ _ _ => some zc.val
  | .empty => none
  | .link _ => none

/-- Send what can be sent (R341): LINK flits, slots of frames that were not acknowledged, then the channels. Without room for
another frame to replay no new frame begins (R339). -/
def zPumpGo (k : Nat) : Nat → State → State
  | 0, s => closeFrame k s
  | n + 1, s =>
    let x := bundleAt s k
    if x.frame = [] ∧ 256 ≤ x.replay.length then s
    else
      match x.linkDue, x.resend with
      | l :: ls, _ => zPumpGo k n (putSlot k (.link l) (setBundle k { x with linkDue := ls } s))
      | [], sl :: r =>
        let cr := match slotZc sl with
          | some zc => x.credits.insert zc (x.credits.getD zc 0 - 1)
          | none => x.credits
        zPumpGo k n (putSlot k sl (setBundle k { x with resend := r, credits := cr } s))
      | [], [] =>
        match zPick (listMoves s k) x with
        | none => closeFrame k s
        | some (zc, rr) => zPumpGo k n (sendSlot k zc rr s)

/-- Messages that have waited 250 µs without a flit sent are discarded and counted (R344). -/
def zAgeQueue (k : Nat) (h : Half) (s : State) : State :=
  let x := bundleAt s k
  let old (m : ZTx) : Bool := !m.begun && decide (m.t + zAge ≤ s.clock)
  let n := (x.txq.map (fun e => (e.2.filter old).length)).sum
  if n = 0 then s
  else bumpSat .zaged h.num 31 0 n (setBundle k { x with txq := x.txq.map (fun e => (e.1, e.2.filter (fun m => !old m))) } s)

/-- A bundle that is up sends what it can. -/
def zPump (k : Nat) (h : Half) (s : State) : State :=
  let s := zAgeQueue k h s
  let x := bundleAt s k
  if bundleUp x then
    zPumpGo k (x.linkDue.length + x.resend.length + (x.txq.map (fun e => (e.2.map (fun m => m.slots.length + 1)).sum)).sum + 1) s
  else s

/-- What picks a message's bundle among those up (R342): its address, or the class of a forwarded packet. -/
def outHash : Out → Nat
  | .coh _ m => addrHash m.addr.toNat
  | .zPacket _ p vc k => 8 * p + 2 * vc + b2n k.dl
  | _ => 0

/-- Queue slots of a message on a bundle's channel and send what can be sent. -/
def zQueue (k : Nat) (h : Half) (zc : Nat) (m : ZTx) (s : State) : State :=
  zPump k h (modBundle k (fun x => { x with txq := x.txq.insert zc (x.txq.getD zc [] ++ [m]) }) s)

/-- Queue a message on its bundle to a side (R342). With no bundle up it cannot leave its queue and is discarded. -/
def zPlace (dst : ZSrc) (zc : Nat) (m : ZTx) (s : State) : State :=
  let u := uList s dst
  let h := zSide dst
  match u[outHash m.out % max 1 u.length]? with
  | none => match dst with
    | .half _ => bumpSat .zaged h.num 31 0 1 s
    | .site _ => s
  | some k => zQueue k h zc m s

/-- Send a message to a side on a channel (R340). -/
def zSend (dst : ZSrc) (zc : Nat) (o : Out) (s : State) : State := zPlace dst zc ⟨o, outSlots zc o, false, s.clock⟩ s

/-- The take of a side's request tags: a guest's; between the halves the model's own requests have take 0. -/
def zTake (s : State) (z : ZSrc) : BitVec 8 :=
  match z with
  | .half _ => 0
  | .site g => BitVec.ofNat 8 (takeSt s (takeKey (.siteTag g))).take

/-- The header fields of what answers or makes a request of a side. -/
def zHead (s : State) (z : ZSrc) (func tag : Nat) : ZHead := ⟨func, tag, zTake s z⟩

end Sys2Proof.Machine
end

