-- ==== Sys2Proof/Machine/LinkTx.lean ====
section
/-! DEFINITION. Sending on the neighbour ports (R278, R280, R282–R293): packets as bytes, routes, credits, the choice
of flits and the replay buffer. -/

namespace Sys2Proof.Machine

open Sys2Proof

/-- The base's device identifier (R30), and whether it is valid. -/
def ownDev (s : State) : BitVec 16 := s.ident.devId
def idOk (s : State) : Bool := s.ident.idValid

/-- A neighbour port N0–N15 (H0's first). -/
def portAt (s : State) (p : Nat) : PortSt := s.link.ports.getD p PortSt.init
def setPort (p : Nat) (x : PortSt) (s : State) : State :=
  { s with link := { s.link with ports := s.link.ports.insert p x } }
def modPort (p : Nat) (f : PortSt → PortSt) (s : State) : State := setPort p (f (portAt s p)) s

/-- The link carries packets (R276). -/
def linkUp (x : PortSt) : Bool := decide (x.st = .upFull) || decide (x.st = .upHalf)

/-- The part has the port, and it is up for routing. -/
def portUsable (s : State) (p : Nat) : Bool := hasHalf s (halfOf 8 p) && linkUp (portAt s p)

/-- The virtual channel of a kind and operation (R284). -/
def vcOf (kind op : Nat) : Option Nat :=
  match kind with
  | 2 => some 0
  | 1 =>
    if op ∈ [0x01, 0x02, 0x03, 0x07, 0x09, 0x0A, 0x0B, 0x0C] then some 1
    else if 0x20 ≤ op ∧ op ≤ 0x23 then some 2
    else if 0x30 ≤ op ∧ op ≤ 0x3A then some 3
    else if op ∈ [0x04, 0x05, 0x06, 0x08] then some 4
    else none
  | 4 => if op ∈ [0x02, 0x03, 0x04] then some 3 else if op = 0x01 then some 4 else none
  | 3 => if 1 ≤ op ∧ op ≤ 4 then some 5 else none
  | 5 => if op = 1 then some 6 else none
  | _ => none

/-- The port and the CROSS bit by which a device is reached (R291, R293). -/
def routeOf (s : State) (dest : Nat) : Option (Nat × Bool) :=
  let v := rget s .routeEntry dest
  if !natBit 4 v then none
  else if portUsable s (natBits 3 0 v) then some (natBits 3 0 v, natBit 10 v)
  else if natBit 9 v && portUsable s (natBits 8 5 v) then some (natBits 8 5 v, natBit 10 v)
  else none

/-! ### Flits (R282, R287, R288) -/

def classKey (vc : Nat) (dl : Bool) : Nat := 2 * vc + b2n dl

/-- The class has a credit and bytes. -/
def classReady (x : PortSt) (vc : Nat) (dl : Bool) : Bool :=
  decide (0 < x.credits.getD (classKey vc dl) 0) && x.txq.any (fun t => decide (t.vc = vc) && decide (t.dl = dl))

/-- The weights of VC1–VC6 written out as one round (R288); 0 acts as 1. -/
def wrrRound (w : Nat) : List Nat :=
  [1, 2, 3, 4, 5, 6].flatMap (fun v => List.replicate (max 1 (natBits (4 * v - 1) (4 * v - 4) w)) v)

/-- Up to `n` payload bytes of a class from the packets waiting, which follow one another without gaps (R282): the bytes,
the packets that end in them, the packets left. -/
def takeBytes (vc : Nat) (dl : Bool) : Nat → List TxPkt → List Byte × List Packet × List TxPkt
  | _, [] => ([], [], [])
  | n, t :: ts =>
    if decide (t.vc = vc) && decide (t.dl = dl) && decide (0 < n) then
      let got := t.left.take n
      let left := t.left.drop n
      if left = [] then
        let r := takeBytes vc dl (n - got.length) ts
        (got ++ r.1, t.pkt :: r.2.1, r.2.2)
      else (got, [], { t with left := left } :: ts)
    else
      let r := takeBytes vc dl n ts
      (r.1, r.2.1, t :: r.2.2)

/-- The whole first packet of VC0 (each VC0 flit carries exactly one). -/
def takeVc0 : List TxPkt → List Byte × List Packet × List TxPkt
  | [] => ([], [], [])
  | t :: ts => if t.vc = 0 then (t.left, [t.pkt], ts) else
    let r := takeVc0 ts
    (r.1, r.2.1, t :: r.2.2)

/-- The wavelengths in use (R277). -/
def wavesOf (x : PortSt) : List Nat :=
  match x.st with
  | .upFull => List.range 16
  | .upHalf => (List.range 8).map (fun i => if x.halfGroup then 8 + i else i)
  | _ => []

/-- Deal a block to the next wavelength (R274); a codeword that is full is sent, a marker after every 4,096. -/
def dealBlock (p b : Nat) (s : State) : State :=
  let x := portAt s p
  let ws := wavesOf x
  match ws[x.txWave % max 1 ws.length]? with
  | none => s
  | some w =>
    let l := x.txBlocks.getD w [] ++ [b]
    let x := { x with txWave := (x.txWave + 1) % ws.length }
    if l.length < wordBlocks then setPort p { x with txBlocks := x.txBlocks.insert w l } s
    else
      let n := (x.txWords.getD w 0 + 1) % markerWords
      let s := emit (.codeword p w (codeword l))
        (setPort p { x with txBlocks := x.txBlocks.insert w [], txWords := x.txWords.insert w n } s)
      when (decide (n = 0)) (emit (.alignMarker p w)) s

/-- A flit goes out on the fibre: its blocks in order (R275). -/
def dealFlit (p : Nat) (image : List Byte) (s : State) : State := forEach (flitBlocks image) (dealBlock p) s

/-- Send a DATA flit, and a CTRL flit. -/
def putData (p : Nat) (f : DataFlit) (s : State) : State := emit (.flit p f) (dealFlit p (dataImage f) s)
def putCtrl (p : Nat) (c : CtrlFlit) (s : State) : State := emit (.ctrl p c) (dealFlit p (ctrlImage c) s)

/-- Send one flit of a class: sequence number, replay buffer, credit (R280, R287). -/
def sendFlit (p vc : Nat) (dl : Bool) (s : State) : State :=
  let x := portAt s p
  let r := if vc = 0 then takeVc0 x.txq else takeBytes vc dl 56 x.txq
  let f : DataFlit := ⟨1#2, x.txSeq, Fin.ofNat 8 vc, dl, r.1, true⟩
  let k := classKey vc dl
  let x1 : PortSt := { x with
    txq := r.2.2, txSeq := x.txSeq + 1, replay := x.replay ++ [f]
    unacked := x.unacked ++ r.2.1.map (fun q => (vc, q, x.txSeq))
    credits := x.credits.insert k (x.credits.getD k 0 - 1)
    lastAdvance := if x.replay = [] then s.clock else x.lastAdvance }
  putData p f (setPort p x1 s)

/-- The next class to send (R288): VC0 first, then the round of weights from where it stands. Where both classes of a
virtual channel are ready the manual gives no order: a free choice (log entry 1). -/
def pickClass (s : State) (p : Nat) : Option (Nat × Bool × Nat) × State :=
  let x := portAt s p
  if classReady x 0 false then (some (0, false, x.rrNext), s)
  else
    let round := wrrRound (rget s .vcWeight p)
    let len := round.length
    match (List.range len).find? (fun k =>
      let v := round.getD ((x.rrNext + k) % len) 0
      classReady x v false || classReady x v true) with
    | none => (none, s)
    | some k =>
      let v := round.getD ((x.rrNext + k) % len) 0
      let next := (x.rrNext + k + 1) % len
      if classReady x v false && classReady x v true then
        let b := freeBool s
        (some (v, b.1, next), b.2)
      else (some (v, classReady x v true, next), s)

/-- Send flits of a port while a class is ready and the replay buffer has room (R280: 32,768 flits). -/
def pump (p : Nat) : Nat → State → State
  | 0, s => s
  | n + 1, s =>
    if !portUsable s p || decide (32768 ≤ (portAt s p).replay.length) then s
    else
      match pickClass s p with
      | (none, s) => s
      | (some (vc, dl, next), s) => pump p n (sendFlit p vc dl (modPort p (fun x => { x with rrNext := next }) s))

/-- Count on one of the base's link counters. -/
def countLink (r : Reg) (s : State) : State := bumpSat r 0 31 0 1 s

/-- Whole µs since a clock, rounded up. -/
def usSince (s : State) (t : Nat) : Nat := (s.clock - t + 9) / 10

/-- The age that a packet which waits since `t` leaves with (R292): its own base's packets leave with 0. -/
def leavingAge (s : State) (pkt : Packet) (t : Nat) : Nat :=
  if pkt.src = ownDev s then 0 else min 1023 (pkt.age + usSince s t)

/-- A packet that waits since `t` is too old (R221, R292). -/
def tooOld (s : State) (pkt : Packet) (t : Nat) : Bool := decide (500 ≤ pkt.age + usSince s t)

/-- Packets of a port that have not begun to leave are aged, and discarded when they are too old (R221, R292). -/
def ageQueue (p : Nat) (s : State) : State :=
  let x := portAt s p
  let whole (t : TxPkt) : Bool := decide (t.left.length = (pktBytes t.pkt).length)
  let old := x.txq.filter (fun t => whole t && tooOld s t.pkt t.t)
  let rest := x.txq.filter (fun t => !(whole t && tooOld s t.pkt t.t))
  let q := rest.map (fun t =>
    if whole t then { t with left := pktBytes { t.pkt with age := leavingAge s t.pkt t.t } } else t)
  forEach old (fun _ => countLink .aged) (setPort p { x with txq := q } s)

/-- Enough flits for what a port may hold. -/
def pumpAll (p : Nat) (s : State) : State :=
  let s := if (portAt s p).txq = [] then s else ageQueue p s
  pump p ((portAt s p).txq.foldl (fun n t => n + t.left.length / 56 + 1) 1) s

/-- Queue a packet on a port and send what the port takes; a packet for a port that is down is lost with those queued for it
(R294). VC0 has one class (R287). -/
def queuePkt (p vc : Nat) (pkt : Packet) (s : State) : State :=
  if !portUsable s p then when (decide (vc ≠ 0)) (bumpSat .portDrops p 31 0 1) s
  else pumpAll p (modPort p (fun x => { x with txq := x.txq ++ [⟨vc, pkt.dl && decide (vc ≠ 0), pkt, pktBytes pkt, s.clock⟩] }) s)

/-! ### Packets -/

/-- Send a packet by its route (R289–R291); it is discarded and counted when there is none. -/
def routePacket (pkt : Packet) (s : State) : State :=
  match routeOf s pkt.dest.toNat, vcOf pkt.kind.toNat pkt.op.toNat with
  | some (p, cross), some vc => queuePkt p vc { pkt with dl := pkt.dl || cross } s
  | _, _ => countLink .noRoute s

/-- Send a packet of the base's own (R290: without a valid identifier, nothing but LINK_INFO). -/
def sendPacket (pkt : Packet) (s : State) : State :=
  if idOk s then routePacket { pkt with src := ownDev s, age := 0, dl := false } s else countLink .noRoute s

/-- A packet with every optional field zero. -/
def blankPkt : Packet :=
  { dest := 0, kind := 0, mc := false, dl := false, age := 0, src := 0, op := 0, xmask := false, rsv := false,
    epoch := false, tag := 0, take := 0, func := 0, scope := 0, ord := 0, auxf := 0, poison := 0, xfield := 0,
    addr := 0, masks := [], data := [] }

/-- The poison bits of data sectors. -/
def poisonBits (l : List Bool) : BitVec 16 :=
  BitVec.ofNat 16 ((l.zipIdx.map (fun p => if p.1 then 2 ^ p.2 else 0)).sum)

/-! ### Continuity messages (R285, R286, R345) -/

/-- A Continuity message with every optional field zero. -/
def blankCoh : CohMsg :=
  { code := 0, tag := 0, take := 0, addr := 0, func := 0, epoch := false, secs := [], redop := 0, nc := false,
    keep := false, lease := 0, granted := 0, cause := 0, word := 0, masks := [], sect := 0, scope := 0, ord := 0,
    last := true }

/-- A Continuity message as a packet (R285). -/
def cohPacket (dest : BitVec 16) (m : CohMsg) : Packet :=
  { blankPkt with
    dest := dest, kind := 1#4, op := BitVec.ofNat 8 m.code, tag := BitVec.ofNat 12 m.tag, take := m.take
    func := BitVec.ofNat 4 m.func, epoch := m.epoch, scope := BitVec.ofNat 2 m.scope, ord := BitVec.ofNat 2 m.ord
    auxf := BitVec.ofNat 4 (if m.code = 0x3A then m.cause else m.redop)
    xfield := BitVec.ofNat 16 (m.lease % 256 + m.granted % 8 * 256)
    addr := (m.addr &&& ~~~ 127#64) ||| BitVec.ofNat 64 (m.sect % 16 + b2n m.nc * 16 + b2n m.keep * 32 + b2n m.last * 64)
    poison := poisonBits (m.secs.map (fun x => x.2.2)), xmask := decide (m.masks ≠ []), masks := m.masks
    data := if m.code = 0x34 then [BitVec.ofNat 256 m.word.toNat] else m.secs.map (fun x => x.2.1) }

/-- Send a Continuity message: to a remote device on the links, to a guest die or to the other half over Zoram. -/
def sendCoh (dst : CohDst) (m : CohMsg) (s : State) : State :=
  let side : Option ZSrc := match dst with
    | .dev _ => none
    | .site g => some (.site (Fin.ofNat 4 g))
    | .far h => some (.half h)
    | .slice l => some (.half (halfOf 128 l))
  match dst, side with
  | .dev d, _ => sendPacket (cohPacket d m) (emit (.coh dst m) s)
  | _, some z => zSend z (cohZc m.code) (.coh dst m) s
  | _, none => s

end Sys2Proof.Machine
end

