-- ==== Sys2Proof/Machine/Cues.lean ====
section
/-! DEFINITION. Cues (R94–R97): handles, signals, waits, and what a satisfied or dropped wait does to the one that
waits. -/

namespace Sys2Proof.Machine

open Sys2Proof

/-! ### Contexts, as far as cues touch them -/

/-- The key of context k of logical array i of a half. -/
def ctxKey (h : Half) (i k : Nat) : Nat := 4 * (64 * h.num + i) + k

/-- A context (R72). -/
def ctxAt (s : State) (h : Half) (i k : Nat) : Ctx := s.fab.ctxs.getD (ctxKey h i k) Ctx.init

/-- Replace a context. -/
def setCtx (h : Half) (i k : Nat) (c : Ctx) (s : State) : State :=
  { s with fab := { s.fab with ctxs := s.fab.ctxs.insert (ctxKey h i k) c } }

/-- The context is RUNNING or WAITING (R73). -/
def ctxActive (c : Ctx) : Bool := decide (c.st = .running) || decide (c.st = .waiting)

/-- The array made progress (R75). -/
def noteProgress (h : Half) (i : Nat) (s : State) : State :=
  let l := nmod s.fab.larr (64 * h.num + i) LArr.init (fun a => { a with progress := s.clock })
  { s with fab := { s.fab with larr := l } }

/-- Fault reasons of `CTX_STATUS` (R76): 1 RESIDUE, 2 LS_UE, 3 SW_PARITY, 4 STALL, 5 REFUSED, 6 STALE_CUE. A
context becomes FAULTED and a UC-F event names the function that owns the array. -/
def faultCtx (h : Half) (i k reason detail : Nat) (s : State) : State :=
  let c := ctxAt s h i k
  let s := setCtx h i k
    { c with st := .faulted, fault := reason, running := [], phaseWait := none, issued := false,
             delayUntil := none, stopPend := false, held := false } s
  eventD h 0x0201 2 (arrayFunc s h i) i 0 reason detail s

/-! ### Handles (R94) -/

/-- The cue number of a handle. -/
def cueNum (hdl : W32) : Nat := natBits 12 0 hdl.toNat
/-- The take of a handle. -/
def cueTake (hdl : W32) : Nat := natBits 20 13 hdl.toNat
/-- Bits [31:21] are set: the handle names no cue. -/
def malformed (hdl : W32) : Bool := decide (natBits 31 21 hdl.toNat ≠ 0)
/-- A handle from a number and a take. -/
def mkCueHandle (n take : Nat) : W32 := BitVec.ofNat 32 (n + take * 2 ^ 13)
/-- The half of a cue. -/
def cueHalf (n : Nat) : Half := halfOf 4096 n
/-- The part has the cue. -/
def cueThere (s : State) (n : Nat) : Bool := hasHalf s (cueHalf n)

/-- The handle names a cue of the part with its current take (R96). -/
def handleCurrent (s : State) (hdl : W32) : Bool :=
  !malformed hdl && cueThere s (cueNum hdl) && decide (curTake s (takeKey (.cue (Fin.ofNat 8192 (cueNum hdl)))) = some (cueTake hdl))

/-- The handle of a cue with its current take. -/
def currentHandle (s : State) (n : Nat) : W32 := mkCueHandle n (takeSt s (takeKey (.cue (Fin.ofNat 8192 n)))).take

/-- A cue. -/
def cueAt (s : State) (n : Nat) : Cue := s.cues.getD n Cue.init

/-- Replace a cue. -/
def setCue (n : Nat) (c : Cue) (s : State) : State := { s with cues := s.cues.setD n Cue.init c }

/-- An operation is discarded for a stale or malformed handle: counted and recorded (R94, R96). -/
def cueStale (hdl : W32) (s : State) : State :=
  let h := cueHalf (cueNum hdl)
  event h 0x0204 0 (cueFunc s (cueNum hdl)) (cueNum hdl) 0 96 (bumpSat .cueStats h.num 15 0 1 s)

/-! ### Satisfied and dropped waits -/

/-- Update the active descriptor with a running index. -/
def setRun (idx : W32) (f : DescRun → DescRun) (l : List DescRun) : List DescRun :=
  l.map (fun d => if d.index = idx then f d else d)

/-- A queue. -/
def queueAt (s : State) (n : Nat) : QueueSt := s.dolly.queues.getD n QueueSt.init

/-- Replace a queue. -/
def setQueue (n : Nat) (q : QueueSt) (s : State) : State :=
  { s with dolly := { s.dolly with queues := s.dolly.queues.insert n q } }

/-- Send a CUE message of a side: requests on ZC1, answers (`WAIT_DONE`, `CUE_REFUSED`) on ZC3 (R340, R346). -/
def sendCue (dst : ZSrc) (op func tag : Nat) (cue : W32) (inc thr : Nat) (consume : Bool) (s : State) : State :=
  zSend dst (if op ≤ 2 then 1 else 3) (.zCue dst op (zHead s dst func tag) cue inc thr consume) s

/-- What a satisfied wait does (R95): a context runs on at its next step, a descriptor starts, a guest site and the
other half are answered, a Reel stream frees a slot, a collective member arrives. -/
def wake (hdl : W32) (w : CueWaitSt) (s : State) : State :=
  match w.who with
  | .ctx h i k =>
    let c := ctxAt s h i k
    noteProgress h i (setCtx h i k { c with st := .running, issued := false, step := c.step + 1 } s)
  | .desc q idx =>
    let qs := queueAt s q
    setQueue q { qs with
      st := if qs.st = .waiting then .running else qs.st
      head := idx + 1
      active := setRun idx (fun d => { d with waitIn := false, consumed := d.d.waitConsume, phase := .running })
        qs.active } s
  | .site g tag =>
    sendCue (.site (Fin.ofNat 4 g)) 3 ((cueFunc s (cueNum hdl)).getD 0) tag hdl 0 w.threshold w.consume s
  | .half h tag => sendCue (.half h) 3 ((cueFunc s (cueNum hdl)).getD 0) tag hdl 0 w.threshold w.consume s
  | .reelFree h k =>
    let l := nmod s.dolly.reels (64 * h.num + k) ReelSt.init (fun r => { r with freeDue := r.freeDue + 1 })
    { s with dolly := { s.dolly with reels := l } }
  | .collArrive h k =>
    let l := nmod s.link.colls (128 * h.num + k) CollSt.init (fun c => { c with arrDue := true, waitIn := false })
    { s with link := { s.link with colls := l } }

/-- Check the waiters of a value in the order of their arrival: the value left, those satisfied, those that go on
waiting (R95). A waiter that is not satisfied does not hold back a later one. -/
def checkWaits : Nat → List CueWaitSt → Nat × List CueWaitSt × List CueWaitSt
  | v, [] => (v, [], [])
  | v, w :: ws =>
    if w.threshold ≤ v then
      let r := checkWaits (if w.consume then v - w.threshold else v) ws
      (r.1, w :: r.2.1, r.2.2)
    else
      let r := checkWaits v ws
      (r.1, r.2.1, w :: r.2.2)

/-- The waiter check of a cue whose value changed or which gained a waiter (R95). -/
def cueCheck (n : Nat) (s : State) : State :=
  let c := cueAt s n
  let r := checkWaits c.value c.waits
  let s := setCue n { c with value := r.1, waits := r.2.2 } s
  forEach r.2.1 (wake (currentHandle s n)) s

/-- The value of a cue is set, and its waiters are checked (R95, R108). -/
def cueSet (n v : Nat) (s : State) : State := cueCheck n (setCue n { cueAt s n with value := v } s)

/-- A signal applied at the cue's half (R95). -/
def cueAdd (n inc : Nat) (s : State) : State :=
  let c := cueAt s n
  let sat := decide (0xFFFFFF < c.value + inc)
  let s := setCue n { c with value := min (c.value + inc) 0xFFFFFF } s
  let h := cueHalf n
  let s := when sat (fun s => event h 0x0204 0 (cueFunc s n) n 0 95 (bumpSat .cueStats h.num 31 16 1 s)) s
  cueCheck n s

/-- A signal with a handle (R95, R96). -/
def cueSignal (hdl : W32) (inc : Nat) (s : State) : State :=
  if handleCurrent s hdl then cueAdd (cueNum hdl) inc s else cueStale hdl s

/-- The waiter stands for this one: itself, or its wait held at the other half under a tag (R346). -/
def standsFor (s : State) (who w : Waiter) : Bool :=
  decide (w = who) ||
  match w with
  | .half h tag => decide (s.zor.xWaits.find? (4096 * h.num + tag) = some who)
  | _ => false

/-- Withdraw the waits of one waiter, at the other half too (R253). -/
def withdraw (who : Waiter) (s : State) : State :=
  { s with
    cues := s.cues.map (fun kc => (kc.1, { kc.2 with waits := kc.2.waits.filter (fun w => !standsFor s who w.who) }))
    zor := { s.zor with xWaits := s.zor.xWaits.filter (fun kw => kw.2 ≠ who) } }

/-- Status 3, CUE, of a descriptor (R257). -/
def stCue : Nat := 3

/-- A Reel credit that was taken for a descriptor which has sent nothing goes back to its stream (R266; log entry 89). -/
def creditBack (d : DescRun) (s : State) : State :=
  if d.d.opcode = 9 ∧ d.asked = 1 ∧ d.slot = 0 ∧ (s.dolly.reels.getD d.d.arg ReelSt.init).st = 1 then
    { s with dolly := { s.dolly with reels := nmod s.dolly.reels d.d.arg ReelSt.init (fun x =>
        { x with credits := min x.slots (x.credits + 1) }) } }
  else s

/-- A wait of this waiter is dropped by a change of take (R96): its context faults, its descriptor ends with CUE. -/
def dropWho (who : Waiter) (s : State) : State :=
  match who with
  | .ctx h i k => faultCtx h i k 6 0 s
  | .desc q idx =>
    let s := forEach ((queueAt s q).active.filter (fun d => decide (d.index = idx))) creditBack s
    let qs := queueAt s q
    setQueue q { qs with
      st := .error, head := idx + 1, errIndex := idx.toNat % 2 ^ 16, errStatus := stCue
      active := setRun idx (fun d => { d with status := stCue, ended := true, waitIn := false, phase := .complete })
        qs.active } s
  | _ => s

/-- A wait is dropped; one of the other half's is dropped for the agent that waits under its tag there (DEDUCED: R96 lets no agent
wait on; log entry 86). -/
def dropWait (w : CueWaitSt) (s : State) : State :=
  match w.who with
  | .half h tag =>
    match s.zor.xWaits.find? (4096 * h.num + tag) with
    | some who => dropWho who { s with zor := { s.zor with xWaits := s.zor.xWaits.erase (4096 * h.num + tag) } }
    | none => s
  | who => dropWho who s

/-- A wait with a handle; a stale one is discarded, and its waiter does not wait on (R95, R96). -/
def cueWait (hdl : W32) (w : CueWaitSt) (s : State) : State :=
  if handleCurrent s hdl then
    let c := cueAt s (cueNum hdl)
    cueCheck (cueNum hdl) (setCue (cueNum hdl) { c with waits := c.waits ++ [w] } s)
  else dropWait w (cueStale hdl s)

/-- A change of owner, a Cut or `CUE_FREE`: the value becomes 0, the waiters are dropped, the take advances
(R96, R107, R108). `quiet`: a Cut, whose contexts are faulted by the Cut itself and which leaves `CUE_REMOTE` alone (R271). -/
def cueRelease (n : Nat) (quiet : Bool) (s : State) : State :=
  let c := cueAt s n
  let s := setCue n Cue.init s
  let s := when (!quiet) (forEach c.waits dropWait) s
  callAdvance (takeKey (.cue (Fin.ofNat 8192 n)))
    (when (!quiet) (rput .cueRemote (n / 32) (setBits (n % 32) (n % 32) 0 (rget s .cueRemote (n / 32)))) s)

/-! ### Cues of the other half (R346) -/

/-- The base runs without H1 or H1 is held off (R358–R360): the other half cannot be reached. -/
def farGone (s : State) : Bool := decide (s.zor.halves = 2)

/-- A signal from an agent of a half: at the cue's half at once, or as a `CUE` message over Zoram. -/
def signalFrom (h : Half) (hdl : W32) (inc : Nat) (s : State) : State :=
  if cueHalf (cueNum hdl) = h ∨ malformed hdl ∨ !cueThere s (cueNum hdl) then cueSignal hdl inc s
  else if farGone s then s
  else sendCue (.half h.other) 1 ((cueFunc s (cueNum hdl)).getD 0) 0 hdl inc 0 false s

/-- A wait from an agent of a half, held under a tag of that half while it is with the other; a half that cannot be reached holds
no cue to wait on, so the wait is dropped (log entry 86). -/
def waitFrom (h : Half) (hdl : W32) (w : CueWaitSt) (s : State) : State :=
  if cueHalf (cueNum hdl) = h ∨ malformed hdl ∨ !cueThere s (cueNum hdl) then cueWait hdl w s
  else if farGone s then dropWait w s
  else
    let tag := s.zor.xNext % 4096
    let m := s.zor.xWaits.insert (4096 * h.num + tag) w.who
    let s := { s with zor := { s.zor with xWaits := m, xNext := s.zor.xNext + 1 } }
    sendCue (.half h.other) 2 ((cueFunc s (cueNum hdl)).getD 0) tag hdl 0 w.threshold w.consume s

/-- A signal by a handle that a field holds: a malformed one signals nothing and is recorded only (R94). -/
def signalField (h : Half) (hdl : W32) (inc : Nat) (s : State) : State :=
  if malformed hdl then event h 0x0204 0 none 0 0 94 s else signalFrom h hdl inc s

/-- A signal by cue number with its current take, as the fields that hold cue numbers say. -/
def signalNum (h : Half) (n inc : Nat) (s : State) : State := signalFrom h (currentHandle s n) inc s

/-! ### Commands -/

/-- SIGNAL (R346, R361): a cue signal that arrived over Zoram, applied at the cue's half. A guest's malformed
handle is answered with CUE_REFUSED. -/
def doSignal (src : ZSrc) (func : Fin 16) (cue : W32) (inc : Fin 256) (s : State) : State :=
  match src with
  | .site g =>
    if malformed cue || decide (cueFunc s (cueNum cue) ≠ some func.val) then
      sendCue (.site g) 4 func 0 cue inc 0 false s
    else cueSignal cue inc s
  | .half _ => cueSignal cue inc s

/-- WAIT (R346, R361): a cue wait that arrived over Zoram; one withdrawn meanwhile is over (R253). -/
def doWait (src : ZSrc) (func : Fin 16) (tag : BitVec 12) (cue : W32) (thr : BitVec 16) (consume : Bool)
    (s : State) : State :=
  match src with
  | .site g =>
    if malformed cue || decide (cueFunc s (cueNum cue) ≠ some func.val) then
      sendCue (.site g) 4 func tag.toNat cue 0 thr.toNat consume s
    else cueWait cue ⟨.site g tag.toNat, thr.toNat, consume⟩ s
  | .half h =>
    if (s.zor.xWaits.find? (4096 * h.num + tag.toNat)).isNone then s
    else cueWait cue ⟨.half h tag.toNat, thr.toNat, consume⟩ s

/-- WAIT_DONE (R346): the other half answers; the agent that waits under this tag runs on. -/
def doWaitDone (h : Half) (tag : BitVec 12) (s : State) : State :=
  match s.zor.xWaits.find? (4096 * h.num + tag.toNat) with
  | none => s
  | some who =>
    wake 0 ⟨who, 0, true⟩
      { s with zor := { s.zor with xWaits := s.zor.xWaits.erase (4096 * h.num + tag.toNat) } }

/-- CUE_VALUE_WRITE (R108): the value is set at the cue's point of acceptance and the waiters are checked. -/
def doCueValue (n v : Nat) (s : State) : State := cueSet n (lowBits 24 v) s

/-- A write of CUE_OWNER (R108): a change of owner releases the cue first. -/
def doCueOwner (n v : Nat) (s : State) : State :=
  let new := lowBits 5 v
  if rget s .cueOwner n = new then s
  else rput .cueOwner n new (cueRelease n false s)

/-- TAKE_ADVANCE (R222): an advance that fell due takes place once 1 ms has passed since the last. -/
def doTakeAdvance (k : Nat) (s : State) : State :=
  let t := takeSt s k
  if t.due then stepTake k (atTime (t.last.getD 0 + ms 1) s) else s

end Sys2Proof.Machine
end

