-- ==== Sys2Proof/Machine/McTx.lean ====
section
/-! DEFINITION. Multicast operations at a replication point (R295–R299): branches, hold space, acknowledgements. The copy
for the base itself is held in branch 16 until it is delivered. -/

namespace Sys2Proof.Machine

open Sys2Proof

/-- The branches of a multicast group at this base, apart from the port a packet came by (R295); none when the entry is
not valid. -/
def mcPorts (s : State) (g : Nat) (up : Option Nat) : Option (List Nat) :=
  let v := rget s .mgroup g
  if !natBit 17 v then none
  else
    let ps := (List.range 16).filter (fun p => natBit p v && decide (up ≠ some p) && hasHalf s (halfOf 8 p))
    some (ps ++ (if natBit 16 v then [16] else []))

/-- The multicast hold time in clock units. -/
def mcHold (s : State) : Nat := 1000 * max 1 (rbits s .linkCfg 0 7 0)

/-- An `MC_ACK` with nothing in it. -/
def noAck : McAckInfo := ⟨0, 0, [], false⟩

def newBranch (p t : Nat) : McBranch := ⟨p, [], t, false, false, false, noAck⟩

/-- The packet is the last of its operation (R285, R296). -/
def mcLast (pkt : Packet) : Bool := decide (pkt.kind ≠ 1#4) || natBit 6 pkt.addr.toNat

/-- An operation is identified by its source, tag and take (R296). -/
def isMcOp (src : BitVec 16) (tag : BitVec 12) (take : BitVec 8) (o : McOp) : Bool :=
  decide (o.src = src) && decide (o.tag = tag) && decide (o.take = take)

/-- The hold space of a port in use, in bytes. -/
def holdUsed (s : State) (p : Nat) : Nat :=
  (s.link.mcops.map (fun o => (o.branches.map (fun b =>
    if b.port = p then (b.held.map (fun c => (pktBytes c.pkt).length)).sum else 0)).sum)).sum

/-- The port can take a packet of a class now. -/
def portTakes (s : State) (p : Nat) (pkt : Packet) : Bool :=
  match vcOf pkt.kind.toNat pkt.op.toNat with
  | some vc => portUsable s p && decide (0 < (portAt s p).credits.getD (classKey vc pkt.dl) 0)
  | none => false

/-- Queue a copy on a port. -/
def mcQueue (p : Nat) (pkt : Packet) (s : State) : State :=
  match vcOf pkt.kind.toNat pkt.op.toNat with
  | some vc => queuePkt p vc pkt s
  | none => s

/-- Give a copy to a branch: taken at once, or held (R297). -/
def mcGive (pkt : Packet) (b : McBranch) (s : State) : McBranch × State :=
  let last := mcLast pkt
  if b.failed then (b, s)
  else if b.port < 16 && decide (b.held = []) && portTakes s b.port pkt then
    ({ b with lastT := s.clock, tookLast := b.tookLast || last }, mcQueue b.port pkt s)
  else ({ b with held := b.held ++ [⟨pkt, last, s.clock⟩] }, s)

def mcGiveAll (pkt : Packet) : List McBranch → State → List McBranch × State
  | [], s => ([], s)
  | b :: bs, s =>
    let r := mcGive pkt b s
    let rs := mcGiveAll pkt bs r.2
    (r.1 :: rs.1, rs.2)

/-- Change the operations. -/
def setMcops (l : List McOp) (s : State) : State := { s with link := { s.link with mcops := l } }

/-- The failure entry of a failed branch (R298): its peer with everything behind it, or the base itself. -/
def branchFail (s : State) (b : McBranch) : McAckInfo :=
  if b.port < 16 then ⟨0, 1, [((portAt s b.port).peerDev, true)], false⟩ else ⟨0, 1, [(ownDev s, false)], false⟩

/-- Merge acknowledgements (R298): counts saturate, eight entries are kept. -/
def mergeAcks (l : List McAckInfo) : McAckInfo :=
  let fails := l.flatMap (fun a => a.fails)
  ⟨min 0xFFFF (l.map (fun a => a.okCount)).sum, min 0xFFFF (l.map (fun a => a.failCount)).sum, fails.take 8,
   l.any (fun a => a.more) || decide (8 < fails.length)⟩

/-- The data of an `MC_ACK`. -/
def ackData (a : McAckInfo) : Sec256 :=
  let sub := (a.fails.zipIdx.map (fun e => if e.1.2 then 2 ^ e.2 else 0)).sum
  let devs := (a.fails.zipIdx.map (fun e => e.1.1.toNat * 2 ^ (64 + 16 * e.2))).sum
  BitVec.ofNat 256 (a.okCount + a.failCount * 2 ^ 16 + sub * 2 ^ 32 + b2n a.more * 2 ^ 40 + devs)

/-- The targets that failed a snoop of the base's own are noted for its home (R203, R210): those that are named one by one
(R299). Groups from 4,032 on are those of the coherence blocks (R295). -/
def noteMcFails (o : McOp) (info : McAckInfo) (s : State) : State :=
  let ds := (info.fails.filter (fun f => !f.2)).map Prod.fst
  if o.group < 4032 ∨ ds = [] then s
  else { s with coh := { s.coh with mcFails := s.coh.mcFails ++ [(o.tag.toNat, o.take, ds)] } }

/-- The acknowledgement of an operation is formed: it goes upstream, or at the source to the agent that waits (R298,
R299). -/
def mcFinish (o : McOp) (s : State) : State :=
  let info := mergeAcks (o.branches.map (fun b => if b.failed then branchFail s b else b.info))
  match o.up with
  | some p =>
    let pkt := { blankPkt with
      dest := (portAt s p).peerDev, src := ownDev s, kind := 4#4, op := 4#8, tag := o.tag, take := o.take
      data := [ackData info] }
    queuePkt p 3 pkt (emit (.mcAck p o.src o.tag o.take info) s)
  | none =>
    let s := noteMcFails o info s
    let ans : RAns := if info.failCount = 0 then .done else .err 17
    let qs := s.dolly.queues.map (fun e => (e.1, { e.2 with active := e.2.active.map (fun d =>
      { d with branches := d.branches.map (fun b =>
        if decide (b.kind = 4) && b.sent && decide (b.tag = o.tag.toNat) && decide (b.take = o.take) then
          { b with rans := some ans }
        else b) }) }))
    { s with dolly := { s.dolly with queues := qs } }

/-- Operations whose last packet is out and whose branches have all answered or failed are over. -/
def mcSettle (s : State) : State :=
  let ended (o : McOp) : Bool := o.complete && o.branches.all (fun b => b.acked || b.failed)
  forEach (s.link.mcops.filter ended) mcFinish (setMcops (s.link.mcops.filter (fun o => !ended o)) s)

/-- A multicast packet at this replication point (R295–R297): none when it must wait upstream, for a full hold space or for
a free place among 1,024 operations. `up`: the port it came by; none at its source. -/
def mcReplicate (up : Option Nat) (pkt : Packet) (s : State) : Option State :=
  match mcPorts s (pkt.dest.toNat % 4096) up with
  | none => some (countLink .noRoute s)
  | some ps =>
    if (ps.filter (fun p => decide (p < 16))).any (fun p => decide (0x40000 ≤ holdUsed s p)) then none
    else
      let mine := isMcOp pkt.src pkt.tag pkt.take
      match s.link.mcops.find? mine with
      | some o =>
        let r := mcGiveAll pkt o.branches s
        let o' := { o with branches := r.1, complete := o.complete || mcLast pkt }
        some (mcSettle (setMcops (r.2.link.mcops.map (fun x => if mine x then o' else x)) r.2))
      | none =>
        if 1024 ≤ s.link.mcops.length then none
        else
          let r := mcGiveAll pkt (ps.map (fun p => newBranch p s.clock)) s
          let o : McOp := ⟨pkt.src, pkt.tag, pkt.take, pkt.dest.toNat % 4096, up, r.1, mcLast pkt⟩
          some (mcSettle (setMcops (r.2.link.mcops ++ [o]) r.2))

/-- Held copies of one branch that its port can take now. One that is too old is discarded (R221). -/
def mcPush : Nat → McBranch → State → McBranch × State
  | 0, b, s => (b, s)
  | n + 1, b, s =>
    match b.held with
    | [] => (b, s)
    | c :: cs =>
      if b.failed || decide (16 ≤ b.port) then (b, s)
      else if tooOld s c.pkt c.t then mcPush n { b with held := cs } (countLink .aged s)
      else if portTakes s b.port c.pkt then
        mcPush n { b with held := cs, lastT := s.clock, tookLast := b.tookLast || c.last }
          (mcQueue b.port { c.pkt with age := leavingAge s c.pkt c.t } s)
      else (b, s)

def mcPushAll (p : Nat) : List McBranch → State → List McBranch × State
  | [], s => ([], s)
  | b :: bs, s =>
    let r := if b.port = p then mcPush b.held.length b s else (b, s)
    let rs := mcPushAll p bs r.2
    (r.1 :: rs.1, rs.2)

/-- Credits came back to a port: its held copies move on. -/
def mcDrain (p : Nat) (s : State) : State :=
  forEach s.link.mcops (fun o s =>
    if o.branches.any (fun b => decide (b.port = p) && decide (b.held ≠ [])) then
      let r := mcPushAll p o.branches s
      setMcops (r.2.link.mcops.map (fun x => if isMcOp o.src o.tag o.take x then { x with branches := r.1 } else x)) r.2
    else s) s

/-- Change one branch of the operations that match. -/
def modBranch (which : McOp → Bool) (p : Nat) (f : McBranch → McBranch) (s : State) : State :=
  setMcops (s.link.mcops.map (fun o =>
    if which o then { o with branches := o.branches.map (fun b => if b.port = p then f b else b) } else o)) s

/-- MC_ACK (R298): a branch acknowledges. -/
def doMcAck (src : BitVec 16) (tag : BitVec 12) (take : BitVec 8) (p : Nat) (info : McAckInfo) (s : State) : State :=
  mcSettle (modBranch (isMcOp src tag take) p (fun b =>
    if b.failed then b else { b with acked := true, info := info }) s)

/-- MC_HOLD_EXPIRE (R297): a branch without progress fails; its copies are discarded. -/
def doMcHoldExpire (n p : Nat) (s : State) : State :=
  match s.link.mcops[n]? with
  | none => s
  | some o =>
    match o.branches.find? (fun b => decide (b.port = p)) with
    | none => s
    | some b =>
      if b.failed || b.acked then s
      else
        let s := atTime (b.lastT + mcHold s) s
        mcSettle (modBranch (isMcOp o.src o.tag o.take) p (fun b => { b with failed := true, held := [] }) s)

/-- Send a packet as a multicast of the base's own (R299): none while it must wait. -/
def mcSend (g : Nat) (pkt : Packet) (s : State) : Option State :=
  if idOk s then
    mcReplicate none { pkt with src := ownDev s, mc := true, dest := BitVec.ofNat 16 (g % 4096), age := 0, dl := false } s
  else some (countLink .noRoute s)

end Sys2Proof.Machine
end

