-- ==== Sys2Proof/Machine/Mem.lean ====
section
/-! DEFINITION. Memory: where a DPA lies (R24–R26, R110–R112, R155, R462), who may reach it (R25, R489), the bytes
and side bits of the stacks, the adders' functions (R133), and the pseudo-channels (R163–R177). -/

namespace Sys2Proof.Machine

open Sys2Proof

/-! ### Where an address lies -/

/-- The regions of the DPA map (R24). -/
inductive Region where
  | memory | scratch | config | unmapped
  deriving DecidableEq, Repr

/-- The region of a DPA (R24, R26, R27). -/
def region (s : State) (a : Nat) : Region :=
  if a < numHalves s * 0x010000000000 then .memory
  else if 0x400000000000 ≤ a ∧ a < 0x400000000000 + numHalves s * 0x10000000 then .scratch
  else if 0x7F0000000000 ≤ a ∧ a < 0x7F0200000000 then .config
  else .unmapped

/-- The effective mode of a segment: 0 unmapped, 1 uniform, 2 near (R152). -/
def segMode (s : State) (seg : Nat) : Nat :=
  let m := rbits s .segMap seg 12 11
  if m = 3 then 0 else m

/-- The segment lies on slices of one half only, or of the whole base: true when a granule takes one slot. -/
def oneSlot (s : State) (seg : Nat) : Bool := s.part = .mb2 && decide (segMode s seg = 1)

/-- The folds of R110. -/
def fold8 (g : Nat) : Nat :=
  natBits 7 0 g ^^^ natBits 15 8 g ^^^ natBits 23 16 g ^^^ natBits 31 24 g ^^^ natBits 36 32 g
def fold7 (g : Nat) : Nat :=
  natBits 6 0 g ^^^ natBits 13 7 g ^^^ natBits 20 14 g ^^^ natBits 27 21 g ^^^ natBits 34 28 g ^^^ natBits 36 35 g

/-- The first slice of a segment's set: 128 for a segment near H1. -/
def sliceBase (s : State) (seg : Nat) : Nat :=
  if s.part = .mb2 && decide (segMode s seg = 2) && rbit s .segMap seg 13 then 128 else 0

/-- The slice that the hash gives a granule, before any substitution (R110). -/
def hashSlice (s : State) (g : Nat) : Nat :=
  let seg := g / 2 ^ 19
  if oneSlot s seg then fold8 g else sliceBase s seg + fold7 g

/-- The slot and rank within the slot of a granule (R110, R111). -/
def granSlot (s : State) (g : Nat) : Nat × Nat :=
  let seg := g / 2 ^ 19
  let r := if oneSlot s seg then natBits 18 8 g else natBits 18 7 g
  (rbits s .segMap seg 10 0 + r / 2048, r % 2048)

/-- The degraded state of a half. -/
def deg (s : State) (h : Half) : DegSt :=
  match h with
  | .h0 => s.deg0
  | .h1 => s.deg1

/-- The other stacks of a half in ascending order, within the half (R462). -/
def otherStacks (k : Nat) : List Nat := (List.range 8).filter (· ≠ k)

/-- A slice is substituted (R462): its substitute. -/
def substitute (s : State) (l : Nat) : Option Nat :=
  let h := halfOf 128 l
  let d := deg s h
  if d.subValid && decide (l / 16 % 8 = d.subStack) then
    let j := l % 16
    some (16 * (8 * h.num + (otherStacks d.subStack).getD (j % 7) 0) + j)
  else none

/-- The home of a memory DPA: its slice and its slice-local address (R110, R111, R462); none when its segment is
unmapped. -/
def homeOf (s : State) (a : Nat) : Option (Nat × Nat) :=
  let g := a / 2048
  if segMode s (g / 2 ^ 19) = 0 then none
  else
    let l := hashSlice s g
    let sr := granSlot s g
    match substitute s l with
    | none => some (l, sr.1 * 2 ^ 22 + sr.2 * 2048 + a % 2048)
    | some l' => some (l', (sr.1 ^^^ 0x400) * 2 ^ 22 + sr.2 * 2048 + a % 2048)

/-- The segments with a value in the segment map. -/
def listedSegs (s : State) : List Nat :=
  s.regs.val.filterMap (fun kv => if kv.1 % 256 = regNum .segMap then some (kv.1 / 256) else none)

/-- The segment uses a slot of a slice (R111). -/
def segUses (s : State) (l slot seg : Nat) : Bool :=
  let n := rbits s .segMap seg 10 0
  decide (segMode s seg ≠ 0) &&
  (if oneSlot s seg then decide (slot = n)
   else (decide (slot = n) || decide (slot = n + 1)) &&
     (s.part = .mb1 || decide (sliceBase s seg ≤ l ∧ l < sliceBase s seg + 128)))

/-- The granule number of a rank of a segment on a slice of its set: the hash run backwards (R110). -/
def granAt (s : State) (l slot r seg : Nat) : Nat :=
  if oneSlot s seg then
    let g0 := seg * 2 ^ 19 + r * 256
    g0 + (fold8 g0 ^^^ l)
  else
    let r' := r + 2048 * (slot - rbits s .segMap seg 10 0)
    let g0 := seg * 2 ^ 19 + r' * 128
    g0 + (fold7 g0 ^^^ (l % 128))

/-- The DPA of a byte of a slice, if a mapped segment holds it there without substitution. -/
def dpaDirect (s : State) (l sla : Nat) : Option Nat :=
  let slot := sla / 2 ^ 22
  match (listedSegs s).find? (segUses s l slot) with
  | some seg =>
    let g := granAt s l slot (sla / 2048 % 2048) seg
    if substitute s (hashSlice s g) = none then some (g * 2048 + sla % 2048) else none
  | none => none

/-- The DPA of a byte of a slice (R110, R462). -/
def dpaOf (s : State) (l sla : Nat) : Option Nat :=
  match dpaDirect s l sla with
  | some a => some a
  | none =>
    let h := halfOf 128 l
    let d := deg s h
    if !d.subValid then none
    else
      let l0 := 16 * (8 * h.num + d.subStack) + l % 16
      let slot := sla / 2 ^ 22 ^^^ 0x400
      match (listedSegs s).find? (segUses s l0 slot) with
      | some seg => some (granAt s l0 slot (sla / 2048 % 2048) seg * 2048 + sla % 2048)
      | none => none

/-- The partition of a segment's memory, and its function while the partition exists. -/
def segPart (s : State) (seg : Nat) : Nat := rbits s .segMap seg 21 16
def partFunc (s : State) (p : Nat) : Option Nat :=
  if rbit s .partCfg p 4 then some (rbits s .partCfg p 3 0) else none
def segFunc (s : State) (seg : Nat) : Option Nat :=
  if segMode s seg = 0 then none else partFunc s (segPart s seg)

/-- The function that owns the segment of a DPA. -/
def dpaFunc (s : State) (a : Nat) : Option Nat := segFunc s (a / 2 ^ 30)

/-- The DPA lies in the spare region (R172). -/
def inSpare (s : State) (a : Nat) : Bool :=
  match s.part with
  | .mb2 => decide ((0x01FF60000000 ≤ a ∧ a ≤ 0x01FF7FFFFFFF) ∨ (0x01FFE0000000 ≤ a ∧ a ≤ 0x01FFFFFFFFFF))
  | .mb1 => decide (0x00FFE0000000 ≤ a ∧ a ≤ 0x00FFFFFFFFFF)

/-- A byte lies in the memory of function f (R489). -/
def inFuncMem (s : State) (f a : Nat) : Bool :=
  region s a = .memory && decide (dpaFunc s a = some f) && !rbit s .segMap (a / 2 ^ 30) 14 && !inSpare s a

/-- A byte lies in mapped memory that is not held (R143, for F0). -/
def inMapped (s : State) (a : Nat) : Bool :=
  region s a = .memory && decide (segMode s (a / 2 ^ 30) ≠ 0) && !rbit s .segMap (a / 2 ^ 30) 14 && !inSpare s a

/-- Where the checked property of bytes can change within an extent: its ends, and the starts of the segments and
half segments it meets. -/
def checkPoints (a len : Nat) : List Nat :=
  if len = 0 then []
  else
    let first := a / 2 ^ 29
    let last := (a + len - 1) / 2 ^ 29
    a :: (a + len - 1) :: (List.range (min (last - first) 4100)).map (fun i => (first + 1 + i) * 2 ^ 29)

/-- Every byte of an extent lies in the function's memory (R489). -/
def extentIn (s : State) (f a len : Nat) : Bool := (checkPoints a len).all (inFuncMem s f)

/-- The slice, line, sector and channel of a memory DPA. -/
structure Loc where
  sl : Nat
  line : Nat
  sec : Nat
  deriving DecidableEq, Repr

/-- The location of the sector of a DPA. -/
def locOf (s : State) (a : Nat) : Option Loc :=
  (homeOf s a).map (fun p => ⟨p.1, p.2 / 128, p.2 / 32 % 4⟩)

/-- The pseudo-channel of a line (R112). -/
def chanOf (sl line : Nat) : Nat := 4 * sl + line % 4

/-- The sector index within the pseudo-channel (R155). -/
def sectorIndex (line sec : Nat) : Nat :=
  let col := natBits 4 2 line * 4 + sec
  let bank := natBits 10 5 line ^^^ natBits 16 11 line
  natBits 25 11 line * 2048 + bank * 32 + col

/-- The line and sector of a sector index on one of the slice's channels: the decode run backwards. -/
def lineOfIndex (c idx : Nat) : Nat × Nat :=
  let col := idx % 32
  let bank := idx / 32 % 64
  let row := idx / 2048
  let mid := bank ^^^ natBits 5 0 row
  (row * 2048 + mid * 32 + col / 4 * 4 + c % 4, col % 4)

/-- The stack of a slice or a channel. -/
def stackOfSlice (sl : Nat) : Nat := sl / 16
def stackOfChan (c : Nat) : Nat := c / 64

/-- A stack. -/
def stackAt (s : State) (k : Nat) : StackSt := s.mem.stacks_.getD k StackSt.init
def setStack (k : Nat) (t : StackSt) (s : State) : State :=
  { s with mem := { s.mem with stacks_ := s.mem.stacks_.insert k t } }

/-- A pseudo-channel. -/
def chanAt (s : State) (c : Nat) : Chan := s.mem.chans.getD c Chan.init
def setChan (c : Nat) (x : Chan) (s : State) : State :=
  { s with mem := { s.mem with chans := s.mem.chans.insert c x } }

/-- The power domain of a stack sleeps or wakes (R410, R411): its accesses are held until it is ON. -/
def stackAsleep (s : State) (k : Nat) : Bool :=
  match s.pwr.doms.find? (35 * (k / 8) + 20 + k % 8) with
  | some d => decide (d.st = 3) || decide (d.st = 4)
  | none => false

/-- The channel serves accesses now: in service, its stack not fenced and not asleep. -/
def chanOpen (s : State) (c : Nat) : Bool :=
  (chanAt s c).inService && decide ((stackAt s (stackOfChan c)).fence = 0) && !stackAsleep s (stackOfChan c)

/-- The stack is gone: lost, excluded, or never brought into service; its accesses fail at once (R158, R177). -/
def stackGone (s : State) (k : Nat) : Bool := decide ((stackAt s k).fence = 3)

/-! ### Bytes and side bits of the stacks -/

/-- What an unlisted byte of the stacks reads as: the zero fill of training (R157). -/
def dramDefault : Byte := 0

/-- One byte of the stacks. -/
def dramByte (m : MemSt) (k : Nat) : Byte := NMap.getD m.dram k dramDefault

/-- The data of a physical sector. -/
def dramSector (m : MemSt) (k : Nat) : Sec256 :=
  ofBytes 256 ((List.range 32).map (fun i => dramByte m (32 * k + i)))

/-- Write bytes from a key on. -/
def dramPut : List Byte → Nat → List Host.Cell → List Host.Cell
  | [], _, m => m
  | b :: bs, k, m => dramPut bs (k + 1) (NMap.setD m k dramDefault b)

/-- The check bits of a word (R163). -/
def wordCheck (w : W32) : BitVec 7 := if w = 0 then 0 else Config.secded w

/-- Word i of a sector. -/
def secWord (d : Sec256) (i : Nat) : W32 := BitVec.ofNat 32 (d.toNat / 2 ^ (32 * i))

/-- The 64 side bits of a sector (R163): check fields [55:0], the bits [59:56] that are given as a number (poison 1, dead 2,
compressed 4, reduce-pending 8), and even parity over these in [60]. -/
def sideWord (d : Sec256) (bits : Nat) : Nat :=
  let b := bits % 16
  let par := (natBits 0 0 b + natBits 1 1 b + natBits 2 2 b + natBits 3 3 b) % 2
  (List.range 8).foldl (fun a i => a + (wordCheck (secWord d i)).toNat * 2 ^ (7 * i)) 0 + b * 2 ^ 56 + par * 2 ^ 60

/-- The side word of a physical sector, as a burst carries it. -/
def sideOf (m : MemSt) (k : Nat) : Nat :=
  let v := m.side.getD k 0
  if v < 16 then sideWord (dramSector m k) v else v / 32 % 2 ^ 64

/-- Write a physical sector: data and side bits (poison 1, dead 2, compressed 4, reduce-pending 8). -/
def dramWrite (k : Nat) (d : Sec256) (side : Nat) (m : MemSt) : MemSt :=
  { m with dram := dramPut (bytesOf 32 d) (32 * k) m.dram, side := m.side.setD k 0 side }

/-- The canonical form of the memory. -/
def MemSt.wf (m : MemSt) : Bool := NMap.wf dramDefault m.dram && NMap.wf 0 m.side

/-! ### Data under masks, and the adders (R133) -/

/-- The bits of a byte mask. -/
def maskBits (m : W32) : Sec256 :=
  ofBytes 256 ((List.range 32).map (fun i => if natBit i m.toNat then 0xFF#8 else 0#8))

/-- Merge the masked bytes of new data into old. -/
def mergeMask (m : W32) (new old : Sec256) : Sec256 := (new &&& maskBits m) ||| (old &&& ~~~ maskBits m)

/-- Every byte is named. -/
def fullMask : W32 := 0xFFFFFFFF#32

/-- One element of an FP type combined (R133): addition rounds to nearest even and overflows to infinity. -/
def combineF (p : FFmt) (op : AddOp) (a b : Nat) : Nat :=
  let x := decodeF p a
  let y := decodeF p b
  match op with
  | .add =>
    match x, y with
    | .nan, _ => p.nanCode
    | _, .nan => p.nanCode
    | .inf u, .inf v => if u = v then b2n u * p.signBit + p.infCode else p.nanCode
    | .inf u, .fin .. => b2n u * p.signBit + p.infCode
    | .fin .., .inf v => b2n v * p.signBit + p.infCode
    | .fin n1 m1 e1, .fin n2 m2 e2 =>
      let r := addExact n1 m1 e1 n2 m2 e2
      if r.1 = 0 then b2n (n1 && n2) * p.signBit
      else (narrowFin p false .rne (decide (r.1 < 0)) r.1.natAbs r.2).1
  | _ =>
    let isNan : FVal → Bool := fun v => match v with
      | .nan => true
      | _ => false
    let key : Nat → Int := fun c =>
      if natBit (p.eb + p.mb) c then -(lowBits (p.eb + p.mb) c : Int) - 1 else lowBits (p.eb + p.mb) c
    if isNan x || isNan y then p.nanCode
    else
      let le := decide (key a ≤ key b)
      match op with
      | .min => if le then a else b
      | _ => if le then b else a

/-- One element of an integer type combined (R133). -/
def combineI (w : Nat) (op : AddOp) (a b : Nat) : Nat :=
  match op with
  | .add => (a + b) % 2 ^ w
  | .min => if sext w a ≤ sext w b then a else b
  | .max => if sext w a ≤ sext w b then b else a

/-- The element width of a type (R132). -/
def elemWidth : AddTy → Nat
  | .fp32 => 32
  | .bf16 => 16
  | .fp16 => 16
  | .int32 => 32
  | .int64 => 64

/-- One element combined. -/
def combineElem (ro : RedOp) (a b : Nat) : Nat :=
  match ro.ty with
  | .fp32 => combineF fp32 ro.op a b
  | .bf16 => combineF bf16 ro.op a b
  | .fp16 => combineF fp16 ro.op a b
  | .int32 => combineI 32 ro.op a b
  | .int64 => combineI 64 ro.op a b

/-- Combine `n` elements of width `w` from the lowest. -/
def combineGo (ro : RedOp) (w : Nat) : Nat → Nat → Nat → Nat
  | 0, _, _ => 0
  | n + 1, a, b =>
    combineElem ro (a % 2 ^ w) (b % 2 ^ w) + 2 ^ w * combineGo ro w n (a / 2 ^ w) (b / 2 ^ w)

/-- An operand combined into a sector: the sector's value is the left operand (R133). -/
def combine (ro : RedOp) (a b : Sec256) : Sec256 :=
  let w := elemWidth ro.ty
  BitVec.ofNat 256 (combineGo ro w (256 / w) a.toNat b.toNat)

/-! ### The pseudo-channel -/

/-- The entry of the redirect table that serves a row, if any. -/
def redirOf (x : Chan) (row bank : Nat) : Option (Nat × Redir) :=
  List.find? (fun e => decide (e.2.row = row ∧ e.2.bank = bank)) x.redir

/-- The sector index of spare k with a column (R172). -/
def spareIndex (k col : Nat) : Nat := (32752 + k / 64) * 2048 + k % 64 * 32 + col

/-- The sector index that serves after redirects (R173). -/
def physIndex (x : Chan) (idx : Nat) : Nat :=
  match redirOf x (idx / 2048) (idx / 32 % 64) with
  | some e => spareIndex e.2.spare (idx % 32)
  | none => idx

/-- The key of a sector in the stacks' memory. -/
def physKey (s : State) (c idx : Nat) : Nat := 2 ^ 26 * c + physIndex (chanAt s c) idx

/-- The bits [59:56] of the side word of a physical sector. -/
def metaOf (m : MemSt) (k : Nat) : Nat :=
  let v := m.side.getD k 0
  if v < 16 then v else v / 2 ^ 61 % 16

/-- Data and side bits of a sector as memory holds them. -/
def rawRead (s : State) (c idx : Nat) : Sec256 × Nat :=
  let k := physKey s c idx
  (dramSector s.mem k, metaOf s.mem k)

/-- Write a sector to memory. -/
def rawWrite (c idx : Nat) (d : Sec256) (side : Nat) (s : State) : State :=
  { s with mem := dramWrite (physKey s c idx) d side s.mem }

/-- The DPA and function behind a sector of a channel, for records. -/
def sectorOwner (s : State) (sl line sec : Nat) : Nat × Option Nat :=
  match dpaOf s sl (line * 128 + sec * 32) with
  | some a => (a, dpaFunc s a)
  | none => (0, none)

/-- The lowest spare neither in use nor retired. -/
def freeSpare (x : Chan) : Option Nat :=
  (List.range 1024).find? (fun k => !(x.spareRetired.contains k) && x.redir.all (fun e => decide (e.2.spare ≠ k)))

/-- The lowest free redirect entry. -/
def freeRedir (x : Chan) : Option Nat := (List.range 1024).find? (fun e => (x.redir.find? e).isNone)

/-- CRC-16 with polynomial 0x1021, most significant bit first, over one byte. -/
def crc16Byte (crc b : Nat) : Nat :=
  (List.range 8).foldl (fun c _ =>
    if natBit 15 c then (2 * c % 0x10000) ^^^ 0x1021 else 2 * c % 0x10000) (crc ^^^ (b * 256))

/-- CRC-16 with polynomial 0x1021 and initial value 0xFFFF (R176, R347). -/
def crc16 (bs : List Byte) : Nat := bs.foldl (fun c b => crc16Byte c b.toNat) 0xFFFF

/-- A repair log record (R176). -/
def repairRecord (c bank row kind : Nat) : Nat :=
  let body := stackOfChan c % 8 + (halfOf 512 c).num * 8 + c % 64 * 16 + bank * 1024 + row * 2 ^ 16 + kind * 2 ^ 32
  body + crc16 (natLe 6 body) * 2 ^ 48

/-- Cadun appends a record to the repair log (R176). -/
def logRepair (c bank row kind : Nat) (s : State) : State :=
  { s with mem := { s.mem with repairLog := s.mem.repairLog ++ [repairRecord c bank row kind] } }

/-- The two granules of a row, ranks r and r + 1 of its slice (R155, R175). -/
def rowGranules (c bank row : Nat) : List RetGranule :=
  let g0 := (lineOfIndex c (row * 2048 + bank * 32)).1 / 16 / 2 * 2
  [⟨c / 4, g0⟩, ⟨c / 4, g0 + 1⟩]

/-- List and report the granules of a row that are not retired yet (R175): with their DPA and owner. -/
def listGranules (c bank row : Nat) (s : State) : State :=
  forEach (rowGranules c bank row) (fun g s =>
    if s.mem.retired.contains g then s
    else
      let own := sectorOwner s g.sl (g.granule * 16) 0
      event (halfOf 512 c) 0x0506 2 own.2 c own.1 175 { s with mem := { s.mem with retired := s.mem.retired ++ [g] } }) s

/-- Retire the granules of a row (R175), once. -/
def retireRow (c bank row : Nat) (s : State) : State :=
  if (rowGranules c bank row).all s.mem.retired.contains then s else listGranules c bank row (logRepair c bank row 3 s)

/-- Copy the 32 sectors of a row, as now served, to a spare (R173). `bad`: columns with uncorrectable words, whose reads are
counted and recorded (R164) and whose copies are poisoned; `own`: the column whose read found the error, with what that read
returned. -/
def copyRow (c row bank spare : Nat) (bad : List Nat) (own : Nat × Sec256 × Nat) (s : State) : State :=
  forEach (List.range 32) (fun col s =>
    let idx := row * 2048 + bank * 32 + col
    let r := rawRead s c idx
    if col = own.1 then { s with mem := dramWrite (2 ^ 26 * c + spareIndex spare col) own.2.1 own.2.2 s.mem }
    else if bad.contains col then
      let v := freeNat 256 s
      let ln := lineOfIndex c idx
      let who := sectorOwner v.2 (c / 4) ln.1 ln.2
      let s := event (halfOf 512 c) 0x0502 2 who.2 c who.1 164 (bumpSat .chUe c 15 0 1 v.2)
      { s with mem := dramWrite (2 ^ 26 * c + spareIndex spare col) (BitVec.ofNat 256 v.1) (r.2 / 2 * 2 + 1) s.mem }
    else { s with mem := dramWrite (2 ^ 26 * c + spareIndex spare col) r.1 r.2 s.mem }) s

/-- A spare row, under its own index, is spare k of its channel (R172). -/
def spareOfRow (row bank : Nat) : Option Nat := if 32752 ≤ row then some ((row - 32752) * 64 + bank) else none

/-- The redirect entry through which a row serves: its own, or for a row of the spare region the one that uses it (R174). -/
def servingEntry (x : Chan) (row bank : Nat) : Option (Nat × Redir) :=
  match spareOfRow row bank with
  | some k => List.find? (fun e => decide (e.2.spare = k)) x.redir
  | none => redirOf x row bank

/-- A row meets the condition of R173: it is redirected, or its spare replaced (R174), or its granules retired
(R175). A spare row that is not in use needs nothing. -/
def redirectRow (c row bank : Nat) (bad : List Nat) (own : Nat × Sec256 × Nat) (s : State) : State :=
  let x := chanAt s c
  match freeSpare x, servingEntry x row bank with
  | some k, some e =>
    let s := copyRow c row bank k bad own s
    let x := chanAt s c
    let s := setChan c { x with
      redir := x.redir.insert e.1 { e.2 with spare := k }, spareRetired := x.spareRetired ++ [e.2.spare] } s
    event (halfOf 512 c) 0x0505 1 none c 0 174 (logRepair c e.2.bank e.2.row 2 s)
  | some k, none =>
    if (spareOfRow row bank).isSome then s
    else
      match freeRedir x with
      | some e =>
        let s := copyRow c row bank k bad own s
        let x := chanAt s c
        let s := setChan c { x with redir := x.redir.insert e ⟨row, bank, k⟩ } s
        event (halfOf 512 c) 0x0505 1 none c 0 173 (logRepair c bank row 1 s)
      | none => retireRow c bank row s
  | none, some e => retireRow c e.2.bank e.2.row s
  | none, none => if (spareOfRow row bank).isSome then s else retireRow c bank row s

/-- The row would be copied to a spare now. -/
def redirects (x : Chan) (row bank : Nat) : Bool :=
  (freeSpare x).isSome && ((servingEntry x row bank).isSome || ((spareOfRow row bank).isNone && (freeRedir x).isSome))

/-- The single-bit error limit of a half, at least 1 (R173). -/
def rowCeLimit (s : State) (c : Nat) : Nat := max 1 (rbits s .memCfg (halfOf 512 c).num 19 16)

/-- Note corrected words of a row among the 64 rows with the most recent errors (R173). -/
def noteCe (x : Chan) (rowKey : Nat) (ws : List Nat) : Chan :=
  let old := ((x.ceRows.find? (fun r => r.1 = rowKey)).map Prod.snd).getD []
  let new := (old ++ ws).dedup
  { x with ceRows := ((rowKey, new) :: x.ceRows.filter (fun r => r.1 ≠ rowKey)).take 64 }

/-- The checks of one read (R164): what is returned (data, poison, dead, compressed, reduce-pending), with errors
counted, recorded, written back, and the row redirected. `later`: a later write to the sector is queued. -/
def checkedRead (c sl line sec : Nat) (err : ReadErr) (later : Bool) (s : State) :
    (Sec256 × Nat) × State :=
  let idx := sectorIndex line sec
  let h := halfOf 512 c
  let raw := rawRead s c idx
  let rowKey := idx / 32
  let s := when (decide (err.single ≠ [])) (fun s =>
    let s := bumpSat .chCe c 31 0 err.single.dedup.length s
    let s := event h 0x0501 1 none c (sectorOwner s sl line sec).1 164 s
    setChan c (noteCe (chanAt s c) rowKey (err.single.map (fun w => idx % 32 * 8 + w.val))) s) s
  let bad := err.double || err.metaErr
  let fv := if err.double then freeNat 256 s else (raw.1.toNat, s)
  let s := fv.2
  let d : Sec256 := BitVec.ofNat 256 fv.1
  let side := if err.metaErr then 9 else if err.double then raw.2 / 2 * 2 + 1 else raw.2
  let row := idx / 2048
  let bank := idx / 32 % 64
  let s := when bad (fun s =>
    let own := sectorOwner s sl line sec
    let s := event h 0x0502 2 own.2 c own.1 164 (bumpSat .chUe c 15 0 1 s)
    if later || redirects (chanAt s c) row bank then s else rawWrite c idx d side s) s
  let manyCe := decide (rowCeLimit s c ≤ (((chanAt s c).ceRows.find? (fun r => r.1 = rowKey)).map
    (fun r => r.2.length)).getD 0) && decide (err.single ≠ [])
  let s := when (bad || manyCe) (fun s =>
    let s := redirectRow c row bank (err.rowBad.map Fin.val) (idx % 32, d, side) s
    let x := chanAt s c
    setChan c { x with ceRows := x.ceRows.filter (fun r => r.1 ≠ rowKey) } s) s
  ((d, side), s)

/-- An access to the same sector. -/
def sameSec (line sec : Nat) (o : ChanOp) : Bool := decide (o.line = line ∧ o.sec = sec)

/-- The operation of the memory-side adder. -/
def isAdd : ChanKind → Bool
  | .add _ => true
  | _ => false

/-- The access writes its sector. -/
def opWrites : ChanKind → Bool
  | .read _ => false
  | _ => true

/-- Put an access at the end of a channel's queue. -/
def enqueue (c line sec : Nat) (k : ChanKind) (s : State) : State :=
  let x := chanAt s c
  setChan c { x with q := x.q ++ [⟨line, sec, k, s.clock⟩] } s

/-- Write a write-combining entry by read-modify-write, in its place in the order (R168). -/
def flushWcb (c line sec : Nat) (s : State) : State :=
  let x := chanAt s c
  match x.wcb.find? (fun w => decide (w.line = line ∧ w.sec = sec)) with
  | none => s
  | some w =>
    let s := setChan c { x with wcb := x.wcb.filter (fun w => !decide (w.line = line ∧ w.sec = sec)) } s
    enqueue c line sec (.rmw w.w) s

/-- The channel queue accepts an access of a slice (R167–R170). An add combines into an operation in the adder's own queue,
which holds the 32 oldest (R170). -/
def accept (c line sec : Nat) (k : ChanKind) (s : State) : State :=
  match k with
  | .write .. =>
    let x := chanAt s c
    enqueue c line sec k
      (setChan c { x with wcb := x.wcb.filter (fun w => !decide (w.line = line ∧ w.sec = sec)) } s)
  | .rmw w =>
    let x := chanAt s c
    match x.wcb.find? (fun e => decide (e.line = line ∧ e.sec = sec)) with
    | some e =>
      let m : SecWr := ⟨mergeMask w.mask w.data e.w.data, e.w.mask ||| w.mask, e.w.poison || w.poison⟩
      if m.mask = fullMask then
        enqueue c line sec (.write m.data m.poison false false)
          (setChan c { x with wcb := x.wcb.filter (fun w => !decide (w.line = line ∧ w.sec = sec)) } s)
      else
        setChan c { x with wcb := x.wcb.map (fun e =>
          if e.line = line ∧ e.sec = sec then { e with w := m } else e) } s
    | none =>
      let s := if x.wcb.length < 64 then s
        else match x.wcb with
          | e :: _ => flushWcb c e.line e.sec s
          | [] => s
      let x := chanAt s c
      setChan c { x with wcb := x.wcb ++ [⟨line, sec, w, s.clock⟩] } s
  | .add p =>
    let s := flushWcb c line sec s
    let x := chanAt s c
    match x.q.reverse.findIdx? (sameSec line sec) with
    | none => enqueue c line sec k s
    | some j =>
      let i := x.q.length - 1 - j
      match x.q[i]? with
      | some ⟨l, n, .add p0, t⟩ =>
        if p0.ro = p.ro ∧ ((x.q.take i).filter (fun o => isAdd o.op)).length < 32 then
          setChan c { x with q := x.q.set i ⟨l, n, .add ⟨p0.ro, combine p0.ro p0.d p.d, p0.p || p.p⟩, t⟩ } s
        else enqueue c line sec k s
      | _ => enqueue c line sec k s
  | _ => enqueue c line sec k (flushWcb c line sec s)

/-- A sector reaches its slice. -/
def pushRet (sl : Nat) (r : FillRet) (s : State) : State :=
  let l := s.buf.rets.getD sl []
  { s with buf := { s.buf with rets := s.buf.rets.setD sl [] (l ++ [r]) } }

/-- Perform an access taken from the queue (R164, R165, R168–R170). `later`: a later write to its sector waits. -/
def performOp (c : Nat) (o : ChanOp) (err : ReadErr) (later : Bool) (s : State) : State :=
  let sl := c / 4
  let idx := sectorIndex o.line o.sec
  match o.op with
  | .read why =>
    let r := checkedRead c sl o.line o.sec err later s
    let side := r.1.2
    let ret : FillRet := ⟨o.line, o.sec, r.1.1, natBit 0 side, natBit 1 side, natBit 2 side, natBit 3 side, false, none⟩
    match why with
    | .scrub => r.2
    | .prefetch => pushRet sl ret r.2
    | .fill => pushRet sl ret r.2
    | .pass a => pushRet sl { ret with pass := some a } r.2
  | .write d p cm rp => rawWrite c idx d (b2n p + 4 * b2n cm + 8 * b2n rp) s
  | .rmw w =>
    let r := checkedRead c sl o.line o.sec err true s
    rawWrite c idx (mergeMask w.mask w.data r.1.1) (b2n (w.poison || natBit 0 r.1.2) + r.1.2 / 8 % 2 * 8) r.2
  | .dead => rawWrite c idx 0 2 s
  | .add p =>
    let r := checkedRead c sl o.line o.sec err true s
    rawWrite c idx (combine p.ro r.1.1 p.d) (b2n (p.p || natBit 0 r.1.2) + r.1.2 / 8 % 2 * 8) r.2

/-- No error found. -/
def noErr : ReadErr := ⟨[], false, false, []⟩

/-- The n-th access of a channel's queue is performed, when the channel is open and no earlier access to its sector
waits (R167). -/
def performNth (c n : Nat) (err : ReadErr) (s : State) : State :=
  let x := chanAt s c
  match x.q[n]? with
  | none => s
  | some o =>
    if chanOpen s c && (x.q.take n).all (fun p => !sameSec o.line o.sec p) then
      let later := (x.q.drop (n + 1)).any (fun p => sameSec o.line o.sec p && opWrites p.op)
      performOp c o err later (setChan c { x with q := x.q.eraseIdx n } s)
    else s

/-- Perform every queued access to a sector, in order (R167 leaves other sectors free to wait). -/
def drainSector (c line sec : Nat) : Nat → State → State
  | 0, s => s
  | n + 1, s =>
    match (chanAt s c).q.findIdx? (sameSec line sec) with
    | none => s
    | some i => drainSector c line sec n (performNth c i noErr s)

end Sys2Proof.Machine
end

