-- ==== Sys2Proof/Machine/Gov.lean ====
section
/-! DEFINITION. Regulators as accesses meet them (R314–R316, R320, R322, R329): the binding of a master, whether an
access is governed, the cap, what an access adds to its regulator's window, and the arbitration of the accesses that wait at a slice or
in a channel queue (R317–R319, R328). -/

namespace Sys2Proof.Machine

open Sys2Proof

/-- A regulator Q0–Q255. -/
def regulAt (s : State) (q : Nat) : RegulSt := s.reg.getD q RegulSt.init
def setRegul (q : Nat) (x : RegulSt) (s : State) : State := { s with reg := s.reg.insert q x }
def modRegul (q : Nat) (f : RegulSt → RegulSt) (s : State) : State := setRegul q (f (regulAt s q)) s

/-- A field of the set that a regulator works with: the one its last window boundary took (R321). -/
def regulSet (s : State) (r : Reg) (q : Nat) : Nat := s.regs.took s.part r q

/-- The window of a regulator in µs. -/
def regulWindow (s : State) (q : Nat) : Nat := min 1000 (max 1 (natBits 9 0 (regulSet s .regWindow q)))

/-- The class, partition and guarantee of a regulator. -/
def regulClass (s : State) (q : Nat) : Nat := natBits 1 0 (regulSet s .regCfg q)
def regulPart (s : State) (q : Nat) : Nat := natBits 13 8 (regulSet s .regCfg q)
def regulGuar (s : State) (q : Nat) : Nat := 64 * regulSet s .regGuar q

/-- A binding field of `GUEST_REG`, `HOST_REG`, `REMOTE_REG` or one port of `ARR_REG`: number and valid bit. -/
def bindOf (h : Half) (v lo : Nat) : Option Nat :=
  if natBit (lo + 7) v then some (128 * h.num + natBits (lo + 6) lo v) else none

/-- The regulator that a master's binding names (R315). `port`: the crossbar port of an array, 0–3 reading, 4–5 writing. -/
def bindingOf (s : State) (ag : Agent) (port : Nat) : Option Nat :=
  match ag with
  | .dolly h q => some (128 * h.num + rbits s .dqCtl (256 * h.num + q) 22 16)
  | .array h i =>
    if port < 4 then bindOf h (rget s .arrReg0 (64 * h.num + i)) (8 * port)
    else bindOf h (rget s .arrReg1 (64 * h.num + i)) (8 * (port - 4))
  | .guest g _ => bindOf (halfOf 2 g) (rget s .guestReg g) 0
  | .host f => bindOf .h0 (rget s .hostReg f) 0
  | _ => none

/-- The half of a regulator. -/
def regulHalf (q : Nat) : Half := halfOf 128 q

/-- The function that owns a regulator. -/
def regulFunc (s : State) (q : Nat) : Option Nat := if rbit s .regOwner q 4 then some (rbits s .regOwner q 3 0) else none

/-- A regulator that a binding names is valid and the function's. -/
def bindGood (s : State) (q : Nat) (f : Option Nat) : Bool := decide (regulFunc s q = f) && f.isSome

/-- A binding to a regulator that is not valid or another function's is recorded. -/
def bindEvent (h : Half) (b : Option Nat) (f : Option Nat) (s : State) : State :=
  match b with
  | some q => if bindGood s q f then s else event h 0x0701 0 f (q % 128) 0 315 s
  | none => s

/-- The regulator governs an access of a function to a DPA: it is valid, it belongs to the function, its windows run, and
the address lies in its partition (R314, R315). -/
def governs (s : State) (q f a : Nat) : Bool :=
  decide (rbits s .regOwner q 4 0 = 16 + f) && (regulAt s q).active && decide (segPart s (a / 2 ^ 30) = regulPart s q)

/-- The regulator that governs an access of an agent of the base. -/
def governor (s : State) (ag : Agent) (port a : Nat) : Option Nat :=
  match agentFunc s ag, bindingOf s ag port with
  | some f, some q => if governs s q f a then some q else none
  | _, _ => none

/-- The cap of a regulator is reached in its window (R320). -/
def regulCapped (s : State) (q : Nat) : Bool :=
  let c := regulSet s .regCap q
  decide (c ≠ 0) && decide (64 * c ≤ (regulAt s q).count)

/-- The current window has a governed access in this 1 µs interval, and in those since the last when one was
outstanding throughout (R329). -/
def regulBusy (t : Nat) (x : RegulSt) : RegulSt :=
  let i := (t - x.winStart) / 10 + 1
  if i ≤ x.busyLast then x
  else { x with busyUs := x.busyUs + (if x.outstanding = 0 then 1 else i - x.busyLast), busyLast := i }

/-- A governed access is issued. -/
def govIssue (q : Option Nat) (s : State) : State :=
  match q with
  | none => s
  | some q => modRegul q (fun x => { regulBusy s.clock x with outstanding := x.outstanding + 1 }) s

/-- A governed access issued at `t` completes: its bytes are counted (R316); a read of a LATENCY regulator is late when
it took longer than the target (R322). -/
def govDone (q : Option Nat) (bytes : Nat) (read : Bool) (t : Nat) (s : State) : State :=
  match q with
  | none => s
  | some q =>
    let target := natBits 9 0 (regulSet s .regLat q)
    let late := read && decide (regulClass s q = 2) && decide (4 * target < 100 * (s.clock - t))
    modRegul q (fun x =>
      let y := regulBusy s.clock x
      { y with outstanding := x.outstanding - 1, count := x.count + bytes, reads := x.reads + b2n read,
               lates := x.lates + b2n late }) s

/-- A governed access of one of the base's engines, issued and completed in one step. -/
def govEngine (ag : Agent) (port a bytes : Nat) (read : Bool) (s : State) : State :=
  let q := governor s ag port a
  govDone q bytes read s.clock (govIssue q s)

/-- The cap keeps an agent from issuing an access now (R320). -/
def govWaits (s : State) (ag : Agent) (port a : Nat) : Bool := ((governor s ag port a).map (regulCapped s)).getD false

/-- What a request of a holder outside the base reads or writes, in bytes, and whether it reads: merges, write-backs of
copies and what moves no data are not counted (R316). -/
def reqBytes : HKind → Nat × Bool
  | .rdS => (128, true)
  | .rdX => (128, true)
  | .rdNc m => (32 * (natBits 3 3 m + natBits 2 2 m + natBits 1 1 m + natBits 0 0 m), true)
  | .wrNc l => (32 * l.length, false)
  | .addNc _ l => (32 * l.length, false)
  | .atomic _ _ => (32, false)
  | _ => (0, false)

/-- The regulator of a request from a guest die or a remote device (R315). `port`: the half whose neighbour port leads
to the device, as the route table has it. -/
def holderGovernor (s : State) (hd : CohHdr) (a : Nat) : Option Nat :=
  match hd.src with
  | .site g =>
    match bindOf (halfOf 2 g) (rget s .guestReg g) 0 with
    | some q => if governs s q hd.func a then some q else none
    | none => none
  | .member m =>
    match dpaFunc s a with
    | none => none
    | some f =>
      let h := halfOf 8 (rbits s .routeEntry (rbits s .member m 15 0) 3 0)
      match bindOf h (rget s .remoteReg (16 * h.num + f)) 0 with
      | some q => if governs s q f a then some q else none
      | none => none
  | .xFar => none

/-! ### Arbitration (R317, R318, R328) -/

/-- An access that waits at an arbitration point: its place in the queue (oldest first), its priority, its slack in 4 ns, and
the regulator whose share of P1 it uses (256: the traffic of R316). -/
structure Cand where
  idx : Nat
  prio : Nat
  slack : Nat
  key : Nat
  deriving DecidableEq, Repr

/-- The slack of a read issued at `t` under a regulator (R322), in 4 ns: the clock counts 0.1 µs. -/
def slackOf (s : State) (q t : Nat) : Nat := natBits 9 0 (regulSet s .regLat q) - 25 * (s.clock - t)

/-- The priority and slack of an access (R317): governed by a regulator or by none, a read or not, issued at `t`. -/
def prioOf (s : State) (q : Option Nat) (read : Bool) (t : Nat) : Nat × Nat :=
  match q with
  | none => (0, 0)
  | some q =>
    let under := decide ((regulAt s q).count < regulGuar s q)
    let sl := slackOf s q t
    match regulClass s q with
    | 0 => (0, sl)
    | 1 => (b2n under, sl)
    | 2 => (if read && decide (2 * sl < natBits 9 0 (regulSet s .regLat q)) then 2 else b2n under, sl)
    | _ => (3 * b2n under, sl)

/-- The weight of a regulator in P1 (R318), `GUAR_BYTES` ÷ `WINDOW`, as a fraction. -/
def weightOf (s : State) (q : Nat) : Nat × Nat := (max 1 (regulGuar s q), regulWindow s q)

/-- The weight of a candidate's share; the traffic of R316 has the largest weight among those that wait. -/
def candWeight (s : State) (cs : List Cand) (c : Cand) : Nat × Nat :=
  if c.key < 256 then weightOf s c.key
  else (((cs.filter (fun d => decide (d.prio = 1 ∧ d.key < 256))).map (fun d => weightOf s d.key)).foldl
    (fun a b => if a.1 * b.2 < b.1 * a.2 then b else a) (0, 1)) |> fun w => if w.1 = 0 then (1, 1) else w

/-- The grants of a share, counting the next, over its weight: what P1 keeps level (R318, R328). -/
def candLoad (s : State) (a : ArbSt) (cs : List Cand) (c : Cand) : Nat × Nat :=
  let w := candWeight s cs c
  ((a.served.getD c.key 0 + 1) * w.2, w.1)

/-- The first candidate that no other beats. -/
def bestBy (lt : Cand → Cand → Bool) : List Cand → Option Cand
  | [] => none
  | c :: cs => some (cs.foldl (fun b d => if lt d b then d else b) c)

/-- The candidate that an arbitration point grants (R317, R318): the highest priority, but a P0 access at the latest after 31
grants to others; within P3 and P0 the oldest, within P2 the least slack, within P1 the round that keeps the grants of the
regulators in proportion to their weights (log entry 11). -/
def arbPick (s : State) (a : ArbSt) (cs : List Cand) : Option Cand :=
  let low := cs.filter (fun c => decide (c.prio = 0))
  let top := (cs.map Cand.prio).foldl max 0
  let at' := cs.filter (fun c => decide (c.prio = top))
  if low ≠ [] ∧ 31 ≤ a.sinceP0 then low.head?
  else if top = 2 then bestBy (fun c d => decide (c.slack < d.slack)) at'
  else if top = 1 then
    bestBy (fun c d =>
      let x := candLoad s a at' c
      let y := candLoad s a at' d
      decide (x.1 * y.2 < y.1 * x.2)) at'
  else at'.head?

/-- The arbitration point after a grant: P1's round ends when no access of P1 is left. -/
def arbAfter (a : ArbSt) (cs : List Cand) (c : Cand) : ArbSt :=
  let rest := cs.filter (fun d => decide (d.idx ≠ c.idx))
  { sinceP0 := if c.prio = 0 || !rest.any (fun d => decide (d.prio = 0)) then 0 else a.sinceP0 + 1
    served :=
      if !rest.any (fun d => decide (d.prio = 1)) then []
      else if c.prio = 1 then a.served.insert c.key (a.served.getD c.key 0 + 1) else a.served }

end Sys2Proof.Machine
end

