-- ==== Sys2Proof/Machine/Slice.lean ====
section
/-! DEFINITION. One slice of the shared buffer (R113–R134): frames, replacement, pair-packing, the eviction buffer,
sector transitions and fills. Coherence with copies held elsewhere is decided before an access comes here. -/

namespace Sys2Proof.Machine

open Sys2Proof

/-! ### Geometry (R113) -/

def setOf (line : Nat) : Nat := line % 1024 ^^^ line / 1024 % 1024
def tagOf (line : Nat) : Nat := line / 1024
/-- The line of a set and tag. -/
def lineOf (set tag : Nat) : Nat := tag * 1024 + (set ^^^ tag % 1024)

def frameKey (sl set way : Nat) : Nat := 16384 * sl + 16 * set + way

def frameAt (s : State) (sl set way : Nat) : Option Frame := s.buf.frames.find? (frameKey sl set way)

/-- Put a frame in use, or free it. -/
def setFrame (sl set way : Nat) (f : Option Frame) (s : State) : State :=
  let k := frameKey sl set way
  match f with
  | some f => { s with buf := { s.buf with frames := s.buf.frames.insert k f } }
  | none => { s with buf := { s.buf with frames := s.buf.frames.erase k } }

/-- Where a line is held within its frame. -/
inductive Place where
  | alone | packA | packB
  deriving DecidableEq, Repr

/-- The line of a frame with a tag, if the frame holds it. -/
def inFrame (tag : Nat) : Frame → Option (Place × LineSt)
  | .held l => if l.tag = tag then some (.alone, l) else none
  | .packed a b =>
    if a.tag = tag then some (.packA, a)
    else match b with
      | some b => if b.tag = tag then some (.packB, b) else none
      | none => none

/-- The way, place and line of a held line. -/
def lookup (s : State) (sl line : Nat) : Option (Nat × Place × LineSt) :=
  (List.range 16).findSome? (fun w =>
    match frameAt s sl (setOf line) w with
    | some f => (inFrame (tagOf line) f).map (fun p => (w, p.1, p.2))
    | none => none)

/-- Every sector of the line is invalid. -/
def emptyLine (l : LineSt) : Bool := l.secs.toList.all (fun x => decide (x = .inv))

/-- The frame with the line at a place replaced; a line whose sectors are all I leaves the frame (R118). -/
def putLine (p : Place) (l : LineSt) (f : Frame) : Option Frame :=
  match p, f with
  | .alone, _ => if emptyLine l then none else some (.held l)
  | .packA, .packed _ b => if emptyLine l then b.map (fun b => .packed b none) else some (.packed l b)
  | .packB, .packed a _ => if emptyLine l then some (.packed a none) else some (.packed a (some l))
  | _, f => some f

/-- Replace the line held in way `w`. -/
def updLine (sl line w : Nat) (p : Place) (l : LineSt) (s : State) : State :=
  match frameAt s sl (setOf line) w with
  | some f => setFrame sl (setOf line) w (putLine p l f) s
  | none => s

/-! ### Ways (R114, R116, R124) -/

def wayReg (s : State) (h : Half) (w : Nat) : Nat := rget s .wayMap (16 * h.num + w)
def wayPart (s : State) (h : Half) (w : Nat) : Nat := natBits 5 0 (wayReg s h w)
def wayLocked (s : State) (h : Half) (w : Nat) : Bool := natBit 8 (wayReg s h w)

/-- The way is being set to zero (R116). -/
def wayZeroing (s : State) (h : Half) (w : Nat) : Bool := (s.buf.wayZero.find? (16 * h.num + w)).isSome

/-- A cache way of a partition. -/
def isCacheWay (s : State) (h : Half) (part w : Nat) : Bool :=
  let v := wayReg s h w
  natBit 6 v && !natBit 7 v && decide (natBits 5 0 v = part)

/-- A scratch way: the partition that holds it. -/
def scratchPart (s : State) (h : Half) (w : Nat) : Option Nat :=
  let v := wayReg s h w
  if natBit 6 v && natBit 7 v then some (natBits 5 0 v) else none

/-- The partition holds a cache way on the half (R114). -/
def hasCacheWay (s : State) (h : Half) (part : Nat) : Bool := (List.range 16).any (isCacheWay s h part)

def lineFilling (l : LineSt) : Bool := l.secs.toList.any (fun x => match x with
  | .filling _ => true
  | _ => false)

/-- A sector of the frame is in F. -/
def frameFilling : Frame → Bool
  | .held l => lineFilling l
  | .packed a b => lineFilling a || (b.map lineFilling).getD false

/-- The eligible ways of a set for a partition (R124), or for a lock-class fill (R140); `skip`: a way left out (R127). -/
def eligible (s : State) (sl set part : Nat) (lock : Bool) (skip : Option Nat) : List Nat :=
  let h := halfOf 128 sl
  (List.range 16).filter (fun w => decide (skip ≠ some w) &&
    isCacheWay s h part w && (wayLocked s h w == lock) && !natBit 9 (wayReg s h w) && !wayZeroing s h w &&
    !((frameAt s sl set w).map frameFilling).getD false)

/-! ### Replacement bits (R123) -/

def plruAt (s : State) (sl set : Nat) : BitVec 15 := s.buf.plru.getD (1024 * sl + set) 0

/-- The bits after a touch of way `w`: each node on its path points away from it. -/
def touchBits (b : BitVec 15) (w : Nat) : BitVec 15 :=
  [(1, w / 8), (2 + w / 8, w / 4), (4 + w / 4, w / 2), (8 + w / 2, w)].foldl (fun b np =>
    let i := np.1 - 1
    BitVec.ofNat 15 (setBits i i (1 - np.2 % 2) b.toNat)) b

/-- Touch a frame (R123). -/
def touch (sl set w : Nat) (s : State) : State :=
  let b := touchBits (plruAt s sl set) w
  { s with buf := { s.buf with plru := s.buf.plru.setD (1024 * sl + set) 0 b } }

/-- Some eligible way lies below a node at a depth (ways below node n at depth d span 16 ÷ 2^d). -/
def anyBelow (e : List Nat) (n d : Nat) : Bool :=
  let span := 16 / 2 ^ d
  let lo := (n - 2 ^ d) * span
  e.any (fun w => decide (lo ≤ w ∧ w < lo + span))

/-- The victim walk (R123). -/
def victimGo (b : BitVec 15) (e : List Nat) : Nat → Nat → Nat → Nat
  | 0, n, _ => n - 16
  | k + 1, n, d =>
    let go := 2 * n + b2n (natBit (n - 1) b.toNat)
    let go := if anyBelow e go (d + 1) then go else go ^^^ 1
    victimGo b e k go (d + 1)

def victim (b : BitVec 15) (e : List Nat) : Nat := victimGo b e 4 1 0

/-! ### Compression (R125) -/

/-- The words of a line whose sectors are all V or M and not poisoned. -/
def lineWords (l : LineSt) : Option (List Nat) :=
  l.secs.toList.foldl (fun acc x =>
    match acc, x with
    | some ws, .valid d false => some (ws ++ (List.range 8).map (fun i => natBits (32 * i + 31) (32 * i) d.toNat))
    | some ws, .modified d false => some (ws ++ (List.range 8).map (fun i => natBits (32 * i + 31) (32 * i) d.toNat))
    | _, _ => none) (some [])

/-- The lowest-numbered encoding that applies to the words of a line (R125): 1 ZERO, 2 REPEAT, 3 DELTA8, 4 SPARSE, 5 SIGN16. -/
def packCode (ws : List Nat) : Option Nat :=
  let w0 := ws.headD 0
  if ws.all (· = 0) then some 1
  else if ws.all (· = w0) then some 2
  else if ws.all (fun w => let x := sext 32 ((w + 2 ^ 32 - w0) % 2 ^ 32); decide (-128 ≤ x ∧ x ≤ 127)) then some 3
  else if (ws.filter (· ≠ 0)).length ≤ 15 then some 4
  else if ws.all (fun w => decide (twos 32 (sext 16 w) = w)) then some 5
  else none

/-- The payload of a compressed line (R125). -/
def packPayload (ws : List Nat) : Nat → List Byte
  | 1 => []
  | 2 => natLe 4 (ws.headD 0)
  | 3 => natLe 4 (ws.headD 0) ++ ws.map (fun w => BitVec.ofNat 8 (w + 2 ^ 32 - ws.headD 0))
  | 4 => natLe 4 (ws.zipIdx.foldl (fun a p => if p.1 = 0 then a else a + 2 ^ p.2) 0) ++
      (ws.filter (· ≠ 0)).flatMap (natLe 4)
  | _ => ws.flatMap (natLe 2)

/-- The line fits half a frame: a payload of 64 B or less. -/
def compressible (l : LineSt) : Bool :=
  match lineWords l with
  | some ws => ((packCode ws).map (fun c => decide ((packPayload ws c).length ≤ 64))).getD false
  | none => false

/-! ### The eviction buffer (R129–R131) -/

def ebufAt (s : State) (sl : Nat) : List EbEntry := s.buf.ebuf.getD sl []
def setEbuf (sl : Nat) (l : List EbEntry) (s : State) : State :=
  { s with buf := { s.buf with ebuf := s.buf.ebuf.setD sl [] l } }

def slotUsed : Slot → Bool
  | .none => false
  | _ => true

def slotCount (e : EbEntry) : Nat := (e.slots.toList.filter slotUsed).length

/-- A slot is passed to the channel queue (R129, R137). -/
def acceptSlot (c line sec : Nat) (x : Slot) (s : State) : State :=
  match x with
  | .none => s
  | .write w cm rp =>
    if w.mask = fullMask then accept c line sec (.write w.data w.poison cm rp) s else accept c line sec (.rmw w) s
  | .reduce p => accept c line sec (.add p) s
  | .deadmark => accept c line sec .dead s

/-- The channel queue has room for `n` more accesses (R162: up to its 256 tracked requests). -/
def chanRoom (s : State) (c n : Nat) : Bool := decide ((chanAt s c).q.length + n ≤ 256)

/-- An access fetches a sector for its slice. -/
def isFetch : ChanKind → Bool
  | .read .scrub => false
  | .read _ => true
  | _ => false

/-- The sector fetches of a channel that are outstanding (R120): queued, or returned and not taken yet. -/
def fillsOut (s : State) (c : Nat) : Nat :=
  ((chanAt s c).q.filter (fun o => isFetch o.op)).length +
  ((s.buf.rets.getD (c / 4) []).filter (fun r => decide (chanOf (c / 4) r.line = c))).length

/-- Another sector fetch may be made: fewer than 256 are outstanding for the channel (R120) and its queue has room. -/
def fillRoom (s : State) (c : Nat) : Bool := chanRoom s c 1 && decide (fillsOut s c < 256)

/-- Hand over the n-th entry, whole and at once, if the channel queue takes it (R130). -/
def handOver (sl n : Nat) (s : State) : Option State :=
  match (ebufAt s sl)[n]? with
  | none => some s
  | some e =>
    let c := chanOf sl e.line
    if chanRoom s c (slotCount e) then
      let s := setEbuf sl ((ebufAt s sl).eraseIdx n) s
      some (forEach [0, 1, 2, 3] (fun i s => acceptSlot c e.line i (e.slots.get i) s) s)
    else none

/-- Hand over the entry of a line, if it has one. -/
def handOverLine (sl line : Nat) (s : State) : Option State :=
  match (ebufAt s sl).findIdx? (fun e => decide (e.line = line)) with
  | none => some s
  | some n => handOver sl n s

/-- A new entry may be made: fewer than 32, and fewer than 8 for a fenced channel (R130, R162). -/
def ebufRoom (s : State) (sl line : Nat) : Bool :=
  let es := ebufAt s sl
  let c := chanOf sl line
  decide (es.length < 32) &&
  (decide ((stackAt s (stackOfSlice sl)).fence = 0) ||
    decide ((es.filter (fun e => decide (chanOf sl e.line = c))).length < 8))

/-- Put slots in a new entry of a line; an entry the line still has is handed over first. -/
def newEntry (sl line : Nat) (slots : Quad Slot) (s : State) : Option State :=
  match handOverLine sl line s with
  | none => none
  | some s => if ebufRoom s sl line then some (setEbuf sl (ebufAt s sl ++ [⟨line, slots, s.clock⟩]) s) else none

/-- The slot that a sector leaves behind when its line is evicted (R119, R128). -/
def evictSlot (compressed : Bool) : Sector → Slot
  | .modified d p => .write ⟨d, fullMask, p⟩ compressed false
  | .partSum p => .reduce p
  | _ => .none

/-- Write a line's dirty sectors to the eviction buffer (R119). -/
def evictLine (sl line : Nat) (l : LineSt) (compressed : Bool) (s : State) : Option State :=
  let slots := l.secs.map (evictSlot compressed)
  if slots.toList.any slotUsed then newEntry sl line slots s else some s

/-- Evict what a frame holds. -/
def evictFrame (sl set w : Nat) (f : Frame) (s : State) : Option State :=
  let done (n : Nat) (s : State) : State := bumpWrap .evictions sl 31 0 n (setFrame sl set w none s)
  match f with
  | .held l => (evictLine sl (lineOf set l.tag) l false s).map (done 1)
  | .packed a none => (evictLine sl (lineOf set a.tag) a true s).map (done 1)
  | .packed a (some b) =>
    ((evictLine sl (lineOf set a.tag) a true s).bind (evictLine sl (lineOf set b.tag) b true)).map (done 2)

/-- The victim's line is packed into the sibling frame, if R126 allows. -/
def packVictim (sl set w : Nat) (l : LineSt) (e : List Nat) (s : State) : Option State :=
  let sib := w ^^^ 1
  if compressible l && e.contains sib then
    let new : Option Frame :=
      match frameAt s sl set sib with
      | some (.held l2) => if compressible l2 then some (.packed l2 (some l)) else none
      | some (.packed a none) => some (.packed a (some l))
      | _ => none
    new.map (fun f =>
      bumpWrap .packs sl 31 0 1 (touch sl set sib (setFrame sl set sib (some f) (setFrame sl set w none s))))
  else none

/-- Find a frame for a line of a partition: a FREE eligible frame, or the victim, packed or evicted (R122, R126,
R140). None: no frame is eligible, or the victim has no entry to leave through. `skip`: the packed frame that the line leaves
(R127). -/
def allocFrame (sl line part : Nat) (lock : Bool) (skip : Option Nat) (s : State) : Option (Nat × State) :=
  let set := setOf line
  let h := halfOf 128 sl
  let lock := lock && (List.range 16).any (fun w => isCacheWay s h part w && wayLocked s h w)
  let e := eligible s sl set part lock skip
  match e.find? (fun w => (frameAt s sl set w).isNone) with
  | some w => some (w, touch sl set w s)
  | none =>
    if e = [] then none
    else
      let w := victim (plruAt s sl set) e
      match frameAt s sl set w with
      | none => some (w, touch sl set w s)
      | some f =>
        let packed : Option State :=
          match f with
          | .held l => if !lock && rbit s .partCfg part 5 then packVictim sl set w l e s else none
          | .packed _ _ => none
        match packed with
        | some s => some (w, touch sl set w s)
        | none => (evictFrame sl set w f s).map (fun s => (w, touch sl set w s))

/-! ### Sector transitions (R119) -/

/-- What an access does to a sector: done, with data for a read; a fill is needed, keeping a partial; wait. -/
inductive SecAct where
  | done (new : Sector) (data : Option (Sec256 × Bool))
  | fill (held : Option PSum)
  | wait
  deriving DecidableEq, Repr

/-- Combine two partial sums of one TYPE and OP. -/
def addSums (a b : PSum) : PSum := ⟨a.ro, combine a.ro a.d b.d, a.p || b.p⟩

/-- An access on sector data. -/
def onData (op : SecOp) (d : Sec256) (p : Bool) : Option (Sec256 × Bool) :=
  match op with
  | .read => none
  | .prefetch _ => none
  | .write w =>
    if w.mask = fullMask then some (w.data, w.poison) else some (mergeMask w.mask w.data d, p || w.poison)
  | .add a => some (combine a.ro d a.d, p || a.p)

/-- The sector transitions of an access (R119). -/
def secStep (op : SecOp) (x : Sector) : SecAct :=
  match x with
  | .filling _ =>
    match op with
    | .prefetch _ => .done x none
    | _ => .wait
  | .valid d p =>
    match onData op d p with
    | some r => .done (.modified r.1 r.2) none
    | none => .done x (some (d, p))
  | .modified d p =>
    match onData op d p with
    | some r => .done (.modified r.1 r.2) none
    | none => .done x (some (d, p))
  | .inv =>
    match op with
    | .write w => if w.mask = fullMask then .done (.modified w.data w.poison) none else .fill none
    | .add a => .done (.partSum a) none
    | _ => .fill none
  | .partSum a =>
    match op with
    | .write w => if w.mask = fullMask then .done (.modified w.data w.poison) none else .fill (some a)
    | .add b => if a.ro = b.ro then .done (.partSum (addSums a b)) none else .fill (some a)
    | .prefetch _ => .done x none
    | .read => .fill (some a)

/-! ### Answers -/

/-- Poison delivered to an agent is counted for its function (R452). -/
def countPoison (ag : Agent) (func : Nat) (s : State) : State :=
  match ag with
  | .remote _ => s
  | ag => bumpSat .funcErr (16 * (agentHalf ag).num + func % 16) 31 16 1 s

/-- Read data returned. -/
def replyRead (a : SAcc) (d : Sec256) (p : Bool) (s : State) : State :=
  let s := govDone a.reg 32 true a.t (when p (countPoison a.ag a.func) s)
  when (!a.quiet) (emit (.rdata a.ag a.tag a.addr d p)) s

/-- A write or add accepted. -/
def replyDone (a : SAcc) (s : State) : State :=
  when (!a.quiet) (emit (.done a.ag a.tag)) (govDone a.reg 32 false a.t s)

/-- The answer of a completed access. -/
def reply (a : SAcc) (data : Option (Sec256 × Bool)) (s : State) : State :=
  match a.op, data with
  | .read, some (d, p) => replyRead a d p s
  | .read, none => s
  | .prefetch _, _ => s
  | _, _ => replyDone a s

/-- The key of a sector's wait list. -/
def waitKey (sl line sec : Nat) : Nat := 4 * (2 ^ 26 * sl + line) + sec

/-- An access that fails: a read with poisoned data and an error response, a write or add with an error response
(R162, R177). -/
def failAcc (a : SAcc) (s : State) : State :=
  match a.op with
  | .prefetch _ => s
  | op =>
    if a.quiet then
      { s with buf := { s.buf with quietFails := s.buf.quietFails ++ [(a.ag, waitKey a.sl a.line a.sec)] } }
    else
      match op with
      | .read => emit (.accErr a.ag a.tag) (replyRead a 0 true s)
      | _ => emit (.accErr a.ag a.tag) (govDone a.reg 0 false a.t s)

/-! ### Accesses -/

/-- Join a sector's wait list (R120). -/
def addWait (a : SAcc) (s : State) : State :=
  let k := waitKey a.sl a.line a.sec
  { s with buf := { s.buf with waits := s.buf.waits.setD k [] (s.buf.waits.getD k [] ++ [a]) } }

/-- Wait at the slice for a frame, an entry or a tracked request (R120, R124, R130). -/
def stall (a : SAcc) (s : State) : State :=
  let l := s.buf.stalled.getD a.sl []
  { s with buf := { s.buf with stalled := s.buf.stalled.setD a.sl [] (l ++ [a]) } }

/-- The access waits at its slice. -/
def isStalled (s : State) (a : SAcc) : Bool := (s.buf.stalled.getD a.sl []).contains a

/-- An earlier access to the sector waits at the slice: this one waits behind it (R120, R319). -/
def stalledBefore (s : State) (a : SAcc) : Bool :=
  (s.buf.stalled.getD a.sl []).any (fun b => decide (b.line = a.line ∧ b.sec = a.sec))

/-- Why an access reads a sector into its slice. -/
def fillWhy : SecOp → ReadWhy
  | .prefetch _ => .prefetch
  | _ => .fill

/-- Request the fill of a sector of a line held in way `w`; an entry that the line still has goes first (R131). None
when all tracked requests are in use. -/
def requestFill (why : ReadWhy) (sl line sec w : Nat) (p : Place) (held : Option PSum) (s : State) : Option State :=
  match handOverLine sl line s with
  | none => none
  | some s =>
    let c := chanOf sl line
    if fillRoom s c then
      match frameAt s sl (setOf line) w with
      | some f =>
        match inFrame (tagOf line) f with
        | some (_, l) =>
          let s := updLine sl line w p { l with secs := l.secs.set sec (.filling held) } s
          some (bumpWrap .misses sl 31 0 1 (accept c line sec (.read why) s))
        | none => some s
      | none => some s
    else none

/-- An access on a line held in way `w`. -/
def onHeldLine (a : SAcc) (w : Nat) (p : Place) (l : LineSt) (s : State) : State :=
  match secStep a.op (l.secs.get a.sec) with
  | .done new data =>
    let s := updLine a.sl a.line w p { l with secs := l.secs.set a.sec new } s
    reply a data (touch a.sl (setOf a.line) w s)
  | .wait => addWait a s
  | .fill held =>
    match requestFill (fillWhy a.op) a.sl a.line a.sec w p held s with
    | some s =>
      match a.op with
      | .prefetch _ => s
      | _ => addWait a s
    | none => stall a s

/-- A new frame for the line of an access, holding it with every sector I (the caller changes one at once). -/
def allocLine (a : SAcc) (part : Nat) (lock : Bool) (skip : Option Nat) (l : LineSt) (s : State) : Option (Nat × State) :=
  (allocFrame a.sl a.line part lock skip s).map (fun r => (r.1, setFrame a.sl (setOf a.line) r.1 (some (.held l)) r.2))

/-- A line with every sector I. -/
def freshLine (line : Nat) : LineSt := ⟨tagOf line, Quad.all .inv⟩

/-- Merge an access into a slot of a WAITING entry (R131): the new slot, or none when the entry must go first. -/
def mergeSlot (op : SecOp) (x : Slot) : Option Slot :=
  match op with
  | .write w =>
    if w.mask = fullMask then some (.write w false false)
    else match x with
      | .none => some (.write w false false)
      | .write w0 _ rp =>
        some (.write ⟨mergeMask w.mask w.data w0.data, w0.mask ||| w.mask, w0.poison || w.poison⟩ false rp)
      | _ => none
  | .add a =>
    match x with
    | .none => some (.reduce a)
    | .reduce b => if a.ro = b.ro then some (.reduce (addSums b a)) else none
    | .write w0 _ rp =>
      if w0.mask = fullMask then some (.write ⟨combine a.ro w0.data a.d, fullMask, w0.poison || a.p⟩ false rp)
      else none
    | .deadmark => none
  | _ => none

/-- A slot that answers a read: WRITE with a full mask. A home's rewrite that carries the reduce-pending bit goes to
memory first, so that the read meets the bit (R216; DEDUCED, log entry 9). -/
def slotData (x : Slot) : Option (Sec256 × Bool) :=
  match x with
  | .write w _ rp => if w.mask = fullMask ∧ !rp then some (w.data, w.poison) else none
  | _ => none

/-- The slot of a write or add that passes through (R117). -/
def passSlot (op : SecOp) : Slot :=
  match op with
  | .write w => .write w false false
  | .add a => .reduce a
  | _ => .none

/-- An access to a line that is neither held nor waits in an entry (R117, R119, R122, R124). -/
def onAbsent (a : SAcc) (part : Nat) (s : State) : State :=
  let h := halfOf 128 a.sl
  let c := chanOf a.sl a.line
  match a.op with
  | .read =>
    if hasCacheWay s h part then
      match allocLine a part false none (freshLine a.line) s with
      | some (w, s1) =>
        match requestFill .fill a.sl a.line a.sec w .alone none s1 with
        | some s2 => addWait a s2
        | none => stall a s
      | none => stall a s
    else if fillRoom s c then accept c a.line a.sec (.read (.pass a)) s
    else stall a s
  | .prefetch lock =>
    if hasCacheWay s h part then
      match allocLine a part lock none (freshLine a.line) s with
      | some (w, s1) => (requestFill .prefetch a.sl a.line a.sec w .alone none s1).getD (stall a s)
      | none => stall a s
    else s
  | op =>
    let frame := if hasCacheWay s h part then allocLine a part false none (freshLine a.line) s else none
    match frame, secStep op .inv with
    | some (w, s1), .done new _ =>
      replyDone a (setFrame a.sl (setOf a.line) w
        (some (.held { freshLine a.line with secs := (Quad.all .inv).set a.sec new })) s1)
    | some (w, s1), _ =>
      match requestFill .fill a.sl a.line a.sec w .alone none s1 with
      | some s2 => addWait a s2
      | none => stall a s
    | none, _ =>
      match newEntry a.sl a.line ((Quad.all Slot.none).set a.sec (passSlot op)) s with
      | some s1 => replyDone a s1
      | none => stall a s

/-- An access to a line that is not held and has a WAITING entry (R131). -/
def onEntry (a : SAcc) (part n : Nat) (e : EbEntry) (s : State) : State :=
  match a.op with
  | .read =>
    match slotData (e.slots.get a.sec) with
    | some (d, p) =>
      let s1 :=
        if hasCacheWay s (halfOf 128 a.sl) part then
          match allocLine a part false none { freshLine a.line with secs := (Quad.all .inv).set a.sec (.valid d p) } s with
          | some r => r.2
          | none => s
        else s
      replyRead a d p s1
    | none =>
      match handOver a.sl n s with
      | some s1 => onAbsent a part s1
      | none => stall a s
  | .prefetch _ =>
    match handOver a.sl n s with
    | some s1 => onAbsent a part s1
    | none => stall a s
  | op =>
    match mergeSlot op (e.slots.get a.sec) with
    | some x =>
      replyDone a (setEbuf a.sl ((ebufAt s a.sl).set n { e with slots := e.slots.set a.sec x }) s)
    | none =>
      match handOver a.sl n s with
      | some s1 =>
        let c := chanOf a.sl a.line
        if chanRoom s1 c 1 then replyDone a (acceptSlot c a.line a.sec (passSlot op) s1) else stall a s
      | none => stall a s

/-- A stack is accessed now (R410: what keeps it from sleeping). -/
def noteAccess (k : Nat) (s : State) : State := setStack k { stackAt s k with lastAccess := s.clock } s

/-- An access to a line that is not held in a frame (R131). -/
def onUnheld (a : SAcc) (part : Nat) (s : State) : State :=
  match (ebufAt s a.sl).findIdx? (fun e => decide (e.line = a.line)) with
  | some n =>
    match (ebufAt s a.sl)[n]? with
    | some e => onEntry a part n e s
    | none => s
  | none => onAbsent a part s

/-- A write or add to a line held packed (R127): the line moves to a frame of its own, and the packed frame keeps its other
line. Where no frame can be had the line leaves through the eviction buffer, where the access meets it (R117, R124). -/
def onPacked (a : SAcc) (part w : Nat) (p : Place) (l : LineSt) (s : State) : State :=
  let s1 := updLine a.sl a.line w p { l with secs := Quad.all .inv } s
  match allocLine a part false (some w) l s1 with
  | some (w', s2) => onHeldLine a w' .alone l s2
  | none =>
    if eligible s a.sl (setOf a.line) part false (some w) = [] then
      match evictLine a.sl a.line l true s1 with
      | some s2 => onUnheld a part s2
      | none => stall a s
    else stall a s

/-- Every entry is in use and the access needs one: what `EBUF_STALLS` counts (R130, R152). -/
def needsEntry (s : State) (a : SAcc) : Bool :=
  decide (32 ≤ (ebufAt s a.sl).length) && chanRoom s (chanOf a.sl a.line) 1 &&
  (match a.op with
   | .write _ => true
   | .add _ => true
   | _ => decide (eligible s a.sl (setOf a.line) (segPart s (a.addr / 2 ^ 30)) false none ≠ []))

/-- An access at its point of acceptance in the slice (R119, R120, R127, R131). `again`: it waited there already, and its
lookup is counted. -/
def sliceLookup (again : Bool) (a : SAcc) (s : State) : State :=
  let part := segPart s (a.addr / 2 ^ 30)
  if stackGone s (stackOfSlice a.sl) then failAcc a s
  else if stalledBefore s a then stall a s
  else
    let s := noteAccess (stackOfSlice a.sl) s
    match lookup s a.sl a.line with
    | some (w, p, l) =>
      let s := when (!again) (bumpWrap .hits a.sl 31 0 1) s
      match p, a.op with
      | .alone, _ => onHeldLine a w p l s
      | _, .read => onHeldLine a w p l s
      | _, .prefetch _ => onHeldLine a w p l s
      | _, _ => onPacked a part w p l s
    | none => onUnheld a part s

/-- An access reaches its slice. A wait for an eviction buffer entry is counted when it begins, in cycles whose number the
commands do not tell (log entry 1). -/
def sliceAccess (a : SAcc) (s : State) : State :=
  let s1 := sliceLookup false a s
  if isStalled s1 a && needsEntry s a then
    let n := freeNat 31 s1
    bumpWrap .ebufStalls a.sl 31 0 (n.1 + 1) n.2
  else s1

/-- The regulator that governs an access at a slice; an engine's own is the one of its binding. -/
def accRegul (s : State) (a : SAcc) : Option Nat :=
  if a.quiet then governor s a.ag (if a.op = .read then 0 else 4) a.addr else a.reg

/-- An access that waits, as its arbitration point sees it (R317). -/
def accCand (s : State) (n : Nat) (a : SAcc) : Cand :=
  match a.op with
  | .prefetch _ => ⟨n, 1, 0, 256⟩
  | op =>
    let q := accRegul s a
    let p := prioOf s q (decide (op = .read)) a.t
    ⟨n, p.1, p.2, q.getD 256⟩

/-- The accesses of a list that may be granted at a slice: the first for each sector (R319). -/
def sliceCands (s : State) (l : List SAcc) : List Cand :=
  l.zipIdx.filterMap (fun p =>
    if (l.take p.2).any (fun b => decide (b.line = p.1.line ∧ b.sec = p.1.sec)) then none else some (accCand s p.2 p.1))

def sliceArb (s : State) (sl : Nat) : ArbSt := s.buf.arb.getD sl ArbSt.init
def setSliceArb (sl : Nat) (a : ArbSt) (s : State) : State :=
  { s with buf := { s.buf with arb := s.buf.arb.setD sl ArbSt.init a } }

/-- Grant the accesses of a list, one after another, as the arbitration has it. -/
def retryGo (sl : Nat) : Nat → List SAcc → State → State
  | 0, _, s => s
  | n + 1, l, s =>
    let cs := sliceCands s l
    match arbPick s (sliceArb s sl) cs with
    | none => s
    | some c =>
      match l[c.idx]? with
      | none => s
      | some a =>
        let s1 := sliceLookup true a s
        retryGo sl n (l.eraseIdx c.idx)
          (if isStalled s1 a then s1 else setSliceArb sl (arbAfter (sliceArb s sl) cs c) s1)

/-- The sectors that go with a line evicted compressed are requested as tracked requests come free (R128). -/
def retryOthers (sl : Nat) (s : State) : State :=
  let mine := s.buf.others.filter (fun o => decide (o.1 = sl))
  forEach mine (fun o s =>
    let line := o.2.1
    let sec := o.2.2
    let gone (s : State) : State := { s with buf := { s.buf with others := s.buf.others.filter (fun p => p ≠ o) } }
    match lookup s sl line with
    | some (w, p, l) =>
      if l.secs.get sec = .inv then
        match requestFill .fill sl line sec w p none s with
        | some s => gone s
        | none => s
      else gone s
    | none => gone s) s

/-- The accesses that wait at a slice are tried again, in the order of their priorities (R317); those that must still wait
keep their order. -/
def retryStalled (sl : Nat) (s : State) : State :=
  let s := retryOthers sl s
  let l := s.buf.stalled.getD sl []
  let s := retryGo sl l.length l { s with buf := { s.buf with stalled := s.buf.stalled.erase sl } }
  let l' := s.buf.stalled.getD sl []
  { s with buf := { s.buf with
      stalled := s.buf.stalled.setD sl [] (l.filter l'.contains ++ l'.filter (fun a => !l.contains a)) } }

/-- An access of a channel's queue as its arbitration point sees it (R316, R317): a fill has the priority of the most urgent
access that waits for it. -/
def chanCand (s : State) (c n : Nat) (o : ChanOp) : Cand :=
  let sl := c / 4
  let own : Cand := match o.op with
    | .read .fill => ⟨n, 0, 0, 256⟩
    | .read (.pass a) => { accCand s n a with idx := n }
    | _ => ⟨n, 1, 0, 256⟩
  if isFetch o.op then
    (s.buf.waits.getD (waitKey sl o.line o.sec) []).foldl (fun b a =>
      let d := accCand s n a
      if b.prio < d.prio || (b.prio == d.prio && decide (d.slack < b.slack)) then d else b) own
  else own

/-- The accesses that a channel may perform next: the first of each sector (R167), and of the adds those in the adder's queue
of 32 (R170). -/
def chanCands (s : State) (c : Nat) : List Cand :=
  let q := (chanAt s c).q
  q.zipIdx.filterMap (fun p =>
    if (q.take p.2).any (sameSec p.1.line p.1.sec) ||
       (isAdd p.1.op && decide (32 ≤ ((q.take p.2).filter (fun o => isAdd o.op)).length)) then none
    else some (chanCand s c p.2 p.1))

/-- The access that a channel performs next (R317, R318). -/
def chanNext (s : State) (c : Nat) : Option Cand := arbPick s (chanAt s c).arb (chanCands s c)

/-- Perform the n-th access of a channel if it is the one that the arbitration grants. -/
def performGranted (c n : Nat) (err : ReadErr) (s : State) : State :=
  match chanNext s c with
  | some d =>
    if d.idx = n && chanOpen s c then
      performNth c n err (setChan c { chanAt s c with arb := arbAfter (chanAt s c).arb (chanCands s c) d } s)
    else s
  | none => s

/-! ### Fills -/

/-- Apply waiting accesses in order to a sector with data; each sees the result of those before it (R120). -/
def applyWaits : List SAcc → Sector → State → Sector × State
  | [], x, s => (x, s)
  | a :: as, x, s =>
    match secStep a.op x with
    | .done new data => applyWaits as new (reply a data s)
    | _ => applyWaits as x s

/-- Apply the accesses that waited on a failed fill (R162): those that need no fill are applied, the others fail and
are counted. -/
def applyFailed : List SAcc → Sector → State → Sector × State
  | [], x, s => (x, s)
  | a :: as, x, s =>
    match secStep a.op x with
    | .done new data => applyFailed as new (reply a data s)
    | _ =>
      let s := bumpSat .stackStatus (stackOfSlice a.sl) 31 16 1 s
      applyFailed as x (failAcc a s)

/-- The accesses of a wait list that fail with their fill. -/
def failingOf : List SAcc → Sector → List SAcc
  | [], _ => []
  | a :: as, x =>
    match secStep a.op x with
    | .done new _ => failingOf as new
    | _ => a :: failingOf as x

/-- The sector that a failed fill leaves: I, or P with the partial it kept (R119). -/
def heldBase : Option PSum → Sector
  | none => .inv
  | some a => .partSum a

/-- A dead sector was read from memory (R138). -/
def deadReread (sl line sec : Nat) (s : State) : State :=
  let own := sectorOwner s sl line sec
  let h := halfOf 128 sl
  match own.2 with
  | none => bumpSat .deadRereads sl 31 0 1 s
  | some f =>
    let mode := rbits s .funcBuf (16 * h.num + f) 1 0
    if mode = 0 then s
    else
      let s := bumpSat .funcDeadCount (16 * h.num + f) 31 0 1 (bumpSat .deadRereads sl 31 0 1 s)
      when (decide (mode = 2)) (event h 0x0303 2 (some f) sl own.1 138) s

/-- The wait list of a sector is taken. -/
def takeWaits (k : Nat) (s : State) : List SAcc × State :=
  (s.buf.waits.getD k [], { s with buf := { s.buf with waits := s.buf.waits.erase k } })

/-- The other sectors of a line that was evicted compressed are requested too (R128). -/
def fillOthers (r : FillRet) (sl : Nat) (s : State) : State :=
  let l := ([0, 1, 2, 3].filter (· ≠ r.sec)).map (fun i => (sl, r.line, i))
  retryOthers sl { s with buf := { s.buf with others := s.buf.others ++ l.filter (fun o => !s.buf.others.contains o) } }

/-- A returned sector arrives at its slice (R119, R120, R128, R138, R162). A failed fill counts its waiting accesses that fail
with it, or itself where none waits. -/
def fillArrive (sl : Nat) (r : FillRet) (s : State) : State :=
  match r.pass with
  | some a =>
    if r.failed then failAcc a (bumpSat .stackStatus (stackOfSlice sl) 31 16 1 s)
    else replyRead a r.d r.poison (when r.dead (deadReread sl r.line r.sec) s)
  | none =>
    let wk := waitKey sl r.line r.sec
    match lookup s sl r.line with
    | some (w, p, l) =>
      match l.secs.get r.sec with
      | .filling held =>
        let tw := takeWaits wk s
        let lone := decide (failingOf tw.1 (heldBase held) = [])
        let base : Sector :=
          if r.failed then heldBase held
          else match held with
            | none => .valid r.d r.poison
            | some a => .modified (combine a.ro r.d a.d) (r.poison || a.p)
        let s := when (r.failed && lone) (bumpSat .stackStatus (stackOfSlice sl) 31 16 1) tw.2
        let s := when (r.dead && !r.failed) (deadReread sl r.line r.sec) s
        let res := if r.failed then applyFailed tw.1 base s else applyWaits tw.1 base s
        let s := updLine sl r.line w p { l with secs := l.secs.set r.sec res.1 } res.2
        let s := if r.failed then s else touch sl (setOf r.line) w s
        when (r.compressed && !r.failed) (fillOthers r sl) s
      | _ => s
    | none => s

/-- Take the n-th returned sector of a slice. -/
def takeRet (sl n : Nat) (s : State) : Option (FillRet × State) :=
  let l := s.buf.rets.getD sl []
  match l[n]? with
  | some r => some (r, { s with buf := { s.buf with rets := s.buf.rets.setD sl [] (l.eraseIdx n) } })
  | none => none

/-! ### The value of a sector as the next access would see it -/

/-- The value after the writes and adds waiting in a channel queue (oldest first). -/
def throughQueue (line sec : Nat) : List ChanOp → Sec256 × Bool → Sec256 × Bool
  | [], v => v
  | o :: os, v =>
    if o.line = line ∧ o.sec = sec then
      throughQueue line sec os (match o.op with
        | .read _ => v
        | .write d p _ _ => (d, p)
        | .rmw w => (mergeMask w.mask w.data v.1, v.2 || w.poison)
        | .dead => (0, false)
        | .add a => (combine a.ro v.1 a.d, v.2 || a.p))
    else throughQueue line sec os v

/-- The value of a sector below the frames: memory, the channel queue, write-combining and the eviction buffer. -/
def belowValue (s : State) (sl line sec : Nat) : Sec256 × Bool :=
  let c := chanOf sl line
  let x := chanAt s c
  let raw := rawRead s c (sectorIndex line sec)
  let v := throughQueue line sec x.q (raw.1, natBit 0 raw.2)
  let v := match x.wcb.find? (fun w => decide (w.line = line ∧ w.sec = sec)) with
    | some w => (mergeMask w.w.mask w.w.data v.1, v.2 || w.w.poison)
    | none => v
  match (ebufAt s sl).find? (fun e => decide (e.line = line)) with
  | none => v
  | some e =>
    match e.slots.get sec with
    | .none => v
    | .write w _ _ => if w.mask = fullMask then (w.data, w.poison) else (mergeMask w.mask w.data v.1, v.2 || w.poison)
    | .reduce a => (combine a.ro v.1 a.d, v.2 || a.p)
    | .deadmark => (0, false)

/-- The value of a sector as an access accepted now would see it. -/
def sectorValue (s : State) (sl line sec : Nat) : Sec256 × Bool :=
  match lookup s sl line with
  | none => belowValue s sl line sec
  | some (_, _, l) =>
    match l.secs.get sec with
    | .valid d p => (d, p)
    | .modified d p => (d, p)
    | .partSum a =>
      let v := belowValue s sl line sec
      (combine a.ro v.1 a.d, v.2 || a.p)
    | _ => belowValue s sl line sec

/-- Bring everything outstanding on one sector to its end: its queued accesses are performed and its returned
sectors arrive, in order (R120, R167). Nothing moves while its channel is not open, and
a sector returned with its reduce-pending bit set waits for the collection of R216. -/
def settle (sl line sec : Nat) : Nat → State → State
  | 0, s => s
  | n + 1, s =>
    let c := chanOf sl line
    match (s.buf.rets.getD sl []).findIdx? (fun r => decide (r.line = line ∧ r.sec = sec)) with
    | some i =>
      match takeRet sl i s with
      | some (r, s1) => if r.reducePending then s else settle sl line sec n (fillArrive sl r s1)
      | none => s
    | none =>
      if chanOpen s c then
        match (chanAt s c).q.findIdx? (sameSec line sec) with
        | some i => settle sl line sec n (performNth c i noErr s)
        | none => s
      else s

/-- Something is still outstanding on a sector. -/
def unsettled (s : State) (sl line sec : Nat) : Bool :=
  (s.buf.stalled.getD sl []).any (fun a => decide (a.line = line ∧ a.sec = sec)) ||
  ((s.buf.waits.getD (waitKey sl line sec) []).length != 0) ||
  (s.buf.rets.getD sl []).any (fun r => decide (r.line = line ∧ r.sec = sec)) ||
  (chanAt s (chanOf sl line)).q.any (fun o => sameSec line sec o && (match o.op with
    | .read (.pass _) => true
    | _ => false))

end Sys2Proof.Machine
end

