-- ==== Sys2Proof/Machine/Coh.lean ====
section
/-! DEFINITION. Continuity at the home (R182–R222): the directory, snoops, transactions, requests and their
transitions, leases, and the Slate's copy-on-write (R224–R230). -/

namespace Sys2Proof.Machine

open Sys2Proof

/-! ### Requests -/

/-- A request at its home that arrives at `t`, with nothing noted of its line yet. -/
def mkReq (hd : Option CohHdr) (who : Option (Agent × Nat)) (kind : HKind) (sl line t : Nat) (grp : Bool) : HReq :=
  { hd := hd, who := who, kind := kind, sl := sl, line := line, t := t, grp := grp, wasA := false, multi := false, acq := false }

/-! ### The group, members, leases -/

def lineKey (sl line : Nat) : Nat := 2 ^ 26 * sl + line
def homeHalf (sl : Nat) : Half := halfOf 128 sl

/-- The listed members of the group. -/
def listedMembers (s : State) : List Nat :=
  s.regs.val.filterMap (fun kv =>
    if kv.1 % 256 = regNum .member && natBit 16 kv.2.toNat then some (kv.1 / 256) else none)

/-- The device of a member, and the member of a device (R186). -/
def memberDev (s : State) (m : Nat) : BitVec 16 := BitVec.ofNat 16 (rbits s .member m 15 0)
def memberOf (s : State) (d : BitVec 16) : Option Nat :=
  (listedMembers s).find? (fun m => decide (memberDev s m = d))

def groupOpen (s : State) : Bool := rbit s .groupCfg 0 31

/-- The lease of a half, in 64 µs units (R205, R235). -/
def leaseUnits (s : State) (h : Half) : Nat := max 8 (rbits s .cohCfg h.num 7 0)

/-- A time + 1.01 × LEASE + 0.5 ms, rounded up to 64 µs (R205). -/
def deadlineAt (s : State) (h : Half) : Nat :=
  (s.clock * 10 + leaseUnits s h * 6464 + 50000 + 6399) / 6400 * 640

/-- The same without rounding, for collections and sweeps (R216, R218). -/
def collectLimit (s : State) (h : Half) : Nat := (s.clock * 10 + leaseUnits s h * 6464 + 50000 + 9) / 10

/-- The segment of a line is exported, and copies are allowed (R187). -/
def lineDpa (s : State) (sl line : Nat) : Nat := (dpaOf s sl (line * 128)).getD 0
def lineExported (s : State) (sl line : Nat) : Bool := rbit s .segExport (lineDpa s sl line / 2 ^ 30) 0
def lineCacheOk (s : State) (sl line : Nat) : Bool := rbit s .segExport (lineDpa s sl line / 2 ^ 30) 1

/-! ### Takes of tags (R220, R222) -/

/-- Tag spaces: request tags of half h from 4096 × h, snoop tags of slice l from 8192 + 4096 × l. -/
def reqTagKey (h : Half) (tag : Nat) : Nat := 4096 * h.num + tag
def snoopTagKey (sl tag : Nat) : Nat := 8192 + 4096 * sl + tag

/-- The take that the next issue of a tag uses. -/
def nextTake (m : NMap (BitVec 8)) (k : Nat) : BitVec 8 := m.getD k 0 + 1

/-- The tag may be issued: its next take was not used within the last 1 ms (R222). -/
def tagReady (s : State) (m : NMap (BitVec 8)) (k : Nat) : Bool :=
  match s.coh.tagUse.find? (k * 256 + (nextTake m k).toNat) with
  | none => true
  | some t => decide (t + ms 1 ≤ s.clock + 1)

/-- Issue a tag: the lowest free one that may be issued; its take is advanced and its use noted. -/
def issueSnoopTag (sl : Nat) (s : State) : Option (Nat × BitVec 8 × State) :=
  match (List.range 4096).find? (fun t =>
    (s.coh.snoops.find? (4096 * sl + t)).isNone && tagReady s s.coh.snoopTake (snoopTagKey sl t)) with
  | none => none
  | some t =>
    let k := snoopTagKey sl t
    let tk := nextTake s.coh.snoopTake k
    some (t, tk, { s with coh := { s.coh with
      snoopTake := s.coh.snoopTake.insert k tk
      tagUse := s.coh.tagUse.insert (k * 256 + tk.toNat) (s.clock + 1) } })

/-- A message whose take is not current: discarded and counted; the first in each 1 ms is recorded (R222). -/
def staleMsg (h : Half) (s : State) : State :=
  let s := bumpSat .staleDiscards h.num 31 0 1 s
  match s.coh.staleSeen.find? h.num with
  | some t =>
    if t + ms 1 ≤ s.clock then
      event h 0x0401 0 none 0 0 222 { s with coh := { s.coh with staleSeen := s.coh.staleSeen.insert h.num s.clock } }
    else s
  | none => event h 0x0401 0 none 0 0 222 { s with coh := { s.coh with staleSeen := s.coh.staleSeen.insert h.num s.clock } }

/-! ### The directory (R201–R204) -/

def dirKey (sl set way : Nat) : Nat := 16384 * sl + 16 * set + way
def dirAt (s : State) (sl set way : Nat) : Option DirEnt := s.coh.dir.find? (dirKey sl set way)

/-- The entry of a line: its way and the entry. -/
def dirFind (s : State) (sl line : Nat) : Option (Nat × DirEnt) :=
  (List.range 16).findSome? (fun w =>
    match dirAt s sl (setOf line) w with
    | some e => if e.tag = tagOf line then some (w, e) else none
    | none => none)

def putDir (sl set way : Nat) (e : Option DirEnt) (s : State) : State :=
  let k := dirKey sl set way
  match e with
  | some e => { s with coh := { s.coh with dir := s.coh.dir.insert k e } }
  | none => { s with coh := { s.coh with dir := s.coh.dir.erase k } }

/-- The entry names no holder. -/
def dirEmpty (e : DirEnt) : Bool := decide (e.locals = 0) && decide (e.members = []) && decide (e.vec = 0)

/-- Change the entry of a line; an entry without holders is freed. -/
def modDir (sl line : Nat) (f : DirEnt → DirEnt) (s : State) : State :=
  match dirFind s sl line with
  | none => s
  | some (w, e) =>
    let e' := f e
    putDir sl (setOf line) w (if dirEmpty e' then none else some e') s

/-- The LOCAL bit of a holder on the base. -/
def localBit : Holder → Option Nat
  | .site g => some g.val
  | .xFar => some 4
  | .member _ => none

/-- The vector bit of a member. -/
def vecBit (m : Nat) : W64 := BitVec.ofNat 64 (2 ^ (m / 64))

/-- The entry lists a holder. -/
def dirLists (e : DirEnt) (hd : Holder) : Bool :=
  match hd with
  | .member m => if e.coarse then decide (e.vec &&& vecBit m ≠ 0) else e.members.any (fun p => p.1 = m.val)
  | hd => ((localBit hd).map (fun b => natBit b e.locals)).getD false

/-- Add a holder with its deadline; the ninth remote holder makes the entry coarse (R202). -/
def dirAdd (e : DirEnt) (hd : Holder) (deadline : Nat) : DirEnt :=
  match hd with
  | .member m =>
    let e := { e with leaseEnd := max e.leaseEnd deadline }
    if e.coarse then { e with vec := e.vec ||| vecBit m }
    else
      let rest := e.members.filter (fun p => p.1 ≠ m.val)
      if rest.length < 8 then { e with members := rest ++ [(m.val, deadline)] }
      else { e with coarse := true, members := []
                    vec := (rest.map Prod.fst).foldl (fun v i => v ||| vecBit i) (vecBit m) }
  | hd =>
    match localBit hd with
    | some b => { e with locals := setBits b b 1 e.locals }
    | none => e

/-- Remove a holder. A coarse entry keeps its vector (R202). -/
def dirDrop (e : DirEnt) (hd : Holder) : DirEnt :=
  match hd with
  | .member m => { e with members := e.members.filter (fun p => p.1 ≠ m.val) }
  | hd =>
    match localBit hd with
    | some b => { e with locals := setBits b b 0 e.locals }
    | none => e

/-- The base's own member index (R235). -/
def ownMember (s : State) : Nat := rbits s .groupCfg 0 11 0

/-- The holders of an entry, each with the clock at which it counts as gone (0: none). A coarse entry covers every member of
its blocks but the base itself. -/
def dirHolders (s : State) (e : DirEnt) : List (Holder × Nat) :=
  let sites := ([0, 1, 2, 3] : List (Fin 4)).filterMap (fun g =>
    if natBit g.val e.locals then some (Holder.site g, 0) else none)
  let x := if natBit 4 e.locals then [(Holder.xFar, 0)] else []
  let ms := if e.coarse then
      (listedMembers s).filterMap (fun m =>
        if e.vec &&& vecBit m ≠ 0 ∧ m ≠ ownMember s then some (Holder.member (Fin.ofNat 4096 m), e.leaseEnd) else none)
    else e.members.map (fun p => (Holder.member (Fin.ofNat 4096 p.1), p.2))
  sites ++ x ++ ms

/-- An entry with one holder. -/
def dirNew (line : Nat) (st : DirState) (redop : Nat) : DirEnt :=
  { tag := tagOf line, st := st, locals := 0, coarse := false, members := [], vec := 0, redop := redop, leaseEnd := 0 }

/-! ### Transactions, snoops -/

def txAt (s : State) (sl line : Nat) : Option HomeTx := s.coh.txs.find? (lineKey sl line)
def putTx (sl line : Nat) (t : Option HomeTx) (s : State) : State :=
  let k := lineKey sl line
  match t with
  | some t => { s with coh := { s.coh with txs := s.coh.txs.insert k t } }
  | none => { s with coh := { s.coh with txs := s.coh.txs.erase k } }

/-- The destination of a message to a holder. -/
def holderDst (s : State) (sl : Nat) : Holder → CohDst
  | .site g => .site g.val
  | .xFar => .far (homeHalf sl).other
  | .member m => .dev (memberDev s m.val)

def isMember : Holder → Bool
  | .member _ => true
  | _ => false

/-- The address of a line in a message to a holder: a GA for a far cache of another device, else a DPA. -/
def holderAddr (s : State) (sl line : Nat) (hd : Holder) : W64 :=
  let a := BitVec.ofNat 64 (lineDpa s sl line)
  if isMember hd then (BitVec.ofNat 64 ((ownDev s).toNat * 2 ^ 48)) ||| a else a

/-- The function of a line's memory, and its epoch bit, as a message of the home carries them (R225). -/
def lineEpoch (s : State) (sl line : Nat) : Nat × Bool :=
  let f := (dpaFunc s (lineDpa s sl line)).getD 0
  (f, (s.coh.slates.getD f SlateSt.init).epoch)

/-- Send a snoop (R197, R203). To a coarse entry it goes as one multicast per covered block; its tag serves the
block's members. -/
def sendSnoop (sl line code redop : Nat) (hd : Holder) (s : State) : State :=
  match issueSnoopTag sl s with
  | none => s
  | some (t, tk, s) =>
    let sn : SnoopOut := ⟨line, hd, code, tk, s.clock, false⟩
    let s := { s with coh := { s.coh with snoops := s.coh.snoops.insert (4096 * sl + t) sn } }
    sendCoh (holderDst s sl hd) { blankCoh with
      code := code, tag := t, take := tk, addr := holderAddr s sl line hd, redop := redop, sect := 15
      func := (lineEpoch s sl line).1, epoch := (lineEpoch s sl line).2 } s

/-- Free the snoop tags of a line. -/
def freeSnoops (sl line : Nat) (s : State) : State :=
  { s with coh := { s.coh with
      snoops := s.coh.snoops.filter (fun e => !(decide (e.1 / 4096 = sl) && decide (e.2.line = line))) } }

/-- One multicast snoop to a block of members (R203): its tag serves every member of the block. While the links cannot take
it, the members are snooped one by one. -/
def snoopBlock (sl line code redop k : Nat) (ms : List Holder) (s : State) : State :=
  let single (s : State) : State := forEach ms (sendSnoop sl line code redop) s
  match issueSnoopTag sl s, ms with
  | some (t, tk, s1), m :: _ =>
    let sn : SnoopOut := ⟨line, m, code, tk, s1.clock, false⟩
    let msg := { blankCoh with
      code := code, tag := t, take := tk, addr := holderAddr s1 sl line m, redop := redop, sect := 15
      func := (lineEpoch s sl line).1, epoch := (lineEpoch s sl line).2 }
    match mcSend (4032 + k) (cohPacket 0 msg) s1 with
    | some s2 => { s2 with coh := { s2.coh with snoops := s2.coh.snoops.insert (4096 * sl + t) sn } }
    | none => single s
  | _, _ => single s

/-- Snoop the holders of a list with one code; the members of a coarse entry block by block (R203). -/
def snoopList (coarse : Bool) (sl line code redop : Nat) (l : List (Holder × Nat)) (s : State) : State :=
  let hs := l.map Prod.fst
  if coarse then
    let blockOf (h : Holder) : Nat := match h with
      | .member m => m.val / 64
      | _ => 0
    let near := hs.filter (fun h => !isMember h)
    let far := hs.filter isMember
    let s := forEach near (sendSnoop sl line code redop) s
    forEach (List.range 64) (fun k s =>
      let ms := far.filter (fun h => decide (blockOf h = k))
      if ms = [] then s else snoopBlock sl line code redop k ms s) s
  else forEach hs (sendSnoop sl line code redop) s

/-- Snoop the holders of a list for a line that is listed in the directory. -/
def snoopAll (sl line code redop : Nat) (l : List (Holder × Nat)) (s : State) : State :=
  snoopList (((dirFind s sl line).map (fun e => e.2.coarse)).getD false) sl line code redop l s

/-- A transaction that waits for the holders of a list. -/
def newTx (req : Option HReq) (why : SnoopWhy) (l : List (Holder × Nat)) (discard : Bool) : HomeTx :=
  { req := req, why := why, waits := l, performed := false, blocked := false, hadRemote := l.any (fun p => isMember p.1),
    hold := false, discard := discard }

/-- Directory counters. -/
def countDir (r : Reg) (sl hi : Nat) (wrap : Bool) (s : State) : State :=
  if wrap then bumpWrap r sl hi 0 1 s else bumpSat r sl hi 0 1 s

/-! ### Quiet accesses to the slice -/

/-- Enough steps to bring one sector to rest: the queues of a channel hold at most 256 accesses. -/
def settleFuel : Nat := 600

/-- A step of the base's own on one sector, applied under R119, brought to its end where its channel is open. -/
def quietAcc (sl line sec : Nat) (op : SecOp) (ag : Agent) (func : Nat) (s : State) : State :=
  settle sl line sec settleFuel
    (sliceAccess ⟨sl, line, sec, op, ag, func, 0, s.clock, lineDpa s sl line + 32 * sec, true, none⟩ s)

/-- A write or add of the base's own that must not be left waiting at its slice: none while no entry, frame or tracked request
takes it. -/
def quietTry (sl line sec : Nat) (op : SecOp) (ag : Agent) (func : Nat) (s : State) : Option State :=
  let a : SAcc := ⟨sl, line, sec, op, ag, func, 0, s.clock, lineDpa s sl line + 32 * sec, true, none⟩
  let s1 := sliceAccess a s
  if isStalled s1 a then none else some (settle sl line sec settleFuel s1)

/-- A read of this agent for its own engines waits on a sector already. -/
def quietAsked (s : State) (sl line sec : Nat) (ag : Agent) : Bool :=
  let mine (a : SAcc) : Bool := a.quiet && decide (a.ag = ag ∧ a.line = line ∧ a.sec = sec ∧ a.op = .read)
  (s.buf.stalled.getD sl []).any mine || (s.buf.waits.getD (waitKey sl line sec) []).any mine ||
  (chanAt s (chanOf sl line)).q.any (fun o => match o.op with
    | .read (.pass a) => mine a
    | _ => false)

/-- Bring a sector to rest and read it; none while it cannot be (a fence, a collection). -/
def quietRead (sl line sec : Nat) (ag : Agent) (func : Nat) (s : State) : Option (Sec256 × Bool) × State :=
  let s := if quietAsked s sl line sec ag then settle sl line sec settleFuel s else quietAcc sl line sec .read ag func s
  if unsettled s sl line sec then (none, s) else (some (sectorValue s sl line sec), s)

/-- Read the sectors of a mask; none when one cannot be read now. -/
def quietReads (sl line : Nat) (ag : Agent) (func : Nat) : List (Fin 4) → LinePart → State → Option LinePart × State
  | [], acc, s => (some acc, s)
  | i :: is, acc, s =>
    match quietRead sl line i.val ag func s with
    | (some (d, p), s) => quietReads sl line ag func is (acc ++ [(i, d, p)]) s
    | (none, s) => (none, s)

/-- The sectors of a mask, in order. -/
def maskSecs (m : Nat) : List (Fin 4) := ([0, 1, 2, 3] : List (Fin 4)).filter (fun i => natBit i.val m)

/-- Writes or adds of one line, all or none. -/
def quietAll (sl line : Nat) (ag : Agent) (func : Nat) : List (Fin 4 × SecOp) → State → Option State
  | [], s => some s
  | x :: xs, s => (quietTry sl line x.1.val x.2 ag func s).bind (quietAll sl line ag func xs)

def quietWrites (sl line : Nat) (ag : Agent) (func : Nat) (l : List (Fin 4 × SecWr)) (s : State) : State :=
  forEach l (fun x s => quietAcc sl line x.1.val (.write x.2) ag func s) s

def quietAdds (sl line : Nat) (ag : Agent) (func : Nat) (ro : RedOp) (l : LinePart) (s : State) : State :=
  forEach l (fun x s => quietAcc sl line x.1.val (.add ⟨ro, x.2.1, x.2.2⟩) ag func s) s

/-- A partial merged as an add-to-line (R135). -/
def mergePart (sl line : Nat) (ro : RedOp) (l : LinePart) (s : State) : State :=
  quietAdds sl line (.mp (homeHalf sl)) 0 ro l s

/-- M data written. -/
def mergeData (sl line : Nat) (l : LinePart) (s : State) : State :=
  quietWrites sl line (.mp (homeHalf sl)) 0 (l.map (fun x => (x.1, ⟨x.2.1, fullMask, x.2.2⟩))) s

/-- REDOP codes (R201): 3 × type + op + 1. -/
def addTyNum : AddTy → Nat
  | .fp32 => 0
  | .bf16 => 1
  | .fp16 => 2
  | .int32 => 3
  | .int64 => 4
def addOpNum : AddOp → Nat
  | .add => 0
  | .min => 1
  | .max => 2
def redopCode (r : RedOp) : Nat := 3 * addTyNum r.ty + addOpNum r.op + 1
def redopOf (c : Nat) : Option RedOp :=
  let ty : Option AddTy := match (c - 1) / 3 with
    | 0 => some .fp32
    | 1 => some .bf16
    | 2 => some .fp16
    | 3 => some .int32
    | 4 => some .int64
    | _ => none
  let op : AddOp := match (c - 1) % 3 with
    | 0 => .add
    | 1 => .min
    | _ => .max
  if c = 0 then none else ty.map (fun ty => ⟨ty, op⟩)

/-! ### Loss (R209, R217) -/

/-- The home poisons every sector of a line whose holder is lost, and records it. -/
def poisonLine (sl line : Nat) (who : Nat) (s : State) : State :=
  let s := forEach [0, 1, 2, 3] (fun i s =>
    let v := sectorValue s sl line i
    quietAcc sl line i (.write ⟨v.1, fullMask, true⟩) (.mp (homeHalf sl)) 0 s) s
  let a := lineDpa s sl line
  eventD (homeHalf sl) 0x0402 2 (dpaFunc s a) sl a 209 who s

/-! ### Replies -/

/-- Answer a requester outside the base, or its own far side. -/
def answer (r : HReq) (m : CohMsg) (s : State) : State :=
  match r.hd with
  | none => s
  | some hd =>
    sendCoh (holderDst s r.sl hd.src) { m with
      tag := hd.tag.val, take := hd.take, addr := hd.addr, func := hd.func.val, epoch := hd.epoch } s

/-- The key of a request of several lines: 4096 × member + tag. -/
def multiKey (r : HReq) : Nat :=
  match r.hd with
  | some hd => 4096 * (match hd.src with
      | .member m => m.val
      | _ => 0) + hd.tag.val
  | none => 0

/-- A step of a request's completion (R190): performed at BASE (0x32) or at GROUP (0x33). Of a request of several lines, the
requester hears of it with the last. -/
def ackStep (r : HReq) (code : Nat) (s : State) : State :=
  if !r.multi then answer r { blankCoh with code := code } s
  else
    match s.coh.multi.find? (multiKey r) with
    | none => s
    | some (l, g) =>
      let v : Nat × Nat := if code = 0x32 then (l - 1, g) else (l, g - 1)
      let s := { s with coh := { s.coh with
        multi := if v = (0, 0) then s.coh.multi.erase (multiKey r) else s.coh.multi.insert (multiKey r) v } }
      when (decide ((if code = 0x32 then v.1 else v.2) = 0)) (answer r { blankCoh with code := code }) s

/-- `ERROR` with a cause of R286; an access of the base's own ends with an error response. A request of several lines is
answered once. -/
def answerError (r : HReq) (cause : Nat) (s : State) : State :=
  match r.hd, r.kind with
  | some _, _ =>
    if r.multi && (s.coh.multi.find? (multiKey r)).isNone then s
    else answer r { blankCoh with code := 0x3A, cause := cause }
      (when r.multi (fun s => { s with coh := { s.coh with multi := s.coh.multi.erase (multiKey r) } }) s)
  | none, .own accs => forEach accs failAcc s
  | none, _ =>
    match r.who with
    | some (ag, tag) => emit (.accErr ag tag) s
    | none => s

/-! ### Slates at the home (R225, R228–R230) -/

def slateAt (s : State) (f : Nat) : SlateSt := s.coh.slates.getD f SlateSt.init
def setSlate (f : Nat) (x : SlateSt) (s : State) : State :=
  { s with coh := { s.coh with slates := s.coh.slates.insert f x } }

/-- Copy-on-write is active. -/
def slateOn (x : SlateSt) : Bool := decide (x.st = .pointed) || decide (x.st = .streaming)

/-- The Slate that covers a DPA: its function. -/
def slateOf (s : State) (a : Nat) : Option Nat :=
  match dpaFunc s a with
  | some f => if slateOn (slateAt s f) && (slateAt s f).parts.contains (segPart s (a / 2 ^ 30)) then some f else none
  | none => none

/-- The granules of a partition that are homed on a slice. -/
def partGranules (s : State) (part sl : Nat) : List Nat :=
  ((listedSegs s).filter (fun g => decide (segMode s g ≠ 0) && decide (segPart s g = part))).flatMap (fun seg =>
    (List.range 4096).filterMap (fun r =>
      let slot := rbits s .segMap seg 10 0 + r / 2048
      if segUses s sl slot seg then
        let g := granAt s sl slot (r % 2048) seg
        if hashSlice s g = sl && decide (g / 2 ^ 19 = seg) then some g else none
      else none))

/-- A free granule of the preserve partition on the same slice: not in use, not retired. -/
def freePreserve (s : State) (x : SlateSt) (sl : Nat) : Option Nat :=
  (partGranules s x.preserve sl).find? (fun g =>
    !(x.copies.any (fun c => c.2 = g)) && !(s.mem.retired.any (fun r => decide (homeOf s (2048 * g) = some (r.sl, 2048 * r.granule)))))

/-- Copy a granule's coherent value to another granule of the same slice (R228). -/
def copyGranule (src dst : Nat) (s : State) : State :=
  forEach (List.range 64) (fun k s =>
    match locOf s (src * 2048 + 32 * k), locOf s (dst * 2048 + 32 * k) with
    | some a, some b =>
      let s := quietAcc a.sl a.line a.sec .read (.mp (homeHalf a.sl)) 0 s
      let v := sectorValue s a.sl a.line a.sec
      quietAcc b.sl b.line b.sec (.write ⟨v.1, fullMask, v.2⟩) (.mp (homeHalf b.sl)) 0 s
    | _, _ => s) s

/-- The request is a write-class access (R228). -/
def writeClass : HKind → Bool
  | .rdX => true
  | .upgrade => true
  | .wrNc _ => true
  | .addNc _ _ => true
  | .atomic a _ => decide (a.op ≠ .load)
  | .wb _ _ => true
  | .mergeA _ _ => true
  | .snoopData _ _ _ _ => true
  | .own accs => accs.any (fun a => match a.op with
    | .write _ => true
    | .add _ => true
    | _ => false)
  | .maint c => decide (c = 4) || decide (c = 6)
  | _ => false

/-- The request comes from after the point: it carries the function's epoch, or is an agent's of the base itself, a guest die
among them (R228). -/
def newEpoch (s : State) (f : Nat) (r : HReq) : Bool :=
  match r.hd with
  | none => true
  | some hd =>
    match hd.src with
    | .site _ => true
    | _ => hd.epoch == (slateAt s f).epoch

/-- What the Slate does with a request before it is performed: proceed (with the state after any preservation), or hold
it for want of a free preserve granule (R228, R230). -/
def slateGate (r : HReq) (s : State) : Option State :=
  let a := lineDpa s r.sl r.line
  match slateOf s a with
  | none => some s
  | some f =>
    let x := slateAt s f
    let g := a / 2048
    if writeClass r.kind && newEpoch s f r && decide (x.grans.getD g 0 = 0) then
      match freePreserve s x r.sl with
      | some d =>
        let s := copyGranule g d s
        some (bumpSat .slatePreserved (16 * (homeHalf r.sl).num + f) 31 0 1
          (setSlate f { slateAt s f with
            grans := (slateAt s f).grans.insert g 1, copies := (slateAt s f).copies.insert g d
            preserved := (slateAt s f).preserved + 1 } s))
      | none => none
    else some s

/-- An access of one of the base's engines waits for a preserve granule (R230): it is counted once, and comes again. -/
def slateWant (ag : Agent) (r : HReq) (s : State) : State :=
  let g := lineDpa s r.sl r.line / 2048
  match slateOf s (lineDpa s r.sl r.line) with
  | none => s
  | some f =>
    let x := slateAt s f
    if x.want.contains (ag, g) then s
    else bumpSat .slateHeld (16 * (homeHalf r.sl).num + f) 31 0 1
      (setSlate f { x with want := x.want ++ [(ag, g)], heldCount := x.heldCount + 1 } s)

/-- Hold a request until its granule is DONE (R230). -/
def slateHold (r : HReq) (s : State) : State :=
  match slateOf s (lineDpa s r.sl r.line) with
  | none => s
  | some f =>
    let x := slateAt s f
    bumpSat .slateHeld (16 * (homeHalf r.sl).num + f) 31 0 1
      (setSlate f { x with held := x.held ++ [r], heldCount := x.heldCount + 1 } s)

/-- The preserved copy of a line that an old-epoch write must reach as well (R229). -/
def oldEpochCopy (r : HReq) (s : State) : Option (Nat × Nat) :=
  let a := lineDpa s r.sl r.line
  match slateOf s a with
  | none => none
  | some f =>
    let x := slateAt s f
    if newEpoch s f r || decide (x.grans.getD (a / 2048) 0 ≠ 1) then none
    else (x.copies.find? (a / 2048)).bind (fun d => (locOf s (d * 2048 + a % 2048)).map (fun l => (l.sl, l.line)))

/-! ### Which snoops a request needs (R197, R198, R145) -/

/-- The holder behind a request. -/
def reqHolder (r : HReq) : Option Holder := r.hd.map (fun hd => hd.src)

/-- The holders other than the requester. -/
def othersOf (r : HReq) (l : List (Holder × Nat)) : List (Holder × Nat) :=
  l.filter (fun p => decide (some p.1 ≠ reqHolder r))

/-- An `UPGRADE` from a listed sharer (R197). -/
def upgradeListed (r : HReq) (e : Option DirEnt) : Bool :=
  match e, reqHolder r with
  | some e, some hd => decide (e.st = .s) && dirLists e hd
  | _, _ => false

/-- How a request treats copies: as a read, a write, an add under a REDOP, a read for ownership, a flush, a removal. -/
inductive Need where
  | read | write | own_ | nothing
  | add (redop : Nat)
  | join (redop : Nat)
  | flush
  | remove (discard : Bool)
  deriving DecidableEq, Repr

/-- The redop of the adds of an own access, when all its parts are adds of one kind. -/
def accsNeed (accs : List SAcc) : Need :=
  match accs with
  | [] => .read
  | a :: _ =>
    match a.op with
    | .read => .read
    | .prefetch _ => .read
    | .write _ => .write
    | .add p => .add (redopCode p.ro)

def needOf : HKind → Need
  | .rdS => .read
  | .rdX => .own_
  | .upgrade => .own_
  | .rdNc _ => .read
  | .wrNc _ => .write
  | .addNc ro _ => .add (redopCode ro)
  | .joinA ro => .join (redopCode ro)
  | .atomic _ _ => .write
  | .own accs => accsNeed accs
  | .maint c => if c = 3 then .flush else if c = 5 then .remove false else if c = 4 ∨ c = 6 then .remove true else .read
  | _ => .nothing

/-- The snoop code and the holders to snoop, for a request that finds an entry. An add of another REDOP than the line's
collects the partials first (R215; R197 names no REDOP there: DEDUCED, log entry 10). Snoops to a coarse entry leave out the
requester (R203), but for the collection of its partial (log entry 87). -/
def snoopsFor (s : State) (r : HReq) (n : Need) (e : DirEnt) : Nat × List (Holder × Nat) :=
  let all := dirHolders s e
  let others := othersOf r all
  let all' := if e.coarse then others else all
  match e.st, n with
  | _, .nothing => (0, [])
  | .s, .read => (0, [])
  | .s, .flush => (0, [])
  | .s, .own_ => (0x20, others)
  | .s, _ => (0x20, all')
  | .e, .read => (0x22, others)
  | .e, .flush => (0x22, all')
  | .e, .own_ => (0x21, others)
  | .e, _ => (0x21, all')
  | .a, .add ro => if e.redop = ro then (0, []) else (0x23, all)
  | .a, .join ro => if e.redop = ro then (0, []) else (0x23, all)
  | .a, _ => (0x23, all)

end Sys2Proof.Machine
end

