-- ==== Sys2Proof/Machine/Reach.lean ====
section
/-! DEFINITION. Configuration space (R5–R19, R25–R28, R487, R488): where a field lies, who reaches it, which of its
bits an agent writes, when its block is stopped, and the one operation through which a store reaches a field. -/

namespace Sys2Proof.Machine

open Sys2Proof

/-! ### Places -/

/-- The number of instances of a field name behind index `i`: the half and the position within it. -/
def regHalf (r : Reg) (i : Nat) : Half :=
  match (regRow r).h1 with
  | .own => halfOf (regCount r) i
  | _ => .h0

/-- The position of an instance within its half. -/
def regPos (r : Reg) (i : Nat) : Nat := if i < regCount r then i else i - regCount r

/-- The offset of a position in a row. -/
def rowOffset (row : RegRow) (j : Nat) : Nat :=
  row.base + row.stride * (j / (row.scount * row.words)) + row.sstride * (j / row.words % row.scount) + 4 * (j % row.words)

/-- The configuration address of a field in a half's block (R27). -/
def cfgAddr (h : Half) (cls off : Nat) : Nat := 0x7F0000000000 + h.num * 2 ^ 32 + cls * 2 ^ 24 + off

/-- The configuration address of an instance. -/
def regAddr (r : Reg) (i : Nat) : Nat := cfgAddr (regHalf r i) (regRow r).cls (rowOffset (regRow r) (regPos r i))

/-- The physical array that serves a logical array. -/
def lphys (s : State) (h : Half) (i : Nat) : Option Nat := (larr s h i).phys

/-- H1's configuration space is gone: on MB1, or while H0 fences H1 (R5, R359). -/
def cfgGone (s : State) (h : Half) : Bool :=
  match h with
  | .h0 => false
  | .h1 => decide (s.part = .mb1) || decide (s.zor.halves = 2)

/-- A field of the block of H0 that belongs to the joint with the other half, which MB1 does not have: its bundles and its
sideband lanes (R365). -/
def absentField (s : State) (r : Reg) : Bool :=
  decide (s.part = .mb1) && match r with
    | .zbStatus | .zbErr | .zbBad | .sbStatus | .eyeCtl | .eyeResult => true
    | _ => false

/-- A field that reads as zero under R5, seen through a half's block. -/
def fieldGone (s : State) (h : Half) (r : Reg) : Bool := cfgGone s h || absentField s r

/-! ### Who reaches a field (R28) -/

/-- The function of a way's partition, when the way is assigned. -/
def wayOwner (s : State) (w : Nat) : Option Nat :=
  let v := rget s .wayMap w
  if natBit 6 v then partFunc s (natBits 5 0 v) else none

/-- The function of an ownership field with FUNC in [3:0] and VALID in [4]. -/
def ownerField (s : State) (r : Reg) (n : Nat) : Option Nat :=
  let v := rget s r n
  if natBit 4 v then some (natBits 3 0 v) else none

/-- A block of an ownership field belongs to function f. -/
def owns (s : State) (r : Reg) (n f : Nat) : Bool := decide (ownerField s r n = some f)

/-- The logical array that a physical array serves, as its index over both halves. -/
def servedBy (s : State) (p : Nat) : Option Nat :=
  let a := s.fab.phys.getD p PArr.init
  if a.role = 0 then some (64 * (p / 72) + a.logical) else none

/-- A logical array (index over both halves) belongs to f. -/
def ownsArr (s : State) (n f : Nat) : Bool := decide (arrayFunc s (halfOf 64 n) (n % 64) = some f)

/-- The guest site of a half's position belongs to the function its `GS_CTL` binds (bits [4:1]; R365). -/
def siteFunc (s : State) (g : Nat) : Nat := rbits s .gsCtl g 4 1

/-- Function f, other than F0, reaches a field, for a read (R28 and the access rules R108, R152, R235, R272, R313,
R332, R365, R386, R407, R467). -/
def funcReads (s : State) (f : Nat) (r : Reg) (i : Nat) : Bool :=
  match r with
  | .fnState | .fnClustersH0 | .fnClustersH1 | .fnMem | .fnCounts | .fnCounts2 => decide (i = f)
  | .arrayStatus => ((servedBy s i).map (fun n => ownsArr s n f)).getD false
  | .cellStatus | .cellConflict => ((servedBy s (i / 256)).map (fun n => ownsArr s n f)).getD false
  | .ctxCtrl | .ctxStatus | .ctxImageLo | .ctxImageHi | .ctxCommit | .arithMode | .srSeed => ownsArr s (i / 4) f
  | .lmap => ownsArr s i f
  | .clusterOwner => owns s .clusterOwner i f
  | .cueValue | .cueOwner => owns s .cueOwner i f
  | .segMap => decide (segFunc s i = some f)
  | .wayMap => decide (wayOwner s i = some f)
  | .partCfg => decide (partFunc s i = some f)
  | .funcBuf | .funcDeadCount | .funcErr => decide (i % 16 = f)
  | .maintAddrLo | .maintAddrHi | .maintLenLo | .maintLenHi | .maintCtl | .maintRecLo | .maintRecHi | .maintCue
  | .maintCommit | .maintStatus => decide (i % 16 = f)
  | .slateStatus => decide (i % 16 = f)
  | .dqCtl | .dqStatus | .dqTail | .dqRingLo | .dqRingHi | .dqRecLo | .dqRecHi | .dqCommit | .dqRecHead | .dqErr
  | .dqHead | .dqRecTail => owns s .dqOwner i f
  | .reelStatus => decide (rbits s .reelId i 27 24 = f) && rbit s .reelId i 31
  | .regOwner | .regCfg | .regWindow | .regGuar | .regLat | .regCommit | .regCap | .regStatus | .regDeliv | .regMiss
  | .regCue => owns s .regOwner i f
  | .collStatus | .collExcl => decide (rbits s .collId i 27 24 = f) && rbit s .collId i 31
  | .gsStatus => decide (siteFunc s i = f)
  | .qpOwner | .qpState | .qpDest | .qpMacLo | .qpMacHi | .qpPath | .qpQos | .qpSqPsn | .qpRqPsn => owns s .qpOwner i f
  | .qpIp => owns s .qpOwner (i / 4) f
  | .mkCtl | .mkBaseLo | .mkBaseHi | .mkLenLo | .mkLenHi => decide (rbits s .mkCtl i 3 0 = f) && rbit s .mkCtl i 4
  | .sesStatus | .sesCmdDb | .sesCplHead | .sesCue | .sesRetx =>
    let t := s.host.sessions.getD i SesSt.init
    decide (t.func = f) && decide (t.st ≠ 0)
  | _ => false

/-- Every bit. -/
def allBits : Nat := 0xFFFFFFFF

/-- The bits that F0 writes, apart from those that its own session or functions give it: everything but what the
management processors keep (R332, R386, R407, R427, R447, R467). -/
def f0Mask (r : Reg) : Nat :=
  match r with
  | .regOwner | .regCfg | .regWindow | .regGuar | .regLat | .regCommit => 0
  | .macLo | .macHi | .ipv4Addr | .hpNet | .ipv6 | .netCommit => 0
  | .qpOwner | .qpState | .qpDest | .qpMacLo | .qpMacHi | .qpIp | .qpPath | .qpQos | .qpSqPsn | .qpRqPsn => 0
  | .mkCtl | .mkBaseLo | .mkBaseHi | .mkLenLo | .mkLenHi => 0
  | .sesStatus | .sesCmdDb | .sesCplHead | .sesCue => 0
  | .gafferCfg | .pkgCommit => 0
  | .dringLo | .dringHi | .dringCommit | .degraded => 0
  | _ => allBits

/-- The bits that function f writes of the fields it reaches (R108, R152, R272, R332, R386). -/
def funcMask (s : State) (f : Nat) (r : Reg) (i : Nat) : Nat :=
  match r with
  | .cellStatus | .ctxCtrl | .ctxImageLo | .ctxImageHi | .ctxCommit | .arithMode | .srSeed => allBits
  | .cueValue => allBits
  | .wayMap => 0x300
  | .funcBuf => allBits
  | .maintAddrLo | .maintAddrHi | .maintLenLo | .maintLenHi | .maintCtl | .maintRecLo | .maintRecHi | .maintCue
  | .maintCommit => allBits
  | .dqCtl | .dqTail | .dqRingLo | .dqRingHi | .dqRecLo | .dqRecHi | .dqCommit | .dqRecHead => allBits
  | .regCap | .regMiss | .regCue => allBits
  | .sesCmdDb | .sesCplHead | .sesCue =>
    let t := s.host.sessions.getD i SesSt.init
    if t.isLocal && decide (t.func = f) then allBits else 0
  | _ => 0

/-- Who writes: the management processors, or an agent of a function. -/
inductive Writer where
  | mp
  | func (f : Nat)
  deriving DecidableEq, Repr

/-- The writer behind an agent; none: it reaches no configuration space (R28). -/
def writerOf (s : State) (ag : Agent) : Option Writer :=
  match ag with
  | .mp _ => some .mp
  | .remote _ => none
  | ag => (agentFunc s ag).map .func

/-- A writer reaches a field (R28). -/
def mayReach (s : State) (w : Writer) (r : Reg) (i : Nat) : Bool :=
  match w with
  | .mp => true
  | .func f => decide (f = 0) || funcReads s f r i

/-- The bits a writer may write (R487). -/
def writeMask (s : State) (w : Writer) (r : Reg) (i : Nat) : Nat :=
  match w with
  | .mp => allBits
  | .func f => if f = 0 then f0Mask r ||| (if funcReads s 0 r i then funcMask s 0 r i else 0) else funcMask s f r i

/-! ### Stopped blocks (class S, R12–R14) -/

/-- `EMPTY` of a way: none of its frames holds a line in any slice of its half, and its zeroing is done (R152). -/
def wayEmpty (s : State) (w : Nat) : Bool :=
  (s.buf.wayZero.find? w).isNone &&
  s.buf.frames.all (fun e => !(decide (e.1 / (16384 * 128) = w / 16) && decide (e.1 % 16 = w % 16)))

/-- The port of a neighbour port's fields. -/
def portStateOf (s : State) (p : Nat) : LState := (s.link.ports.getD p PortSt.init).st

/-- The block of a field is stopped (R84, R152, R181, R235, R272, R313, R365, R386, R427). A context is stopped unless
it is RUNNING or WAITING (DEDUCED from R73; log entry 8). -/
def regStopped (s : State) (r : Reg) (i : Nat) : Bool :=
  match r with
  | .arithMode | .srSeed =>
    let c := s.fab.ctxs.getD i Ctx.init
    !(decide (c.st = .running) || decide (c.st = .waiting))
  | .clusterOwner =>
    let h := halfOf 18 i
    (List.range 64).all (fun a => decide ((larr s h a).home ≠ some (i % 18)) ||
      (List.range 4).all (fun k => decide ((s.fab.ctxs.getD (4 * (64 * h.num + a) + k) Ctx.init).st = .empty)))
  | .segMap => decide (segMode s i = 0) || rbit s .segMap i 14
  | .segExport => rbit s .segMap i 14
  | .wayMap => !rbit s .wayMap i 6 || (rbit s .wayMap i 9 && wayEmpty s i)
  | .partCfg => !rbit s .partCfg i 4
  | .groupCfg | .member => !rbit s .groupCfg 0 31
  | .tgCtl | .tgFirst | .tgLast | .tgSeed | .tgPasses =>
    !(s.mem.chans.getD i Chan.init).tg.run
  | .dqOwner | .dqCtl => decide ((s.dolly.queues.getD i QueueSt.init).st = .disabled)
  | .reelId => !rbit s .reelId i 31
  | .collId => !rbit s .collId i 31
  | .portCtl => !rbit s .portCtl i 0 &&
      (decide (portStateOf s i = .down) || decide (portStateOf s i = .failed))
  | .gsCtl => let t := s.zor.sites.getD i SiteSt.init
    decide (t.st = 0) || decide (t.st = 3)
  | .eyeCtl => !(s.zor.sbs.getD i SbSt.init).eyeRun
  | .gsEyeCtl => !(s.zor.sbs.getD (8 + i) SbSt.init).eyeRun
  | .qpOwner | .qpDest | .qpMacLo | .qpMacHi | .qpPath | .qpSqPsn | .qpRqPsn =>
    decide ((s.host.qps.getD i QpSt.init).st ≤ 1)
  | .qpIp => decide ((s.host.qps.getD (i / 4) QpSt.init).st ≤ 1)
  | .mkCtl | .mkBaseLo | .mkBaseHi | .mkLenLo | .mkLenHi => !rbit s .mkCtl i 4
  | .sesStatus => decide ((s.host.sessions.getD i SesSt.init).st = 0)
  | .domCtl => let d := (s.pwr.doms.getD i DomSt.init).st
    decide (d = 0) || decide (d = 2) || decide (d = 5)
  | _ => true

/-! ### Events of configuration accesses -/

/-- A refused or ignored configuration access (code 0x0001; R14: the record names the field and the agent). -/
def cfgEvent (ag : Agent) (addr rule : Nat) (s : State) : State :=
  eventD (agentHalf ag) 0x0001 0 (agentFunc s ag) 0 addr rule (agentNum ag) s

/-- An access that is not performed: an error response, and a record (R6, R25). -/
def cfgRefuse (ag : Agent) (addr rule : Nat) (s : State) : State :=
  emit (.cfgErr ag addr) (cfgEvent ag addr rule s)

/-! ### The value of a write -/

/-- What a 32-bit write makes of a field: the value it leaves, whether it would have changed a bit that the writer may
not write (R487), and whether a stopped-class field refused (R14). -/
structure WPlan where
  new : Nat
  denied : Bool
  refused : Bool
  deriving DecidableEq, Repr

/-- The bits of `new` under a mask, the others of `old`. -/
def maskedNat (mask new old : Nat) : Nat := (new &&& mask) ||| (old &&& (allBits ^^^ mask))

/-- The value that a reader of the plain field sees. -/
def seenReg (s : State) (r : Reg) (i : Nat) : Nat := s.regs.seen s.part r i

/-- The value that the writable bits of a field hold: the state of a queue pair and the value of a cue are no plain values. -/
def heldReg (s : State) (r : Reg) (i : Nat) : Nat :=
  match r with
  | .qpState => (s.host.qps.getD i QpSt.init).st
  | .cueValue => (s.cues.getD i Cue.init).value
  | r => seenReg s r i

/-- A writer may write some bit of a field. -/
def writesAny (s : State) (w : Writer) (r : Reg) (i : Nat) : Bool :=
  writeMask s w r i &&& ((regRow r).rw ||| (regRow r).w1c) != 0

/-- Plan a write (R8, R12–R14, R487). -/
def planWrite (s : State) (w : Writer) (r : Reg) (i v : Nat) : WPlan :=
  let row := regRow r
  let old := heldReg s r i
  let m := writeMask s w r i
  let w1 := maskedNat (row.rw &&& m) v old
  let denied := ((v ^^^ old) &&& row.rw &&& (allBits ^^^ m)) != 0
  let refused := !regStopped s r i && (((w1 ^^^ old) &&& row.sMask) != 0)
  let w2 := if refused then maskedNat row.sMask old w1 else w1
  let cleared := v &&& row.w1c &&& m
  ⟨maskedNat cleared 0 w2, denied, refused⟩

/-- Put a planned value in a plain field: held pending for class C, else in force (R12, R13). -/
def putField (r : Reg) (i new : Nat) (s : State) : State :=
  if (regRow r).isC then { s with regs := s.regs.hold r i new } else rput r i new s

/-- An in-band store to field `i` of a name, through half `h`'s block (R5, R28, R487, R488): what the field's block does
with the planned value is `act`. A store by an agent that may write no bit of the field has no effect on it. -/
def regStore (ag : Agent) (h : Half) (r : Reg) (i v : Nat) (act : Nat → State → State) (s : State) : State :=
  let addr := cfgAddr h (regRow r).cls (rowOffset (regRow r) (regPos r i))
  match writerOf s ag with
  | none => cfgRefuse ag addr 28 s
  | some w =>
    if fieldGone s h r then emit (.cfgDone ag addr) (cfgEvent ag addr 5 s)
    else if decide (h = .h1) && decide ((regRow r).h1 = .copy) then
      emit (.cfgDone ag addr) (cfgEvent ag addr 488 s)
    else if !mayReach s w r i then cfgRefuse ag addr 28 s
    else
      let p := planWrite s w r i v
      let s1 := when (p.denied || p.refused) (cfgEvent ag addr (if p.refused then 14 else 487)) s
      emit (.cfgDone ag addr) (if writesAny s w r i then act p.new s1 else s1)

/-- Run a register write by an agent that the part has. -/
def onAgent (s : State) (ag : Agent) (r : Outcome) : Outcome := onPart (agentThere s ag) r

/-! ### Commit groups (R15–R19) -/

/-- The fields of a group, `h` being the half of its block. -/
def groupFields (h : Half) : GroupRef → List (Reg × Nat)
  | .ctxImage i k => let n := 4 * (64 * h.num + i.val) + k.val
    [(.ctxImageLo, n), (.ctxImageHi, n)]
  | .maint f => let n := 16 * h.num + f.val
    [(.maintAddrLo, n), (.maintAddrHi, n), (.maintLenLo, n), (.maintLenHi, n), (.maintCtl, n), (.maintRecLo, n),
     (.maintRecHi, n), (.maintCue, n)]
  | .dirPeek => [(.peekSel, h.num)]
  | .dqRing q => let n := 256 * h.num + q.val
    [(.dqRingLo, n), (.dqRingHi, n), (.dqRecLo, n), (.dqRecHi, n)]
  | .reel k => let n := 64 * h.num + k.val
    [(.reelNext, n), (.reelPrev, n), (.reelBaseLo, n), (.reelBaseHi, n), (.reelCues, n)]
  | .vcBuf p => let n := 8 * h.num + p.val
    (List.range 7).map (fun j => (Reg.vcBuf, 7 * n + j))
  | .coll k => let n := 128 * h.num + k.val
    [(.collTree, n), (.collChild, 4 * n), (.collChild, 4 * n + 1), (.collChild, 4 * n + 2), (.collChild, 4 * n + 3),
     (.collCfg, n), (.collCues, n), (.redSrcLo, n), (.redSrcHi, n), (.redDstLo, n), (.redDstHi, n)]
  | .reg q => let n := 128 * h.num + q.val
    [(.regCfg, n), (.regWindow, n), (.regGuar, n), (.regLat, n)]
  | .net => [(.macLo, 0), (.macHi, 0), (.ipv4Addr, 0), (.hpNet, 0), (.ipv6, 0), (.ipv6, 1), (.ipv6, 2), (.ipv6, 3)]
  | .pkg => [(.gafferCfg, 0)]
  | .dring => [(.dringLo, h.num), (.dringHi, h.num)]

/-- The half of a group: groups that exist in H0's block only lie there. -/
def groupHalf (h : Half) : GroupRef → Half
  | .net => .h0
  | .pkg => .h0
  | _ => h

/-- The COMMIT field of a group. -/
def groupCommit (h : Half) : GroupRef → Reg × Nat
  | .ctxImage i k => (.ctxCommit, 4 * (64 * h.num + i.val) + k.val)
  | .maint f => (.maintCommit, 16 * h.num + f.val)
  | .dirPeek => (.peekCommit, h.num)
  | .dqRing q => (.dqCommit, 256 * h.num + q.val)
  | .reel k => (.reelCommit, 64 * h.num + k.val)
  | .vcBuf p => (.vcBufCommit, 8 * h.num + p.val)
  | .coll k => (.collCommit, 128 * h.num + k.val)
  | .reg q => (.regCommit, 128 * h.num + q.val)
  | .net => (.netCommit, 0)
  | .pkg => (.pkgCommit, 0)
  | .dring => (.dringCommit, h.num)

/-- The group has uncommitted writes: its PENDING bit (R18). -/
def groupPending (s : State) (h : Half) (g : GroupRef) : Bool := s.regs.isPending (groupFields h g)

/-- The group's pending values become its committed set (R17). -/
def groupApply (h : Half) (g : GroupRef) (s : State) : State :=
  { s with regs := s.regs.commit s.part (groupFields h g) }

/-- The group's block takes its committed set at the group's named event (R17). -/
def groupTake (h : Half) (g : GroupRef) (s : State) : State :=
  { s with regs := s.regs.take s.part (groupFields h g) }

end Sys2Proof.Machine
end

