-- ==== Sys2Proof/Machine/FarCache.lean ====
section
/-! DEFINITION. The far caches (R184, R185, R205–R214): lines of remote memory and, in state A, lines of the other half;
requests, answers, snoops and leases as a holder. -/

namespace Sys2Proof.Machine

open Sys2Proof

/-! ### Lines -/

/-- The line of a GA. -/
def gaLine (ga : W64) : W64 := ga &&& ~~~ 127#64
/-- The set of a GA (R184). -/
def farSet (ga : W64) : Nat := natBits 18 7 ga.toNat ^^^ natBits 30 19 ga.toNat
def farKey (h : Half) (set way : Nat) : Nat := 65536 * h.num + 16 * set + way
def farAt (s : State) (k : Nat) : Option FarLine := s.coh.far.find? k

/-- The way and line that hold a GA. -/
def farFind (s : State) (h : Half) (ga : W64) : Option (Nat × FarLine) :=
  (List.range 16).findSome? (fun w =>
    match farAt s (farKey h (farSet ga) w) with
    | some l => if l.ga = gaLine ga then some (farKey h (farSet ga) w, l) else none
    | none => none)

def putFar (k : Nat) (l : Option FarLine) (s : State) : State :=
  match l with
  | some l => { s with coh := { s.coh with far := s.coh.far.insert k l } }
  | none => { s with coh := { s.coh with far := s.coh.far.erase k } }

/-- The half whose far cache holds a remote line (R184). -/
def farHalf (s : State) (ga : W64) : Half :=
  match s.part with
  | .mb1 => .h0
  | .mb2 => Half.ofBit (natBits 11 11 ga.toNat)

def gaDev (ga : W64) : BitVec 16 := BitVec.ofNat 16 (natBits 63 48 ga.toNat)
def gaDpa (ga : W64) : Nat := natBits 47 0 ga.toNat

/-- The GA names memory of this base. -/
def gaOwn (s : State) (ga : W64) : Bool := decide (gaDev ga = ownDev s)

/-- The identity of a reduction (R132), as a sector. -/
def identitySec (ro : RedOp) : Sec256 :=
  let w := elemWidth ro.ty
  let e : Nat :=
    match ro.op, ro.ty with
    | .add, .int32 => 0
    | .add, .int64 => 0
    | .add, _ => 2 ^ (w - 1)
    | .min, .int32 => 2 ^ 31 - 1
    | .min, .int64 => 2 ^ 63 - 1
    | .max, .int32 => 2 ^ 31
    | .max, .int64 => 2 ^ 63
    | .min, .fp32 => 0x7F800000
    | .min, .bf16 => 0x7F80
    | .min, .fp16 => 0x7C00
    | .max, .fp32 => 0xFF800000
    | .max, .bf16 => 0xFF80
    | .max, .fp16 => 0xFC00
  BitVec.ofNat 256 ((List.range (256 / w)).foldl (fun a i => a + e * 2 ^ (w * i)) 0)

/-- The four sectors of a line as message data. -/
def lineSecs (q : Quad (Sec256 × Bool)) : LinePart :=
  [(0, q.q0.1, q.q0.2), (1, q.q1.1, q.q1.2), (2, q.q2.1, q.q2.2), (3, q.q3.1, q.q3.2)]

/-- A line from message data; sectors not carried are zero. -/
def secsLine (l : LinePart) : Quad (Sec256 × Bool) :=
  l.foldl (fun q x => q.set x.1.val x.2) (Quad.all (0, false))

/-- The lease of a line still runs (R205). -/
def leaseRuns (s : State) (l : FarLine) : Bool := decide (s.clock < l.lease)

/-- A line whose lease has ended is I; data of M or A that could not be sent is lost and counted (R207). -/
def expireLine (h : Half) (k : Nat) (l : FarLine) (s : State) : State :=
  let s := putFar k none s
  match l.st with
  | .m => bumpSat .leaseLosses h.num 31 0 1 s
  | .a _ => bumpSat .leaseLosses h.num 31 0 1 s
  | _ => s

/-- The line of a GA, when its lease has ended, is no longer held. Lines of the base itself have no lease. -/
def dropExpired (h : Half) (ga : W64) (s : State) : State :=
  match farFind s h ga with
  | some (k, l) => if leaseRuns s l || gaOwn s ga then s else expireLine h k l s
  | none => s

/-! ### Requests -/

def reqAt (s : State) (h : Half) (tag : Nat) : Option FarReq := s.coh.reqs.find? (4096 * h.num + tag)
def putReq (h : Half) (tag : Nat) (r : Option FarReq) (s : State) : State :=
  match r with
  | some r => { s with coh := { s.coh with reqs := s.coh.reqs.insert (4096 * h.num + tag) r } }
  | none => { s with coh := { s.coh with reqs := s.coh.reqs.erase (4096 * h.num + tag) } }

/-- A request of this line is outstanding at a half. -/
def farBusy (s : State) (h : Half) (ga : W64) : Bool :=
  s.coh.reqs.any (fun e => decide (e.1 / 4096 = h.num) && decide (e.2.ga = gaLine ga))

/-- Issue a request tag (R222). -/
def issueReqTag (h : Half) (s : State) : Option (Nat × BitVec 8 × State) :=
  match (List.range 4096).find? (fun t =>
    (reqAt s h t).isNone && tagReady s s.coh.reqTake (reqTagKey h t)) with
  | none => none
  | some t =>
    let k := reqTagKey h t
    let tk := nextTake s.coh.reqTake k
    some (t, tk, { s with coh := { s.coh with
      reqTake := s.coh.reqTake.insert k tk
      tagUse := s.coh.tagUse.insert (k * 256 + tk.toNat) (s.clock + 1) } })

/-- Where the home of a far cache line is: the remote device, or the home slice on the other half. -/
def farHome (s : State) (ga : W64) : CohDst :=
  if gaOwn s ga then
    match homeOf s (gaDpa ga) with
    | some p => .slice p.1
    | none => .slice 0
  else .dev (gaDev ga)

/-- The message of a request. -/
def reqMsg (tag : Nat) (r : FarReq) (m : CohMsg) : CohMsg :=
  { m with code := r.code, tag := tag, take := r.take, addr := r.ga, func := r.func, epoch := r.epoch, secs := r.secs }

/-- The data of an `ATOMIC` (R286). -/
def atomicData (a : Atomic) (off : Nat) : Sec256 :=
  let aop : Nat := match a.op with
    | .swap => 0
    | .cas => 1
    | .fetchAdd => 2
    | .fetchMin => 3
    | .fetchMax => 4
    | .fetchAnd => 5
    | .fetchOr => 6
    | .fetchXor => 7
    | .load => 8
    | .store => 9
  let aty : Nat := match a.ty with
    | .b32 => 0
    | .b64 => 1
    | .int32 => 2
    | .int64 => 3
    | .fp32 => 4
  BitVec.ofNat 256 (aop + aty * 16 + off / 4 % 32 * 128 + a.operand.toNat * 2 ^ 64 + a.compare.toNat * 2 ^ 128)

def scopeNum : Scope → Nat
  | .agent => 0
  | .base => 1
  | .group => 2
def ordNum : MOrd → Nat
  | .rlx => 0
  | .acq => 1
  | .rel => 2
  | .acqRel => 3

/-- The optional fields of a request, from what it was sent for: byte masks, sectors, REDOP, scope, ordering. -/
def reqFields (r : FarReq) : CohMsg :=
  match r.why with
  | some (.access _ (.read m) _) => { blankCoh with sect := m.val }
  | some (.access _ (.write l) _) =>
    let mk := [0, 1, 2, 3].filterMap (fun i => (l.find? (fun x => decide (x.1.val = i))).map (fun x => x.2.mask))
    { blankCoh with
      sect := (l.map (fun x => 2 ^ x.1.val)).sum
      masks := if mk.all (fun m => m = fullMask) then [] else mk }
  | some (.access _ (.add ro l) _) => { blankCoh with sect := partMask l, redop := redopCode ro }
  | some (.access _ (.atomic _ off sc od) _) =>
    { blankCoh with
      sect := 1, scope := scopeNum sc, ord := ordNum od, word := BitVec.ofNat 64 off.val
      masks := [] }
  | _ => { blankCoh with sect := 15 }

/-- The whole message of a request. -/
def fullMsg (tag : Nat) (r : FarReq) : CohMsg := reqMsg tag r { reqFields r with redop := r.redop, keep := r.keep }

/-- Send a request of a half; none when no tag may be issued. `redop` and `keep` go with the codes that carry them. -/
def farRequest (h : Half) (code : Nat) (ga : W64) (func : Nat) (why : Option FarWhy) (secs : LinePart) (redop : Nat)
    (keep : Bool) (epoch : Bool) (s : State) : Option State :=
  match issueReqTag h s with
  | none => none
  | some (t, tk, s) =>
    let r0 : FarReq :=
      { code := code, ga := gaLine ga, func := func, why := why, take := tk, sentT := s.clock, ackedLocal := false,
        retryAt := none, secs := secs, epoch := epoch, redop := 0, keep := keep, result := false }
    let r : FarReq := { r0 with redop := if redop = 0 then (reqFields r0).redop else redop }
    some (sendCoh (farHome s ga) (fullMsg t r) (putReq h t (some r) s))

/-- The epoch bit of a function (R225). -/
def epochOf (s : State) (f : Nat) : Bool := (slateAt s f).epoch

/-! ### Giving lines up (R185, R194, R207) -/

/-- The epoch bit that a line's data carries: an OLD line has the old one (R227). -/
def lineEp (s : State) (l : FarLine) : Bool := if l.old then !(epochOf s l.func) else epochOf s l.func

/-- A line leaves the far cache: by its state, S silently, E with `EVICT_E`, M with `WB`, A with `MERGE_A`. An OLD line
carries the old epoch (R227). When no tag may be issued the line is kept: false. One whose lease has ended sends nothing. -/
def giveUp (h : Half) (k : Nat) (l : FarLine) (s : State) : State × Bool :=
  let ep := lineEp s l
  if !leaseRuns s l && !gaOwn s l.ga then (expireLine h k l s, true)
  else match l.st with
  | .s => (putFar k none s, true)
  | .e =>
    match farRequest h 0x0B l.ga l.func (some (.line k)) [] 0 false ep s with
    | some s => (putFar k none s, true)
    | none => (s, false)
  | .m =>
    match farRequest h 0x09 l.ga l.func (some (.line k)) (lineSecs l.data) 0 false ep s with
    | some s => (putFar k none s, true)
    | none => (s, false)
  | .a ro =>
    match farRequest h 0x0A l.ga l.func (some (.line k)) (lineSecs l.data) (redopCode ro) false ep s with
    | some s => (putFar k none s, true)
    | none => (s, false)

/-- Every A line tagged with a function is merged: a merging release (R194). -/
def mergeFuncLines (f : Nat) (s : State) : State :=
  forEach s.coh.far (fun e s =>
    match e.2.st with
    | .a _ => if e.2.func = f then (giveUp (Half.ofBit (e.1 / 65536)) e.1 e.2 s).1 else s
    | _ => s) s

/-- Send the OLD lines of a function with the old epoch: M as `WB` with `KEEP`, A as `MERGE_A` (R227). -/
def sendOld (f : Nat) (s : State) : State :=
  forEach s.coh.far (fun e s =>
    let h := Half.ofBit (e.1 / 65536)
    if e.2.old && decide (e.2.func = f) && !farBusy s h e.2.ga then
      if !leaseRuns s e.2 && !gaOwn s e.2.ga then expireLine h e.1 e.2 s
      else
        match e.2.st with
        | .m =>
          match farRequest h 0x09 e.2.ga f (some (.line e.1)) (lineSecs e.2.data) 0 true (!(epochOf s f)) s with
          | some s => putFar e.1 (some { e.2 with st := .s, old := false }) s
          | none => s
        | .a ro =>
          match farRequest h 0x0A e.2.ga f (some (.line e.1)) (lineSecs e.2.data) (redopCode ro) false (!(epochOf s f)) s with
          | some s => putFar e.1 none s
          | none => s
        | _ => putFar e.1 (some { e.2 with old := false }) s
    else s) s

/-- The OLD lines that could not be sent before: they go ahead of their functions' other traffic (R227). Until the point of their
function is over they stay (R226). -/
def sendOlds (s : State) : State :=
  forEach (((s.coh.far.filter (fun e => e.2.old && !(slateAt s e.2.func).pointing)).map (fun e => e.2.func)).dedup) sendOld s

/-- Every line tagged with a function is given up (R219). -/
def giveUpFunc (f : Nat) (s : State) : State :=
  forEach s.coh.far (fun e s => if e.2.func = f then (giveUp (Half.ofBit (e.1 / 65536)) e.1 e.2 s).1 else s) s

/-! ### Allocation (R185) -/

def farTouch (h : Half) (set way : Nat) (s : State) : State :=
  let k := 4096 * h.num + set
  { s with coh := { s.coh with farPlru := s.coh.farPlru.insert k (touchBits (s.coh.farPlru.getD k 0) way) } }

/-- A way for a line: a free one, else the pseudo-LRU victim, given up by its state. -/
def farAlloc (h : Half) (ga : W64) (s : State) : Option (Nat × State) :=
  let set := farSet ga
  match (List.range 16).find? (fun w => (farAt s (farKey h set w)).isNone) with
  | some w => some (farKey h set w, farTouch h set w s)
  | none =>
    let w := victim (s.coh.farPlru.getD (4096 * h.num + set) 0) (List.range 16)
    match farAt s (farKey h set w) with
    | some l =>
      let r := giveUp h (farKey h set w) l s
      if r.2 then some (farKey h set w, farTouch h set w r.1) else none
    | none => some (farKey h set w, farTouch h set w s)

/-- A fresh line. -/
def farLine (ga : W64) (func : Nat) (st : FarState) (d : Quad (Sec256 × Bool)) (sentT lease : Nat) : FarLine :=
  { ga := gaLine ga, func := func, st := st, data := d, lease := sentT + lease * 640, leaseLen := lease, old := false }

/-! ### Agents' answers -/

/-- The answer to a remote access of a Dolly engine reaches the descriptor or the branch that waits for it; one that bears an
old take of the queue is stale (R238). -/
def engineAnswer (ag : Agent) (rtag : Nat) (a : RAns) (s : State) : State :=
  match ag with
  | .dolly h q =>
    let n := 256 * h.num + q.val
    let qs := queueAt s n
    if curTake s (takeKey (.queue (Fin.ofNat 512 n))) ≠ some (rtag % 256) then staleMsg h s
    else setQueue n { qs with active := qs.active.map (fun d =>
      if d.rtag = some rtag then { d with rans := some a }
      else { d with branches := d.branches.map (fun b => if b.rtag = some rtag then { b with rans := some a } else b) }) } s
  | _ => s

/-- Data of an agent's read. -/
def farReply (ag : Agent) (func : Nat) (rtag : Nat) (ga : W64) (m : Nat) (d : Quad (Sec256 × Bool)) (s : State) : State :=
  let s := engineAnswer ag rtag (.data ((maskSecs m).map (fun i => (i.val, d.get i.val)))) s
  forEach (maskSecs m) (fun i s =>
    let x := d.get i.val
    let s := when x.2 (countPoison ag func) s
    emit (.rdata ag rtag (gaDpa (gaLine ga) + 32 * i.val) x.1 x.2) s) s

/-- A write or an add is accepted. -/
def farDone (ag : Agent) (rtag : Nat) (s : State) : State := emit (.done ag rtag) (engineAnswer ag rtag .done s)

/-- An access ends with an error response; reads with poisoned data (R211). `cause`: as `RAns.err` codes it. -/
def farFail (ag : Agent) (func : Nat) (op : FarOp) (rtag : Nat) (ga : W64) (cause : Nat) (s : State) : State :=
  let s := match op with
    | .read m => emit (.accErr ag rtag) (farReply ag func rtag ga m.val (Quad.all (0, true)) s)
    | _ => emit (.accErr ag rtag) s
  engineAnswer ag rtag (.err cause) s

/-- Write sectors into a line's data. -/
def lineWrite (q : Quad (Sec256 × Bool)) (l : List (Fin 4 × SecWr)) : Quad (Sec256 × Bool) :=
  l.foldl (fun q x =>
    let o := q.get x.1.val
    q.set x.1.val (if x.2.mask = fullMask then (x.2.data, x.2.poison)
      else (mergeMask x.2.mask x.2.data o.1, o.2 || x.2.poison))) q

/-- Combine sectors into a line's data. -/
def lineAdd (ro : RedOp) (q : Quad (Sec256 × Bool)) (l : LinePart) : Quad (Sec256 × Bool) :=
  l.foldl (fun q x =>
    let o := q.get x.1.val
    q.set x.1.val (combine ro o.1 x.2.1, o.2 || x.2.2)) q

/-! ### Accesses (R184, R187, R196, R206, R214) -/

/-- A use of a line renews its lease when less than half is left (R206). -/
def renewIfDue (h : Half) (l : FarLine) (s : State) : State :=
  if decide (2 * (l.lease - s.clock) < l.leaseLen * 640) && !farBusy s h l.ga && !gaOwn s l.ga then
    (farRequest h 0x0C l.ga l.func none [] 0 false (epochOf s l.func) s).getD s
  else s

/-- Hold an access at the far cache. -/
def farHold (h : Half) (ag : Agent) (ga : W64) (op : FarOp) (rtag : Nat) (s : State) : State :=
  { s with coh := { s.coh with farQ := s.coh.farQ ++ [⟨h, ag, ga, op, rtag⟩] } }

/-- Send the request of an access; it waits when no tag may be issued. -/
def farAsk (h : Half) (code : Nat) (ag : Agent) (func : Nat) (ga : W64) (op : FarOp) (rtag : Nat) (s : State) : State :=
  let secs : LinePart := match op with
    | .write l => l.map (fun x => (x.1, x.2.data, x.2.poison))
    | .add _ l => l
    | .atomic a off _ _ => [(0, atomicData a off.val, false)]
    | .read _ => []
  let carries := decide (code = 0x05) || decide (code = 0x06) || decide (code = 0x08)
  match farRequest h code ga func (some (.access ag op rtag)) (if carries then secs else []) 0 false (epochOf s func) s with
  | some s => s
  | none => farHold h ag ga op rtag s

/-- The request without a copy for an operation. -/
def ncCode : FarOp → Nat
  | .read _ => 0x04
  | .write _ => 0x05
  | .add _ _ => 0x06
  | .atomic _ _ _ _ => 0x08

/-- An access waits at a half for this line already: accesses to a line go in order (R191). -/
def farWaiting (s : State) (h : Half) (ga : W64) : Bool :=
  s.coh.farQ.any (fun x => decide (x.h = h) && decide (gaLine x.ga = gaLine ga))

/-- A hit in the far cache: the line `l` at `k`. A write to an OLD line waits until the line is sent (R227). -/
def farHit (h : Half) (k : Nat) (l : FarLine) (ag : Agent) (ga : W64) (op : FarOp) (rtag : Nat) (s : State) : State :=
  let func := (agentFunc s ag).getD 0
  let s := farTouch h (farSet ga) (k % 16) s
  match op, l.st with
  | .read _, .a _ => farAsk h 0x01 ag func ga op rtag s
  | .read m, _ => renewIfDue h l (farReply ag func rtag ga m.val l.data s)
  | .write _, .s => farAsk h 0x03 ag func ga op rtag s
  | .write _, .a _ => if l.old then farHold h ag ga op rtag s else farAsk h 0x02 ag func ga op rtag s
  | .write ws, _ =>
    if l.old then farHold h ag ga op rtag s
    else
      let l' := { l with st := .m, data := lineWrite l.data ws }
      renewIfDue h l' (farDone ag rtag (putFar k (some l') s))
  | .add ro ps, .a ro' =>
    if l.old then farHold h ag ga op rtag s
    else if ro = ro' then
      let l' := { l with data := lineAdd ro l.data ps }
      renewIfDue h l' (farDone ag rtag (putFar k (some l') s))
    else farAsk h 0x06 ag func ga op rtag s
  | .add _ _, .s => farAsk h 0x07 ag func ga op rtag s
  | .add ro ps, _ =>
    if l.old then farHold h ag ga op rtag s
    else
      let l' := { l with st := .m, data := lineAdd ro l.data ps }
      renewIfDue h l' (farDone ag rtag (putFar k (some l') s))
  | .atomic _ _ _ _, .s => farAsk h 0x08 ag func ga op rtag (putFar k none s)
  | .atomic _ _ _ _, _ => farHold h ag ga op rtag (giveUp h k l s).1

/-- An access to a line in the far cache of a half. It waits for the line's outstanding request, for an earlier access to the
line, and while its function stands at its Slate point (R191, R213, R226). -/
def farCacheOp (h : Half) (ag : Agent) (ga : W64) (op : FarOp) (rtag : Nat) (s : State) : State :=
  let func := (agentFunc s ag).getD 0
  let s := dropExpired h ga s
  if farBusy s h ga || farWaiting s h ga || (slateAt s func).pointing then farHold h ag ga op rtag s
  else
    match farFind s h ga with
    | some (k, l) => farHit h k l ag ga op rtag s
    | none =>
      if !rbit s .cohCfg h.num 16 then farAsk h (ncCode op) ag func ga op rtag s
      else
        match op with
        | .read _ => farAsk h 0x01 ag func ga op rtag s
        | .write _ => farAsk h 0x02 ag func ga op rtag s
        | .add _ _ => farAsk h 0x07 ag func ga op rtag s
        | .atomic _ _ _ _ => farAsk h 0x08 ag func ga op rtag s

/-- A GA is refused (R25, R30): an error response and a record, no data. -/
def farRefuse (ag : Agent) (ga : W64) (rtag : Nat) (s : State) : State :=
  engineAnswer ag rtag (.err 0) (emit (.accErr ag rtag) (cfgEvent ag ga.toNat 25 s))

/-- An access of an agent of the base to remote memory (R29, R30, R184, R186). -/
def farAccess (ag : Agent) (ga : W64) (op : FarOp) (rtag : Nat) (s : State) : State :=
  let func := (agentFunc s ag).getD 0
  if !idOk s then farRefuse ag ga rtag s
  else if !groupOpen s then farFail ag func op rtag ga 0 s
  else farCacheOp (farHalf s ga) ag ga op rtag s

/-- Send what OLD lines are left, then try again, in order, the accesses that wait at a half. -/
def farReplay (h : Half) (s : State) : State :=
  let s := sendOlds s
  let mine := s.coh.farQ.filter (fun x => decide (x.h = h))
  let rest := s.coh.farQ.filter (fun x => decide (x.h ≠ h))
  forEach mine (fun x s => farCacheOp x.h x.ag x.ga x.op x.rtag s) { s with coh := { s.coh with farQ := rest } }

/-- Adds of an agent to this line combine in the far cache of the agent's half (R184): the line is homed on the other half, and
its partition has `FAR_COMBINE`. -/
def farCombines (s : State) (ag : Agent) (a : Nat) : Bool :=
  match homeOf s a with
  | some (sl, _) =>
    let h := agentHalf ag
    decide (s.part = .mb2) && decide (homeHalf sl ≠ h) && !farGone s &&
    rbit s .cohCfg h.num 16 && rbit s .partCoh (64 * h.num + segPart s (a / 2 ^ 30)) 0
  | none => false

/-- An add that combines in the far cache of the agent's half. -/
def farCombine (ag : Agent) (a : Nat) (ro : RedOp) (secs : LinePart) (rtag : Nat) (s : State) : State :=
  farCacheOp (agentHalf ag) ag (BitVec.ofNat 64 ((ownDev s).toNat * 2 ^ 48 + a / 128 * 128)) (.add ro secs) rtag s

/-! ### Answers to requests -/

/-- The outstanding request with a tag and its current take; otherwise the message is stale (R222). -/
def withReq (h : Half) (tag : Nat) (take : BitVec 8) (f : FarReq → State → State) (s : State) : State :=
  match reqAt s h tag with
  | none => staleMsg h s
  | some r => if r.take = take then f r s else staleMsg h s

/-- Install a granted line and apply the access it was asked for. A line that is held keeps the function of the access that
allocated it (R185). -/
def farInstall (h : Half) (r : FarReq) (st : FarState) (d : Quad (Sec256 × Bool)) (lease : Nat) (s : State) : State :=
  let old := farFind s h r.ga
  let place : Option (Nat × State) := match old with
    | some (k, _) => some (k, s)
    | none => farAlloc h r.ga s
  match r.why with
  | some (.access ag op rtag) =>
    match place with
    | some (k, s) =>
      let l := farLine r.ga ((old.map (fun o => o.2.func)).getD r.func) st d r.sentT lease
      match op, st with
      | .read m, _ => farReply ag r.func rtag r.ga m.val d (putFar k (some l) s)
      | .write ws, .e =>
        farDone ag rtag (putFar k (some { l with st := .m, data := lineWrite d ws }) s)
      | .add ro ps, .a _ =>
        farDone ag rtag (putFar k (some { l with data := lineAdd ro d ps }) s)
      | .add ro ps, .e =>
        farDone ag rtag (putFar k (some { l with st := .m, data := lineAdd ro d ps }) s)
      | _, _ => farHold h ag r.ga op rtag (putFar k (some l) s)
    | none =>
      match op with
      | .read m => farReply ag r.func rtag r.ga m.val d s
      | _ => farHold h ag r.ga op rtag s
  | _ => s

/-- DATA (R205). -/
def doData (h : Half) (tag : Nat) (take : BitVec 8) (g : Granted) (secs : LinePart) (lease : Nat) (s : State) : State :=
  withReq h tag take (fun r s =>
    let s := putReq h tag none s
    let d := secsLine secs
    let s := match g with
      | .s => farInstall h r .s d lease s
      | .e => farInstall h r .e d lease s
      | .nc =>
        match r.why with
        | some (.access ag (.read m) rtag) => farReply ag r.func rtag r.ga m.val d s
        | some (.access ag op rtag) => farAsk h (ncCode op) ag r.func r.ga op rtag s
        | _ => s
    farReplay h s) s

/-- GRANT (R205): of an `UPGRADE` or a `JOIN_A`. -/
def doGrant (h : Half) (tag : Nat) (take : BitVec 8) (nc : Bool) (lease : Nat) (s : State) : State :=
  withReq h tag take (fun r s =>
    let s := putReq h tag none s
    let s :=
      if nc then
        match r.why with
        | some (.access ag op rtag) => farAsk h (ncCode op) ag r.func r.ga op rtag s
        | _ => s
      else
        match r.code, r.why, farFind s h r.ga with
        | 0x03, _, some (_, l) => farInstall h r .e l.data lease s
        | 0x07, some (.access _ (.add ro _) _), _ =>
          farInstall h r (.a ro) (Quad.all (identitySec ro, false)) lease s
        | _, some (.access ag op rtag), _ => farAsk h (ncCode op) ag r.func r.ga op rtag s
        | _, _, _ => s
    farReplay h s) s

/-- ACK_LOCAL (R190): the write is performed at BASE on the home base. -/
def doAckLocal (h : Half) (tag : Nat) (take : BitVec 8) (s : State) : State :=
  withReq h tag take (fun r s =>
    let s := match r.why with
      | some (.access ag (.atomic a _ _ _) rtag) => if a.op = .store then farDone ag rtag s else s
      | some (.access ag _ rtag) => farDone ag rtag s
      | _ => s
    if gaOwn s r.ga then farReplay h (putReq h tag none s)
    else putReq h tag (some { r with ackedLocal := true }) s) s

/-- ACK_GLOBAL (R190): performed at GROUP; the request is over. -/
def doAckGlobal (h : Half) (tag : Nat) (take : BitVec 8) (s : State) : State :=
  withReq h tag take (fun _ s => farReplay h (putReq h tag none s)) s

/-- ATOMIC_RESULT (R286). -/
def doAtomicResult (h : Half) (tag : Nat) (take : BitVec 8) (old : W64) (s : State) : State :=
  withReq h tag take (fun r s =>
    match r.why with
    | some (.access ag _ rtag) => emit (.atomOld ag rtag old) (putReq h tag (some { r with result := true }) s)
    | _ => s) s

/-- ACK of a `WB`, `MERGE_A`, `EVICT_E` or `RENEW` (R206, R213). -/
def doAck (h : Half) (tag : Nat) (take : BitVec 8) (s : State) : State :=
  withReq h tag take (fun r s =>
    let s := putReq h tag none s
    let s := match r.code, farFind s h r.ga with
      | 0x0C, some (k, l) => putFar k (some { l with lease := max l.lease (r.sentT + l.leaseLen * 640) }) s
      | _, _ => s
    farReplay h s) s

/-- NACK of a `RENEW` (R206): the lease is as it stood. -/
def doNack (h : Half) (tag : Nat) (take : BitVec 8) (s : State) : State :=
  withReq h tag take (fun _ s => farReplay h (putReq h tag none s)) s

/-- RETRY (R199): the request is sent again after 1 µs. -/
def doRetry (h : Half) (tag : Nat) (take : BitVec 8) (s : State) : State :=
  withReq h tag take (fun r s => putReq h tag (some { r with retryAt := some (s.clock + us 1) }) s) s

/-- The request is sent again, 1 µs after the RETRY. -/
def doRetryResend (h : Half) (tag : Nat) (s : State) : State :=
  match reqAt s h tag with
  | some r =>
    match r.retryAt with
    | some t =>
      let s := atTime t s
      sendCoh (farHome s r.ga) (fullMsg tag r) (putReq h tag (some { r with retryAt := none }) s)
    | none => s
  | none => s

/-- A request ends with an error response, or with no answer at all (R211). A write whose agent was told that it is performed at
BASE, and an atomic whose result arrived, are over. -/
def reqFails (h : Half) (tag : Nat) (r : FarReq) (cause : Nat) (s : State) : State :=
  let s := putReq h tag none s
  let s := match r.why with
    | some (.access ag op rtag) =>
      let ended : Bool := match op with
        | .read _ => false
        | .atomic a _ _ _ => if a.op = .store then r.ackedLocal else r.result
        | _ => r.ackedLocal
      if ended then s else farFail ag r.func op rtag r.ga cause s
    | _ => s
  farReplay h s

/-- ERROR (R197). -/
def doError (h : Half) (tag : Nat) (take : BitVec 8) (cause : Nat) (s : State) : State :=
  withReq h tag take (fun r s => reqFails h tag r cause s) s

/-- The request timeout of a half in clock units, bounded below as R211 gives. -/
def reqTimeoutLen (s : State) (h : Half) : Nat :=
  max (rbits s .cohCfg h.num 15 8 * 1000) ((leaseUnits s h * 6464 + 150000 + 9) / 10)

/-- REQ_TIMEOUT (R211). -/
def doReqTimeout (h : Half) (tag : Nat) (s : State) : State :=
  match reqAt s h tag with
  | some r => reqFails h tag r 16 (atTime (r.sentT + reqTimeoutLen s h) s)
  | none => s

/-! ### Snoops at a far cache (R197, R212) -/

/-- Where a snoop's answer goes. -/
def snoopDst (sn : SnoopRef) : CohDst :=
  match sn.dev with
  | some d => .dev d
  | none => .slice sn.slice.val

/-- Answer a snoop. The answer carries the function and the epoch of the line that it gives up (R225). -/
def answerSnoop (sn : SnoopRef) (ga : W64) (l : Option FarLine) (code : Nat) (secs : LinePart) (redop : Nat) (pend : Bool)
    (s : State) : State :=
  sendCoh (snoopDst sn) { blankCoh with
    code := code, tag := sn.tag.val, take := sn.take, addr := ga, secs := secs, sect := partMask secs, redop := redop
    keep := pend, func := (l.map (fun l => l.func)).getD 0, epoch := (l.map (lineEp s)).getD (epochOf s 0) } s

/-- A snoop acts on the line of a half's far cache; one of a device that is no member gets `ERROR` and acts on no line (R186). -/
def onSnoop (h : Half) (ga : W64) (sn : SnoopRef) (f : Option (Nat × FarLine) → State → State) (s : State) : State :=
  let refused : Bool := match sn.dev with
    | some d => !groupOpen s || (memberOf s d).isNone
    | none => false
  if refused then
    sendCoh (snoopDst sn) { blankCoh with code := 0x3A, tag := sn.tag.val, take := sn.take, addr := ga, cause := 1 } s
  else
    let s := dropExpired h ga s
    f (farFind s h ga) s

/-- A message of this line that its home has not acknowledged: `WB`, `MERGE_A` or `EVICT_E` (R213). -/
def releaseOut (s : State) (h : Half) (ga : W64) : Bool :=
  s.coh.reqs.any (fun e => decide (e.1 / 4096 = h.num) && decide (e.2.ga = gaLine ga) &&
    (decide (e.2.code = 0x09) || decide (e.2.code = 0x0A) || decide (e.2.code = 0x0B)))

/-- INV (R197, R212): S is dropped. A line in any other state was granted after the snoop's reason and stays. -/
def doInv (h : Half) (ga : W64) (sn : SnoopRef) (s : State) : State :=
  onSnoop h ga sn (fun x s =>
    match x with
    | some (k, l) => if l.st = .s then answerSnoop sn ga (some l) 0x35 [] 0 false (putFar k none s)
      else answerSnoop sn ga (some l) 0x35 [] 0 (releaseOut s h ga) s
    | none => answerSnoop sn ga none 0x35 [] 0 (releaseOut s h ga) s) s

/-- RECALL (R197, R212, R218): the line is dropped, M data and partials are sent. The S copy that a `WB` with `KEEP` left goes
too. -/
def doRecall (h : Half) (ga : W64) (sn : SnoopRef) (s : State) : State :=
  onSnoop h ga sn (fun x s =>
    let s := match x with
      | some (k, _) => putFar k none s
      | none => s
    let l := x.map Prod.snd
    if releaseOut s h ga then answerSnoop sn ga l 0x35 [] 0 true s
    else
      match x with
      | none => answerSnoop sn ga none 0x35 [] 0 false s
      | some (_, l) =>
        match l.st with
        | .m => answerSnoop sn ga (some l) 0x36 (lineSecs l.data) 0 false s
        | .a ro => answerSnoop sn ga (some l) 0x36 (lineSecs l.data) (redopCode ro) false s
        | _ => answerSnoop sn ga (some l) 0x35 [] 0 false s) s

/-- DOWNGRADE (R197): E or M to S, with data when M. -/
def doDowngrade (h : Half) (ga : W64) (sn : SnoopRef) (s : State) : State :=
  onSnoop h ga sn (fun x s =>
    if releaseOut s h ga then answerSnoop sn ga (x.map Prod.snd) 0x35 [] 0 true s
    else
      match x with
      | none => answerSnoop sn ga none 0x35 [] 0 false s
      | some (k, l) =>
        match l.st with
        | .m => answerSnoop sn ga (some l) 0x36 (lineSecs l.data) 0 false (putFar k (some { l with st := .s, old := false }) s)
        | .e => answerSnoop sn ga (some l) 0x35 [] 0 false (putFar k (some { l with st := .s }) s)
        | _ => answerSnoop sn ga (some l) 0x35 [] 0 false s) s

/-- COLLECT (R215): A to I, with the partial. -/
def doCollect (h : Half) (ga : W64) (sn : SnoopRef) (s : State) : State :=
  onSnoop h ga sn (fun x s =>
    if releaseOut s h ga then answerSnoop sn ga (x.map Prod.snd) 0x35 [] 0 true s
    else
      match x with
      | some (k, l) =>
        match l.st with
        | .a ro => answerSnoop sn ga (some l) 0x36 (lineSecs l.data) (redopCode ro) false (putFar k none s)
        | _ => answerSnoop sn ga (some l) 0x35 [] 0 false s
      | none => answerSnoop sn ga none 0x35 [] 0 false s) s

/-! ### Leases (R206, R207) -/

/-- LEASE_GIVE_UP (R207): less than a quarter of the lease is left; the line is given up. -/
def doLeaseGiveUp (h : Half) (set way : Nat) (s : State) : State :=
  let k := farKey h set way
  match farAt s k with
  | some l =>
    if gaOwn s l.ga then s
    else (giveUp h k l (atTime (l.lease - l.leaseLen * 160 + 1) s)).1
  | none => s

/-- LEASE_END (R207): the line is I; data of M or A that could not be sent is lost and counted. -/
def doLeaseEnd (h : Half) (set way : Nat) (s : State) : State :=
  let k := farKey h set way
  match farAt s k with
  | some l =>
    if gaOwn s l.ga then s else expireLine h k l (atTime l.lease s)
  | none => s

/-- A far cache lookup met an error of its check bits (R121 for data; R459 for tags and states): with a tag or state
uncorrectable, the 16 lines of the set are dropped, and a record is made for each function tag found there. -/
def farErr (h : Half) (ga : W64) (err : SliceErr) (s : State) : State :=
  match err with
  | .none => s
  | .dataDouble =>
    match farFind s h ga with
    | some (k, l) => putFar k (some { l with data := l.data.map (fun x => (x.1, true)) }) s
    | none => s
  | .tagDouble _ _ =>
    let ks := (List.range 16).map (fun w => farKey h (farSet ga) w)
    let fs := (ks.filterMap (fun k => (farAt s k).map (fun l => l.func))).dedup
    let s := forEach ks (fun k s => putFar k none s) s
    forEach fs (fun f s => event h 0x0405 2 (some f) (farSet ga) ga.toNat 459 s) s
  | _ => event h 0x0400 1 none (farSet ga) ga.toNat 184 s

end Sys2Proof.Machine
end

