-- ==== Sys2Proof/Machine/Home.lean ====
section
/-! DEFINITION. The home's transactions (R197–R218): requests performed, snoops answered, deadlines, collections of
untracked partials, sweeps of a set in recovery, and the Slate point (R225–R227). -/

namespace Sys2Proof.Machine

open Sys2Proof

/-! ### Directory allocation (R204) -/

/-- The tree pseudo-LRU of a directory set. -/
def dirTouch (sl set way : Nat) (s : State) : State :=
  let k := 1024 * sl + set
  { s with coh := { s.coh with dirPlru := s.coh.dirPlru.insert k (touchBits (s.coh.dirPlru.getD k 0) way) } }

/-- The home writes each sector of a line to memory with the reduce-pending bit set (R216). The slice keeps no copy of
the line, so that the next access meets the bit (DEDUCED, log entry 9). -/
def rewritePending (sl line : Nat) (s : State) : State :=
  let s := forEach [0, 1, 2, 3] (fun i s => quietAcc sl line i .read (.mp (homeHalf sl)) 0 s) s
  let vs : Quad (Sec256 × Bool) := Quad.ofFn (fun i => sectorValue s sl line i)
  let s := match lookup s sl line with
    | some (w, p, l) => updLine sl line w p { l with secs := Quad.all .inv } s
    | none => s
  let slots : Quad Slot := vs.map (fun v => Slot.write ⟨v.1, fullMask, v.2⟩ false true)
  match newEntry sl line slots s with
  | some s => s
  | none => forEach [0, 1, 2, 3] (fun i s => acceptSlot (chanOf sl line) line i (slots.get i) s) s

/-- Evict a directory entry (R204): an S entry with `INV` to every holder, an E entry with `RECALL`, an A entry under
R216. A transaction of the evicted line waits for the answers. -/
def evictDir (sl set way : Nat) (e : DirEnt) (s : State) : State :=
  let line := lineOf set e.tag
  let hs := dirHolders s e
  let s := countDir .dirEvictions sl 31 true (putDir sl set way none s)
  match e.st with
  | .a => rewritePending sl line s
  | .s => snoopList e.coarse sl line 0x20 0 hs (if hs = [] then s else putTx sl line (some (newTx none .dirEvict hs false)) s)
  | .e => snoopList e.coarse sl line 0x21 0 hs (if hs = [] then s else putTx sl line (some (newTx none .dirEvict hs false)) s)

/-- A way for a new entry: free, or evicted by class S, E, A and pseudo-LRU within the class; none when every entry of
the set has an open transaction. -/
def dirRoom (sl set : Nat) (s : State) : Option (Nat × State) :=
  let ways := List.range 16
  match ways.find? (fun w => (dirAt s sl set w).isNone) with
  | some w => some (w, s)
  | none =>
    let cls (st : DirState) : List Nat := ways.filter (fun w =>
      match dirAt s sl set w with
      | some e => decide (e.st = st) && (txAt s sl (lineOf set e.tag)).isNone
      | none => false)
    let c := if cls .s ≠ [] then cls .s else if cls .e ≠ [] then cls .e else cls .a
    if c = [] then none
    else
      let w := victim (s.coh.dirPlru.getD (1024 * sl + set) 0) c
      match dirAt s sl set w with
      | some e => some (w, evictDir sl set w e s)
      | none => some (w, s)

/-- Record a holder in the entry of a line with a state: the existing entry changed, or a new one. None: no room. -/
def dirGrant (sl line : Nat) (st : DirState) (redop : Nat) (hd : Holder) (alone : Bool) (s : State) : Option State :=
  let dl := deadlineAt s (homeHalf sl)
  let set := setOf line
  match dirFind s sl line with
  | some (w, e) =>
    let base := if alone then dirNew line st redop else { e with st := st, redop := redop }
    some (dirTouch sl set w (putDir sl set w (some (dirAdd base hd dl)) s))
  | none =>
    (dirRoom sl set s).map (fun r =>
      dirTouch sl set r.1 (putDir sl set r.1 (some (dirAdd (dirNew line st redop) hd dl)) r.2))

/-! ### Atomics (R195, R196) -/

/-- The new value of an atomic's word, and whether it is written. -/
def atomNew (a : Atomic) (old : Nat) : Nat × Bool :=
  let w := match a.ty with
    | .b64 => 64
    | .int64 => 64
    | _ => 32
  let x := a.operand.toNat % 2 ^ w
  let red (op : AddOp) : Nat := match a.ty with
    | .fp32 => combineElem ⟨.fp32, op⟩ old x
    | .int64 => combineElem ⟨.int64, op⟩ old x
    | .b64 => combineElem ⟨.int64, op⟩ old x
    | _ => combineElem ⟨.int32, op⟩ old x
  match a.op with
  | .swap => (x, true)
  | .cas => if old = a.compare.toNat % 2 ^ w then (x, true) else (old, false)
  | .fetchAdd => (red .add, true)
  | .fetchMin => (red .min, true)
  | .fetchMax => (red .max, true)
  | .fetchAnd => (old &&& x, true)
  | .fetchOr => (old ||| x, true)
  | .fetchXor => (old ^^^ x, true)
  | .load => (old, false)
  | .store => (x, true)

/-- The width of an atomic's word in bytes. -/
def atomBytes (t : AtomTy) : Nat :=
  match t with
  | .b64 => 8
  | .int64 => 8
  | _ => 4

/-- Perform an atomic at the slice: the old value, or a poisoned word; none when the sector cannot be read or written now. -/
def atomicAt (sl line : Nat) (ag : Agent) (func : Nat) (a : Atomic) (off : Nat) (s : State) :
    Option (Option W64 × State) :=
  let n := atomBytes a.ty
  let off := off / n * n
  let sec := off / 32
  match quietRead sl line sec ag func s with
  | (none, _) => none
  | (some (_, true), s) => some (none, s)
  | (some (d, false), s) =>
    let lo := 8 * (off % 32)
    let old := natBits (lo + 8 * n - 1) lo d.toNat
    let r := atomNew a old
    let mask : W32 := BitVec.ofNat 32 ((2 ^ n - 1) * 2 ^ (off % 32))
    let w : SecOp := .write ⟨BitVec.ofNat 256 (r.1 % 2 ^ (8 * n) * 2 ^ lo), mask, false⟩
    (if r.2 then quietTry sl line sec w ag func s else some s).map (fun s => (some (BitVec.ofNat 64 old), s))

/-! ### Performing a request (R197, R198) -/

/-- The agent behind a request, for accounts. -/
def reqAgent (r : HReq) : Agent :=
  match r.hd with
  | some hd =>
    match hd.src with
    | .site g => .guest g hd.func
    | _ => .remote 0
  | none =>
    match r.who with
    | some (ag, _) => ag
    | none => .mp (homeHalf r.sl)

def reqFunc (r : HReq) : Nat := (r.hd.map (fun hd => hd.func.val)).getD 0

/-- A remote requester gets no copy of a line whose segment is not open to copies (R187). The other half's far cache holds lines
of the base in A only (R182, R184). -/
def noCopy (s : State) (r : HReq) : Bool :=
  match r.hd with
  | some hd =>
    match hd.src, r.kind with
    | .xFar, .joinA _ => false
    | .xFar, _ => true
    | hd, _ => isMember hd && !lineCacheOk s r.sl r.line
  | none => true

/-- Answer with data. -/
def answerData (r : HReq) (l : LinePart) (granted : Nat) (nc : Bool) (s : State) : State :=
  let lease := match r.hd with
    | some hd => if isMember hd.src then leaseUnits s (homeHalf r.sl) else 0
    | none => 0
  answer r { blankCoh with
    code := 0x30, secs := l, sect := partMask l, granted := granted, nc := nc, lease := lease } s

def answerGrant (r : HReq) (granted : Nat) (nc : Bool) (s : State) : State :=
  let lease := match r.hd with
    | some hd => if isMember hd.src then leaseUnits s (homeHalf r.sl) else 0
    | none => 0
  answer r { blankCoh with code := 0x31, granted := granted, nc := nc, lease := lease } s

/-- Read a line for a requester and grant it in a state; none: it cannot be read, or no entry is free. -/
def giveLine (r : HReq) (st : DirState) (s : State) : Option State :=
  let hd := match r.hd with
    | some hd => hd.src
    | none => .xFar
  match quietReads r.sl r.line (reqAgent r) (reqFunc r) (maskSecs 15) [] s with
  | (none, _) => none
  | (some l, s) =>
    if noCopy s r then some (answerData r l 0 true s)
    else
      (dirGrant r.sl r.line st 0 hd (decide (st = .e)) s).map (fun s =>
        answerData r l (if st = .e then 2 else 1) false s)

/-- Perform a request whose snoops are answered: none when it must wait. -/
def perform (r : HReq) (s : State) : Option State :=
  let ag := reqAgent r
  let f := reqFunc r
  match r.kind with
  | .rdS =>
    let isSite := match reqHolder r with
      | some (.site _) => true
      | _ => false
    let alone := match dirFind s r.sl r.line with
      | none => true
      | some (_, e) => decide (othersOf r (dirHolders s e) = [])
    giveLine r (if isSite && alone && !r.wasA then .e else .s) s
  | .rdX => giveLine r .e s
  | .upgrade =>
    if upgradeListed r ((dirFind s r.sl r.line).map Prod.snd) && !noCopy s r then
      (dirGrant r.sl r.line .e 0 ((reqHolder r).getD .xFar) true s).map (answerGrant r 2 false)
    else giveLine r .e s
  | .rdNc m =>
    match quietReads r.sl r.line ag f (maskSecs m) [] s with
    | (none, _) => none
    | (some l, s) => some (answerData r l 0 true s)
  | .wrNc l => (quietAll r.sl r.line ag f (l.map (fun x => (x.1, .write x.2))) s).map (ackStep r 0x32)
  | .addNc ro l =>
    (quietAll r.sl r.line ag f (l.map (fun x => (x.1, .add ⟨ro, x.2.1, x.2.2⟩))) s).map (ackStep r 0x32)
  | .joinA ro =>
    if noCopy s r then some (answerGrant r 3 true s)
    else
      let alone := match dirFind s r.sl r.line with
        | none => true
        | some (_, e) => decide (e.st ≠ .a)
      (dirGrant r.sl r.line .a (redopCode ro) ((reqHolder r).getD .xFar) alone s).map (answerGrant r 3 false)
  | .atomic a off =>
    match atomicAt r.sl r.line ag f a off s with
    | none => none
    | some (none, s) => some (answerError r 4 s)
    | some (some old, s) =>
      match r.hd, r.who with
      | none, some (ag, tag) => some (emit (if a.op = .store then .done ag tag else .atomOld ag tag old) s)
      | _, _ =>
        let s := if a.op = .store then s else answer r { blankCoh with code := 0x34, word := old } s
        some (ackStep r 0x32 s)
  | .own accs => some (forEach accs sliceAccess s)
  | .maint _ => some s
  | _ => some s

/-- An old-epoch write reaches the preserved copy as well (R229). -/
def performCopy (r : HReq) (s : State) : State :=
  match oldEpochCopy r s with
  | none => s
  | some (sl, line) =>
    match r.kind with
    | .wrNc l => quietWrites sl line (reqAgent r) 0 l s
    | .addNc ro l => quietAdds sl line (reqAgent r) 0 ro l s
    | .wb _ l => mergeData sl line l s
    | .mergeA ro l => mergePart sl line ro l s
    | .snoopData _ _ (some ro) l => mergePart sl line ro l s
    | .snoopData _ _ none l => mergeData sl line l s
    | .atomic a off =>
      match atomicAt sl line (reqAgent r) 0 a off s with
      | some (_, s) => s
      | none => s
    | _ => s

/-! ### Holders that give copies up (R197, R212, R213) -/

/-- The owner of an E entry gives its copy up: a coarse entry is free then (R197, R202). -/
def ownerDrop (e : DirEnt) (hd : Holder) : DirEnt :=
  if e.coarse then { e with locals := 0, members := [], vec := 0 } else dirDrop e hd

/-- A holder no longer counts among those a transaction waits for, and the directory drops it or (a downgrade) keeps it
as a reader. -/
def holderDone (sl line : Nat) (hd : Holder) (code : Nat) (s : State) : State :=
  let s := modDir sl line (fun e => if code = 0x22 then { e with st := .s } else dirDrop e hd) s
  match txAt s sl line with
  | some t => putTx sl line (some { t with waits := t.waits.filter (fun p => p.1 ≠ hd) }) s
  | none => s

/-- A transaction waits for this holder. -/
def waitsFor (s : State) (sl line : Nat) (hd : Holder) : Bool :=
  match txAt s sl line with
  | some t => t.waits.any (fun p => p.1 = hd)
  | none => false

/-- The code of the snoop sent to a holder of a line, as far as one is outstanding. -/
def snoopCode (s : State) (sl line : Nat) : Nat :=
  ((List.find? (fun e => decide (e.1 / 4096 = sl) && decide (e.2.line = line)) s.coh.snoops).map
    (fun e => e.2.code)).getD 0x20

/-- The set of a line is in recovery (R218). -/
def inRecovery (s : State) (sl line : Nat) : Bool := s.coh.recovery.contains (1024 * sl + setOf line)

/-- Send `ACK` to a holder. -/
def answerAck (r : HReq) (s : State) : State := answer r { blankCoh with code := 0x37 } s

/-- `WB`, `MERGE_A`, `EVICT_E` and `RENEW` (R197, R206, R212, R213, R218): all but `RENEW` go ahead of a transaction of the
line. -/
def homeRelease (r : HReq) (s : State) : State :=
  match r.hd with
  | none => s
  | some hd =>
    let e := (dirFind s r.sl r.line).map Prod.snd
    let listed : Bool := match e with
      | some e => dirLists e hd.src
      | none => false
    let waited := waitsFor s r.sl r.line hd.src
    let code := snoopCode s r.sl r.line
    let discard : Bool := match txAt s r.sl r.line with
      | some t => t.discard && waited
      | none => false
    let untracked := decide (e = none) && inRecovery s r.sl r.line
    match r.kind with
    | .wb keep l =>
      let owner : Bool := match e with
        | some e => decide (e.st = .e) && listed
        | none => false
      if waited || owner || untracked then
        let s := if discard then s else performCopy r (mergeData r.sl r.line l s)
        let s := if waited then holderDone r.sl r.line hd.src code s
          else modDir r.sl r.line (fun e => if keep then { e with st := .s } else ownerDrop e hd.src) s
        answerAck r s
      else s
    | .mergeA ro l =>
      let inA : Bool := match e with
        | some e => decide (e.st = .a)
        | none => true
      if waited || inA then
        let s := if discard then s else performCopy r (mergePart r.sl r.line ro l s)
        let s := if waited then holderDone r.sl r.line hd.src code s
          else modDir r.sl r.line (fun e => dirDrop e hd.src) s
        answerAck r s
      else s
    | .evictE =>
      let owner : Bool := match e with
        | some e => decide (e.st = .e) && listed
        | none => false
      let s := if waited then holderDone r.sl r.line hd.src 0x21 s
        else if owner then modDir r.sl r.line (fun e => ownerDrop e hd.src) s else s
      answerAck r s
    | .renew =>
      if listed then
        let dl := deadlineAt s (homeHalf r.sl)
        let s := modDir r.sl r.line (fun e =>
          match hd.src with
          | .member m => { e with
              leaseEnd := max e.leaseEnd dl
              members := e.members.map (fun p => if p.1 = m.val then (p.1, max p.2 dl) else p) }
          | _ => e) s
        answerAck r s
      else answer r { blankCoh with code := 0x38 } s
    | _ => s

/-! ### Handling (R199, R200) -/

/-- A write that the base's own agents see before its remote copies are gone (R190): not a release or atomic at GROUP
scope (R193). -/
def earlyOk (r : HReq) : Bool :=
  match r.kind with
  | .wrNc _ => !r.grp
  | .addNc _ _ => !r.grp
  | .atomic _ _ => !r.grp
  | .own _ => decide (needOf r.kind ≠ .read)
  | _ => false

/-- Only `INV`s to remote holders are unanswered. -/
def onlyRemote (s : State) (sl line : Nat) (t : HomeTx) : Bool :=
  t.waits.all (fun p => isMember p.1) && decide (snoopCode s sl line = 0x20)

/-- Holders that may hold an untracked copy of a line: X, coherent guest sites, the members of an exported segment
(R216, R218). -/
def anyHolders (sl line : Nat) (onlyCache : Bool) (s : State) : List (Holder × Nat) :=
  let dl := collectLimit s (homeHalf sl)
  let x := if decide (s.part = .mb2) && decide (s.zor.halves ≠ 2) then [(Holder.xFar, dl)] else []
  let sites := ([0, 1, 2, 3] : List (Fin 4)).filterMap (fun g =>
    let t := s.zor.sites.getD g.val SiteSt.init
    if decide (t.st = 2) && t.coherent then some (Holder.site g, dl) else none)
  let open_ := if onlyCache then lineExported s sl line && lineCacheOk s sl line else lineExported s sl line
  let ms := if open_ then (listedMembers s).filterMap (fun m =>
      if m = ownMember s then none else some (Holder.member (Fin.ofNat 4096 m), dl)) else []
  x ++ sites ++ ms

/-- A line has a returned sector that carries the reduce-pending bit. -/
def pendingRet (s : State) (sl line : Nat) : Bool :=
  (s.buf.rets.getD sl []).any (fun r => decide (r.line = line) && r.reducePending && !r.failed)

/-- Clear the reduce-pending bit of the sectors of a line in memory, writing merged data for the sectors read
(R216, step 5), and deliver them (step 6). -/
def pendingClear (sl line : Nat) (s : State) : State :=
  let c := chanOf sl line
  let l := s.buf.rets.getD sl []
  let mine := l.filter (fun r => decide (r.line = line) && r.reducePending)
  let rest := l.filter (fun r => !(decide (r.line = line) && r.reducePending))
  let s := { s with buf := { s.buf with rets := s.buf.rets.setD sl [] rest } }
  let s := forEach [0, 1, 2, 3] (fun i s =>
    let idx := sectorIndex line i
    let raw := rawRead s c idx
    let new := match mine.find? (fun r => decide (r.sec = i)) with
      | some r =>
        if (chanAt s c).q.any (fun o => sameSec line i o && opWrites o.op) then (raw.1, natBit 0 raw.2)
        else (r.d, r.poison)
      | none => (raw.1, natBit 0 raw.2)
    if natBit 3 raw.2 then rawWrite c idx new.1 (b2n new.2 + raw.2 / 2 % 4 * 2) s else s) s
  forEach mine (fun r s => fillArrive sl { r with reducePending := false } s) s

/-- Merge a partial into the sectors held back by a collection (R216, step 4); the others take it as an add-to-line. -/
def pendingMerge (sl line : Nat) (ro : RedOp) (part : LinePart) (s : State) : State :=
  forEach part (fun x s =>
    let l := s.buf.rets.getD sl []
    match l.findIdx? (fun r => decide (r.line = line) && decide (r.sec = x.1.val) && r.reducePending) with
    | some i =>
      match l[i]? with
      | some r =>
        let r' := { r with d := combine ro r.d x.2.1, poison := r.poison || x.2.2 }
        { s with buf := { s.buf with rets := s.buf.rets.setD sl [] (l.set i r') } }
      | none => s
    | none => mergePart sl line ro [x] s) s

/-- Start the collection of R216 for a line, on behalf of a request or of a fill. -/
def startPending (sl line : Nat) (r : Option HReq) (s : State) : State :=
  let hs := anyHolders sl line false s
  let s := countDir .rpCollects sl 31 false s
  snoopAll sl line 0x23 0 hs (putTx sl line (some (newTx r .rpCollect hs false)) s)

/-- Perform a request; a collection that has nobody to ask is over at once. When it cannot be performed now, also the
state in which its sectors are asked for. -/
def performOrClear (r : HReq) (s : State) : Option State × State :=
  let writes : Bool := match r.kind with
    | .wrNc _ => true
    | .addNc _ _ => true
    | _ => false
  match perform r s with
  | some s1 => (some s1, s)
  | none =>
    if writes then (none, s)
    else
      let s1 := forEach [0, 1, 2, 3] (fun i s => quietAcc r.sl r.line i .read (reqAgent r) 0 s) s
      if pendingRet s1 r.sl r.line && decide (anyHolders r.sl r.line false s1 = []) then
        (perform r (pendingClear r.sl r.line (countDir .rpCollects r.sl 31 false s1)), s1)
      else (none, s1)

/-- A request of a guest die or a remote device is counted by its regulator (R316). -/
def govHolder (r : HReq) (s : State) : State :=
  match r.hd with
  | some hd =>
    let b := reqBytes r.kind
    let q := if b.1 = 0 then none else holderGovernor s hd (lineDpa s r.sl r.line)
    govDone q b.1 b.2 r.t (govIssue q s)
  | none => s

/-- Perform a request, or leave its transaction open to be driven again (a fence, a full set, a collection). -/
def finishReq (r : HReq) (hadRemote : Bool) (s : State) : State :=
  match performOrClear r s with
  | (some s1, _) =>
    let s1 := govHolder r (performCopy r s1)
    let writes := match r.kind with
      | .wrNc _ => true
      | .addNc _ _ => true
      | .atomic _ _ => true
      | _ => false
    let remote := match reqHolder r with
      | some h => isMember h
      | none => false
    putTx r.sl r.line none (when (writes && (hadRemote || remote)) (ackStep r 0x33) s1)
  | (none, s) =>
    if pendingRet s r.sl r.line && decide (anyHolders r.sl r.line false s ≠ []) then startPending r.sl r.line (some r) s
    else putTx r.sl r.line (some { newTx (some r) .request [] false with blocked := true, hadRemote := hadRemote }) s

/-- Handle a request to a line without an open transaction. -/
def homeHandle (r : HReq) (s : State) : State :=
  match slateGate r s with
  | none => slateHold r s
  | some s =>
    match r.kind with
    | .wb _ _ => homeRelease r s
    | .mergeA _ _ => homeRelease r s
    | .evictE => homeRelease r s
    | .renew => homeRelease r s
    | _ =>
      match dirFind s r.sl r.line with
      | some (w, e) =>
        let sn := snoopsFor s r (needOf r.kind) e
        let r := { r with wasA := r.wasA || decide (e.st = .a) }
        let s := dirTouch r.sl (setOf r.line) w s
        if sn.2 = [] then finishReq r false s
        else
          let discard := match needOf r.kind with
            | .remove d => d
            | _ => false
          let t := newTx (some r) .request sn.2 discard
          let s := snoopAll r.sl r.line sn.1 e.redop sn.2 (putTx r.sl r.line (some t) s)
          if earlyOk r && onlyRemote s r.sl r.line t then
            match perform r s with
            | some s1 => putTx r.sl r.line (some { t with performed := true }) (performCopy r s1)
            | none => s
          else s
      | none =>
        if inRecovery s r.sl r.line then
          let hs := anyHolders r.sl r.line true s
          if hs = [] then finishReq r false s
          else snoopList true r.sl r.line 0x21 0 hs (putTx r.sl r.line (some (newTx (some r) .sweep hs false)) s)
        else finishReq r false s

/-- Handle queued requests of a slice whose lines have no open transaction, in order (R199). -/
def drainLineQ (sl : Nat) : Nat → State → State
  | 0, s => s
  | n + 1, s =>
    let q := s.coh.lineQ.getD sl []
    match q.findIdx? (fun r => (txAt s sl r.line).isNone) with
    | none => s
    | some i =>
      match q[i]? with
      | some r =>
        drainLineQ sl n (homeHandle r
          { s with coh := { s.coh with lineQ := s.coh.lineQ.setD sl [] (q.eraseIdx i) } })
      | none => s

/-- A transaction's last holder has answered. A coarse entry, of which each holder is gone, is freed where the request leaves the
line in I (R197, R202). -/
def txComplete (sl line : Nat) (t : HomeTx) (s : State) : State :=
  let s := freeSnoops sl line s
  match t.why, t.req with
  | .rpCollect, r =>
    let s := putTx sl line none (pendingClear sl line s)
    match r with
    | some r => homeHandle r s
    | none => s
  | .request, some r =>
    let s := match dirFind s sl line with
      | none => s
      | some (w, e) =>
        let kept : Bool := match needOf r.kind with
          | .own_ => true
          | .read => decide (e.st ≠ .a)
          | .flush => decide (e.st ≠ .a)
          | _ => false
        if e.coarse && !kept then putDir sl (setOf line) w none s else s
    if t.performed then
      putTx sl line none (when t.hadRemote (ackStep r 0x33) s)
    else finishReq r t.hadRemote s
  | .sweep, some r => finishReq r t.hadRemote s
  | _, _ => putTx sl line none s

/-- Drive a transaction again that could not be performed (R162, R204). -/
def redrive (sl line : Nat) (s : State) : State :=
  match txAt s sl line with
  | some t =>
    if t.blocked then
      match t.req with
      | some r => drainLineQ sl ((s.coh.lineQ.getD sl []).length) (finishReq r t.hadRemote (putTx sl line none s))
      | none => s
    else s
  | none => s

/-- Drive every blocked transaction of a slice again. -/
def redriveSlice (sl : Nat) (s : State) : State :=
  forEach s.coh.txs (fun e s =>
    if decide (e.1 / 2 ^ 26 = sl) && e.2.blocked then redrive (e.1 / 2 ^ 26) (e.1 % 2 ^ 26) s else s) s

/-- Go on with a line's transaction after an answer, then with the requests that waited. -/
def advanceTx (sl line : Nat) (s : State) : State :=
  match txAt s sl line with
  | none => s
  | some t =>
    if t.waits = [] then
      let s := txComplete sl line t s
      redriveSlice sl (drainLineQ sl ((s.coh.lineQ.getD sl []).length) s)
    else
      match t.req with
      | some r =>
        if !t.performed && decide (t.why = .request) && earlyOk r && onlyRemote s sl line t then
          match perform r s with
          | some s1 => putTx sl line (some { t with performed := true }) (performCopy r s1)
          | none => s
        else s
      | none => s

/-- Drive every blocked transaction of a stack's slices. -/
def redriveStack (k : Nat) (s : State) : State :=
  forEach s.coh.txs (fun e s =>
    if decide (e.1 / 2 ^ 26 / 16 = k) && e.2.blocked then redrive (e.1 / 2 ^ 26) (e.1 % 2 ^ 26) s else s) s

/-! ### The order of an agent's accesses (R191–R193) -/

/-- The request comes from this agent of the base. -/
def reqOf (ag : Agent) (r : HReq) : Bool :=
  match r.hd, r.kind with
  | some hd, _ =>
    match hd.src, ag with
    | .site g, .guest g' _ => decide (g = g')
    | _, _ => false
  | none, .own accs => accs.any (fun a => decide (a.ag = ag))
  | none, _ => decide (r.who.map Prod.fst = some ag)

/-- A request that writes. -/
def kindWrites : HKind → Bool
  | .wrNc _ => true
  | .addNc _ _ => true
  | .atomic _ _ => true
  | .wb _ _ => true
  | .mergeA _ _ => true
  | .own accs => decide (accsNeed accs ≠ .read)
  | _ => false

/-- An access to a far cache that writes. -/
def farWrites : FarOp → Bool
  | .read _ => false
  | _ => true

/-- A sector access that writes. -/
def secWrites : SecOp → Bool
  | .write _ => true
  | .add _ => true
  | _ => false

/-- An agent of the base has a write that is not yet performed at a scope, or (`reads`) a read that has not returned. -/
def agentPending (s : State) (ag : Agent) (reads global : Bool) : Bool :=
  let one (a : SAcc) : Bool := !a.quiet && decide (a.ag = ag) && (reads || secWrites a.op)
  let req (r : HReq) : Bool := reqOf ag r && (reads || kindWrites r.kind)
  s.buf.stalled.any (fun e => e.2.any one) || s.buf.waits.any (fun e => e.2.any one) ||
  (reads && s.mem.chans.any (fun e => e.2.q.any (fun o => match o.op with
    | .read (.pass a) => one a
    | _ => false))) ||
  s.reg.any (fun e => e.2.held.any req) || s.coh.lineQ.any (fun e => e.2.any req) ||
  s.coh.slates.any (fun e => e.2.held.any req || e.2.waitQ.any req) ||
  s.coh.txs.any (fun e => match e.2.req with
    | some r => req r && !(e.2.performed && !global)
    | none => false) ||
  s.coh.farQ.any (fun x => decide (x.ag = ag) && (reads || farWrites x.op)) ||
  s.coh.reqs.any (fun e => match e.2.why with
    | some (.access ag' op _) => decide (ag' = ag) && (reads || farWrites op) && !(e.2.ackedLocal && !global)
    | _ => false)

/-- An agent of the base has an acquire that is not yet performed: its later accesses wait. -/
def acquirePending (s : State) (ag : Agent) : Bool :=
  let req (r : HReq) : Bool := r.acq && reqOf ag r
  let acq (op : FarOp) : Bool := match op with
    | .atomic _ _ _ od => decide (od = .acq ∨ od = .acqRel)
    | _ => false
  s.coh.lineQ.any (fun e => e.2.any req) || s.coh.slates.any (fun e => e.2.held.any req || e.2.waitQ.any req) ||
  s.coh.txs.any (fun e => (e.2.req.map (fun r => req r && !e.2.performed)).getD false) ||
  s.coh.farQ.any (fun x => decide (x.ag = ag) && acq x.op) ||
  s.coh.reqs.any (fun e => match e.2.why with
    | some (.access ag' op _) => decide (ag' = ag) && acq op && !e.2.result
    | _ => false)

/-- An access of this ordering must wait: an acquire before it is out, or it is a release and an earlier access is (R191). -/
def orderWaits (s : State) (ag : Agent) (ord : MOrd) (scope : Scope) : Bool :=
  acquirePending s ag ||
  (decide (ord = .rel ∨ ord = .acqRel) && agentPending s ag true (decide (scope = .group)))

/-! ### The Slate point: what waits for it (R225, R226) -/

/-- A request that releases a copy and goes ahead of its line's transaction. -/
def isRelease : HKind → Bool
  | .wb _ _ => true
  | .mergeA _ _ => true
  | .evictE => true
  | .snoopData _ _ _ _ => true
  | _ => false

/-- The function of the base's own agent behind a request. -/
def ownFunc (s : State) (r : HReq) : Option Nat :=
  match r.hd with
  | some hd =>
    match hd.src with
    | .site _ => some hd.func.val
    | _ => none
  | none =>
    match r.kind with
    | .own (a :: _) => agentFunc s a.ag
    | _ => r.who.bind (fun w => agentFunc s w.1)

/-- The function at whose Slate point a request is held (R226): it is for the Slate's partitions, or comes from the function's
agents. What gives a copy up is held only when it comes from after its sender's point. -/
def pointHolds (s : State) (r : HReq) : Option Nat :=
  let a := lineDpa s r.sl r.line
  let newer (f : Nat) : Bool := match r.hd with
    | some hd => isMember hd.src && (hd.epoch != (slateAt s f).epoch)
    | none => false
  let at_ (f : Nat) : Bool :=
    (slateAt s f).pointing && (slateAt s f).parts.contains (segPart s (a / 2 ^ 30)) && (!isRelease r.kind || newer f)
  match dpaFunc s a, ownFunc s r with
  | some f, o =>
    if at_ f then some f
    else
      match o with
      | some f => if (slateAt s f).pointing && !isRelease r.kind then some f else none
      | none => none
  | none, _ => none

/-- Hold a request until the point of a function is over. -/
def pointHold (f : Nat) (r : HReq) (s : State) : State :=
  setSlate f { slateAt s f with waitQ := (slateAt s f).waitQ ++ [r] } s

/-! ### Arrival (R186, R187, R199) -/

/-- A read of the base's own agents passes a transaction whose write is performed at BASE (R190, R193), when no request to
the line came before it. -/
def readPasses (s : State) (r : HReq) (t : HomeTx) : Bool :=
  r.hd.isNone && decide (needOf r.kind = .read) && t.performed &&
  !(s.coh.lineQ.getD r.sl []).any (fun q => decide (q.line = r.line))

/-- A request arrives at a slice's tag pipeline. -/
def homeArrive (r : HReq) (s : State) : State :=
  match pointHolds s r with
  | some f => pointHold f r s
  | none =>
    if isRelease r.kind then
      let s := homeHandle r s
      advanceTx r.sl r.line s
    else if stackGone s (stackOfSlice r.sl) then answerError r 5 s
    else
      match txAt s r.sl r.line with
      | none => let s := homeHandle r s
                drainLineQ r.sl ((s.coh.lineQ.getD r.sl []).length) s
      | some t =>
        if readPasses s r t then
          match r.kind with
          | .own accs => forEach accs sliceAccess s
          | _ => s
        else
          let q := s.coh.lineQ.getD r.sl []
          let outside := match reqHolder r with
            | some h => isMember h
            | none => false
          if decide (256 ≤ q.length) && outside then answer r { blankCoh with code := 0x39 } s
          else { s with coh := { s.coh with lineQ := s.coh.lineQ.setD r.sl [] (q ++ [r]) } }

/-! ### Answers of holders -/

/-- The snoop behind an answer's tag, when its take is current and the line's transaction waits for the sender. -/
def withSnoop (sl tag : Nat) (take : BitVec 8) (src : Holder) (f : SnoopOut → State → State) (s : State) : State :=
  match s.coh.snoops.find? (4096 * sl + tag) with
  | none => staleMsg (homeHalf sl) s
  | some sn =>
    if sn.take = take && waitsFor s sl sn.line src then f sn s else staleMsg (homeHalf sl) s

/-- Apply an answer with data (R215, R218): M data written or a partial merged; discarded under an operation that discards
(R145). A Slate may hold it first (R225, R230). -/
def applySnoop (r : HReq) (s : State) : State :=
  match r.hd, r.kind with
  | some hd, .snoopData tag take ro secs =>
    withSnoop r.sl tag take hd.src (fun sn s =>
      let t := txAt s r.sl sn.line
      let discard := (t.map (fun t => t.discard)).getD false
      let why := (t.map (fun t => t.why)).getD .request
      let done (s : State) : State := advanceTx r.sl sn.line (holderDone r.sl sn.line hd.src sn.code s)
      if discard then done s
      else
        match pointHolds s r with
        | some f => pointHold f r s
        | none =>
          match slateGate r s with
          | none => slateHold r s
          | some s =>
            let s := match ro with
              | some ro => if why = .rpCollect then pendingMerge r.sl sn.line ro secs s else mergePart r.sl sn.line ro secs s
              | none => mergeData r.sl sn.line secs s
            done (performCopy r s)) s
  | _, _ => s

/-- Requests that a Slate held go on. -/
def slateResume (l : List HReq) (s : State) : State :=
  forEach l (fun r s => match r.kind with
    | .snoopData _ _ _ _ => applySnoop r s
    | _ => homeArrive r s) s

/-! ### The Slate point (R225–R227) -/

/-- The Slate's lines on the base that guest dies or the other half hold: slice, line and entry. -/
def slateHeldLines (s : State) (f : Nat) : List (Nat × Nat × DirEnt) :=
  s.coh.dir.filterMap (fun e =>
    let sl := e.1 / 16384
    let line := lineOf (e.1 / 16 % 1024) e.2.tag
    let a := lineDpa s sl line
    if decide (dpaFunc s a = some f) && (slateAt s f).parts.contains (segPart s (a / 2 ^ 30)) then
      some (sl, line, e.2) else none)

/-- The X partials of the Slate's lines are merged (step 3). -/
def mergeXPartials (f : Nat) (s : State) : State :=
  forEach (slateHeldLines s f) (fun x s =>
    if decide (x.2.2.st = .a) && natBit 4 x.2.2.locals then
      let ga : W64 := BitVec.ofNat 64 ((ownDev s).toNat * 2 ^ 48 + lineDpa s x.1 x.2.1)
      match farFind s (homeHalf x.1).other ga with
      | some (k, l) =>
        match l.st with
        | .a ro => modDir x.1 x.2.1 (fun e => dirDrop e .xFar)
            (mergePart x.1 x.2.1 ro (lineSecs l.data) (putFar k none s))
        | _ => s
      | none => s
    else s) s

/-- Far cache lines in M or A tagged with the function and homed on participants are marked OLD (step 3). -/
def markOld (f : Nat) (s : State) : State :=
  { s with coh := { s.coh with far := s.coh.far.map (fun e =>
      let dirty := match e.2.st with
        | .m => true
        | .a _ => true
        | _ => false
      if decide (e.2.func = f) && dirty && (slateAt s f).devices.contains (gaDev e.2.ga) then
        (e.1, { e.2 with old := true }) else e) } }

/-- The guest sites that an entry lists. -/
def siteHolders (s : State) (e : DirEnt) : List (Holder × Nat) :=
  (dirHolders s e).filter (fun p => match p.1 with
    | .site _ => true
    | _ => false)

/-- The Slate's lines that guest dies hold in E, M or A: they are still to be downgraded or collected (step 4). -/
def slateGuestLines (s : State) (f : Nat) : List (Nat × Nat × DirEnt) :=
  (slateHeldLines s f).filter (fun x => decide (siteHolders s x.2.2 ≠ []) && decide (x.2.2.st ≠ .s))

/-- Snoop the guest dies' copies of the Slate's lines: E and M downgraded, A collected (step 4). A line with an open
transaction is snooped when that is over. -/
def snoopSlateGuests (f : Nat) (s : State) : State :=
  forEach (slateGuestLines s f) (fun x s =>
    let sites := siteHolders s x.2.2
    if (txAt s x.1 x.2.1).isSome then s
    else
      snoopAll x.1 x.2.1 (if x.2.2.st = .a then 0x23 else 0x22) x.2.2.redop sites
        (putTx x.1 x.2.1 (some (newTx none .slate sites false)) s)) s

/-- The epoch flips and the held requests go on, in order of arrival (step 5). -/
def flipEpoch (f : Nat) (s : State) : State :=
  let x := slateAt s f
  let s := setSlate f { x with
    st := if x.st = .armed then .pointed else x.st, epoch := !x.epoch, pointing := false, waitQ := [] } s
  let s := slateResume x.waitQ (sendOld f s)
  farReplay .h1 (farReplay .h0 s)

/-- Step 5 comes when no guest die holds a line of the Slate in E, M or A; until then the snoops of step 4 go on. -/
def tryFlip (f : Nat) (s : State) : State :=
  if !(slateAt s f).pointing then s
  else
    let s := snoopSlateGuests f s
    if slateGuestLines s f = [] then flipEpoch f s else s

/-- Every function that stands at its Slate point goes on. -/
def settleSlates (s : State) : State :=
  forEach ((s.coh.slates.filter (fun e => e.2.pointing)).map Prod.fst) tryFlip s

/-- The Slate point of a function, when its Slate is armed (R226). -/
def reachPoint (f : Nat) (s : State) : State :=
  let x := slateAt s f
  if x.st = .armed ∧ !x.pointing then
    let s := markOld f (mergeXPartials f s)
    tryFlip f (setSlate f { slateAt s f with pointing := true } s)
  else s

/-- A message from a participant with the other epoch bit reaches the point first (R225). -/
def epochTrigger (hd : CohHdr) (dpa : Nat) (s : State) : State :=
  let f := hd.func.val
  let x := slateAt s f
  let dev := match hd.src with
    | .member m => some (memberDev s m.val)
    | _ => none
  match dev with
  | some d =>
    if decide (x.st = .armed) && decide (hd.epoch ≠ x.epoch) && x.devices.contains d &&
        decide (dpaFunc s dpa = some f) && x.parts.contains (segPart s (dpa / 2 ^ 30)) then reachPoint f s
    else s
  | none => s

/-! ### Requests of holders (R31, R182, R183, R186, R187, R225) -/

/-- A request for a copy. -/
def wantsCopy : HKind → Bool
  | .rdS => true
  | .rdX => true
  | .upgrade => true
  | .joinA _ => true
  | _ => false

/-- Why a request from a holder to a line is refused: the cause of R286; none when it may go on. -/
def holderCheck (s : State) (hd : CohHdr) (kind : HKind) (ga : W64) : Option Nat :=
  let dpa := gaDpa (gaLine ga)
  let gone := !inMapped s dpa || (homeOf s dpa).isNone
  match hd.src with
  | .member m =>
    if !groupOpen s || !rbit s .member m.val 16 then some 1
    else if !idOk s || decide (gaDev ga ≠ ownDev s) then some 3
    else if region s dpa ≠ .memory || !rbit s .segExport (dpa / 2 ^ 30) 0 then some 2
    else if gone then some 3 else none
  | .site g =>
    let t := s.zor.sites.getD g.val SiteSt.init
    let copies := decide (t.st = 2) && t.coherent
    if !inFuncMem s (siteFunc s g.val) dpa || (homeOf s dpa).isNone || (wantsCopy kind && !copies) then some 3 else none
  | .xFar => if gone then some 3 else none

/-- A refused request: `ERROR`; a guest's, and a member's to the configuration space, is also recorded (R25, R28). -/
def holderRefuse (hd : CohHdr) (kind : HKind) (ga : W64) (cause : Nat) (s : State) : State :=
  let dpa := gaDpa (gaLine ga)
  let s := match hd.src with
    | .site g => cfgEvent (.guest g hd.func) dpa 25 s
    | .member m => if cause = 2 ∧ region s dpa = .config then cfgEvent (.remote (memberDev s m.val)) dpa 25 s else s
    | .xFar => s
  answerError (mkReq (some hd) none kind 0 0 s.clock false) cause s

/-- A request of a holder as its home handles it. -/
def holderReq (hd : CohHdr) (kind : HKind) (p : Nat × Nat) (t : Nat) (multi : Bool) : HReq :=
  let grp := match kind with
    | .atomic _ _ => decide (hd.scope = .group)
    | _ => decide (hd.scope = .group) && (decide (hd.ord = .rel) || decide (hd.ord = .acqRel))
  let acq := match hd.src with
    | .site _ => decide (hd.ord = .acq ∨ hd.ord = .acqRel)
    | _ => false
  { mkReq (some hd) none kind p.1 (p.2 / 128) t grp with multi := multi, acq := acq }

/-- The guest die behind a request. -/
def guestOf (hd : CohHdr) : Option Agent :=
  match hd.src with
  | .site g => some (.guest g hd.func)
  | _ => none

/-- A guest's request must wait for its earlier accesses (R191, R192). What gives a copy up never waits. -/
def guestWaits (s : State) (hd : CohHdr) (kind : HKind) : Bool :=
  match guestOf hd with
  | some ag => !isRelease kind && orderWaits s ag hd.ord hd.scope
  | none => false

/-- A request that may go on, at the home of its line. A guest's add to the other half's memory may combine in its half's far
cache (R184). -/
def holderGo (hd : CohHdr) (kind : HKind) (ga : W64) (multi : Bool) (s : State) : State :=
  let dpa := gaDpa (gaLine ga)
  match homeOf s dpa with
  | none => s
  | some p =>
    match kind, guestOf hd with
    | .addNc ro l, some ag =>
      if farCombines s ag dpa then farCombine ag dpa ro l hd.tag.val s
      else homeArrive (holderReq hd kind p s.clock multi) s
    | _, _ => homeArrive (holderReq hd kind p s.clock multi) s

/-- A request from a holder arrives at its home: the checks of R31, R182, R183, R186 and R187, the Slate point that it may bring
(R225), then its line's transactions. -/
def fromHolder (hd : CohHdr) (kind : HKind) (s : State) : State :=
  match holderCheck s hd kind hd.addr with
  | some cause => holderRefuse hd kind hd.addr cause s
  | none =>
    if guestWaits s hd kind then s
    else settleSlates (holderGo hd kind hd.addr false (epochTrigger hd (gaDpa (gaLine hd.addr)) s))

/-- A slice's line queue cannot take `n` requests to a line with an open transaction. -/
def queueFull (s : State) (ga : W64) (n : Nat) : Bool :=
  match homeOf s (gaDpa (gaLine ga)) with
  | some (sl, a) => (txAt s sl (a / 128)).isSome && decide (256 < (s.coh.lineQ.getD sl []).length + n)
  | none => false

/-- A write or add of several lines (R285): refused or sent back whole, performed line by line, answered once (R190). -/
def fromHolderLines (hd : CohHdr) (ls : List (W64 × HKind)) (s : State) : State :=
  match ls with
  | [] => s
  | [l] => fromHolder { hd with addr := l.1 } l.2 s
  | l0 :: _ =>
    let hd := { hd with addr := l0.1 }
    match ls.findSome? (fun l => (holderCheck s hd l.2 l.1).map (fun c => (l, c))) with
    | some (l, c) => holderRefuse { hd with addr := l.1 } l.2 l.1 c s
    | none =>
      if ls.any (fun l => queueFull s l.1 ls.length) then
        answer (mkReq (some hd) none l0.2 0 0 s.clock false) { blankCoh with code := 0x39 } s
      else
        let s := forEach ls (fun l => epochTrigger hd (gaDpa (gaLine l.1))) s
        let k := multiKey (mkReq (some hd) none l0.2 0 0 s.clock false)
        let s := { s with coh := { s.coh with multi := s.coh.multi.insert k (ls.length, ls.length) } }
        settleSlates (forEach ls (fun l => holderGo hd l.2 l.1 true) s)

/-- The line behind a snoop tag whose take is current. -/
def snoopLine (s : State) (sl tag : Nat) (take : BitVec 8) : Option Nat :=
  match s.coh.snoops.find? (4096 * sl + tag) with
  | some sn => if sn.take = take then some sn.line else none
  | none => none

/-- The header that an answer to a snoop amounts to. -/
def answerHdr (s : State) (sl line tag : Nat) (take : BitVec 8) (src : Holder) (func : Fin 16) (epoch : Bool) : CohHdr :=
  { src := src, tag := Fin.ofNat 4096 tag, take := take, addr := holderAddr s sl line src, func := func, epoch := epoch
    scope := .agent, ord := .rlx }

/-- An answer that names a line of the base reaches its Slate point first, when it comes from after its sender's (R225). -/
def answerPoint (sl tag : Nat) (take : BitVec 8) (src : Holder) (func : Fin 16) (epoch : Bool) (s : State) : State :=
  match snoopLine s sl tag take with
  | some line => epochTrigger (answerHdr s sl line tag take src func epoch) (lineDpa s sl line) s
  | none => s

/-- SNOOP_ACK (R212, R213): with PENDING the home keeps the holder listed until its message arrives. -/
def doSnoopAck (sl tag : Nat) (take : BitVec 8) (src : Holder) (pend : Bool) (func : Fin 16) (epoch : Bool) (s : State) :
    State :=
  let s := answerPoint sl tag take src func epoch s
  match snoopLine s sl tag take with
  | none => staleMsg (homeHalf sl) s
  | some _ => settleSlates (withSnoop sl tag take src (fun sn s =>
      if pend then s else advanceTx sl sn.line (holderDone sl sn.line src sn.code s)) s)

/-- SNOOP_DATA (R197, R215, R225). -/
def doSnoopData (sl tag : Nat) (take : BitVec 8) (src : Holder) (ro : Option RedOp) (secs : LinePart) (func : Fin 16)
    (epoch : Bool) (s : State) : State :=
  let s := answerPoint sl tag take src func epoch s
  match snoopLine s sl tag take with
  | none => staleMsg (homeHalf sl) s
  | some line =>
    settleSlates (applySnoop (mkReq (some (answerHdr s sl line tag take src func epoch)) none (.snoopData tag take ro secs)
      sl line s.clock false) s)

/-! ### Deadlines (R208–R210, R216) -/

/-- A holder is gone with whatever it held. -/
def holderLost (sl line : Nat) (hd : Holder) (who : Nat) (s : State) : State :=
  let e := (dirFind s sl line).map Prod.snd
  let waited := waitsFor s sl line hd
  let why : Option SnoopWhy := (txAt s sl line).map (fun t => t.why)
  let code := snoopCode s sl line
  let owns_ := match e with
    | some e => dirLists e hd && decide (e.st ≠ .s)
    | none => waited && decide (why = some .dirEvict) && decide (code = 0x21)
  let sweep := waited && decide (why = some .sweep)
  let lost := owns_ || sweep
  let s := if lost then countDir .leaseExpiries sl 31 false (poisonLine sl line who s) else s
  if waited then advanceTx sl line (holderDone sl line hd 0x21 s)
  else modDir sl line (fun e => dirDrop e hd) s

/-- The holder has answered a snoop of this line, and a Slate holds the answer (R226, R230). -/
def answerHeld (s : State) (sl line : Nat) (hd : Holder) : Bool :=
  let is (r : HReq) : Bool := match r.kind with
    | .snoopData _ _ _ _ => decide (r.sl = sl) && decide (r.line = line) && decide (reqHolder r = some hd)
    | _ => false
  s.coh.slates.any (fun e => e.2.held.any is || e.2.waitQ.any is)

/-- LEASE_DEADLINE (R208–R210): a member's deadline for a line passes. -/
def doLeaseDeadline (sl line : Nat) (m : Fin 4096) (s : State) : State :=
  let hd := Holder.member m
  let dl := match txAt s sl line with
    | some t => (t.waits.find? (fun p : Holder × Nat => decide (p.1 = hd))).map Prod.snd
    | none => none
  let dl := match dl with
    | some d => some d
    | none =>
      match (dirFind s sl line).map Prod.snd with
      | some e => if dirLists e hd then
          some (if e.coarse then e.leaseEnd else ((e.members.find? (fun p : Nat × Nat => decide (p.1 = m.val))).map Prod.snd).getD 0) else none
      | none => none
  match dl with
  | some d => if answerHeld s sl line hd then s else settleSlates (holderLost sl line hd m.val (atTime d s))
  | none => s

/-- The members that failed a multicast snoop are dropped (R203, R210). -/
def mcDrops (s : State) : State :=
  let l := s.coh.mcFails
  forEach l (fun f s =>
    forEach (s.coh.snoops.filter (fun e => decide (e.1 % 4096 = f.1) && decide (e.2.take = f.2.1))) (fun e s =>
      forEach f.2.2 (fun d s =>
        match memberOf s d with
        | some m =>
          let hd := Holder.member (Fin.ofNat 4096 m)
          if waitsFor s (e.1 / 4096) e.2.line hd then holderLost (e.1 / 4096) e.2.line hd m s else s
        | none => s) s) s) { s with coh := { s.coh with mcFails := [] } }

/-- RP_COLLECT_TIMEOUT (R216): the answers not in by the limit are waited for no longer. The same limit ends the snoops
of a sweep (R218), whose unanswered holders may have held data. -/
def doRpCollectTimeout (sl line : Nat) (s : State) : State :=
  match txAt s sl line with
  | some t =>
    match t.why with
    | .rpCollect =>
      let s := atTime (t.waits.foldl (fun m p => max m p.2) 0) s
      settleSlates (advanceTx sl line (putTx sl line (some { t with waits := [] }) s))
    | .sweep =>
      let s := atTime (t.waits.foldl (fun m p => max m p.2) 0) s
      let s := countDir .leaseExpiries sl 31 false (poisonLine sl line 0 s)
      settleSlates (advanceTx sl line (putTx sl line (some { t with waits := [] }) s))
    | _ => s
  | none => s

/-! ### Failure of a guest site or of H1 (R217, R363) -/

/-- Every copy of a holder is gone at once: lines in E or A are poisoned, snoops waiting on it are answered. -/
def dropHolder (hd : Holder) (s : State) : State :=
  let lines := s.coh.dir.filterMap (fun e =>
    if dirLists e.2 hd then some (e.1 / 16384, lineOf (e.1 / 16 % 1024) e.2.tag) else none)
  let waits := s.coh.txs.filterMap (fun e =>
    if e.2.waits.any (fun p => p.1 = hd) then some (e.1 / 2 ^ 26, e.1 % 2 ^ 26) else none)
  settleSlates (forEach (lines ++ waits) (fun p s => holderLost p.1 p.2 hd 0xFFFF s) s)

/-! ### Directory errors (R201, R218) -/

/-- The directory lookup of an access met an error. A single-bit error is corrected and counted as CE; an uncorrectable
word is rebuilt from the copy, or its set enters recovery. -/
def dirErr (sl line : Nat) (err : SliceErr) (s : State) : State :=
  let h := homeHalf sl
  match err with
  | .dirSingle => event h 0x0400 1 none sl 0 201 s
  | .dirBad w copyOk =>
    let set := setOf line
    let count (s : State) : State := event h 0x0404 1 none sl 0 218 (bumpSat .dirRecovery sl 15 0 1 s)
    if copyOk then
      match dirAt s sl set w.val with
      | some e =>
        let remote := e.coarse || decide (e.members ≠ [])
        let e' := if remote then { e with
          coarse := true, members := [], vec := BitVec.allOnes 64, leaseEnd := collectLimit s h } else e
        count (putDir sl set w.val (some e') s)
      | none => count s
    else
      let s := putDir sl set w.val none s
      if s.coh.recovery.contains (1024 * sl + set) then s
      else count { s with coh := { s.coh with recovery := s.coh.recovery ++ [1024 * sl + set] } }
  | _ => s

end Sys2Proof.Machine
end

