-- ==== Sys2Proof/Machine/Access.lean ====
section
/-! DEFINITION. Accesses of the base's own agents: checks of R25, the slice, scratchpad (R115, R116), and the whole
accesses that the base's engines make (Dolly, streams, loaders, record writers). -/

namespace Sys2Proof.Machine

open Sys2Proof

/-! ### Checks (R25, R29, R30) -/

/-- Where an agent's access goes. -/
inductive Target where
  | dpa (a : Nat)
  | remote (ga : W64)
  | refused (a : Nat)
  deriving DecidableEq, Repr

/-- Resolve an address (R29, R30). -/
def targetOf (s : State) : MemAddr → Target
  | .dpa a => .dpa a.toNat
  | .ga a =>
    if !idOk s then .refused a.toNat
    else if gaOwn s a then .dpa (gaDpa a)
    else .remote a

/-- An agent may access a byte of memory (R25): its segment is in a partition of the agent's function, not held, and
outside the spare region. -/
def mayAccess (s : State) (ag : Agent) (a : Nat) : Bool :=
  match ag with
  | .remote _ => false
  | ag =>
    match agentFunc s ag with
    | some f => inFuncMem s f a
    | none => false

/-- A refused access: not performed, an error response, a record (R25). -/
def refuseAccess (ag : Agent) (a tag : Nat) (s : State) : State :=
  emit (.accErr ag tag) (cfgEvent ag a 25 s)

/-! ### Errors found by a lookup (R121) -/

/-- Poison the data of a sector held in a frame. -/
def poisonSector : Sector → Sector
  | .valid d _ => .valid d true
  | .modified d _ => .modified d true
  | .partSum p => .partSum { p with p := true }
  | .filling (some p) => .filling (some { p with p := true })
  | x => x

/-- The lookup's check bits showed an error. -/
def lookupErr (sl line : Nat) (secs : List Nat) (err : SliceErr) (s : State) : State :=
  let h := halfOf 128 sl
  match err with
  | .none => s
  | .dataSingle => event h 0x0301 1 none sl 0 121 s
  | .tagSingle => event h 0x0301 1 none sl 0 121 s
  | .dataDouble =>
    match lookup s sl line with
    | some (w, p, l) =>
      updLine sl line w p { l with
        secs := Quad.ofFn (fun i => if secs.contains i then poisonSector (l.secs.get i) else l.secs.get i) } s
    | none => s
  | .tagDouble set way =>
    let s := setFrame sl set.val way.val none { s with buf := { s.buf with
      others := s.buf.others.filter (fun o => decide (o.1 ≠ sl ∨ setOf o.2.1 ≠ set.val)) } }
    eventD h 0x0302 2 (wayOwner s (16 * h.num + way.val)) sl 0 121 (set.val * 16 + way.val) s
  | e => dirErr sl line e s

/-! ### Scratchpad (R26, R115, R116) -/

/-- The half, way and key of a scratchpad byte: key = 2^21 × slice + byte within the slice. -/
def scratchKey (a : Nat) : Nat := a - 0x400000000000
def scratchWay (a : Nat) : Nat := 16 * (halfOf 128 (scratchKey a / 2 ^ 21)).num + scratchKey a / 2 ^ 17 % 16

/-- The function whose scratch way backs a scratchpad byte, when it may be accessed (R115, R116). -/
def scratchFunc (s : State) (a : Nat) : Option Nat :=
  if region s a ≠ .scratch then none
  else
    let w := scratchWay a
    let v := rget s .wayMap w
    if natBit 6 v && natBit 7 v && !natBit 9 v && (s.buf.wayZero.find? w).isNone then partFunc s (natBits 5 0 v)
    else none

/-- An agent may access a scratchpad byte. -/
def mayScratch (s : State) (ag : Agent) (a : Nat) : Bool :=
  match ag with
  | .remote _ => false
  | ag =>
    match agentFunc s ag, scratchFunc s a with
    | some f, some g => decide (f = g)
    | _, _ => false

/-- A scratch byte; an assigned way was zeroed first (R116). -/
def scratchByte (s : State) (a : Nat) : Byte := NMap.getD s.buf.scratch (scratchKey a) 0

/-- The poison of the 32 B unit of a scratchpad byte. -/
def scratchPois (s : State) (a : Nat) : Bool := s.buf.scratchPoison.getD (scratchKey a / 32) false

/-- Write scratchpad bytes; a unit written whole takes the given poison, a part of a unit keeps what it had. -/
def scratchPut (a : Nat) (bs : List Byte) (p : Bool) (s : State) : State :=
  let mem := bs.zipIdx.foldl (fun m x => NMap.setD m (scratchKey a + x.2) 0 x.1) s.buf.scratch
  let k := scratchKey a
  let units := (List.range (bs.length / 32 + 2)).map (fun i => k / 32 + i)
  let pm := units.foldl (fun m u =>
    if k ≤ 32 * u ∧ 32 * u + 32 ≤ k + bs.length then NMap.setD m u false p
    else if k < 32 * u + 32 ∧ 32 * u < k + bs.length then NMap.setD m u false (NMap.getD m u false || p)
    else m) s.buf.scratchPoison
  { s with buf := { s.buf with scratch := mem, scratchPoison := pm } }

/-- The canonical form of the scratchpads. -/
def BufferSt.padWf (b : BufferSt) : Bool := NMap.wf (0 : Byte) b.scratch && NMap.wf false b.scratchPoison

/-- Read scratchpad bytes. -/
def scratchGet (s : State) (a n : Nat) : List Byte × Bool :=
  ((List.range n).map (fun i => scratchByte s (a + i)), (List.range n).any (fun i => scratchPois s (a + i)))

/-- Add into the named sectors of a scratchpad line, in place (R116, R133); a poisoned operand or sector gives poison. -/
def scratchAdd (a : Nat) (ro : RedOp) (l : LinePart) (s : State) : State :=
  forEach l (fun e s =>
    let b := a / 128 * 128 + 32 * e.1.val
    let old := scratchGet s b 32
    scratchPut b (bytesOf 32 (combine ro (ofBytes 256 old.1) e.2.1)) (old.2 || e.2.2) s) s

/-- The bytes of a sector that its mask names are stored in the scratchpad. -/
def scratchSector (a : Nat) (w : SecWr) (s : State) : State :=
  if w.mask = fullMask then scratchPut a (bytesOf 32 w.data) w.poison s
  else forEach (List.range 32) (fun i s =>
    if natBit i w.mask.toNat then scratchPut (a + i) [BitVec.ofNat 8 (w.data.toNat / 2 ^ (8 * i))] w.poison s else s) s

/-- The sectors of a scratchpad line as message data. -/
def scratchSecs (s : State) (a n : Nat) : LinePart :=
  (maskSecs n).map (fun i =>
    let r := scratchGet s (a / 128 * 128 + 32 * i.val) 32
    (i, BitVec.ofNat 256 (leNat r.1), r.2))

/-- What the check bits of a scratch way's data words showed (R121): corrected and recorded, or the units of 32 B poisoned. A
scratch way has no tag (R115). -/
def padErr (a len : Nat) (err : SliceErr) (s : State) : State :=
  match err with
  | .dataSingle => event (halfOf 128 (scratchKey a / 2 ^ 21)) 0x0301 1 none (scratchKey a / 2 ^ 21) 0 121 s
  | .dataDouble =>
    let k := scratchKey a / 32
    let units := (List.range ((scratchKey a + len - 1) / 32 + 1 - k)).map (fun i => k + i)
    { s with buf := { s.buf with scratchPoison := units.foldl (fun m u => NMap.setD m u false true) s.buf.scratchPoison } }
  | _ => s

/-- An agent's access to sectors of a scratchpad line (R26, R29, R115, R116), when its function owns the way. -/
def padAccess (ag : Agent) (a tag : Nat) (op : FarOp) (err : SliceErr) (s : State) : State :=
  let b := a / 128 * 128
  if !mayScratch s ag b then refuseAccess ag a tag s
  else
    let s := padErr b 128 err s
    match op with
    | .read m => forEach (scratchSecs s b m.val) (fun e s =>
        emit (.rdata ag tag (b + 32 * e.1.val) e.2.1 e.2.2) (when e.2.2 (countPoison ag ((agentFunc s ag).getD 0)) s)) s
    | .write l => emit (.done ag tag) (forEach l (fun e s => scratchSector (b + 32 * e.1.val) e.2 s) s)
    | .add ro l => emit (.done ag tag) (scratchAdd b ro l s)
    | .atomic _ _ _ _ => refuseAccess ag a tag s

/-! ### Accesses to memory lines -/

/-- The regulator that holds an access of this agent to this line: a later access to the line goes after it (R189, R191). -/
def heldAt (s : State) (ag : Agent) (sl line : Nat) : Option Nat :=
  (List.find? (fun e => e.2.held.any (fun r => reqOf ag r && decide (r.sl = sl) && decide (r.line = line))) s.reg).map Prod.fst

/-- An access to a slice of the other half crosses Zoram (R156): a request flit, and a flit for each sector pair, with the
request of a write or add and with the answer of a read; a write or add is answered by one flit. -/
def crossZoram (ag : Agent) (sl : Nat) (secs : List Nat) (reads : Bool) (s : State) : State :=
  let pairs := (secs.map (fun i => i / 2)).dedup.length
  if halfOf 128 sl = agentHalf ag then s
  else emit (.crossFlits (agentHalf ag) (if reads then 1 else 1 + pairs) (if reads then pairs else 1)) s

/-- One access of an agent to sectors of one line, through Continuity to the slice (R198). -/
def lineAccess (ag : Agent) (a tag : Nat) (ops : List (Nat × SecOp)) (err : SliceErr) (s : State) : State :=
  let la := a / 128 * 128
  match homeOf s la with
  | none => refuseAccess ag a tag s
  | some (sl, sla) =>
    let f := (agentFunc s ag).getD 0
    let line := sla / 128
    let s := lookupErr sl line (ops.map Prod.fst) err s
    let reads := ops.all (fun o => decide (o.2 = SecOp.read))
    let reg := governor s ag (if reads then 0 else 4) la
    let accs := ops.map (fun o => (⟨sl, line, o.1, o.2, ag, f, tag, s.clock, la + 32 * o.1, false, reg⟩ : SAcc))
    let r : HReq := mkReq none none (.own accs) sl line s.clock false
    let s := crossZoram ag sl (ops.map Prod.fst) reads s
    let hold (q : Nat) : State := modRegul q (fun x => { x with held := x.held ++ [r] }) s
    match heldAt s ag sl line, reg with
    | some q, _ => hold q
    | none, some q => if regulCapped s q then hold q else homeArrive r (forEach accs (fun _ => govIssue reg) s)
    | none, none => homeArrive r s

/-- SLICE_READ (R119). No access is performed before an acquire of its agent that is still out (R191). -/
def doSliceRead (ag : Agent) (addr : MemAddr) (mask : Fin 16) (tag : Nat) (err : SliceErr) (s : State) : State :=
  if acquirePending s ag then s else
  match targetOf s addr with
  | .refused a => refuseAccess ag a tag s
  | .remote ga => farAccess ag ga (.read mask) tag s
  | .dpa a =>
    if region s a = .scratch then padAccess ag a tag (.read mask) err s
    else if mayAccess s ag a then
      lineAccess ag a tag ((maskSecs mask.val).map (fun i => (i.val, SecOp.read))) err s
    else refuseAccess ag a tag s

/-- SLICE_WRITE (R119). -/
def doSliceWrite (ag : Agent) (addr : MemAddr) (secs : List (Fin 4 × SecWr)) (tag : Nat) (err : SliceErr) (s : State) :
    State :=
  if acquirePending s ag then s else
  match targetOf s addr with
  | .refused a => refuseAccess ag a tag s
  | .remote ga => farAccess ag ga (.write secs) tag s
  | .dpa a =>
    if region s a = .scratch then padAccess ag a tag (.write secs) err s
    else if mayAccess s ag a then lineAccess ag a tag (secs.map (fun x => (x.1.val, SecOp.write x.2))) err s
    else refuseAccess ag a tag s

/-- ADD_TO_LINE (R132, R184). -/
def doAddToLine (ag : Agent) (addr : MemAddr) (ro : RedOp) (secs : LinePart) (tag : Nat) (err : SliceErr) (s : State) :
    State :=
  if acquirePending s ag then s else
  match targetOf s addr with
  | .refused a => refuseAccess ag a tag s
  | .remote ga => farAccess ag ga (.add ro secs) tag s
  | .dpa a =>
    if region s a = .scratch then padAccess ag a tag (.add ro secs) err s
    else if !mayAccess s ag a then refuseAccess ag a tag s
    else if farCombines s ag a then farCombine ag a ro secs tag s
    else lineAccess ag a tag (secs.map (fun x => (x.1.val, SecOp.add ⟨ro, x.2.1, x.2.2⟩))) err s

/-- FILL_DATA (R119, R216): the n-th sector returned to a slice arrives. One with the reduce-pending bit first makes
the home collect the partials held outside. -/
def doFillData (sl n : Nat) (s : State) : State :=
  match takeRet sl n s with
  | none => s
  | some (r, s1) =>
    if r.reducePending && !r.failed then
      match txAt s sl r.line with
      | some _ => s
      | none =>
        if anyHolders sl r.line false s = [] then
          retryStalled sl (pendingClear sl r.line (countDir .rpCollects sl 31 false s))
        else startPending sl r.line none s
    else settleSlates (redriveSlice sl (retryStalled sl (fillArrive sl r s1)))

/-- EBUF_HANDOVER (R130): in order of age among the entries of one channel, as the channel queue takes them. -/
def doEbufHandover (sl n : Nat) (s : State) : State :=
  let es := ebufAt s sl
  match es[n]? with
  | none => s
  | some e =>
    if (es.take n).any (fun x => decide (chanOf sl x.line = chanOf sl e.line)) then s
    else
      match handOver sl n s with
      | some s => settleSlates (redriveSlice sl (retryStalled sl s))
      | none => s

/-! ### Engine accesses: one sector, whole, with what Continuity asks (R198) -/

/-- The line is ready for an access of the base's own of a kind: no transaction stands in its way and no copy outside
need be recalled first; otherwise the snoops are sent, and the access must be tried again. `hd`: the header of a multicast write
that the access applies, whose epoch counts (R225, R229). -/
def ownReady (ag : Agent) (hd : Option CohHdr) (n : Need) (sl line : Nat) (s : State) : Bool × State :=
  let kind : HKind := match n with
    | .read => .maint 1
    | .add c => .addNc ((redopOf c).getD ⟨.fp32, .add⟩) []
    | _ => .wrNc []
  let r : HReq := mkReq none (if hd.isNone then some (ag, 0) else none) kind sl line s.clock false
  let rs : HReq := { r with hd := hd }
  match txAt s sl line with
  | some t => (readPasses s r t, s)
  | none =>
    if (pointHolds s r).isSome then (false, s) else
    match slateGate rs s with
    | none => (false, slateWant ag r s)
    | some s =>
      match dirFind s sl line with
      | none =>
        if inRecovery s sl line && decide (anyHolders sl line true s ≠ []) then
          let hs := anyHolders sl line true s
          (false, snoopList true sl line 0x21 0 hs (putTx sl line (some (newTx (some { r with who := none }) .sweep hs false)) s))
        else (true, s)
      | some (_, e) =>
        let sn := snoopsFor s r n e
        if sn.2 = [] then (true, s)
        else
          let t := newTx (some { r with who := none }) .request sn.2 false
          let s := snoopAll sl line sn.1 e.redop sn.2 (putTx sl line (some t) s)
          if decide (n ≠ .read) && onlyRemote s sl line t then
            (true, putTx sl line (some { t with performed := true }) s)
          else (false, s)

/-- When the 5 ms of an access that came at `t` end (R162). -/
def holdDue (s : State) (k t : Nat) : Nat := max t (stackAt s k).fenceT + ms 5

/-- One UC-F record for each function that lost an access to the hold, once in a fence. -/
def holdRecords (k : Nat) (fs : List Nat) (s : State) : State :=
  forEach fs.dedup (fun f s =>
    let x := stackAt s k
    if x.holdFuncs.contains f then s
    else event (halfOf 8 k) 0x0504 2 (some f) k 0 162 (setStack k { x with holdFuncs := x.holdFuncs ++ [f] } s)) s

/-- A read of this engine failed at the hold of a fenced stack (R162). -/
def quietFailed (s : State) (ag : Agent) (l : Loc) : Bool := s.buf.quietFails.contains (ag, waitKey l.sl l.line l.sec)

/-- Read one sector of memory for an engine: none while it cannot be read; poisoned when its stack is gone or the read
failed at a hold. -/
def engRead (ag : Agent) (a : Nat) (s : State) : Option (Sec256 × Bool) × State :=
  match locOf s a with
  | none => (none, s)
  | some l =>
    if stackGone s (stackOfSlice l.sl) then (some (0, true), s)
    else if quietFailed s ag l then
      (some (0, true), { s with buf := { s.buf with
        quietFails := s.buf.quietFails.filter (fun q => q ≠ (ag, waitKey l.sl l.line l.sec)) } })
    else
      match ownReady ag none .read l.sl l.line s with
      | (false, s) => (none, s)
      | (true, s) =>
        match quietRead l.sl l.line l.sec ag ((agentFunc s ag).getD 0) s with
        | (some v, s) => (some v, s)
        | (none, s) =>
          if pendingRet s l.sl l.line && decide (anyHolders l.sl l.line false s = []) then
            let s := pendingClear l.sl l.line (countDir .rpCollects l.sl 31 false s)
            (some (sectorValue s l.sl l.line l.sec), s)
          else if pendingRet s l.sl l.line then (none, startPending l.sl l.line none s)
          else (none, s)

/-- An access of this engine to a sector is no longer waiting, nor failed. -/
def quietClear (ag : Agent) (k : Nat) (s : State) : State :=
  { s with buf := { s.buf with
      quietFails := s.buf.quietFails.filter (fun q => q ≠ (ag, k))
      quietWaits := s.buf.quietWaits.filter (fun q => !decide (q.1 = ag ∧ q.2.1 = k)) } }

/-- A multicast write with the old epoch reaches the preserved copy as well (R229). -/
def storeCopy (hd : Option CohHdr) (l : Loc) (op : SecOp) (s : State) : State :=
  let i : Fin 4 := Fin.ofNat 4 l.sec
  match hd, op with
  | some _, .write w => performCopy (mkReq hd none (.wrNc [(i, w)]) l.sl l.line s.clock false) s
  | some _, .add p => performCopy (mkReq hd none (.addNc p.ro [(i, p.d, p.p)]) l.sl l.line s.clock false) s
  | _, _ => s

/-- A write or add of an engine to one sector: false while it must be tried again. One that no stack takes any more, or that
failed at the hold, is over (R162, R177). While the slice cannot take it, the time since when it waits is kept. `hd`: as in
`ownReady`. -/
def engStore (ag : Agent) (hd : Option CohHdr) (a : Nat) (op : SecOp) (n : Need) (s : State) : Bool × State :=
  match locOf s a with
  | none => (true, s)
  | some l =>
    let k := waitKey l.sl l.line l.sec
    if stackGone s (stackOfSlice l.sl) || quietFailed s ag l then (true, quietClear ag k s)
    else
      match ownReady ag hd n l.sl l.line s with
      | (false, s) => (false, s)
      | (true, s) =>
        match quietTry l.sl l.line l.sec op ag ((agentFunc s ag).getD 0) s with
        | some s => (true, quietClear ag k (storeCopy hd l op s))
        | none =>
          if s.buf.quietWaits.any (fun q => decide (q.1 = ag ∧ q.2.1 = k)) then (false, s)
          else (false, { s with buf := { s.buf with quietWaits := s.buf.quietWaits ++ [(ag, k, s.clock)] } })

/-- Write one sector for an engine: false while it must be tried again. -/
def engWrite (ag : Agent) (a : Nat) (w : SecWr) (s : State) : Bool × State := engStore ag none a (.write w) .write s

/-- Add into one sector for an engine. -/
def engAdd (ag : Agent) (a : Nat) (p : PSum) (s : State) : Bool × State :=
  engStore ag none a (.add p) (.add (redopCode p.ro)) s

/-- A store that must wait asks for what it waits for and stores nothing; one that could be made leaves all as it is. -/
def askStore (ag : Agent) (hd : Option CohHdr) (a : Nat) (op : SecOp) (n : Need) (s : State) : State :=
  if (engStore ag hd a op n s).1 then s else (engStore ag hd a op n s).2

/-- Stores to sectors in order, up to one that must wait. -/
def engStoreGo (ag : Agent) (hd : Option CohHdr) : List (Nat × SecOp × Need) → State → Bool × State
  | [], s => (true, s)
  | e :: l, s =>
    match engStore ag hd e.1 e.2.1 e.2.2 s with
    | (false, s) => (false, s)
    | (true, s) => engStoreGo ag hd l s

/-- Stores to sectors, all or none: false while one of them must wait, which asks for what it waits for (log entry 82). -/
def engStoreAll (ag : Agent) (hd : Option CohHdr) (l : List (Nat × SecOp × Need)) (s : State) : Bool × State :=
  if (engStoreGo ag hd l s).1 then (true, (engStoreGo ag hd l s).2)
  else (false, forEach l (fun e => askStore ag hd e.1 e.2.1 e.2.2) s)

/-- Read bytes [a, a + n) for an engine, sector by sector: bytes and whether any was poisoned. -/
def engBytesGo (ag : Agent) (last : Nat) : Nat → Nat → List Byte → Bool → State → Option (List Byte × Bool) × State
  | 0, _, acc, p, s => (some (acc, p), s)
  | fuel + 1, a, acc, p, s =>
    if last < a then (some (acc, p), s)
    else
      match engRead ag (a / 32 * 32) s with
      | (none, s) => (none, s)
      | (some (d, q), s) =>
        let stop := min last (a / 32 * 32 + 31)
        let bs := ((bytesOf 32 d).drop (a % 32)).take (stop + 1 - a)
        engBytesGo ag last fuel (stop + 1) (acc ++ bs) (p || q) s

def engBytes (ag : Agent) (a n : Nat) (s : State) : Option (List Byte × Bool) × State :=
  if n = 0 then (some ([], false), s) else engBytesGo ag (a + n - 1) (n / 32 + 2) a [] false s

/-- The sector write that stores bytes at an offset of a sector. -/
def byteWrite (off : Nat) (bs : List Byte) (poison : Bool) : SecWr :=
  ⟨BitVec.ofNat 256 (leNat bs * 2 ^ (8 * off)), BitVec.ofNat 32 ((2 ^ bs.length - 1) * 2 ^ off), poison⟩

/-- Write bytes for an engine; false while some sector must be tried again (the whole write is then repeated). -/
def engPutGo (ag : Agent) : Nat → Nat → List Byte → Bool → State → Bool × State
  | 0, _, _, _, s => (true, s)
  | fuel + 1, a, bs, p, s =>
    match bs with
    | [] => (true, s)
    | bs =>
      let n := 32 - a % 32
      match engWrite ag (a / 32 * 32) (byteWrite (a % 32) (bs.take n) p) s with
      | (false, s) => (false, s)
      | (true, s) => engPutGo ag fuel (a + (bs.take n).length) (bs.drop n) p s

def engPut (ag : Agent) (a : Nat) (bs : List Byte) (p : Bool) (s : State) : Bool × State :=
  engPutGo ag (bs.length / 32 + 2) a bs p s

/-! ### SCRATCHPAD_ACCESS, FAR_CACHE_ACCESS -/

/-- SCRATCHPAD_ACCESS (R115): performed at its point of acceptance, or refused under R25. -/
def doScratchpad (ag : Agent) (addr : Nat) (acc : SpAccess) (tag : Nat) (err : SliceErr) (s : State) : State :=
  if acquirePending s ag then s else
  let len := match acc with
    | .read n => n.val
    | .write bs => bs.length
    | .add _ _ _ _ => 128 - addr % 128
  let ok := decide (0 < len) && mayScratch s ag addr && mayScratch s ag (addr + len - 1)
  if !ok then refuseAccess ag addr tag s
  else
    let s := padErr addr len err s
    match acc with
    | .read n =>
      let r := scratchGet s addr n.val
      emit (.spData ag tag r.1 r.2) (when r.2 (countPoison ag ((agentFunc s ag).getD 0)) s)
    | .write bs => emit (.done ag tag) (scratchPut addr bs false s)
    | .add ty op mask data =>
      let l : LinePart := (maskSecs mask.val).map (fun i =>
        (i, BitVec.ofNat 256 (natBits (256 * i.val + 255) (256 * i.val) data.toNat), false))
      emit (.done ag tag) (scratchAdd addr ⟨ty, op⟩ l s)

/-- How an access is ordered: atomics name it (R196). -/
def opOrder : FarOp → MOrd × Scope
  | .atomic _ _ sc od => (od, sc)
  | _ => (.rlx, .agent)

/-- FAR_CACHE_ACCESS (R184): an access of an agent to remote memory, or an add to a line of the other half. It changes nothing
while its order makes it wait (R191). -/
def doFarCacheAccess (ag : Agent) (ga : W64) (op : FarOp) (rtag : Nat) (err : SliceErr) (s : State) : State :=
  if orderWaits s ag (opOrder op).1 (opOrder op).2 then s else
  let h := if gaOwn s ga then agentHalf ag else farHalf s ga
  let s := farErr h ga err s
  if idOk s && gaOwn s ga then
    match op with
    | .read m => doSliceRead ag (.ga ga) m rtag .none s
    | .write l => doSliceWrite ag (.ga ga) l rtag .none s
    | .add ro l => doAddToLine ag (.ga ga) ro l rtag .none s
    | .atomic a off sc od =>
      if mayAccess s ag (gaDpa ga) then
        match homeOf s (gaDpa ga / 128 * 128) with
        | some p =>
          homeArrive { mkReq none (some (ag, rtag)) (.atomic a off.val) p.1 (p.2 / 128) s.clock (decide (sc = .group)) with
            acq := decide (od = .acq ∨ od = .acqRel) } s
        | none => refuseAccess ag ga.toNat rtag s
      else refuseAccess ag ga.toNat rtag s
  else farAccess ag ga op rtag s

end Sys2Proof.Machine
end

