-- ==== Sys2Proof/Machine/Buffer.lean ====
section
/-! DEFINITION. The shared buffer's commands (chapter "Shared buffer"): slice accesses, scratchpad, the segment and way
maps, and the maintenance ports (R111, R116, R141–R149, R152). -/

namespace Sys2Proof.Machine

open Sys2Proof

/-- A record of a class without a code of its own: code 0x··00 with the rule's label as its cause (R458). -/
def ruleEvent (h : Half) (cls rule index addr : Nat) (f : Option Nat) (s : State) : State :=
  event h (cls * 256) 0 f index addr rule s

/-! ### The segment map (R111) -/

/-- The first slot, the number of slots, the first slice and the number of slices that a map value uses. -/
def segSpan (s : State) (v : Nat) : Nat × Nat × Nat × Nat :=
  let n := natBits 10 0 v
  let mode := natBits 12 11 v
  if decide (s.part = .mb2) && decide (mode = 1) then (n, 1, 0, 256)
  else (n, 2, (if decide (s.part = .mb2) && natBit 13 v then 128 else 0), 128)

/-- Two spans share a slot of a slice. -/
def spansMeet (a b : Nat × Nat × Nat × Nat) : Bool :=
  decide (a.1 < b.1 + b.2.1) && decide (b.1 < a.1 + a.2.1) &&
  decide (a.2.2.1 < b.2.2.1 + b.2.2.2) && decide (b.2.2.1 < a.2.2.1 + a.2.2.2)

/-- A value of a segment's entry that R111 admits. -/
def segValueOk (s : State) (seg v : Nat) : Bool :=
  let mode := natBits 12 11 v
  if mode = 0 ∨ mode = 3 then true
  else
    let sp := segSpan s v
    !(sp.2.1 == 2 && sp.1 % 2 == 1) &&
    (listedSegs s).all (fun g => decide (g = seg) || decide (segMode s g = 0) ||
      !spansMeet sp (segSpan s (rget s .segMap g)))

/-- The effect of a write to a segment's entry. -/
def segMapAct (seg new : Nat) (s : State) : State :=
  if segValueOk s seg new then rput .segMap seg new s
  else ruleEvent .h0 3 111 seg (regAddr .segMap seg) none s

/-- SEG_MAP_WRITE (R111, R152, R488). -/
def doSegMapWrite (ag : Agent) (h : Half) (seg : Nat) (v : W32) (s : State) : State :=
  regStore ag h .segMap seg v.toNat (segMapAct seg) s

/-! ### The way map (R114–R116) -/

/-- A way left assigned to a partition of a function other than the one that it remembers is zeroed, and remembers the new
function (R116). -/
def noteWayFunc (n : Nat) (s : State) : State :=
  let v := rget s .wayMap n
  let f := rbits s .partCfg (natBits 5 0 v) 3 0
  if natBit 6 v && decide (s.buf.wayFunc.find? n ≠ some f) then
    { s with buf := { s.buf with wayFunc := s.buf.wayFunc.insert n f, wayZero := s.buf.wayZero.insert n s.clock } }
  else s

/-- The effect of a write to a way's entry. -/
def wayMapAct (n new : Nat) (s : State) : State := noteWayFunc n (rput .wayMap n new s)

/-- The effect of a write to a partition's entry: its ways may pass to another function. -/
def partCfgAct (p new : Nat) (s : State) : State :=
  forEach ((List.range (16 * numHalves s)).filter (fun n => decide (rbits s .wayMap n 5 0 = p))) noteWayFunc
    (rput .partCfg p new s)

/-- WAY_MAP_WRITE (R116, R152). -/
def doWayMapWrite (ag : Agent) (h : Half) (w : Nat) (v : W32) (s : State) : State :=
  regStore ag h .wayMap (16 * h.num + w) v.toNat (wayMapAct (16 * h.num + w)) s

/-- WAY_ZERO_DONE (R116): the way is zero in every slice of the half. -/
def doWayZeroDone (h : Half) (w : Nat) (s : State) : State :=
  let n := 16 * h.num + w
  match s.buf.wayZero.find? n with
  | none => s
  | some _ =>
    let inWay (k : Nat) : Bool := decide (k / 2 ^ 28 = h.num) && decide (k / 2 ^ 17 % 16 = w)
    { s with buf := { s.buf with
        wayZero := s.buf.wayZero.erase n
        scratch := s.buf.scratch.filter (fun e => !inWay e.1)
        scratchPoison := s.buf.scratchPoison.filter (fun e => !inWay (e.1 * 32)) } }

/-! ### Maintenance ports (R142, R143) -/

def portKey (h : Half) (f : Nat) : Nat := 16 * h.num + f
def maintAt (s : State) (h : Half) (f : Nat) : MaintPort := s.buf.maint.getD (portKey h f) MaintPort.init
def setMaint (h : Half) (f : Nat) (p : MaintPort) (s : State) : State :=
  { s with buf := { s.buf with maint := s.buf.maint.insert (portKey h f) p } }

/-- Fields of `MAINT_CTL`. -/
def opCode (o : MaintOp) : Nat := natBits 3 0 o.ctl
def opSkip (o : MaintOp) : Bool := natBit 4 o.ctl
def opWays (o : MaintOp) : Bool := natBit 5 o.ctl
def opCueEn (o : MaintOp) : Bool := natBit 6 o.ctl

/-- The operation that the committed set of a port submits, unchecked. -/
def opRaw (s : State) (n : Nat) : MaintOp :=
  { addr := rget s .maintAddrLo n + rbits s .maintAddrHi n 15 0 * 2 ^ 32
    len := rget s .maintLenLo n + rbits s .maintLenHi n 15 0 * 2 ^ 32
    ctl := rget s .maintCtl n, recAddr := rget s .maintRecLo n + rbits s .maintRecHi n 15 0 * 2 ^ 32
    cue := BitVec.ofNat 32 (rget s .maintCue n), started := false, pos := 0, result := 0, refused := false
    present := 0, affected := 0, written := 0, locked := 0, discarded := 0, failed := 0, unreached := false
    waitFor := [], noRec := false, blockedT := none }

/-- Every byte of an extent passes the check of R143 for a function; F0 is exempt from ownership. -/
def maintExtentOk (s : State) (f a n : Nat) : Bool :=
  if f = 0 then (checkPoints a n).all (inMapped s) else extentIn s f a n

/-- The record address is good (R143). -/
def maintRecOk (s : State) (f : Nat) (o : MaintOp) : Bool :=
  decide (o.recAddr % 32 = 0) && maintExtentOk s f o.recAddr 32

/-- The operation that the committed set of a port submits: whether a record can be written for it is settled now (R143). -/
def opFrom (s : State) (f n : Nat) : MaintOp := { opRaw s n with noRec := !maintRecOk s f (opRaw s n) }

/-- The ways of a way operation are cache ways of the function (of any partition for F0). -/
def maintWaysOk (s : State) (h : Half) (f : Nat) (o : MaintOp) : Bool :=
  (List.range 16).all (fun w => !natBit w o.addr ||
    (let v := wayReg s h w
     natBit 6 v && !natBit 7 v && (decide (f = 0) || decide (partFunc s (natBits 5 0 v) = some f))))

/-- The result of the checks of R143: 0 OK, 1 ADDRESS, 2 BAD_OP. -/
def maintCheck (s : State) (h : Half) (f : Nat) (o : MaintOp) : Nat :=
  let c := opCode o
  if c = 0 ∨ 6 < c ∨ (opWays o ∧ ¬(3 ≤ c ∧ c ≤ 5)) then 2
  else if !maintRecOk s f o then 1
  else if opWays o then (if maintWaysOk s h f o then 0 else 1)
  else if o.addr % 128 ≠ 0 ∨ o.len = 0 ∨ o.len % 128 ≠ 0 ∨ 64 * 2 ^ 30 < o.len then 1
  else if maintExtentOk s f o.addr o.len then 0 else 1

/-- The lines held in the ways of a way operation: slice and line. -/
def linesInWays (s : State) (h : Half) (mask : Nat) : List (Nat × Nat) :=
  s.buf.frames.flatMap (fun e =>
    let sl := e.1 / 16384
    let set := e.1 / 16 % 1024
    if decide (halfOf 128 sl = h) && natBit (e.1 % 16) mask then
      match e.2 with
      | .held l => [(sl, lineOf set l.tag)]
      | .packed a b => (sl, lineOf set a.tag) :: (match b with
        | some b => [(sl, lineOf set b.tag)]
        | none => [])
    else [])

/-- An operation starts. -/
def startOp (o : MaintOp) : MaintOp := { o with started := true }

/-- The lines that a frame holds, each with its place: 2 × frame key, and 1 more for the second of a packed pair. -/
def frameLines (e : Nat × Frame) : List (Nat × Nat × Nat) :=
  let sl := e.1 / 16384
  let set := e.1 / 16 % 1024
  match e.2 with
  | .held l => [(2 * e.1, sl, lineOf set l.tag)]
  | .packed a b => (2 * e.1, sl, lineOf set a.tag) :: (match b with
    | some b => [(2 * e.1 + 1, sl, lineOf set b.tag)]
    | none => [])

/-- The next line of an operation: slice, line, and where the operation then stands. A way operation goes through the frames
of its ways, slice by slice, and acts on the lines that it finds there (R141). None: no line is left. -/
def opNext (s : State) (h : Half) (o : MaintOp) : Option (Option (Nat × Nat) × Nat) :=
  if o.refused then none
  else if opWays o then
    (s.buf.frames.findSome? (fun e =>
      if decide (o.pos < 2 * e.1 + 2) && decide (halfOf 128 (e.1 / 16384) = h) && natBit (e.1 % 16) o.addr then
        (frameLines e).find? (fun l => decide (o.pos ≤ l.1))
      else none)).map (fun l => (some l.2, l.1 + 1))
  else if o.pos < o.len / 128 then
    some ((homeOf s (o.addr + 128 * o.pos)).map (fun p => (p.1, p.2 / 128)), o.pos + 1)
  else none

/-- The bytes of a completion record (R148). -/
def maintRecord (o : MaintOp) : List Byte :=
  let result := if o.result ≠ 0 then o.result else if o.failed ≠ 0 ∨ o.unreached then 4 else 0
  let w0 := natBits 31 16 o.ctl + opCode o * 2 ^ 16 + b2n (opWays o) * 2 ^ 20 + b2n (opSkip o) * 2 ^ 21 + result * 2 ^ 24
    + 2 ^ 31
  natLe 4 w0 ++ natLe 4 o.present ++ natLe 4 o.affected ++ natLe 4 o.written ++ natLe 4 o.locked ++
    natLe 4 o.discarded ++ natLe 4 o.failed ++ natLe 4 0

/-- Signal an operation's cue (R148). -/
def maintCueSignal (h : Half) (o : MaintOp) (s : State) : State :=
  if opCueEn o then signalField h o.cue 1 s else s

/-- Write a record as one 32 B store, then signal: false while the store must be tried again. An operation whose record
address was at fault when it was submitted only signals (R143). -/
def writeRecord (h : Half) (o : MaintOp) (s : State) : Bool × State :=
  if o.noRec then (true, maintCueSignal h o s)
  else
    match engWrite (.mp h) o.recAddr ⟨ofBytes 256 (maintRecord o), fullMask, false⟩ s with
    | (true, s) => (true, maintCueSignal h o s)
    | (false, s) => (false, s)

/-- Submit an operation that was checked (R142, R143): it starts, joins the queue, or is refused with QUEUE_FULL. -/
def queueOp (h : Half) (f : Nat) (o : MaintOp) (s : State) : State :=
  let p := { maintAt s h f with recFailed := o.noRec }
  let s := when o.noRec (event h 0x0300 0 (some f) (portKey h f) o.recAddr 143) s
  match p.run with
  | none => setMaint h f { p with run := some (startOp o) } s
  | some _ =>
    if p.queue.length < 8 then setMaint h f { p with queue := p.queue ++ [o] } s
    else
      let full := { o with result := 3, refused := true }
      match writeRecord h full s with
      | (true, s) => setMaint h f p s
      | (false, s) => setMaint h f { p with late := p.late ++ [full] } s

/-- Submit the committed set of a port (R142, R143). -/
def submitOp (h : Half) (f : Nat) (s : State) : State :=
  let o := opFrom s f (portKey h f)
  let code := maintCheck s h f o
  queueOp h f { o with result := code, refused := decide (code ≠ 0) } s

/-- The effect of a 1 written to `MAINT_COMMIT`: nothing without pending values (R17). -/
def maintCommitAct (h : Half) (f : Nat) (hf : f < 16) (new : Nat) (s : State) : State :=
  let g := GroupRef.maint ⟨f, hf⟩
  if natBit 0 new && groupPending s h g then submitOp h f (groupApply h g s) else s

/-- MAINT_COMMIT (R142). -/
def doMaintCommit (ag : Agent) (h : Half) (f : Fin 16) (s : State) : State :=
  regStore ag h .maintCommit (portKey h f.val) 1 (maintCommitAct h f.val f.isLt) s

/-! ### An operation on one line (R119, R136, R137, R144–R147) -/

/-- A line is held in a locked way. -/
def lineLocked (s : State) (sl w : Nat) : Bool := wayLocked s (halfOf 128 sl) w

/-- Write back the dirty sectors of a held line; V keeps, M becomes V, P becomes I. None: no entry free. -/
def flushLine (sl line w : Nat) (p : Place) (l : LineSt) (s : State) : Option (Nat × State) :=
  let slots := l.secs.map (evictSlot false)
  let n := (slots.toList.filter slotUsed).length
  let secs := l.secs.map (fun x => match x with
    | .modified d p => .valid d p
    | .partSum _ => .inv
    | x => x)
  if n = 0 then some (0, s)
  else (newEntry sl line slots s).map (fun s => (n, updLine sl line w p { l with secs := secs } s))

/-- The dirty sectors of a line. -/
def dirtyCount (l : LineSt) : Nat :=
  (l.secs.toList.filter (fun x => match x with
    | .modified _ _ => true
    | .partSum _ => true
    | _ => false)).length

/-- Discard the WRITE and REDUCE slots of a line's entry (R136, R146): the number discarded. -/
def discardEntry (sl line : Nat) (s : State) : Nat × State :=
  match (ebufAt s sl).find? (fun e => decide (e.line = line)) with
  | none => (0, s)
  | some e =>
    let n := (e.slots.toList.filter (fun x => match x with
      | .write _ _ _ => true
      | .reduce _ => true
      | _ => false)).length
    let slots := e.slots.map (fun x => match x with
      | .deadmark => Slot.deadmark
      | _ => Slot.none)
    let es := if slots.toList.any slotUsed then
        (ebufAt s sl).map (fun x => if x.line = line then { x with slots := slots } else x)
      else (ebufAt s sl).filter (fun x => decide (x.line ≠ line))
    (n, setEbuf sl es s)

/-- The `DEAD_REREAD` setting that governs a line's slice (R137). -/
def deadSetting (s : State) (sl line : Nat) : Nat :=
  match dpaFunc s (lineDpa s sl line) with
  | some f => rbits s .funcBuf (16 * (halfOf 128 sl).num + f) 1 0
  | none => 0

/-- A fill of the line is outstanding (R144). -/
def lineBusy (s : State) (sl line : Nat) : Bool :=
  match lookup s sl line with
  | some (_, _, l) => lineFilling l
  | none => false

/-- Bring outstanding fills of a line to their end. -/
def settleLine (sl line : Nat) (s : State) : State :=
  forEach [0, 1, 2, 3] (fun i s => settle sl line i settleFuel s) s

/-- Note the entry of a line that the operation must see accepted (R146), once. -/
def noteEntry (sl line : Nat) (o : MaintOp) (s : State) : MaintOp :=
  match (ebufAt s sl).find? (fun e => decide (e.line = line)) with
  | some e =>
    let other := o.waitFor.filter (fun w => !decide (w.sl = sl ∧ w.line = line))
    { o with waitFor := other ++ [⟨sl, line, s.clock, slotCount e⟩] }
  | none => o

/-- Fetch the sectors of a line in I (codes 1 and 2): none while one would have to wait at the slice. -/
def prefetchLine (sl line : Nat) (lock : Bool) (s : State) : Option State :=
  [0, 1, 2, 3].foldl (fun o i => o.bind (quietTry sl line i (.prefetch lock) (.mp (halfOf 128 sl)) 0)) (some s)

/-- One line of an operation at its point of acceptance: none when it must be tried again. Its lookup counts as a hit where it
finds the line held (R152). -/
def opLine (sl line : Nat) (o : MaintOp) (s : State) : Option (MaintOp × State) :=
  let c := opCode o
  let s := settleLine sl line s
  if lineBusy s sl line && decide (3 ≤ c) then none
  else
    let held := lookup s sl line
    let s := when (held.isSome && decide (3 ≤ c)) (bumpWrap .hits sl 31 0 1) s
    let locked := match held with
      | some (w, _, _) => lineLocked s sl w
      | none => false
    let o := { o with
      present := o.present + b2n held.isSome, locked := o.locked + b2n (locked && decide (3 ≤ c)) }
    if c ≤ 2 then
      let part := segPart s (lineDpa s sl line / 2 ^ 30)
      let o := noteEntry sl line o s
      if held.isNone && !hasCacheWay s (halfOf 128 sl) part then some (o, s)
      else
        (prefetchLine sl line (decide (c = 2)) s).map (fun s1 =>
          let changed := decide ((lookup s sl line).map (fun x => x.2.2) ≠ (lookup s1 sl line).map (fun x => x.2.2))
          ({ o with affected := o.affected + b2n changed }, s1))
    else if locked && opSkip o then some (o, s)
    else if c = 3 ∨ c = 5 then
      let o := noteEntry sl line o s
      match held with
      | none => some (o, s)
      | some (w, p, l) =>
        match flushLine sl line w p l s with
        | none => none
        | some (n, s1) =>
          let o := if n = 0 then o else noteEntry sl line o s1
          let s2 := if c = 5 then updLine sl line w p { l with secs := Quad.all .inv } s1 else s1
          some ({ o with written := o.written + n, affected := o.affected + b2n (decide (c = 5) || decide (n ≠ 0)) }, s2)
    else
      let d := if opWays o then (0, s) else discardEntry sl line s
      let s1 := d.2
      let dirty := match held with
        | some (_, _, l) => dirtyCount l
        | none => 0
      let s1 := match lookup s1 sl line with
        | some (w, p, l) => updLine sl line w p { l with secs := Quad.all .inv } s1
        | none => s1
      let o1 := { o with
        discarded := o.discarded + dirty + d.1, affected := o.affected + b2n (held.isSome || decide (d.1 ≠ 0)) }
      if c = 6 && decide (deadSetting s sl line ≠ 0) then
        match newEntry sl line (Quad.all .deadmark) s1 with
        | some s2 => some ({ noteEntry sl line o1 s2 with written := o1.written + 4 }, s2)
        | none => none
      else some (noteEntry sl line o1 s1, s1)

/-- Continuity brings the line's outside copies where the operation needs them (R145): false while it waits. -/
def opCoherent (sl line c : Nat) (s : State) : Bool × State :=
  match txAt s sl line with
  | some _ => (false, s)
  | none =>
    let r := mkReq none none (.maint c) sl line s.clock false
    if (pointHolds s r).isSome then (false, s)
    else
      let s := homeArrive r s
      ((txAt s sl line).isNone && (slateGate r s).isSome, s)

/-- Act on up to `n` lines of the running operation of a port, in order of address. -/
def opRun (h : Half) (f code : Nat) : Nat → State → State
  | 0, s => s
  | n + 1, s =>
    let p := maintAt s h f
    match p.run with
    | none => s
    | some o =>
      if opCode o ≠ code then s
      else
        match opNext s h o with
        | none => s
        | some (line, pos) =>
          let next (o : MaintOp) (s : State) : State :=
            opRun h f code n (setMaint h f { maintAt s h f with run := some { o with pos := pos, blockedT := none } } s)
          match line with
          | none => next o s
          | some (sl, line) =>
            if decide (halfOf 128 sl = .h1) && farGone s then next { o with unreached := true } s
            else
              match opCoherent sl line code s with
              | (false, s) => s
              | (true, s) =>
                match opLine sl line o s with
                | none => setMaint h f { maintAt s h f with run := some { o with
                    blockedT := some (o.blockedT.getD s.clock) } } s
                | some (o, s) => next o s

/-- The entries that the running operation still waits for. -/
def opPending (s : State) (o : MaintOp) : List WaitEntry :=
  o.waitFor.filter (fun w => (ebufAt s w.sl).any (fun e => decide (e.line = w.line) && decide (e.t ≤ w.t)))

/-- Start the next operation of a port's queue. -/
def nextOp (h : Half) (f : Nat) (s : State) : State :=
  let p := maintAt s h f
  match p.queue with
  | [] => setMaint h f { p with run := none } s
  | o :: os => setMaint h f { p with run := some (startOp o), queue := os } s

/-- Write the record of the oldest operation that found the queue full (R142). -/
def lateRecord (h : Half) (f : Nat) (s : State) : State :=
  match (maintAt s h f).late with
  | [] => s
  | o :: _ =>
    match writeRecord h o s with
    | (true, s) => setMaint h f { maintAt s h f with late := (maintAt s h f).late.drop 1 } s
    | (false, s) => s

/-- MAINT_RECORD (R148): the running operation is done; its record is written, its cue signalled, and the next operation
of the port starts. A record of an operation that found the queue full comes before. -/
def doMaintRecord (h : Half) (f : Nat) (s : State) : State :=
  if (maintAt s h f).late ≠ [] then lateRecord h f s
  else
    match (maintAt s h f).run with
    | none => s
    | some o =>
      if (opNext s h o).isNone ∧ opPending s o = [] then
        match writeRecord h o s with
        | (true, s) => nextOp h f s
        | (false, s) => s
      else s

/-- When an operation gives up an entry, or a line for which there is none, on a fenced stack (R149). -/
def maintDue (s : State) (sl t : Nat) : Nat := max t (stackAt s (stackOfSlice sl)).fenceT + ms 5

/-- The stack of a slice is fenced. -/
def sliceFenced (s : State) (sl : Nat) : Bool := decide ((stackAt s (stackOfSlice sl)).fence ≠ 0)

/-- The line at which the running operation waits for an entry on a fenced stack: slice, line, since when. -/
def opBlocked (s : State) (h : Half) (o : MaintOp) : Option (Nat × Nat × Nat) :=
  match o.blockedT, opNext s h o with
  | some t, some (some (sl, line), _) => if sliceFenced s sl then some (sl, line, t) else none
  | _, _ => none

/-- The sectors of a line that a write-back would have issued. -/
def lineDirty (s : State) (sl line : Nat) : Nat :=
  match lookup s sl line with
  | some (_, _, l) => dirtyCount l
  | none => 0

/-- MAINT_FAIL_TIMEOUT (R149): entries not accepted 5 ms after the operation met them, or after the fence of their stack
if that is later, are counted as failed and waited for no longer; so are the sectors of a line that found no entry in that
time, which stay M or P. -/
def doMaintFailTimeout (h : Half) (f : Nat) (s : State) : State :=
  let p := maintAt s h f
  match p.run with
  | none => s
  | some o =>
    let late := (opPending s o).filter (fun w => sliceFenced s w.sl)
    let stuck := opBlocked s h o
    let dues := late.map (fun w => maintDue s w.sl w.t) ++ (stuck.map (fun b => maintDue s b.1 b.2.2)).toList
    match dues with
    | [] => s
    | d :: ds =>
      let s := atTime (ds.foldl min d) s
      let gone := late.filter (fun w => decide (maintDue s w.sl w.t ≤ s.clock))
      let slots (w : WaitEntry) : Nat :=
        match (ebufAt s w.sl).find? (fun e => decide (e.line = w.line)) with
        | some e => slotCount e
        | none => 0
      let o := { o with
        failed := o.failed + (gone.map slots).sum, waitFor := o.waitFor.filter (fun w => !gone.contains w) }
      let o := match stuck, opNext s h o with
        | some (sl, line, t), some (_, pos) =>
          if maintDue s sl t ≤ s.clock then
            { o with failed := o.failed + lineDirty s sl line, pos := pos, blockedT := none
                     present := o.present + b2n (lookup s sl line).isSome }
          else o
        | _, _ => o
      setMaint h f { p with run := some o } s

/-- A Cut abandons the operations of a function's ports: no record, no cue (R149, R151). -/
def abandonMaint (f : Nat) (s : State) : State :=
  setMaint .h1 f MaintPort.init (setMaint .h0 f MaintPort.init s)

/-! ### The commands -/

/-- SLICE_READ (R119). -/
def execSliceRead (ag : Agent) (addr : MemAddr) (mask : Fin 16) (tag : Nat) (err : SliceErr) (s : State) : Outcome :=
  onAgent s ag (.next (doSliceRead ag addr mask tag err s))

/-- SLICE_WRITE (R119). -/
def execSliceWrite (ag : Agent) (addr : MemAddr) (secs : List (Fin 4 × SecWr)) (tag : Nat) (err : SliceErr)
    (s : State) : Outcome :=
  onAgent s ag (.next (doSliceWrite ag addr secs tag err s))

/-- ADD_TO_LINE (R132). -/
def execAddToLine (ag : Agent) (addr : MemAddr) (ro : RedOp) (secs : LinePart) (tag : Nat) (err : SliceErr)
    (s : State) : Outcome :=
  onAgent s ag (.next (doAddToLine ag addr ro secs tag err s))

/-- FILL_DATA (R119). -/
def execFillData (sl : Fin 256) (n : Nat) (s : State) : Outcome := onHalf s (halfOf 128 sl) (.next (doFillData sl n s))

/-- EBUF_HANDOVER (R130). -/
def execEbufHandover (sl : Fin 256) (n : Nat) (s : State) : Outcome :=
  onHalf s (halfOf 128 sl) (.next (doEbufHandover sl n s))

/-- SCRATCHPAD_ACCESS (R115). -/
def execScratchpadAccess (ag : Agent) (addr : BitVec 48) (acc : SpOp) (tag : Nat) (s : State) : Outcome :=
  onAgent s ag (.next (doScratchpad ag addr.toNat acc.acc tag acc.err s))

/-- SEG_MAP_WRITE (R111). -/
def execSegMapWrite (ag : Agent) (h : Half) (seg : Fin 2048) (v : BitVec 32) (s : State) : Outcome :=
  onAgent s ag (.next (doSegMapWrite ag h seg v s))

/-- WAY_MAP_WRITE (R116). -/
def execWayMapWrite (ag : Agent) (h : Half) (w : Fin 16) (v : BitVec 32) (s : State) : Outcome :=
  onAgent s ag (.next (doWayMapWrite ag h w v s))

/-- WAY_ZERO_DONE (R116). -/
def execWayZeroDone (h : Half) (w : Fin 16) (s : State) : Outcome := onHalf s h (.next (doWayZeroDone h w s))

/-- MAINT_COMMIT (R142). -/
def execMaintCommit (ag : Agent) (h : Half) (f : Fin 16) (s : State) : Outcome :=
  onAgent s ag (.next (doMaintCommit ag h f s))

/-- PREFETCH (R141). -/
def execPrefetch (h : Half) (f : Fin 16) (count : Nat) (s : State) : Outcome := onHalf s h (.next (opRun h f 1 count s))

/-- PREFETCH_LOCK (R140). -/
def execPrefetchLock (h : Half) (f : Fin 16) (count : Nat) (s : State) : Outcome :=
  onHalf s h (.next (opRun h f 2 count s))

/-- FLUSH (R145). -/
def execFlush (h : Half) (f : Fin 16) (count : Nat) (s : State) : Outcome := onHalf s h (.next (opRun h f 3 count s))

/-- INVALIDATE (R144). -/
def execInvalidate (h : Half) (f : Fin 16) (count : Nat) (s : State) : Outcome := onHalf s h (.next (opRun h f 4 count s))

/-- FLUSH_INV (R145). -/
def execFlushInv (h : Half) (f : Fin 16) (count : Nat) (s : State) : Outcome := onHalf s h (.next (opRun h f 5 count s))

/-- MARK_DEAD (R136). -/
def execMarkDead (h : Half) (f : Fin 16) (count : Nat) (s : State) : Outcome := onHalf s h (.next (opRun h f 6 count s))

/-- MAINT_RECORD (R148). -/
def execMaintRecord (h : Half) (f : Fin 16) (s : State) : Outcome := onHalf s h (.next (doMaintRecord h f s))

/-- MAINT_FAIL_TIMEOUT (R149). -/
def execMaintFailTimeout (h : Half) (f : Fin 16) (s : State) : Outcome := onHalf s h (.next (doMaintFailTimeout h f s))

end Sys2Proof.Machine
end

