-- ==== Sys2Proof/Machine/Cells.lean ====
section
/-! DEFINITION. Cells (R37–R71, R77–R80): local store, switch, MAC block and vector unit, each acting for the running
context of the cell's array. -/

namespace Sys2Proof.Machine

open Sys2Proof

/-! ### Cells and the contexts that run on them -/

def physKeyOf (h : Half) (p : Nat) : Nat := 72 * h.num + p
def cellKey (h : Half) (p c : Nat) : Nat := 256 * physKeyOf h p + c
def cellSt (s : State) (k : Nat) : CellSt := s.fab.cells.getD k CellSt.init
def setCell (k : Nat) (x : CellSt) (s : State) : State :=
  { s with fab := { s.fab with cells := s.fab.cells.insert k x } }
def modCell (k : Nat) (f : CellSt → CellSt) (s : State) : State := setCell k (f (cellSt s k)) s
def physAt (s : State) (k : Nat) : PArr := s.fab.phys.getD k PArr.init
def setPhys (k : Nat) (x : PArr) (s : State) : State :=
  { s with fab := { s.fab with phys := s.fab.phys.insert k x } }

/-- The context of a logical array that is RUNNING or WAITING (R73). -/
def activeCtx (s : State) (h : Half) (i : Nat) : Option Nat :=
  ([0, 1, 2, 3] : List Nat).find? (fun k => ctxActive (ctxAt s h i k))

/-- The logical array and context that run on a physical array. -/
def runningOn (s : State) (h : Half) (p : Nat) : Option (Nat × Nat) :=
  match servedBy s (physKeyOf h p) with
  | some n => if (larr s h (n % 64)).phys = some p then (activeCtx s h (n % 64)).map (fun k => (n % 64, k)) else none
  | none => none

/-- The record of a cell in a context's image. -/
def cellRec (x : Ctx) (c : Nat) : Option CellRec := x.img.bind (fun m => m.cells.find? (fun r => decide (r.cell = c)))

/-- The cell is in a phase of its context (R88). -/
def inPhase (x : Ctx) (c : Nat) : Bool := x.running.any (fun r => decide (r.1 = c))

/-- Fields of a phase table entry (R88). -/
def phStart (w : Nat) : Nat := natBits 9 0 w
def phLen (w : Nat) : Nat := natBits 19 10 w
def phBank (w : Nat) : Bool := natBit 20 w
def phRepeat (w : Nat) : Nat := natBits 30 21 w

/-- The program words of a cell. -/
def cellProg (m : Image) (c : Nat) : List W64 :=
  ((m.progs.find? (fun q : Nat × List W64 => decide (q.1 = c))).map Prod.snd).getD []

/-- The phase table entry p of a cell's program. -/
def phaseEntry (m : Image) (c p : Nat) : Nat := ((cellProg m c).getD p 0).toNat

/-- The instruction word that a cell runs next in its phase: the body's words in order, `REPEAT` + 1 times (R88); none outside a
phase or past its end (log entry 83). -/
def nextWord (x : Ctx) (c : Nat) : Option W64 :=
  match x.img, x.running.find? (fun r => decide (r.1 = c)), cellRec x c with
  | some m, some (_, p), some r =>
    let e := phaseEntry m c p
    let n := x.words.getD c 0
    if n < phLen e * (phRepeat e + 1) then (cellProg m c)[r.phases + phStart e + n % phLen e]? else none
  | _, _, _ => none

/-- The opcode of an instruction word, and the opcodes that the manual names (R88): MAC issue and accumulator read-out. -/
def wordOp (w : W64) : Nat := natBits 63 56 w.toNat
def opMac : Nat := 0x40
def opRead : Nat := 0x41

/-- The cell ran an instruction word. -/
def wordDone (h : Half) (i k c : Nat) (s : State) : State :=
  let x := ctxAt s h i k
  setCtx h i k { x with words := x.words.insert c (x.words.getD c 0 + 1) } s

/-- The MAC format of a code (R85). -/
def macFmt : Nat → MacFmt
  | 1 => .mxfp4
  | 2 => .mxe3m2
  | 3 => .mxe2m3
  | 4 => .mxe4m3
  | 5 => .mxe5m2
  | 6 => .e4m3
  | 7 => .e5m2
  | 8 => .mxint8
  | 9 => .int4
  | 10 => .int8
  | 11 => .bf16
  | 12 => .fp16
  | _ => .none

/-! ### Flags and errors (R62, R68, R71, R78) -/

/-- Set sticky flags of a cell; `FLAG_EVENT` records the first of a run (R80). -/
def setFlags (h : Half) (p c i k : Nat) (f : Flags) (s : State) : State :=
  let key := cellKey h p c
  let x := cellSt s key
  let first := (f.nv && !x.nv) || (f.of && !x.of) || (f.iw && !x.iw)
  let s := setCell key { x with nv := x.nv || f.nv, of := x.of || f.of, iw := x.iw || f.iw } s
  let t := ctxAt s h i k
  if first && !t.flagged && rbit s .arithMode (ctxKey h i k) 2 then
    event h 0x0200 0 (arrayFunc s h i) (physKeyOf h p) c 80 (setCtx h i k { t with flagged := true } s)
  else s

/-- A fault of an error class found in a cell while context k runs: the context becomes FAULTED with the reason; once it has
stopped running, the error is still recorded for the function (R68, R71, R76). -/
def cellFault (h : Half) (i k reason detail : Nat) (s : State) : State :=
  if ctxActive (ctxAt s h i k) then faultCtx h i k reason detail s
  else eventD h 0x0201 2 (arrayFunc s h i) i 0 reason detail s

/-- A double-bit error of the local store sets `LS_UE` and faults the running context (R68, R76). -/
def lsUe (h : Half) (p c i k : Nat) (s : State) : State :=
  cellFault h i k 2 (p * 256 + c) (modCell (cellKey h p c) (fun x => { x with lsUe := true }) s)

/-- A corrected local store word: counted as CE, its word written back later (R68). -/
def lsCe (h : Half) (p c i w : Nat) (s : State) : State :=
  let s := modCell (cellKey h p c) (fun x => { x with
    lsCe := true, ceCount := satAdd 0xFFFF x.ceCount 1
    fixes := if x.fixes.contains w then x.fixes else x.fixes ++ [w] }) s
  event h 0x0205 1 (arrayFunc s h i) (physKeyOf h p) (c * 4096 + w) 68 s

/-- The errors that reads of local store words showed (R68): a single-bit error is corrected; a double-bit error sets
`LS_UE`. -/
def noteLsErrs (h : Half) (p c i k : Nat) (errs : List LsErr) (s : State) : State :=
  forEach errs (fun e s =>
    match e.kind with
    | .single => lsCe h p c i e.word.val s
    | .double => lsUe h p c i k s) s

/-- The same for a read that no context makes (R68, R248). -/
def noteEngLsErrs (h : Half) (p c i : Nat) (errs : List LsErr) (s : State) : State :=
  forEach errs (fun e s =>
    match e.kind with
    | .single => lsCe h p c i e.word.val s
    | .double => eventD h 0x0201 2 (arrayFunc s h i) i 0 2 (p * 256 + c)
        (modCell (cellKey h p c) (fun x => { x with lsUe := true }) s)) s

/-- A word of the errors was uncorrectable. -/
def anyDouble (errs : List LsErr) : Bool := errs.any (fun e => decide (e.kind = .double))
def wordDouble (errs : List LsErr) (w : Nat) : Bool := errs.any (fun e => decide (e.kind = .double) && decide (e.word.val = w))

/-- A residue check of the cell failed in a run of context k (R78, step 1): every later result of the run is poisoned. -/
def residueFail (key i k : Nat) (s : State) : State :=
  modCell key (fun x => { x with failed := some (x.failed.getD (i, k)) }) s

/-- The results of a cell carry poison: a residue check failed and the fault is still to come (R78). -/
def CellSt.bad (x : CellSt) : Bool := x.failed.isSome

/-! ### Local store (R64, R68) -/

/-- A word of a cell's local store. -/
def lsGet (x : CellSt) (w : Nat) : LsWord := x.ls.getD (w % 4096) ⟨0, false⟩
def lsPut (w : Nat) (v : LsWord) (x : CellSt) : CellSt := { x with ls := x.ls.setD (w % 4096) ⟨0, false⟩ v }

/-- A 64 B row of the local store: 16 words; poison of any. -/
def lsRow (x : CellSt) (row : Nat) : SwWord :=
  let ws := (List.range 16).map (fun j => lsGet x (16 * row + j))
  ⟨ws.zipIdx.foldl (fun a p => a + BitVec.ofNat 512 (p.1.v.toNat * 2 ^ (32 * p.2))) 0, ws.any (fun w => w.p)⟩

/-- Write a 64 B row. -/
def lsPutRow (row : Nat) (v : SwWord) (x : CellSt) : CellSt :=
  (List.range 16).foldl (fun x j =>
    lsPut (16 * row + j) ⟨BitVec.ofNat 32 (natBits (32 * j + 31) (32 * j) v.v.toNat), v.p⟩ x) x

/-- LS_WRITEBACK (R68): the corrected word is written back. -/
def doLsWriteback (h : Half) (p c w : Nat) (s : State) : State :=
  modCell (cellKey h p c) (fun x => { x with fixes := x.fixes.filter (fun v => v ≠ w) }) s

/-! ### Switch buffers (R69, R70) -/

def bufOf (x : CellSt) : Dir → List SwWord
  | .n => x.bufN
  | .e => x.bufE
  | .s => x.bufS
  | .w => x.bufW
def setBuf (d : Dir) (l : List SwWord) (x : CellSt) : CellSt :=
  match d with
  | .n => { x with bufN := l }
  | .e => { x with bufE := l }
  | .s => { x with bufS := l }
  | .w => { x with bufW := l }
def takOf (x : CellSt) : Dir → HeadTaken
  | .n => x.takN
  | .e => x.takE
  | .s => x.takS
  | .w => x.takW
def setTak (d : Dir) (t : HeadTaken) (x : CellSt) : CellSt :=
  match d with
  | .n => { x with takN := t }
  | .e => { x with takE := t }
  | .s => { x with takS := t }
  | .w => { x with takW := t }

def dirNum : Dir → Nat
  | .n => 0
  | .e => 1
  | .s => 2
  | .w => 3
def allDirs : List Dir := [.n, .e, .s, .w]
def opposite : Dir → Dir
  | .n => .s
  | .s => .n
  | .e => .w
  | .w => .e

/-- The source code of an output port, of MAC A (4) and of MAC B (5) in a route word (R86). -/
def routeSrc (route j : Nat) : Nat :=
  if j < 4 then natBits (4 * j + 3) (4 * j) route else if j = 4 then natBits 23 20 route else natBits 27 24 route

/-- The code that names an input port. -/
def portCode (d : Dir) : Nat := dirNum d + 1

/-- Every destination of an input's head word has taken it: outputs, local store, MAC block; a word with no configured
destination is taken by the vector unit alone. -/
def allTaken (route : Nat) (d : Dir) (t : HeadTaken) : Bool :=
  let outs := allDirs.filter (fun o => decide (routeSrc route (dirNum o) = portCode d))
  let ls := natBit (16 + dirNum d) route
  let macA := decide (routeSrc route 4 = portCode d)
  let macB := decide (routeSrc route 5 = portCode d)
  let none_ := decide (outs = []) && !ls && !macA && !macB
  outs.all (fun o => t.out.contains o) && (!ls || t.ls) && (!macA || t.macA) && (!macB || t.macB) && (!none_ || t.vec)

/-- Mark the head word of an input as taken; it is released once every destination has it (R70). -/
def takeHead (route : Nat) (d : Dir) (f : HeadTaken → HeadTaken) (x : CellSt) : CellSt :=
  let t := f (takOf x d)
  if allTaken route d t then setBuf d ((bufOf x d).drop 1) (setTak d HeadTaken.init x) else setTak d t x

/-- Put a word in an input buffer. -/
def pushWord (d : Dir) (w : SwWord) (x : CellSt) : CellSt := setBuf d (bufOf x d ++ [w]) x

/-- An input buffer has space: four words (R69). -/
def hasSpace (x : CellSt) (d : Dir) : Bool := decide ((bufOf x d).length < 4)

/-- The neighbour of a cell on a side, within the array. -/
def neighbour (c : Nat) : Dir → Option Nat
  | .n => if c / 16 = 0 then none else some (c - 16)
  | .s => if c / 16 = 15 then none else some (c + 16)
  | .w => if c % 16 = 0 then none else some (c - 1)
  | .e => if c % 16 = 15 then none else some (c + 1)

/-- The word that an output port would send now: its source has one, which this port has not taken yet. -/
def outWord (x : CellSt) (route : Nat) (o : Dir) (row : Nat) : Option SwWord :=
  let src := routeSrc route (dirNum o)
  let fromIn (d : Dir) : Option SwWord :=
    if (takOf x d).out.contains o then none else (bufOf x d).head?
  match src with
  | 1 => fromIn .n
  | 2 => fromIn .e
  | 3 => fromIn .s
  | 4 => fromIn .w
  | 5 => some (lsRow x row)
  | 6 => if x.takFA.contains o then none else x.fwdA.head?
  | 7 => if x.takFB.contains o then none else x.fwdB.head?
  | 8 => (x.vecOut.find? (fun q : Dir × SwWord => decide (q.1 = o))).map Prod.snd
  | _ => none

/-- The outputs of a route that take their words from a source. -/
def outsOf (route code : Nat) : List Dir := allDirs.filter (fun o => decide (routeSrc route (dirNum o) = code))

/-- The output's source gives the word up. A forwarded operand word goes to every output that names the forwarding and is
released once all have it, as an input word is (R70; DEDUCED, log entry 30). -/
def outTaken (route : Nat) (o : Dir) (x : CellSt) : CellSt :=
  let mark (t : HeadTaken) : HeadTaken := { t with out := t.out ++ [o] }
  match routeSrc route (dirNum o) with
  | 1 => takeHead route .n mark x
  | 2 => takeHead route .e mark x
  | 3 => takeHead route .s mark x
  | 4 => takeHead route .w mark x
  | 6 =>
    let t := o :: x.takFA
    if (outsOf route 6).all t.contains then { x with fwdA := x.fwdA.drop 1, takFA := [] } else { x with takFA := t }
  | 7 =>
    let t := o :: x.takFB
    if (outsOf route 7).all t.contains then { x with fwdB := x.fwdB.drop 1, takFB := [] } else { x with takFB := t }
  | 8 => { x with vecOut := x.vecOut.eraseIdx (x.vecOut.findIdx (fun q => decide (q.1 = o))) }
  | _ => x

/-! ### The MAC block (R43–R47) -/

def accInit : Acc := ⟨0, false⟩
def groupInit : GroupAcc := ⟨0, false, false, false, true, false⟩

/-- An accumulator's place: row and column are those of its number 0–63. -/
def accKey (bank : Bool) (n : Nat) : Nat := 64 * b2n bank + n
def accGet (x : CellSt) (bank : Bool) (n : Nat) : Acc := x.accs.getD (accKey bank n) accInit
def accPut (bank : Bool) (n : Nat) (a : Acc) (x : CellSt) : CellSt := { x with accs := x.accs.setD (accKey bank n) accInit a }

/-- One product added to an open group, exactly, in units of 2^-300; `sc` is the exponent of both scales, none for a NaN
scale (R40, R44). -/
def addProduct (g : GroupAcc) (a b : FVal) (sc : Option Int) (p : Bool) : GroupAcc :=
  let g := { g with p := g.p || p }
  match sc, mulExact a b with
  | none, _ => { g with nan := true, allNegZero := false }
  | _, none => { g with nan := true, allNegZero := false }
  | _, some .nan => { g with nan := true, allNegZero := false }
  | _, some (.inf neg) => { g with pinf := g.pinf || !neg, ninf := g.ninf || neg, allNegZero := false }
  | some e, some (.fin neg m f) =>
    { g with
      sum := g.sum + signed neg (m * 2 ^ (f + e + 300).toNat), allNegZero := g.allNegZero && neg && decide (m = 0) }

/-- The value of a group. -/
def groupVal (g : GroupAcc) : FVal :=
  if g.nan || (g.pinf && g.ninf) then .nan
  else if g.pinf then .inf false
  else if g.ninf then .inf true
  else .fin (decide (g.sum < 0) || (decide (g.sum = 0) && g.allNegZero)) g.sum.natAbs (-300)

/-- Add the open groups into the accumulators of the accumulating bank, each with one rounding (R44). -/
def flushGroup (x : CellSt) : CellSt × Flags :=
  if x.groupLen = 0 then (x, .none)
  else
    let r := x.group.zipIdx.foldl (fun (acc : CellSt × Flags) q =>
      let a := accGet acc.1 x.bank q.2
      let v := groupVal q.1
      let res : FRes := if v = .nan then (nan32, .nvOnly) else addV (dec32 a.v.toNat) v
      (accPut x.bank q.2 ⟨BitVec.ofNat 32 res.1, a.p || q.1.p || x.bad⟩ acc.1, acc.2.or res.2)) (x, Flags.none)
    ({ r.1 with group := [], groupLen := 0 }, r.2)

/-- The bank swap, after every product issued before it (R47). -/
def swapBank (x : CellSt) : CellSt × Flags :=
  let r := flushGroup x
  ({ r.1 with bank := !r.1.bank }, r.2)

/-- The exponent of a scale byte: 0x7F is one, 0xFF is NaN (R40). -/
def scaleExp (b : BitVec 8) : Option Int := if b = 0xFF#8 then none else some ((b.toNat : Int) - 127)

/-- Both scales of a product. -/
def scaleOf (fa fb : MacFmt) (sa sb : BitVec 8) : Option Int :=
  let ea := if macIsMx fa then scaleExp sa else some 0
  let eb := if macIsMx fb then scaleExp sb else some 0
  match ea, eb with
  | some a, some b => some (a + b)
  | _, _ => none

/-- Where the MAC block takes an operand from (R86): the local store, or the head word of an input port. -/
inductive MacSrc where
  | store
  | head (w : SwWord)

/-- The source of an operand now: `j` is its place in the route word (4: A, 5: B). None: the route names none, or the port has
no word that this operand has not used up; the issue waits (R66). -/
def macSource (x : CellSt) (route j : Nat) : Option MacSrc :=
  match routeSrc route j with
  | 5 => some .store
  | code =>
    match allDirs.find? (fun d => decide (portCode d = code)) with
    | some d =>
      let t := takOf x d
      if (if j = 4 then t.macA else t.macB) then none else ((bufOf x d).head?).map .head
    | none => none

/-- `w` bits of a source from a bit place on, with the poison of the words they lie in (R46, R68). -/
def macBits (x : CellSt) (errs : List LsErr) (src : MacSrc) (w pos : Nat) : Nat × Bool :=
  match src with
  | .store =>
    let u := pos / 32 % 4096
    let v := (pos + w - 1) / 32 % 4096
    let n := (lsGet x u).v.toNat + (if u = v then 0 else (lsGet x v).v.toNat * 2 ^ 32)
    (n / 2 ^ (pos % 32) % 2 ^ w, (lsGet x u).p || (lsGet x v).p || wordDouble errs u || wordDouble errs v)
  | .head h => (h.v.toNat / 2 ^ (pos % 512) % 2 ^ w, h.p)

/-- The source word that operand forwarding passes on: the head word, or the row of the first element. -/
def macWord (x : CellSt) (errs : List LsErr) (src : MacSrc) (pos : Nat) : SwWord :=
  match src with
  | .store =>
    let row := pos / 512 % 256
    let r := lsRow x row
    ⟨r.v, r.p || (List.range 16).any (fun j => wordDouble errs (16 * row + j))⟩
  | .head h => h

/-- The operands of one issue, read from their sources: elements of A by row and depth, elements of B by depth and column,
scale bytes with their poison (log entry 83). -/
structure MacOps where
  a : List (Nat × Bool)
  b : List (Nat × Bool)
  sa : List (Nat × Bool)
  sb : List (Nat × Bool)

/-- Read the operands. -/
def macRead (x : CellSt) (fa fb : MacFmt) (srcA srcB : MacSrc) (sl : MacSlice) : MacOps :=
  let scale (l : List Nat) : List (Nat × Bool) := l.map (fun a => macBits x sl.lsErrs .store 8 (8 * a))
  ⟨sl.a.map (macBits x sl.lsErrs srcA (macWidth fa)), sl.b.map (macBits x sl.lsErrs srcB (macWidth fb)), scale sl.scaleA,
    scale sl.scaleB⟩

/-- Element (row, t) of A, element (t, column) of B. -/
def elemA (o : MacOps) (k r t : Nat) : Nat × Bool := o.a.getD (r * k + t) (0, false)
def elemB (o : MacOps) (c t : Nat) : Nat × Bool := o.b.getD (8 * t + c) (0, false)

/-- The products of a slice for accumulator n, in floating point. -/
def macGroup (fa fb : MacFmt) (k : Nat) (o : MacOps) (n : Nat) (g : GroupAcc) : GroupAcc :=
  let r := n / 8
  let c := n % 8
  let sa := o.sa.getD r (0x7F, false)
  let sb := o.sb.getD c (0x7F, false)
  let sc := scaleOf fa fb (BitVec.ofNat 8 sa.1) (BitVec.ofNat 8 sb.1)
  (List.range k).foldl (fun g t =>
    let a := elemA o k r t
    let b := elemB o c t
    addProduct g (macValue fa a.1) (macValue fb b.1) sc (a.2 || b.2 || sa.2 || sb.2)) g

/-- The sum of products of a slice for accumulator n, in integers, with its poison. -/
def macInt (fa fb : MacFmt) (k : Nat) (o : MacOps) (n : Nat) : Int × Bool :=
  (List.range k).foldl (fun acc t =>
    let a := elemA o k (n / 8) t
    let b := elemB o (n % 8) t
    (acc.1 + sext (macWidth fa) a.1 * sext (macWidth fb) b.1, acc.2 || a.2 || b.2)) (0, false)

/-- One integer accumulation: exact, modulo 2^32; IW on a wrap (R45). The wrap is judged on the sum of the slice's products
(DESIGN CHOICE, log entry 29). -/
def macIntAdd (fa fb : MacFmt) (k : Nat) (o : MacOps) (n : Nat) (x : CellSt × Flags) : CellSt × Flags :=
  let a := accGet x.1 x.1.bank n
  let r := macInt fa fb k o n
  let v := sext 32 a.v.toNat + r.1
  let wrap := decide (v < -(2 ^ 31) ∨ 2 ^ 31 ≤ v)
  (accPut x.1.bank n ⟨BitVec.ofNat 32 (twos 32 v), a.p || r.2 || x.1.bad⟩ x.1, x.2.or ⟨false, false, wrap⟩)

/-- A slice applied to the accumulators (R43–R45). -/
def macSlice (fa fb : MacFmt) (o : MacOps) (last : Bool) (x : CellSt) : CellSt × Flags :=
  let k := min (macDepth fa) (macDepth fb)
  if macIsInt fa then (List.range 64).foldl (fun acc n => macIntAdd fa fb k o n acc) (x, Flags.none)
  else
    let g0 := if x.groupLen = 0 then List.replicate 64 groupInit else x.group
    let g1 := g0.zipIdx.map (fun q => macGroup fa fb k o q.2 { q.1 with p := q.1.p || x.bad })
    let x := { x with group := g1, groupLen := x.groupLen + k }
    if 32 ≤ x.groupLen || last then flushGroup x else (x, .none)

/-- What an issue leaves in the cell: accumulators, forwarded words where an output names the forwarding, head words used up. -/
def macApply (r : CellRec) (sl : MacSlice) (srcA srcB : MacSrc) (x : CellSt) : CellSt × Flags :=
  let fa := macFmt r.fmtA
  let fb := macFmt r.fmtB
  let res := macSlice fa fb (macRead x fa fb srcA srcB sl) sl.last x
  let y := res.1
  let y := if sl.fwdA && decide (outsOf r.route 6 ≠ []) then
    { y with fwdA := y.fwdA ++ [macWord x sl.lsErrs srcA (sl.a.headD 0)] } else y
  let y := if sl.fwdB && decide (outsOf r.route 7 ≠ []) then
    { y with fwdB := y.fwdB ++ [macWord x sl.lsErrs srcB (sl.b.headD 0)] } else y
  let inPort (code : Nat) : Option Dir := allDirs.find? (fun d => decide (portCode d = code))
  let used (go : Bool) (j : Nat) (f : HeadTaken → HeadTaken) (y : CellSt) : CellSt :=
    match go, inPort (routeSrc r.route j) with
    | true, some d => takeHead r.route d f y
    | _, _ => y
  (used sl.takeB 5 (fun t => { t with macB := true }) (used sl.takeA 4 (fun t => { t with macA := true }) y), res.2)

/-- MAC_ISSUE (R44): the cell's next word is a MAC issue that names the bank which accumulates (R88), and its operands are
there. -/
def doMacIssue (h : Half) (p c : Nat) (sl : MacSlice) (s : State) : State :=
  match runningOn s h p with
  | none => s
  | some (i, k) =>
    let t := ctxAt s h i k
    let key := cellKey h p c
    match cellRec t c, nextWord t c with
    | some r, some w =>
      let x := cellSt s key
      match macSource x r.route 4, macSource x r.route 5 with
      | some srcA, some srcB =>
        if r.fmtA = 0 || decide (wordOp w ≠ opMac) || decide (natBit 0 w.toNat ≠ sl.bank) || decide (sl.bank ≠ x.bank) then s
        else
          let s := noteProgress h i (wordDone h i k c s)
          let s := when sl.residueFail (residueFail key i k) s
          let res := macApply r sl srcA srcB (cellSt s key)
          noteLsErrs h p c i k sl.lsErrs (setFlags h p c i k res.2 (setCell key res.1 s))
      | _, _ => s
    | _, _ => s

/-! ### The vector unit (R53, R57–R63) -/

def vecAt (s : State) (key k : Nat) : VecSt := s.fab.vecs.getD (4 * key + k) VecSt.init
def setVec (key k : Nat) (v : VecSt) (s : State) : State :=
  { s with fab := { s.fab with vecs := s.fab.vecs.insert (4 * key + k) v } }
def vreg (v : VecSt) (r : Nat) : VReg := v.v.getD r VReg.init
def laneOf (r : VReg) (l : Nat) : Nat := natBits (32 * l + 31) (32 * l) r.lanes.toNat
def laneP (r : VReg) (l : Nat) : Bool := natBit l r.poison.toNat
/-- A mask register, and the poison of its bits (R61). -/
def mreg (v : VecSt) (m : Nat) : W32 := v.m.getD m 0
def mregP (v : VecSt) (m : Nat) : W32 := v.mp.getD m 0

/-- One step of the LFSR (R53): the bit out and the next state. -/
def lfsrBit (st : W32) : Bool × W32 :=
  let n := st >>> 1
  if st.getLsbD 0 then (true, n ^^^ 0x80200003#32) else (false, n)

/-- The next `n` bits as a number, the first in the highest place. -/
def lfsrDraw : Nat → Nat → W32 → Nat × W32
  | 0, acc, st => (acc, st)
  | n + 1, acc, st =>
    let r := lfsrBit st
    lfsrDraw n (2 * acc + b2n r.1) r.2

/-- The 16 random bits of each of `n` lanes (R53). -/
def lfsrLanes : Nat → W32 → List Nat × W32
  | 0, st => ([], st)
  | n + 1, st =>
    let r := lfsrDraw 16 0 st
    let q := lfsrLanes n r.2
    (r.1 :: q.1, q.2)

/-- A lane's result: its value, its flags, the poison of the inputs it used. -/
structure LaneRes where
  v : Nat
  f : Flags
  p : Bool
  deriving DecidableEq, Repr

/-- A result that raises nothing. -/
def laneOk (v : Nat) (p : Bool) : LaneRes := ⟨v, .none, p⟩
def laneF (r : FRes) (p : Bool) : LaneRes := ⟨r.1, r.2, p⟩

/-- The lanes an instruction acts on, and those of them whose mask bit is poisoned. -/
structure LaneMask where
  on : W32
  p : W32
  deriving DecidableEq, Repr

/-- Every lane of a mask, none poisoned. -/
def LaneMask.of (w : W32) : LaneMask := ⟨w, 0⟩

/-- Write the lanes of a mask with results; masked-off lanes keep their value and set no flag (R57). A lane whose mask bit
is poisoned is poisoned, whether it is written or not (R61; DEDUCED, log entry 84). -/
def writeLanes (old : VReg) (mask : LaneMask) (f : Nat → Option LaneRes) : VReg × Flags :=
  (List.range 32).foldl (fun (acc : VReg × Flags) l =>
    let mp := natBit l mask.p.toNat
    match natBit l mask.on.toNat, f l with
    | true, some r =>
      let lanes := BitVec.ofNat 1024 (setBits (32 * l + 31) (32 * l) r.v acc.1.lanes.toNat)
      let po := BitVec.ofNat 32 (setBits l l (b2n (r.p || mp)) acc.1.poison.toNat)
      (⟨lanes, po⟩, acc.2.or r.f)
    | false, some _ =>
      if mp then (⟨acc.1.lanes, BitVec.ofNat 32 (setBits l l 1 acc.1.poison.toNat)⟩, acc.2) else acc
    | _, _ => acc) (old, Flags.none)

def fbinOp (o : FBin) (a b : Nat) : FRes :=
  match o with
  | .add => fadd a b
  | .sub => fsub a b
  | .mul => fmul a b
  | .div => fdiv a b
  | .min => fmin a b
  | .max => fmax a b

/-- A NaN result is canonical (R42). -/
def canon (a : Nat) : Nat := if isNan32 a then nan32 else a

def funOp (o : FUn) (a : Nat) : FRes :=
  match o with
  | .neg => (canon (if natBit 31 a then a - 2 ^ 31 else a + 2 ^ 31), .none)
  | .abs => (canon (lowBits 31 a), .none)
  | .sqrt => fsqrt a
  | .recip => frecip a
  | .rsqrt => frsqrt a
  | .exp2 => fexp2 a
  | .log2 => flog2 a

/-- A wrapping INT32 result: IW on signed overflow. -/
def iwrap (x : Int) : FRes := (twos 32 x, ⟨false, false, decide (x < -(2 ^ 31) ∨ 2 ^ 31 ≤ x)⟩)

def ibinOp (o : IBin) (a b : Nat) : FRes :=
  let x := sext 32 a
  let y := sext 32 b
  match o with
  | .add => iwrap (x + y)
  | .sub => iwrap (x - y)
  | .mulLow => iwrap (x * y)
  | .mulHighS => (twos 32 (x * y / 2 ^ 32), .none)
  | .mulHighU => (a * b / 2 ^ 32, .none)
  | .min => (if x ≤ y then a else b, .none)
  | .max => (if x ≤ y then b else a, .none)

def icmpOp (o : Cmp) (a b : Nat) : Bool :=
  let x := sext 32 a
  let y := sext 32 b
  match o with
  | .eq => decide (x = y)
  | .ne => decide (x ≠ y)
  | .lt => decide (x < y)
  | .le => decide (x ≤ y)
  | .gt => decide (y < x)
  | .ge => decide (y ≤ x)
  | .unordered => false

def lbinOp (o : LBin) (a b : Nat) : Nat :=
  let n := b % 32
  match o with
  | .and => a &&& b
  | .or => a ||| b
  | .xor => a ^^^ b
  | .shl => a * 2 ^ n % 2 ^ 32
  | .shrL => a / 2 ^ n
  | .shrA => twos 32 (sext 32 a / 2 ^ n)

/-- A narrow result in a lane: the bits above it are left open (R58; log entry 1). -/
def padded (f : NFmt) (a v : Nat) : Nat :=
  let w := widthOf f
  if 32 ≤ w then v % 2 ^ 32 else v % 2 ^ w + Config.cvtPad w (BitVec.ofNat 32 a) % 2 ^ (32 - w) * 2 ^ w

/-- How an instruction rounds a lane: stochastically with its random bits, or to nearest even (R51). -/
def rndOf (sto : Bool) (rs : List Nat) (l : Nat) : Rnd := if sto then .sto (rs.getD l 0) else .rne

/-- The lanes of a reduction that take part. -/
def reduceTree (f : Nat × Bool → Nat × Bool → (Nat × Bool) × Flags) : Nat → List (Nat × Bool) → Flags → List (Nat × Bool) × Flags
  | 0, l, fl => (l, fl)
  | n + 1, l, fl =>
    let r := (List.range (l.length / 2)).map (fun j => f (l.getD (2 * j) (0, false)) (l.getD (2 * j + 1) (0, false)))
    reduceTree f n (r.map Prod.fst) (r.foldl (fun a x => a.or x.2) fl)

/-- A lane reduction (R63): masked-off lanes add +0 to a sum and take no part in a maximum or minimum (an absent lane
is marked by the second component of a pair). None: no lane takes part in a maximum or minimum. -/
def reduceVal (k : RedKind) (a : VReg) (mask : W32) : Option Nat × Flags :=
  let lanes := (List.range 32).map (fun l => (laneOf a l, natBit l mask.toNat))
  let sum (f : Nat → Nat → FRes) : Option Nat × Flags :=
    let r := reduceTree (fun x y => let z := f x.1 y.1
                                    ((z.1, true), z.2)) 5 (lanes.map (fun x => (if x.2 then x.1 else 0, true))) .none
    ((r.1.head?).map Prod.fst, r.2)
  let pick (f : Nat → Nat → FRes) : Option Nat × Flags :=
    let r := reduceTree (fun x y =>
      match x.2, y.2 with
      | true, true => let z := f x.1 y.1
                      ((z.1, true), z.2)
      | true, false => (x, .none)
      | _, _ => (y, .none)) 5 lanes .none
    match r.1.head? with
    | some (v, true) => (some v, r.2)
    | _ => (none, r.2)
  match k with
  | .sumF => sum fadd
  | .sumI => sum (ibinOp .add)
  | .maxF => pick fmax
  | .minF => pick fmin
  | .maxI => pick (ibinOp .max)
  | .minI => pick (ibinOp .min)

/-- The element type's emax (R39). -/
def emaxOf (f : NFmt) : Int := ((floatOf f).map (fun p => p.emax)).getD 0

/-- MX quantisation of a block (R56): scale byte, elements, the flags of the lanes in `on` (R57). A block that holds an
infinity and no NaN sets NV, one that holds a NaN sets none (DESIGN CHOICE, log entry 23). -/
def mxQuantise (f : NFmt) (rnd : Nat → Rnd) (a : VReg) (on : W32) : Nat × List Nat × Flags :=
  let vs := (List.range 32).map (fun l => dec32 (laneOf a l))
  let bad := vs.any (fun v => match v with
    | .fin _ _ _ => false
    | _ => true)
  let hasNan := vs.any (fun v => decide (v = .nan))
  let infOn := vs.zipIdx.any (fun q => natBit q.2 on.toNat && (match q.1 with
    | .inf _ => true
    | _ => false))
  if bad then (0xFF, List.replicate 32 0, ⟨!hasNan && infOn, false, false⟩)
  else
    let top : Option Int := vs.foldl (fun acc v => match v with
      | .fin _ m e =>
        if m = 0 then acc
        else
          let t := e + Nat.log2 m
          match acc with
          | none => some t
          | some u => some (max t u)
      | _ => acc) none
    match top with
    | none => (0, List.replicate 32 0, .none)
    | some t =>
      let e := max (-127) (min 127 (t - emaxOf f))
      let r := vs.zipIdx.map (fun q => match q.1 with
        | .fin n m x => narrow f true (rnd q.2) (.fin n m (x - e))
        | v => narrow f true (rnd q.2) v)
      ((e + 127).toNat, r.map Prod.fst, r.zipIdx.foldl (fun a x => if natBit x.2 on.toNat then a.or x.1.2 else a) .none)

/-- One element of an MX block widened to FP32 (R56): rounded under `RND` and `SAT` when it leaves the FP32 range. -/
def mxDequantise (f : NFmt) (sat : Bool) (rnd : Rnd) (scale bits : Nat) : FRes :=
  if scale % 256 = 0xFF then (nan32, .none)
  else
    match widen f bits with
    | .nan => (nan32, .none)
    | .inf n => (inf32 n, .none)
    | .fin n m e => narrowF fp32 sat rnd (.fin n m (e + (scale % 256 : Nat) - 127))

/-- Pack the low `w` bits of 32 lanes: element i at bit w × i (R41). -/
def packLanes (w : Nat) (l : List Nat) : Nat := l.zipIdx.foldl (fun a p => a + p.1 % 2 ^ w * 2 ^ (w * p.2)) 0

/-- The words that hold 32 packed elements of width `w`: `w` lanes. -/
def packedLane (w : Nat) (l : List Nat) (j : Nat) : Option Nat :=
  if j < w then some (natBits (32 * j + 31) (32 * j) (packLanes w l)) else none

/-- Element i of packed words in a register. -/
def packedElem (w : Nat) (a : VReg) (i : Nat) : Nat := a.lanes.toNat / 2 ^ (w * i) % 2 ^ w

/-- The lanes of packed words that hold element i. -/
def packedPoison (w : Nat) (a : VReg) (i : Nat) : Bool := laneP a (w * i / 32) || laneP a ((w * i + w - 1) / 32)

/-- The local store word of a byte address and a lane's stride (R60: modulo 16 KiB). -/
def lsWordAt (addr : Nat) (stride : Int) (l : Nat) : Nat := ((((addr / 4 : Nat) : Int) + stride * l) % 4096).toNat

/-- What one vector instruction does to the vector state and the cell; none when it must wait for a switch port, or when
the image may not hold it (a read-out of the bank that accumulates, R47). -/
structure VecRes where
  v : VecSt
  x : CellSt
  f : Flags

/-- Write a vector register. -/
def putV (d : Nat) (r : VReg × Flags) (v : VecSt) (x : CellSt) : Option VecRes :=
  some ⟨{ v with v := v.v.setD d VReg.init r.1 }, x, r.2⟩

/-- One vector instruction (R57–R63). DESIGN CHOICEs: a stochastic MX quantise consumes its 512 bits whatever the block holds
(log entry 24); a reduction writes lane 0 also where the mask leaves lane 0 out, and a maximum or minimum of no lane is a
free value (25); rotate takes lane (l + n) mod 32 and permute indices count modulo 32 (26); the scale byte is bits [7:0] of
lane 0 and the mask applies to the packed output words (27); gather and scatter addresses are byte addresses whose low two
bits are dropped (28). -/
def vecOp (op : VOp) (mask : LaneMask) (sto sat : Bool) (errs : List LsErr) (route : Nat) (v : VecSt) (x : CellSt) :
    Option VecRes :=
  let bad := x.bad
  let lane1 (d a : Fin 32) (f : Nat → FRes) : Option VecRes :=
    let ra := vreg v a
    putV d (writeLanes (vreg v d) mask (fun l => some (laneF (f (laneOf ra l)) (bad || laneP ra l)))) v x
  let lane2 (d a b : Fin 32) (f : Nat → Nat → FRes) : Option VecRes :=
    let ra := vreg v a
    let rb := vreg v b
    putV d (writeLanes (vreg v d) mask (fun l =>
      some (laneF (f (laneOf ra l) (laneOf rb l)) (bad || laneP ra l || laneP rb l)))) v x
  let lane3 (d a b c : Fin 32) (f : Nat → Nat → Nat → FRes) : Option VecRes :=
    let ra := vreg v a
    let rb := vreg v b
    let rc := vreg v c
    putV d (writeLanes (vreg v d) mask (fun l =>
      some (laneF (f (laneOf ra l) (laneOf rb l) (laneOf rc l)) (bad || laneP ra l || laneP rb l || laneP rc l)))) v x
  let setMask (m : Fin 8) (a b : Fin 32) (f : Nat → Nat → Bool) : Option VecRes :=
    let ra := vreg v a
    let rb := vreg v b
    let put (g : Nat → Bool) (old : W32) : W32 :=
      BitVec.ofNat 32 ((List.range 32).foldl (fun w l => if natBit l mask.on.toNat then setBits l l (b2n (g l)) w else w) old.toNat)
    let po := put (fun l => bad || laneP ra l || laneP rb l) (mregP v m) ||| mask.p
    some ⟨{ v with m := v.m.setD m 0 (put (fun l => f (laneOf ra l) (laneOf rb l)) (mreg v m)), mp := v.mp.setD m 0 po }, x, .none⟩
  let draw := lfsrLanes 32 v.lfsr
  let vr : VecSt := if sto then { v with lfsr := draw.2 } else v
  match op with
  | .fbin o d a b => lane2 d a b (fbinOp o)
  | .fun1 o d a => lane1 d a (funOp o)
  | .fma d a b c => lane3 d a b c (fun a b c => ffma a b (dec32 c))
  | .fms d a b c => lane3 d a b c (fun a b c => ffma a b (negV (dec32 c)))
  | .fcmp c m a b => setMask m a b (fcmp c)
  | .icmp c m a b => setMask m a b (icmpOp c)
  | .sel d m a b =>
    putV d (writeLanes (vreg v d) mask (fun l =>
      let r := if natBit l (mreg v m).toNat then vreg v a else vreg v b
      some (laneOk (laneOf r l) (bad || laneP r l || natBit l (mregP v m).toNat)))) v x
  | .ibin o d a b => lane2 d a b (ibinOp o)
  | .lbin o d a b => lane2 d a b (fun a b => (lbinOp o a b, .none))
  | .lnot d a => lane1 d a (fun a => (2 ^ 32 - 1 - a, .none))
  | .cvtTo f d a =>
    let st := sto && decide (f ≠ .int32)
    let v' := if st then vr else v
    let ra := vreg v a
    putV d (writeLanes (vreg v d) mask (fun l =>
      let r := narrow f sat (rndOf st draw.1 l) (dec32 (laneOf ra l))
      some ⟨padded f (laneOf ra l) r.1, r.2, bad || laneP ra l⟩)) v' x
  | .cvtFrom f d a => lane1 d a (fun a => packV (widen f a))
  | .pack f d a =>
    let ra := vreg v a
    let w := widthOf f
    let p (l : Nat) : Bool := (List.range 32).any (fun e => decide (w * e < 32 * l + 32) && decide (32 * l < w * e + w) && laneP ra e)
    putV d (writeLanes (vreg v d) mask (fun l =>
      (packedLane w ((List.range 32).map (laneOf ra)) l).map (fun n => laneOk n (bad || p l)))) v x
  | .unpack f d a =>
    let ra := vreg v a
    let w := widthOf f
    putV d (writeLanes (vreg v d) mask (fun l =>
      let e := packedElem w ra l
      some (laneOk (padded f e e) (bad || packedPoison w ra l)))) v x
  | .mxQuant f so eo a =>
    let ra := vreg v a
    let q := mxQuantise f (rndOf sto draw.1) ra mask.on
    let p := bad || (List.range 32).any (laneP ra)
    let w := widthOf f
    let r1 := writeLanes (vreg v so) mask (fun l => if l = 0 then some (laneOk (padded .int8 q.1 q.1) p) else none)
    let v1 : VecSt := { vr with v := vr.v.setD so VReg.init r1.1 }
    let r2 := writeLanes (vreg v1 eo) mask (fun l => (packedLane w q.2.1 l).map (fun n => laneOk n p))
    some ⟨{ v1 with v := v1.v.setD eo VReg.init r2.1 }, x, q.2.2⟩
  | .mxDequant f d si ei =>
    let rs := vreg v si
    let re := vreg v ei
    let w := widthOf f
    putV d (writeLanes (vreg v d) mask (fun l =>
      let r := mxDequantise f sat (rndOf sto draw.1 l) (laneOf rs 0) (packedElem w re l)
      some (laneF r (bad || laneP rs 0 || packedPoison w re l)))) vr x
  | .reduce k d a =>
    let ra := vreg v a
    let r := reduceVal k ra mask.on
    let p := bad || decide (mask.p ≠ 0) || (List.range 32).any (fun l => natBit l mask.on.toNat && laneP ra l)
    match r.1 with
    | some n => putV d ((writeLanes (vreg v d) (.of 1) (fun _ => some (laneOk n p))).1, r.2) v x
    | none => putV d (writeLanes (vreg v d) (.of 1) (fun _ => some (laneOk (Config.cvtPad 0 0 % 2 ^ 32) p))) v x
  | .permute d a ix =>
    let ra := vreg v a
    let ri := vreg v ix
    putV d (writeLanes (vreg v d) mask (fun l =>
      let j := laneOf ri l % 32
      some (laneOk (laneOf ra j) (bad || laneP ra j || laneP ri l)))) v x
  | .bcast d a n =>
    let ra := vreg v a
    putV d (writeLanes (vreg v d) mask (fun _ => some (laneOk (laneOf ra n) (bad || laneP ra n)))) v x
  | .rotate d a n =>
    let ra := vreg v a
    putV d (writeLanes (vreg v d) mask (fun l =>
      let j := (l + n.val) % 32
      some (laneOk (laneOf ra j) (bad || laneP ra j)))) v x
  | .rand16 d =>
    putV d (writeLanes (vreg v d) mask (fun l => some (laneOk (draw.1.getD l 0) bad))) { v with lfsr := draw.2 } x
  | .accRead bank d half =>
    if bank = x.bank then none
    else
      putV d (writeLanes (vreg v d) mask (fun l =>
        let a := accGet x bank (32 * b2n half + l)
        some (laneOk a.v.toNat (bad || a.p)))) v x
  | .accClear bank =>
    let x1 := { x with accs := x.accs.filter (fun e => decide (e.1 / 64 ≠ b2n bank)) }
    some ⟨v, if bank = x.bank then { x1 with group := [], groupLen := 0 } else x1, .none⟩
  | .accSwap => let r := swapBank x
                some ⟨v, r.1, r.2⟩
  | .lsLoad d addr st =>
    putV d (writeLanes (vreg v d) mask (fun l =>
      let w := lsWordAt addr st l
      let e := lsGet x w
      some (laneOk e.v.toNat (bad || e.p || wordDouble errs w)))) v x
  | .lsStore a addr st =>
    let ra := vreg v a
    some ⟨v, (List.range 32).foldl (fun x l =>
      if natBit l mask.on.toNat then
        lsPut (lsWordAt addr st l) ⟨BitVec.ofNat 32 (laneOf ra l), bad || laneP ra l || natBit l mask.p.toNat⟩ x else x) x, .none⟩
  | .gather d ix =>
    let ri := vreg v ix
    putV d (writeLanes (vreg v d) mask (fun l =>
      let w := lsWordAt (laneOf ri l) 0 0
      let e := lsGet x w
      some (laneOk e.v.toNat (bad || laneP ri l || e.p || wordDouble errs w)))) v x
  | .scatter a ix =>
    let ra := vreg v a
    let ri := vreg v ix
    some ⟨v, (List.range 32).foldl (fun x l =>
      if natBit l mask.on.toNat then
        lsPut (lsWordAt (laneOf ri l) 0 0) ⟨BitVec.ofNat 32 (laneOf ra l), bad || laneP ra l || laneP ri l || natBit l mask.p.toNat⟩ x else x) x,
      .none⟩
  | .send port lo upper =>
    if x.vecOut.any (fun q => decide (q.1 = port)) then none
    else
      let r := vreg v lo
      let b := if upper then 16 else 0
      let w : W512 := BitVec.ofNat 512 (natBits (32 * b + 511) (32 * b) r.lanes.toNat)
      let p := bad || (List.range 16).any (fun j => laneP r (b + j))
      some ⟨v, { x with vecOut := x.vecOut ++ [(port, ⟨w, p⟩)] }, .none⟩
  | .recv port d upper =>
    match (bufOf x port).head? with
    | none => none
    | some w =>
      if (takOf x port).vec then none
      else
        let b := if upper then 16 else 0
        let r := writeLanes (vreg v d) mask (fun l =>
          if b ≤ l ∧ l < b + 16 then
            some (laneOk (natBits (32 * (l - b) + 31) (32 * (l - b)) w.v.toNat) (bad || w.p)) else none)
        putV d r v (takeHead route port (fun t => { t with vec := true }) x)

/-- The local store words that an instruction's active lanes name (R60, R64). -/
def vecWords (op : VOp) (mask : W32) (v : VecSt) : List Nat :=
  let on := (List.range 32).filter (fun l => natBit l mask.toNat)
  match op with
  | .lsLoad _ addr st => on.map (lsWordAt addr st)
  | .lsStore _ addr st => on.map (lsWordAt addr st)
  | .gather _ ix => on.map (fun l => lsWordAt (laneOf (vreg v ix) l) 0 0)
  | .scatter _ ix => on.map (fun l => lsWordAt (laneOf (vreg v ix) l) 0 0)
  | _ => []

/-- The cycles that an access to these words waits for its own lanes: a bank serves one word in a cycle (R64, R67). -/
def bankWaits (ws : List Nat) : Nat :=
  ((List.range 32).map (fun b => (ws.dedup.filter (fun w => decide (w % 32 = b))).length)).foldl max 0 - 1

/-- Count the waits of a vector access (R67): those its own lanes cause, and those behind other sources of R65, which depend on
the cycle and are a free value (log entry 1). -/
def countWaits (key : Nat) (ws : List Nat) (s : State) : State :=
  if ws = [] then s
  else
    let r := freeNat 32 s
    modCell key (fun x => { x with conflict := x.conflict + BitVec.ofNat 32 (bankWaits ws + r.1) }) r.2

/-- The instructions whose results a residue check covers (R77): FP32 multiply, add and fused multiply-add, integer add,
subtract and multiply, and the accumulator additions before a swap. -/
def residueChecked : VOp → Bool
  | .fbin o _ _ _ => decide (o = .add ∨ o = .sub ∨ o = .mul)
  | .fma _ _ _ _ => true
  | .fms _ _ _ _ => true
  | .ibin o _ _ _ => decide (o = .add ∨ o = .sub ∨ o = .mulLow ∨ o = .mulHighS ∨ o = .mulHighU)
  | .accSwap => true
  | _ => false

/-- The instruction word may stand for this instruction: the loader's two opcodes are kept to what they name (R88). -/
def wordFits (w : W64) : VOp → Bool
  | .accRead bank _ _ => decide (wordOp w = opRead) && decide (natBit 0 w.toNat = bank)
  | _ => decide (wordOp w ≠ opMac) && decide (wordOp w ≠ opRead)

/-- VECTOR_INSTRUCTION (R57): the cell's next word. -/
def doVector (h : Half) (p c : Nat) (op : VOp) (mask : Option (Fin 8)) (resid : Bool) (errs : List LsErr) (s : State) :
    State :=
  match runningOn s h p with
  | none => s
  | some (i, k) =>
    let t := ctxAt s h i k
    let key := cellKey h p c
    match cellRec t c, nextWord t c with
    | some r, some w =>
      if !wordFits w op then s
      else
        let s0 := s
        let s := when (resid && residueChecked op) (residueFail key i k) s
        let v := vecAt s key k
        let m : LaneMask := match mask with
          | some j => ⟨mreg v j, mregP v j⟩
          | none => .of 0xFFFFFFFF#32
        let arith := rget s .arithMode (ctxKey h i k)
        match vecOp op m (natBit 0 arith) (natBit 1 arith) errs r.route v (cellSt s key) with
        | none => s0
        | some res =>
          let s := noteProgress h i (wordDone h i k c (setVec key k res.v (setCell key res.x s)))
          let s := countWaits key (vecWords op m.on v) s
          noteLsErrs h p c i k errs (setFlags h p c i k res.f s)
    | _, _ => s

/-! ### The residue fault (R78) -/

/-- A context's image, or the image being loaded, places work on a cell. -/
def usesCell (x : Ctx) (c : Nat) : Bool :=
  ((x.img.map (fun m => m.cells.any (fun r => decide (r.cell = c)))).getD false) ||
  ((x.loadImg.map (fun m => m.cells.any (fun r => decide (r.cell = c)))).getD false)

def dpNum : Datapath → Nat
  | .macProduct => 0
  | .macGroup => 1
  | .macAcc => 2
  | .vecFp => 3
  | .vecInt => 4

/-- Enter a cell in its array's map-out list; Cadun reports it (R79). `cause` 78: residue, 79: self-test. -/
def mapOut (h : Half) (p c cause : Nat) (s : State) : State :=
  let k := physKeyOf h p
  let x := physAt s k
  if x.mapOut.contains c then s
  else event h 0x0202 0 none k c cause (setPhys k { x with mapOut := x.mapOut ++ [c] } s)

/-- Step 4 of R78 on one context of the array. A FAULTED context that names the cell becomes STALE too (DESIGN CHOICE, log
entry 22). -/
def residueStale (h : Half) (i c j : Nat) (s : State) : State :=
  let x := ctxAt s h i j
  if !usesCell x c ∨ x.st = .empty then s
  else if x.st = .loading then setCtx h i j { x with staleAtEnd := true } s
  else setCtx h i j { x with st := .stale } s

/-- The context that a residue failure of context k faults: k while it runs, else the context that runs now when its image
places work on the cell (a chain took over within the 64 cycles; log entry 85). -/
def residueCtx (s : State) (h : Half) (i k c : Nat) : Option Nat :=
  if ctxActive (ctxAt s h i k) then some k
  else (activeCtx s h i).filter (fun j => usesCell (ctxAt s h i j) c)

/-- RESIDUE_FAULT (R78): steps 2 to 5. -/
def doResidueFault (h : Half) (p c : Nat) (dp : Datapath) (s : State) : State :=
  let key := cellKey h p c
  match (cellSt s key).failed with
  | none => s
  | some (i, k) =>
    let det := p + c * 2 ^ 8 + k * 2 ^ 16 + dpNum dp * 2 ^ 20 + i * 2 ^ 24
    let here := decide ((larr s h i).phys = some p)
    let run := if here then residueCtx s h i k c else none
    let s := match run with
      | some j => faultCtx h i j 1 det s
      | none => eventD h 0x0201 2 (arrayFunc s h i) i 0 1 det s
    let s := modCell key (fun x => { x with failed := none, resFail := true }) s
    let s := when here (forEach [0, 1, 2, 3] (fun j s =>
      if some j = run ∨ (j = k ∧ (ctxAt s h i j).st = .faulted) then s else residueStale h i c j s)) s
    mapOut h p c 78 s

/-! ### The commands -/

/-- MAC_ISSUE (R44). -/
def execMacIssue (c : CellRef) (sl : MacSlice) (s : State) : Outcome :=
  onHalf s c.half (.next (doMacIssue c.half c.phys c.cell sl s))

/-- RESIDUE_FAULT (R78). -/
def execResidueFault (c : CellRef) (dp : Datapath) (s : State) : Outcome :=
  onHalf s c.half (.next (doResidueFault c.half c.phys c.cell dp s))

/-- VECTOR_INSTRUCTION (R57). -/
def execVectorInstruction (c : CellRef) (op : VOp) (mask : Option (Fin 8)) (residueFail : Bool) (lsErrs : List LsErr)
    (s : State) : Outcome := onHalf s c.half (.next (doVector c.half c.phys c.cell op mask residueFail lsErrs s))

/-- LS_WRITEBACK (R68). -/
def execLsWriteback (c : CellRef) (word : Fin 4096) (s : State) : Outcome :=
  onHalf s c.half (.next (doLsWriteback c.half c.phys c.cell word s))

end Sys2Proof.Machine
end

