-- ==== Sys2Proof/Machine/Continuity.lean ====
section
/-! DEFINITION. The commands of Continuity: requests at the home, snoops and answers at a far cache, leases, and the
Slate (R182–R235). -/

namespace Sys2Proof.Machine

open Sys2Proof

/-! ### The Slate after its point (R230–R234) -/

/-- The segments of a partition that are mapped. -/
def partSegs (s : State) (p : Nat) : List Nat :=
  (listedSegs s).filter (fun g => decide (segMode s g ≠ 0) && decide (segPart s g = p))

/-- The granules of a Slate's partitions, in number: 2^19 a segment. -/
def slateSize (s : State) (f : Nat) : Nat :=
  (((slateAt s f).parts.map (fun p => (partSegs s p).length)).sum) * 2 ^ 19

/-- The granules that are DONE. -/
def slateDoneCount (s : State) (f : Nat) : Nat := ((slateAt s f).grans.filter (fun e => decide (e.2 = 2))).length

/-- Every granule is DONE (R232). -/
def slateAllDone (s : State) (f : Nat) : Bool := decide (slateSize s f ≤ slateDoneCount s f)

/-- No OLD line of the function is left to send (R227). -/
def slateFlushed (s : State) (f : Nat) : Bool := s.coh.far.all (fun e => !(e.2.old && decide (e.2.func = f)))

/-- The requests held for a granule go on (R230). -/
def slateRelease (f : Nat) (which : HReq → Bool) (s : State) : State :=
  let x := slateAt s f
  let s := setSlate f { x with held := x.held.filter (fun r => !which r) } s
  slateResume (x.held.filter which) s

/-- A granule becomes DONE: its preserve granule is free, and accesses held for it go on (R230, R231). -/
def slateDone (f g : Nat) (s : State) : State :=
  let x := slateAt s f
  let s := setSlate f { x with
    grans := x.grans.insert g 2, copies := x.copies.erase g, want := x.want.filter (fun w => w.2 ≠ g) } s
  slateRelease f (fun r => decide (lineDpa s r.sl r.line / 2048 = g)) s

/-- The Slate of a function fails (R234): causes 1 participant excluded, 2 poison, 3 Cut, 4 abort. A point that is under way is
brought to its end (log entry 88). -/
def failSlate (f cause : Nat) (s : State) : State :=
  let x := slateAt s f
  if x.st = .idle ∨ x.st = .complete ∨ x.st = .failed then s
  else
    let s := setSlate f { x with st := .failed, cause := cause, copies := [], flushedAt := none, want := [] } s
    let s := when x.pointing (flipEpoch f) s
    event .h0 0x0403 2 (some f) x.id 0 cause (slateRelease f (fun _ => true) s)

/-- A granule could not be read without poison: it is FAILED, and so is the Slate (R228, R234). -/
def failGranule (f g : Nat) (s : State) : State :=
  failSlate f 2 (setSlate f { slateAt s f with grans := (slateAt s f).grans.insert g 3 } s)

/-- SLATE_POINT (R225, R226): the departure of the named barrier, or a message of a participant with the other epoch. -/
def doSlatePoint (f : Nat) (cause : PointCause) (s : State) : State :=
  match cause with
  | .barrier => reachPoint f s
  | .message m => if (slateAt s f).devices.contains (memberDev s m.val) then reachPoint f s else s

/-- SLATE_STREAM_START (R231): 0.5 ms after the flushed notices of every participant are in. -/
def doSlateStream (f : Nat) (s : State) : State :=
  let x := slateAt s f
  match x.st, x.flushedAt with
  | .pointed, some t =>
    let s := atTime (t + 5000) s
    setSlate f { x with st := .streaming } s
  | _, _ => s

/-- SLATE_COMPLETE (R232): every granule of every participant is DONE, as the second departure of the Slate's collective
says (R310). -/
def doSlateComplete (f : Nat) (s : State) : State :=
  let x := slateAt s f
  if x.st = .streaming ∧ slateAllDone s f ∧ 2 ≤ x.round then
    setSlate f { x with st := .complete, grans := [], copies := [] } s
  else s

/-! ### The holder of a request is there -/

/-- The part has the resource behind a holder, as seen from a slice. -/
def holderThere (s : State) (hd : Holder) : Bool :=
  match hd with
  | .site g => hasHalf s (halfOf 2 g)
  | .xFar => decide (s.part = .mb2)
  | .member _ => true

/-- A request of a holder to its home. -/
def onHolder (s : State) (hd : CohHdr) (kind : HKind) : Outcome :=
  onPart (holderThere s hd.src) (.next (fromHolder hd kind s))

/-! ### Requests at the home -/

/-- RD_S (R197). -/
def execRdS (hd : CohHdr) (s : State) : Outcome := onHolder s hd .rdS
/-- RD_X (R197). -/
def execRdX (hd : CohHdr) (s : State) : Outcome := onHolder s hd .rdX
/-- UPGRADE (R197). -/
def execUpgrade (hd : CohHdr) (s : State) : Outcome := onHolder s hd .upgrade
/-- RD_NC (R197). -/
def execRdNc (hd : CohHdr) (mask : Fin 16) (s : State) : Outcome := onHolder s hd (.rdNc mask.val)
/-- WR_NC (R197). -/
def execWrNc (hd : CohHdr) (secs : List (Fin 4 × SecWr)) (s : State) : Outcome := onHolder s hd (.wrNc secs)
/-- ADD_NC (R197). -/
def execAddNc (hd : CohHdr) (ro : RedOp) (secs : LinePart) (s : State) : Outcome := onHolder s hd (.addNc ro secs)
/-- JOIN_A (R197). -/
def execJoinA (hd : CohHdr) (ro : RedOp) (s : State) : Outcome := onHolder s hd (.joinA ro)
/-- ATOMIC (R195, R196). -/
def execAtomic (hd : CohHdr) (a : Atomic) (off : Fin 128) (s : State) : Outcome := onHolder s hd (.atomic a off.val)
/-- WB (R197, R213). -/
def execWb (hd : CohHdr) (keep : Bool) (secs : LinePart) (s : State) : Outcome := onHolder s hd (.wb keep secs)
/-- MERGE_A (R197, R215). -/
def execMergeA (hd : CohHdr) (ro : RedOp) (secs : LinePart) (s : State) : Outcome := onHolder s hd (.mergeA ro secs)
/-- EVICT_E (R197). -/
def execEvictE (hd : CohHdr) (s : State) : Outcome := onHolder s hd .evictE
/-- RENEW (R206). -/
def execRenew (hd : CohHdr) (s : State) : Outcome := onHolder s hd .renew

/-! ### Snoops and answers at a far cache -/

/-- INV (R197, R212). -/
def execInv (h : Half) (addr : BitVec 64) (sn : SnoopRef) (s : State) : Outcome := onHalf s h (.next (doInv h addr sn s))
/-- RECALL (R197). -/
def execRecall (h : Half) (addr : BitVec 64) (sn : SnoopRef) (s : State) : Outcome :=
  onHalf s h (.next (doRecall h addr sn s))
/-- DOWNGRADE (R197). -/
def execDowngrade (h : Half) (addr : BitVec 64) (sn : SnoopRef) (s : State) : Outcome :=
  onHalf s h (.next (doDowngrade h addr sn s))
/-- COLLECT (R215). -/
def execCollect (h : Half) (addr : BitVec 64) (sn : SnoopRef) (s : State) : Outcome :=
  onHalf s h (.next (doCollect h addr sn s))
/-- DATA (R205). -/
def execData (h : Half) (tag : Fin 4096) (take : BitVec 8) (g : Granted) (secs : LinePart) (lease : Nat) (s : State) :
    Outcome := onHalf s h (.next (doData h tag take g secs lease s))
/-- GRANT (R205). -/
def execGrant (h : Half) (tag : Fin 4096) (take : BitVec 8) (nc : Bool) (lease : Nat) (s : State) : Outcome :=
  onHalf s h (.next (doGrant h tag take nc lease s))
/-- ACK_LOCAL (R190). -/
def execAckLocal (h : Half) (tag : Fin 4096) (take : BitVec 8) (s : State) : Outcome :=
  onHalf s h (.next (doAckLocal h tag take s))
/-- ACK_GLOBAL (R190). -/
def execAckGlobal (h : Half) (tag : Fin 4096) (take : BitVec 8) (s : State) : Outcome :=
  onHalf s h (.next (doAckGlobal h tag take s))
/-- ATOMIC_RESULT (R286). -/
def execAtomicResult (h : Half) (tag : Fin 4096) (take : BitVec 8) (old : BitVec 64) (s : State) : Outcome :=
  onHalf s h (.next (doAtomicResult h tag take old s))
/-- ACK (R213). -/
def execAck (h : Half) (tag : Fin 4096) (take : BitVec 8) (s : State) : Outcome := onHalf s h (.next (doAck h tag take s))
/-- NACK (R206). -/
def execNack (h : Half) (tag : Fin 4096) (take : BitVec 8) (s : State) : Outcome :=
  onHalf s h (.next (doNack h tag take s))
/-- RETRY (R199). -/
def execRetry (h : Half) (tag : Fin 4096) (take : BitVec 8) (s : State) : Outcome :=
  onHalf s h (.next (doRetry h tag take s))
/-- RETRY_RESEND (R199). -/
def execRetryResend (h : Half) (tag : Fin 4096) (s : State) : Outcome := onHalf s h (.next (doRetryResend h tag s))
/-- ERROR (R197, R211). -/
def execError (h : Half) (tag : Fin 4096) (take : BitVec 8) (cause : BitVec 4) (s : State) : Outcome :=
  onHalf s h (.next (doError h tag take cause.toNat s))
/-- FAR_CACHE_ACCESS (R184). -/
def execFarCacheAccess (ag : Agent) (addr : BitVec 64) (op : FarOp) (rtag : Nat) (err : SliceErr) (s : State) : Outcome :=
  onAgent s ag (.next (doFarCacheAccess ag addr op rtag err s))

/-! ### Answers of holders at the home, deadlines -/

/-- SNOOP_ACK (R212). -/
def execSnoopAck (sl : Fin 256) (tag : Fin 4096) (take : BitVec 8) (src : SnoopSrc) (pend : Bool) (s : State) : Outcome :=
  onHalf s (halfOf 128 sl) (.next (doSnoopAck sl tag take src.holder pend src.func src.epoch s))
/-- SNOOP_DATA (R197). -/
def execSnoopData (sl : Fin 256) (tag : Fin 4096) (take : BitVec 8) (src : SnoopSrc) (ro : Option RedOp) (secs : LinePart)
    (s : State) : Outcome := onHalf s (halfOf 128 sl) (.next (doSnoopData sl tag take src.holder ro secs src.func src.epoch s))
/-- LEASE_GIVE_UP (R207). -/
def execLeaseGiveUp (h : Half) (set : Fin 4096) (way : Fin 16) (s : State) : Outcome :=
  onHalf s h (.next (doLeaseGiveUp h set way s))
/-- LEASE_END (R207). -/
def execLeaseEnd (h : Half) (set : Fin 4096) (way : Fin 16) (s : State) : Outcome :=
  onHalf s h (.next (doLeaseEnd h set way s))
/-- LEASE_DEADLINE (R209). -/
def execLeaseDeadline (sl : Fin 256) (line : Fin 67108864) (m : Fin 4096) (s : State) : Outcome :=
  onHalf s (halfOf 128 sl) (.next (doLeaseDeadline sl line m s))
/-- REQ_TIMEOUT (R211). -/
def execReqTimeout (h : Half) (tag : Fin 4096) (s : State) : Outcome := onHalf s h (.next (doReqTimeout h tag s))
/-- RP_COLLECT_TIMEOUT (R216). -/
def execRpCollectTimeout (sl : Fin 256) (line : Fin 67108864) (s : State) : Outcome :=
  onHalf s (halfOf 128 sl) (.next (doRpCollectTimeout sl line s))

/-! ### The Slate -/

/-- SLATE_POINT (R226). -/
def execSlatePoint (f : Fin 16) (cause : PointCause) (s : State) : Outcome := .next (doSlatePoint f cause s)
/-- SLATE_STREAM_START (R231). -/
def execSlateStreamStart (f : Fin 16) (s : State) : Outcome := .next (doSlateStream f s)
/-- SLATE_COMPLETE (R232). -/
def execSlateComplete (f : Fin 16) (s : State) : Outcome := .next (doSlateComplete f s)

end Sys2Proof.Machine
end

