-- ==== Sys2Proof/Machine/Links.lean ====
section
/-! DEFINITION. The neighbour ports (R273–R288, R294): training, flits, retry, faults, and packets as they are assembled
from the flits received. -/

namespace Sys2Proof.Machine

open Sys2Proof

/-- The half of a port. -/
def portHalf (p : Nat) : Half := halfOf 8 p

/-! ### Up and down (R276, R281, R294) -/

/-- What a port held when it goes down (R294): VC0 packets move to the `ALT` port of their route, the others are
discarded and counted. -/
def portFlush (p : Nat) (s : State) : State :=
  let x := portAt s p
  let lost := x.unacked.map (fun e => (e.1, e.2.1)) ++ x.txq.map (fun t => (t.vc, t.pkt))
  let vc0 := lost.filter (fun e => decide (e.1 = 0))
  let n := (lost.filter (fun e => decide (e.1 ≠ 0))).length
  let s := setPort p { x with txq := [], unacked := [], replay := [], rxBytes := [], rxFlits := [], freed := [],
                              nakTimes := [], rxNak := false, ackDue := false, credits := []
                              txWave := 0, txBlocks := [], txWords := [] } s
  let s := bumpSat .portDrops p 31 0 n s
  forEach vc0 (fun e s =>
    let v := rget s .routeEntry e.2.dest.toNat
    if natBit 4 v && natBit 9 v && decide (natBits 8 5 v ≠ p) && portUsable s (natBits 8 5 v) then
      queuePkt (natBits 8 5 v) 0 e.2 s
    else s) s

/-- A port leaves the routing (R294). -/
def portDown (p : Nat) (st : LState) (s : State) : State :=
  let s := modPort p (fun x => { x with st := st, trainT := s.clock }) s
  portFlush p s

/-- A retrain (R281): counted and recorded. -/
def retrain (p : Nat) (s : State) : State :=
  let s := portDown p .training s
  let s := modPort p (fun x => { x with trainFails := 0, trainStep2 := true }) s
  event (portHalf p) 0x0801 1 none p 0 281 (bumpSat .retrains p 15 0 1 s)

/-- Training fails once more (R276): the third time in a row the port is FAILED. -/
def trainFail (p : Nat) (s : State) : State :=
  let x := portAt s p
  if 3 ≤ x.trainFails + 1 then
    event (portHalf p) 0x0801 0 none p 0 276 (setPort p { x with st := .failed, trainFails := x.trainFails + 1 } s)
  else setPort p { x with trainFails := x.trainFails + 1, trainT := s.clock, trainStep2 := true } s

/-- The effect of a write to `PORT_CTL` (R276). -/
def portCtlAct (p new : Nat) (s : State) : State :=
  let was := rbit s .portCtl p 0
  let s := rput .portCtl p new s
  if natBit 0 new && !was then
    modPort p (fun x => { x with st := .training, trainFails := 0, trainT := s.clock, trainStep2 := false }) s
  else if !natBit 0 new && was then portDown p .down s
  else s

/-- PORT_TRAINING_TIMEOUT (R276): a step passes its latest time, at the earliest that of the first step run. -/
def doPortTrainTimeout (p : Nat) (s : State) : State :=
  let x := portAt s p
  if x.st = .training then trainFail p (atTime (x.trainT + ms (if x.trainStep2 then 3 else 1)) s) else s

/-- The class buffers that apply from a training on (R287): a committed set that does not fit is not used. -/
def applyVcBuf (p : Nat) (s : State) : State :=
  let h := portHalf p
  let g : GroupRef := .vcBuf (Fin.ofNat 8 p)
  let total := ((List.range 7).map (fun v => rbits s .vcBuf (7 * p + v) 15 0 + rbits s .vcBuf (7 * p + v) 31 16)).sum
  if total ≤ 32768 then groupTake h g s
  else
    let back := (List.range 7).map (fun v => (Reg.vcBuf, 7 * p + v))
    ruleEvent h 8 287 p 0 none { s with regs := back.foldl (fun f ri =>
      { f with taken := f.taken.insert (regKey ri.1 ri.2) (BitVec.ofNat 32 (regReset s.part ri.1 ri.2)) }) s.regs }

/-- The peer of a port, as its `LINK_INFO` says (R294). -/
def setPeer (p : Nat) (dev : BitVec 16) (pp : Nat) (valid : Bool) (s : State) : State :=
  modPort p (fun x => { x with peerDev := dev, peerPort := pp, peerValid := valid, everPeer := true }) s

/-- A port comes up with a peer; one that is not the peer it had before is recorded (R294). -/
def meetPeer (p : Nat) (dev : BitVec 16) (pp : Nat) (valid : Bool) (s : State) : State :=
  let x := portAt s p
  when (x.everPeer && (decide (x.peerDev ≠ dev) || decide (x.peerPort ≠ pp)))
    (event (portHalf p) 0x0801 0 none p dev.toNat 294) (setPeer p dev pp valid s)

/-- PORT_UP (R276, R277): training ends; it fails without a width, or when the wavelengths cannot be deskewed (R274). -/
def doPortUp (p : Nat) (tr : PortTraining) (s : State) : State :=
  let x := portAt s p
  if x.st ≠ .training then s
  else
    let s := atTime (x.trainT + us 2100) s
    let bad := tr.badLambda.toNat
    let half := rbit s .portCtl p 1 && tr.peerHalfOk
    let width : Option (LState × Bool) :=
      if bad = 0 then some (.upFull, false)
      else if half && decide (natBits 7 0 bad = 0) then some (.upHalf, false)
      else if half && decide (natBits 15 8 bad = 0) then some (.upHalf, true)
      else none
    match (if tr.skew ≤ maxSkew then width else none) with
    | none => trainFail p (modPort p (fun x => { x with badLambda := tr.badLambda }) s)
    | some (st, grp) =>
      let s := applyVcBuf p s
      let cr : NMap Nat := tr.credits.foldl (fun m c => NMap.insert m (classKey c.1.val c.2.1) c.2.2) []
      let s := modPort p (fun x => { x with
        st := st, txSpare := tr.txSpare, rxSpare := tr.rxSpare, halfGroup := grp, badLambda := tr.badLambda
        trainFails := 0, txSeq := 0, rxSeq := 0, replay := [], unacked := [], credits := cr, rxNak := false
        ackDue := false, nakTimes := [], rxBytes := [], rxFlits := [], freed := [], lastAdvance := s.clock
        txWave := 0, txBlocks := [], txWords := [] }) s
      let s := meetPeer p tr.peerDev tr.peerPort.toNat tr.peerValid s
      mcDrain p (pumpAll p (emit (.linkInfo p (ownDev s) (idOk s)) s))

/-- LINK_INFO (R294). -/
def doLinkInfo (p : Nat) (dev : BitVec 16) (pp : BitVec 4) (valid : Bool) (s : State) : State :=
  if linkUp (portAt s p) then setPeer p dev pp.toNat valid s else s

/-! ### Packets from bytes (R282, R283) -/

/-- The sectors of a byte list. -/
def sectorsOf : Nat → List Byte → List (BitVec 256)
  | 0, _ => []
  | n + 1, b => ofBytes 256 (b.take 32) :: sectorsOf n (b.drop 32)

/-- The length in bytes of the packet that a header begins; none while the header is not complete. -/
def pktLen (b : List Byte) : Option Nat :=
  if b.length < 24 then none
  else
    let w1 := leNat ((b.drop 4).take 4)
    some (24 + (if natBit 29 w1 then 16 else 0) + 32 * natBits 28 24 w1)

/-- Read a packet. -/
def pktOf (b : List Byte) : Packet :=
  let w (i : Nat) : Nat := leNat ((b.drop (4 * i)).take 4)
  let xm := natBit 29 (w 1)
  let body := b.drop (if xm then 40 else 24)
  { dest := BitVec.ofNat 16 (w 0), kind := BitVec.ofNat 4 (natBits 19 16 (w 0)), mc := natBit 20 (w 0)
    dl := natBit 21 (w 0), age := natBits 31 22 (w 0), src := BitVec.ofNat 16 (w 1)
    op := BitVec.ofNat 8 (natBits 23 16 (w 1)), xmask := xm, rsv := natBit 30 (w 1), epoch := natBit 31 (w 1)
    tag := BitVec.ofNat 12 (w 2), take := BitVec.ofNat 8 (natBits 19 12 (w 2)), func := BitVec.ofNat 4 (natBits 23 20 (w 2))
    scope := BitVec.ofNat 2 (natBits 25 24 (w 2)), ord := BitVec.ofNat 2 (natBits 27 26 (w 2))
    auxf := BitVec.ofNat 4 (natBits 31 28 (w 2)), poison := BitVec.ofNat 16 (w 3)
    xfield := BitVec.ofNat 16 (natBits 31 16 (w 3)), addr := BitVec.ofNat 64 (leNat ((b.drop 16).take 8))
    masks := if xm then (List.range 4).map (fun i => BitVec.ofNat 32 (leNat ((b.drop (24 + 4 * i)).take 4))) else []
    data := sectorsOf (natBits 28 24 (w 1)) body }

/-- Take whole packets from the front of a class's bytes. -/
def splitPkts : Nat → List Byte → List Packet × List Byte
  | 0, b => ([], b)
  | n + 1, b =>
    match pktLen b with
    | none => ([], b)
    | some k =>
      if b.length < k then ([], b)
      else
        let r := splitPkts n (b.drop k)
        (pktOf (b.take k) :: r.1, r.2)

/-- Bytes of a class leave the receive buffer: the flits used up are free (R287). -/
def useFlits : Nat → List Nat → Nat × List Nat
  | _, [] => (0, [])
  | n, f :: fs =>
    if f ≤ n then
      let r := useFlits (n - f) fs
      (r.1 + 1, r.2)
    else (0, (f - n) :: fs)

/-- A packet at the front of a class is consumed: the flits it used return as credits. -/
def consumePkt (p vc : Nat) (dl : Bool) (s : State) : State :=
  let k := classKey vc dl
  let x := portAt s p
  match x.rxPkts.getD k [] with
  | [] => s
  | q :: qs =>
    let u := useFlits (pktBytes q).length (x.rxFlits.getD k [])
    setPort p { x with
      rxPkts := NMap.setD x.rxPkts k [] qs
      rxFlits := NMap.setD x.rxFlits k [] u.2
      freed := NMap.setD x.freed k 0 (NMap.getD x.freed k 0 + u.1) } s

/-- The packet at the front of a class of a port. -/
def frontPkt (s : State) (p vc : Nat) (dl : Bool) : Option Packet := ((portAt s p).rxPkts.getD (classKey vc dl) []).head?

/-! ### Flits received (R278–R281) -/

/-- The acknowledgement of a port: the last flit accepted. -/
def ctrlOf (x : PortSt) (nak : Bool) : CtrlFlit :=
  { ackSeq := x.rxSeq - 1, ackValid := x.ackDue || decide (x.rxSeq ≠ 0), nak := nak
    credits := x.freed.map (fun e => (Fin.ofNat 7 (e.1 / 2), decide (e.1 % 2 = 1), BitVec.ofNat 16 e.2)), intact := true }

/-- Send a CTRL flit with the credits freed since the last. -/
def sendCtrl (p : Nat) (nak : Bool) (s : State) : State :=
  let x := portAt s p
  putCtrl p (ctrlOf x nak) (setPort p { x with freed := [], ackDue := false } s)

/-- A flit is discarded for want of the one expected: `NAK` while it waits (R280). -/
def startNak (p : Nat) (s : State) : State :=
  let x := portAt s p
  if x.rxNak then s
  else sendCtrl p true (setPort p { x with rxNak := true, lastNak := s.clock } s)

/-- DATA_FLIT (R278–R280, R284, R287). A VC0 flit carries one packet, whole (R282). -/
def doDataFlit (p : Nat) (f : DataFlit) (s : State) : State :=
  let x := portAt s p
  if !linkUp x then s
  else if !f.intact then startNak p (bumpSat .crcErr p 31 0 1 s)
  else
    match f.ftype.toNat with
    | 1 =>
      if f.seq ≠ x.rxSeq then startNak p s
      else
        let x := { x with rxSeq := x.rxSeq + 1, rxNak := false, ackDue := true }
        if f.vc.val = 7 then countLink .badPkt (setPort p x s)
        else if f.vc.val = 0 ∧ pktLen f.payload ≠ some f.payload.length then
          countLink .badPkt (setPort p { x with
            freed := NMap.setD x.freed (classKey 0 f.dl) 0 (NMap.getD x.freed (classKey 0 f.dl) 0 + 1) } s)
        else
          let k := classKey f.vc.val f.dl
          let b := NMap.getD x.rxBytes k [] ++ f.payload
          let r := splitPkts (b.length / 24 + 1) b
          setPort p { x with
            rxBytes := NMap.setD x.rxBytes k [] r.2
            rxPkts := NMap.setD x.rxPkts k [] (NMap.getD x.rxPkts k [] ++ r.1)
            rxFlits := NMap.setD x.rxFlits k [] (NMap.getD x.rxFlits k [] ++ [f.payload.length]) } s
    | 3 => countLink .badPkt s
    | _ => s

/-- How many of the outstanding flits an acknowledgement covers. -/
def ackCount (x : PortSt) (a : BitVec 16) : Nat :=
  match x.replay with
  | [] => 0
  | f :: _ =>
    let n := (a - f.seq).toNat + 1
    if n ≤ x.replay.length then n else 0

/-- CTRL_FLIT (R279–R281): acknowledgement, replay, credits. -/
def doCtrlFlit (p : Nat) (f : CtrlFlit) (s : State) : State :=
  let x := portAt s p
  if !linkUp x then s
  else if !f.intact then bumpSat .crcErr p 31 0 1 s
  else
    let n := if f.ackValid then ackCount x f.ackSeq else 0
    let gone := (x.replay.take n).map (fun g => g.seq)
    let cr := f.credits.foldl (fun m c =>
      let k := classKey c.1.val c.2.1
      NMap.insert m k (NMap.getD m k 0 + c.2.2.toNat)) x.credits
    let x := { x with
      replay := x.replay.drop n, unacked := x.unacked.filter (fun e => !gone.contains e.2.2), credits := cr
      lastAdvance := if n = 0 then x.lastAdvance else s.clock }
    let s := setPort p x s
    if f.nak then
      let times := (x.nakTimes.filter (fun t => decide (s.clock < t + us 100))) ++ [s.clock]
      if 16 ≤ times.length then retrain p s
      else
        let s := bumpSat .replays p 31 0 1 (setPort p { x with nakTimes := times } s)
        mcDrain p (pumpAll p (forEach x.replay (putData p) s))
    else mcDrain p (pumpAll p s)

/-- NAK_TIMER (R280). -/
def doNakTimer (p : Nat) (s : State) : State :=
  let x := portAt s p
  if linkUp x && x.rxNak then
    let s := atTime (x.lastNak + us 1) s
    sendCtrl p true (modPort p (fun x => { x with lastNak := s.clock }) s)
  else s

/-- ACK_TIMER (R280). -/
def doAckTimer (p : Nat) (s : State) : State :=
  let x := portAt s p
  if linkUp x && (x.ackDue || decide (x.freed ≠ [])) then sendCtrl p false s else s

/-- ACK_STALL_TIMEOUT (R281). -/
def doAckStall (p : Nat) (s : State) : State :=
  let x := portAt s p
  if linkUp x && decide (x.replay ≠ []) then retrain p (atTime (x.lastAdvance + us 100) s) else s

/-- LOSS_OF_SIGNAL (R281). -/
def doLossOfSignal (p : Nat) (otherWay : Bool) (s : State) : State :=
  if linkUp (portAt s p) then
    let zero : CtrlFlit := ⟨(portAt s p).rxSeq - 1, decide ((portAt s p).rxSeq ≠ 0), false, [], true⟩
    retrain p (when otherWay (putCtrl p zero) s)
  else s

/-! ### Commands -/

/-- Run a meaning on a port that the part has. -/
def onPort (s : State) (p : Nat) (r : Outcome) : Outcome := onHalf s (portHalf p) r

/-- PORT_ENABLE (R276). -/
def execPortEnable (ag : Agent) (p : Fin 16) (v : BitVec 32) (s : State) : Outcome :=
  onAgent s ag (.next (regStore ag (portHalf p) .portCtl p v.toNat (portCtlAct p) s))
/-- PORT_TRAINING_TIMEOUT (R276). -/
def execPortTrainingTimeout (p : Fin 16) (s : State) : Outcome := onPort s p (.next (doPortTrainTimeout p s))
/-- PORT_UP (R276). -/
def execPortUp (p : Fin 16) (tr : PortTraining) (s : State) : Outcome := onPort s p (.next (doPortUp p tr s))
/-- DATA_FLIT (R280). -/
def execDataFlit (p : Fin 16) (f : DataFlit) (s : State) : Outcome := onPort s p (.next (doDataFlit p f s))
/-- CTRL_FLIT (R279). -/
def execCtrlFlit (p : Fin 16) (f : CtrlFlit) (s : State) : Outcome := onPort s p (.next (doCtrlFlit p f s))
/-- NAK_TIMER (R280). -/
def execNakTimer (p : Fin 16) (s : State) : Outcome := onPort s p (.next (doNakTimer p s))
/-- ACK_TIMER (R280). -/
def execAckTimer (p : Fin 16) (s : State) : Outcome := onPort s p (.next (doAckTimer p s))
/-- ACK_STALL_TIMEOUT (R281). -/
def execAckStallTimeout (p : Fin 16) (s : State) : Outcome := onPort s p (.next (doAckStall p s))
/-- LOSS_OF_SIGNAL (R281). -/
def execLossOfSignal (p : Fin 16) (otherWay : Bool) (s : State) : Outcome := onPort s p (.next (doLossOfSignal p otherWay s))
/-- LINK_INFO (R294). -/
def execLinkInfo (p : Fin 16) (dev : BitVec 16) (peerPort : BitVec 4) (valid : Bool) (s : State) : Outcome :=
  onPort s p (.next (doLinkInfo p dev peerPort valid s))
/-- MC_HOLD_EXPIRE (R297). -/
def execMcHoldExpire (n : Nat) (b : Fin 17) (s : State) : Outcome := .next (mcDrops (doMcHoldExpire n b s))
/-- MC_ACK (R298). -/
def execMcAck (src : BitVec 16) (tag : BitVec 12) (take : BitVec 8) (b : Fin 17) (info : McAckInfo) (s : State) : Outcome :=
  .next (mcDrops (doMcAck src tag take b info s))

end Sys2Proof.Machine
end

