-- ==== Sys2Proof/Machine/Clapper.lean ====
section
/-! DEFINITION. Clapper: barriers and reductions over a tree of bases, their timeouts, delay notices and exclusion
(R300–R310, R312), and the Slate's collective. -/

namespace Sys2Proof.Machine

open Sys2Proof

/-! ### Entries -/

def collHalf (n : Nat) : Half := halfOf 128 n
def collAt (s : State) (n : Nat) : CollSt := s.link.colls.getD n CollSt.init
def setColl (n : Nat) (x : CollSt) (s : State) : State :=
  { s with link := { s.link with colls := s.link.colls.insert n x } }
def modColl (n : Nat) (f : CollSt → CollSt) (s : State) : State := setColl n (f (collAt s n)) s

/-- The function and the identifier of an entry. -/
def collFunc (s : State) (n : Nat) : Nat := rbits s .collId n 27 24
def collName (s : State) (n : Nat) : Nat := rbits s .collId n 15 0

/-- The key of an entry's take. -/
def collTakeKey (n : Nat) : Nat := takeKey (.coll (collHalf n) (Fin.ofNat 128 n))

/-- The open entry that an identifier names, on either half (R300). -/
def collNamed (s : State) (coll : Nat) : Option Nat :=
  (List.find? (fun e => decide (e.2.st ≠ 0) && decide (collName s e.1 = coll)) s.link.colls).map Prod.fst

/-- The settings that an entry latches (R300). -/
def collCfgOf (s : State) (n : Nat) : CollCfg :=
  let get (r : Reg) (i hi lo : Nat) : Nat := natBits hi lo (s.regs.took s.part r i)
  let kids := min 8 (get .collCfg n 3 0)
  { root := BitVec.ofNat 16 (get .collTree n 15 0), parent := BitVec.ofNat 16 (get .collTree n 31 16)
    children := (List.range kids).map (fun j => BitVec.ofNat 16 (get .collChild (4 * n + j / 2) (16 * (j % 2) + 15) (16 * (j % 2))))
    isRoot := natBit 0 (get .collCfg n 4 4), isRed := natBit 0 (get .collCfg n 5 5), redop := get .collCfg n 9 6
    delayEn := natBit 0 (get .collCfg n 10 10), timeout := max 10 (get .collCfg n 31 16)
    arriveCue := get .collCues n 12 0, departCue := get .collCues n 28 16
    redSrc := get .redSrcLo n 31 0 + 2 ^ 32 * get .redSrcHi n 15 0
    redDst := get .redDstLo n 31 0 + 2 ^ 32 * get .redDstHi n 15 0
    faultCue := get .redSrcHi n 28 16, faultEn := natBit 0 (get .redSrcHi n 31 31) }

/-- The function whose Slate uses an entry (R310). -/
def slateTie (s : State) (n : Nat) : Option Nat :=
  let f := collFunc s n
  let x := slateAt s f
  if decide (x.st = .armed ∨ x.st = .pointed ∨ x.st = .streaming) && decide (x.id = collName s n) then some f else none

/-- The member waits on the arrive cue (R301, step 1); a Slate's collective has its own arrivals (R310). -/
def armArrive (n : Nat) (s : State) : State :=
  if (slateTie s n).isSome then s
  else
    let c := collAt s n
    waitFrom (collHalf n) (currentHandle s c.cfg.arriveCue) ⟨.collArrive (collHalf n) (n % 128), 1, true⟩
      (setColl n { c with waitIn := true } s)

/-- `VALID` written 1 (R300): the entry latches its committed settings, its take advances, it is OPEN in round 0. -/
def openColl (n : Nat) (s : State) : State :=
  let s := groupTake (collHalf n) (.coll (Fin.ofNat 128 n)) s
  let s := callAdvance (collTakeKey n) s
  armArrive n (setColl n { CollSt.init with st := 1, cfg := collCfgOf s n, startT := s.clock } s)

/-- `VALID` written 0: the entry is CLOSED. -/
def closeColl (n : Nat) (s : State) : State :=
  withdraw (.collArrive (collHalf n) (n % 128)) (setColl n CollSt.init s)

/-- The effect of a write to `COLL_ID`. -/
def collIdAct (n new : Nat) (s : State) : State :=
  let was := rbit s .collId n 31
  let s := rput .collId n new s
  if !was && natBit 31 new then openColl n s
  else if was && !natBit 31 new then closeColl n s
  else s

/-! ### Messages (R302) -/

/-- A Clapper message as a packet. -/
def clapPacket (dest : BitVec 16) (op : Nat) (redop : Nat) (m : ClapMsg) (poison : Bool) : Packet :=
  { blankPkt with
    dest := dest, kind := 2#4, op := BitVec.ofNat 8 op, take := m.take
    addr := BitVec.ofNat 64 (m.coll.toNat + m.round.toNat * 2 ^ 16 + m.status.val * 2 ^ 32 + min m.value (2 ^ 24 - 1) * 2 ^ 40)
    xfield := m.firstExcl, auxf := BitVec.ofNat 4 (if m.red.isSome then redop else 0)
    poison := poisonBits [poison && m.red.isSome], data := m.red.toList }

def clapOpNum : ClapOp → Nat
  | .arrive => 1
  | .depart => 2
  | .delay => 3
  | .extend => 4

/-- Send a Clapper message of an entry, with its current take. -/
def sendClap (n : Nat) (dest : BitVec 16) (op : ClapOp) (status value : Nat) (first : BitVec 16) (red : Option (Sec256 × Bool))
    (s : State) : State :=
  let c := collAt s n
  let m : ClapMsg :=
    { coll := BitVec.ofNat 16 (collName s n), take := BitVec.ofNat 8 (takeSt s (collTakeKey n)).take
      round := BitVec.ofNat 16 c.round, status := Fin.ofNat 3 status, value := min value (2 ^ 24 - 1), firstExcl := first
      red := red.map Prod.fst, src := ownDev s }
  let p := red.any Prod.snd
  sendPacket (clapPacket dest (clapOpNum op) c.cfg.redop m p) (emit (.clap dest op m p) s)

/-- Send to each child in order. -/
def sendKids (n : Nat) (op : ClapOp) (status value : Nat) (first : BitVec 16) (s : State) : State :=
  forEach (collAt s n).cfg.children (fun d s => sendClap n d op status value first none s) s

/-! ### Departure (R301, R307) -/

/-- A round departs OK at this member: a new round begins. -/
def nextRound (n : Nat) (s : State) : State :=
  let c := collAt s n
  armArrive n (setColl n { CollSt.init with
    st := 1, cfg := c.cfg, round := (c.round + 1) % 2 ^ 16, lastStatus := 0, firstExcl := c.firstExcl
    exclCount := c.exclCount, lastContrib := c.lastContrib, lastDelay := c.lastDelay, startT := s.clock } s)

/-- What the departure of the collective of a Slate, or of its barrier, does (R226, R227, R310). -/
def departSlate (n : Nat) (s : State) : State :=
  let c := collAt s n
  match slateTie s n with
  | some f =>
    let x := slateAt s f
    if c.round = 0 then setSlate f { x with flushedAt := some s.clock, round := 1 } s
    else setSlate f { x with round := 2 } s
  | none =>
    let f := collFunc s n
    if (slateAt s f).st = .armed ∧ (slateAt s f).barrier = collName s n then reachPoint f s else s

/-- Write the reduce result to `RED_DST`: false while it cannot be written. An address outside the function's memory is
refused (R25, R489). -/
def putResult (n : Nat) (v : Sec256 × Bool) (s : State) : Bool × State :=
  let c := collAt s n
  let a := c.cfg.redDst / 32 * 32
  if extentIn s (collFunc s n) a 32 then engWrite (.mp (collHalf n)) a ⟨v.1, fullMask, v.2⟩ s
  else (true, cfgEvent (.mp (collHalf n)) a 25 s)

/-- A round departs at this member (R301, step 3; R307): `DEPART` to the children, then the status. False while the result
cannot be written: the children have been told then (`told`). -/
def departColl (n status value : Nat) (first : BitVec 16) (s : State) : Bool × State :=
  let c := collAt s n
  let h := collHalf n
  if status = 0 then
    let tie := (slateTie s n).isSome
    let s := if c.told then s else modColl n (fun c => { c with told := true }) (sendKids n .depart 0 value first s)
    let r : Bool × State :=
      if c.cfg.isRed then
        match c.cfg.isRoot, c.val with
        | true, some v => putResult n v s
        | _, _ =>
          let v := freeNat 256 s
          putResult n (BitVec.ofNat 256 v.1, false) v.2
      else (true, s)
    match r with
    | (false, s) => (false, s)
    | (true, s) =>
      let s := departSlate n s
      let s := when (!tie) (signalNum h c.cfg.departCue 1) s
      (true, nextRound n s)
  else
    let s := sendKids n .depart status value first s
    let s := withdraw (.collArrive h (n % 128)) s
    let s := when c.cfg.faultEn (signalNum h c.cfg.faultCue 1) s
    let s := event h 0x0802 2 (some (collFunc s n)) (n % 128) c.round status s
    let s := match slateTie s n with
      | some f => failSlate f 1 s
      | none => s
    (true, modColl n (fun c => { c with
      st := 3, lastStatus := status, firstExcl := first, exclCount := min value (2 ^ 16 - 1), arrDue := false
      waitIn := false }) s)

/-! ### Arrivals (R301) -/

/-- A line of the function that a guest die holds in A (R194). -/
def guestALines (s : State) (f : Nat) : List (Nat × Nat × DirEnt) :=
  s.coh.dir.filterMap (fun e =>
    let sl := e.1 / 16384
    let line := lineOf (e.1 / 16 % 1024) e.2.tag
    if decide (e.2.st = .a) && decide (natBits 3 0 e.2.locals ≠ 0) && decide (dpaFunc s (lineDpa s sl line) = some f) then
      some (sl, line, e.2) else none)

/-- The merging release of an arrival begins (R194): far caches merge, guest dies' partials are collected. -/
def startMerge (f : Nat) (s : State) : State :=
  forEach (guestALines s f) (fun x s =>
    if (txAt s x.1 x.2.1).isSome then s
    else
      let sites := (dirHolders s x.2.2).filter (fun p => match p.1 with
        | .site _ => true
        | _ => false)
      snoopAll x.1 x.2.1 0x23 x.2.2.redop sites (putTx x.1 x.2.1 (some (newTx none .slate sites false)) s))
    (mergeFuncLines f s)

/-- The merging release of a function is performed: every merge accepted by its home, every write performed at GROUP. -/
def funcGlobal (s : State) (f : Nat) : Bool :=
  s.coh.reqs.all (fun e => !(decide (e.2.func = f) && (decide (e.2.code = 0x05) || decide (e.2.code = 0x06) ||
    decide (e.2.code = 0x08) || decide (e.2.code = 0x0A)))) &&
  s.coh.txs.all (fun e => !(e.2.performed && decide (dpaFunc s (lineDpa s (e.1 / 2 ^ 26) (e.1 % 2 ^ 26)) = some f))) &&
  s.coh.far.all (fun e => match e.2.st with
    | .a _ => decide (e.2.func ≠ f)
    | _ => true) &&
  decide (guestALines s f = [])

/-- A value joins a reduce, in order of arrival (R301, R133). -/
def joinValue (redop : Nat) (v : Sec256 × Bool) : Option (Sec256 × Bool) → Sec256 × Bool
  | none => v
  | some x =>
    match redopOf redop with
    | some ro => (combine ro x.1 v.1, x.2 || v.2)
    | none => v

/-- The member's own part of a reduce is read, once (R301, step 1). A source outside the function's memory is refused: it
counts as poisoned. -/
def readOwn (n : Nat) (s : State) : State :=
  let c := collAt s n
  if c.own then s
  else if !c.cfg.isRed then setColl n { c with own := true } s
  else
    let a := c.cfg.redSrc / 32 * 32
    let put (v : Sec256 × Bool) (s : State) : State :=
      modColl n (fun c => { c with own := true, val := some (joinValue c.cfg.redop v c.val) }) s
    if extentIn s (collFunc s n) a 32 then
      match engRead (.mp (collHalf n)) a s with
      | (some v, s) => put v s
      | (none, s) => s
    else put (0, true) (cfgEvent (.mp (collHalf n)) a 25 s)

/-- Step 2 of R301: when the local arrival is performed and every child has arrived or is excluded, the member sends
`ARRIVE`, or the root departs. -/
def tryUp (n : Nat) (s : State) : State :=
  let s := startMerge (collFunc s n) s
  let c := collAt s n
  if decide (c.st = 2) && c.own && c.sentT.isNone && c.cfg.children.all (fun d => c.got.contains d || c.gone.contains d) &&
      funcGlobal s (collFunc s n) && (curTake s (collTakeKey n)).isSome then
    let status := if c.roundExcl = 0 then 0 else 1
    if c.cfg.isRoot then (departColl n status c.roundExcl c.roundFirst s).2
    else
      setColl n { c with sentT := some s.clock }
        (sendClap n c.cfg.parent .arrive status c.roundExcl c.roundFirst (if c.cfg.isRed then c.val else none) s)
  else s

/-- The local arrival happens now. -/
def arriveNow (n : Nat) (s : State) : State :=
  modColl n (fun c => { c with
    st := 2, arrDue := false, arrT := some s.clock, lastContrib := min (2 ^ 16 - 1) ((s.clock - c.startT) / 1000) }) s

/-- LOCAL_ARRIVAL (R301, R310). The command comes again while the arrival waits for memory or for its merges. -/
def doLocalArrival (n : Nat) (s : State) : State :=
  let c := collAt s n
  if c.st = 1 then
    match slateTie s n with
    | some f =>
      let s := when (decide ((slateAt s f).st = .pointed)) (sendOld f) s
      let x := slateAt s f
      let due : Bool := (decide (c.round = 0) && decide (x.st = .pointed) && slateFlushed s f) ||
        (decide (c.round = 1) && decide (x.st = .streaming) && slateAllDone s f)
      if due then tryUp n (readOwn n (arriveNow n s)) else s
    | none => if c.arrDue then tryUp n (readOwn n (arriveNow n s)) else s
  else if c.st = 2 then tryUp n (readOwn n s)
  else s

/-- A Clapper packet that R303 discards. -/
def clapStale (s : State) : State := countLink .collStale s

/-- The entry of a message whose take is current (R303). -/
def clapEntry (s : State) (m : ClapMsg) : Option Nat :=
  match collNamed s m.coll.toNat with
  | some n => if curTake s (collTakeKey n) = some m.take.toNat then some n else none
  | none => none

/-- ARRIVE (R301, R303). -/
def doArrive (m : ClapMsg) (poison : Bool) (s : State) : State :=
  match clapEntry s m with
  | none => clapStale s
  | some n =>
    let c := collAt s n
    if decide (c.st = 0) || decide (c.st = 3) || decide (c.round ≠ m.round.toNat) || !c.cfg.children.contains m.src ||
        c.gone.contains m.src then clapStale s
    else if c.got.contains m.src then s
    else if c.cfg.isRed && m.red.isNone then countLink .badPkt s
    else
      let v := match c.cfg.isRed, m.red with
        | true, some d => some (joinValue c.cfg.redop (d, poison) c.val)
        | _, _ => c.val
      tryUp n (setColl n { c with
        got := c.got ++ [m.src], val := v, roundExcl := c.roundExcl + m.value
        roundFirst := if c.roundExcl = 0 then m.firstExcl else c.roundFirst } s)

/-- DEPART (R301, R303, R305): false while the reduce result cannot be written. -/
def doDepart (m : ClapMsg) (s : State) : Bool × State :=
  match clapEntry s m with
  | none => (true, clapStale s)
  | some n =>
    let c := collAt s n
    if c.cfg.isRoot ∨ m.src ≠ c.cfg.parent ∨ c.st = 0 then (true, clapStale s)
    else if c.round = m.round.toNat then
      if c.st = 3 then (true, s) else departColl n m.status.val m.value m.firstExcl s
    else if c.round = (m.round.toNat + 1) % 2 ^ 16 then (true, s)
    else (true, clapStale s)

/-! ### Timeouts (R304–R306) -/

/-- Clock units of a time in 0.1 ms. -/
def tenths (n : Nat) : Nat := 1000 * n

/-- CHILD_WAIT_TIMEOUT (R304, R305): missing children are excluded. -/
def doChildTimeout (n : Nat) (s : State) : State :=
  let c := collAt s n
  let missing := c.cfg.children.filter (fun d => !(c.got.contains d || c.gone.contains d))
  match c.st, c.arrT with
  | 2, some t =>
    if missing = [] ∨ c.sentT.isSome then s
    else
      let s := atTime (t + tenths (min (c.cfg.timeout + c.ext) (4 * c.cfg.timeout))) s
      let s := forEach missing (fun d s =>
        eventD (collHalf n) 0x0802 2 (some (collFunc s n)) (n % 128) c.round 1 d.toNat s) s
      tryUp n (readOwn n (setColl n { c with
        gone := c.gone ++ missing, roundExcl := c.roundExcl + missing.length
        roundFirst := if c.roundExcl = 0 then missing.headD 0 else c.roundFirst } s))
  | _, _ => s

/-- DEPART_WAIT_TIMEOUT (R304, R306). -/
def doDepartTimeout (n : Nat) (s : State) : State :=
  let c := collAt s n
  match c.st, c.sentT with
  | 2, some t => if c.told then s else (departColl n 2 c.roundExcl c.roundFirst (atTime (t + tenths (4 * c.cfg.timeout) + 20000) s)).2
  | _, _ => s

/-! ### Delay notices (R308, R309) -/

/-- The stacks that hold memory of a function, and whether it has a near partition. -/
def funcStacks (s : State) (f : Nat) : List Nat :=
  let segs := (listedSegs s).filter (fun g => decide (segFunc s g = some f))
  (List.range (8 * numHalves s)).filter (fun k => segs.any (fun g =>
    let sp := segSpan s (rget s .segMap g)
    decide (sp.2.2.1 ≤ 16 * k) && decide (16 * k < sp.2.2.1 + sp.2.2.2)))
def funcNear (s : State) (f : Nat) : Bool :=
  (listedSegs s).any (fun g => decide (segFunc s g = some f) && decide (segMode s g = 2))

/-- The band of a stack as the Clapper block of a half knows it. -/
def knownBand (s : State) (h : Half) (k : Nat) : Nat :=
  if halfOf 8 k = h then (stackAt s k).band else (stackAt s k).noticeBand

/-- The delay of R308 in 0.1 ms. -/
def delayOf (s : State) (n : Nat) : Nat :=
  let c := collAt s n
  let f := collFunc s n
  let bands := (funcStacks s f).map (knownBand s (collHalf n))
  let hold := if bands.contains 4 then 50000 else 0
  let b := (bands.map (fun x => min x 3)).sum
  let m := min 8 (if s.part = .mb1 ∨ funcNear s f then 2 * b else b)
  let left := tenths c.lastContrib - (s.clock - c.startT)
  (hold * (16 - m) + left * m + (16 - m) * 1000 - 1) / ((16 - m) * 1000)

/-- The root learns of a delay (R309): the extension grows to the largest notified, at most three timeouts. -/
def rootDelay (n : Nat) (src : BitVec 16) (d : Nat) (s : State) : State :=
  let c := collAt s n
  let l := (src, d) :: c.notices.filter (fun x => decide (x.1 ≠ src))
  let e := min ((l.map Prod.snd).foldl max 0) (3 * c.cfg.timeout)
  let s := setColl n { c with notices := l, ext := max c.ext e } s
  if c.ext < e then sendKids n .extend 0 e 0 s else s

/-- BAND_NOTICE (R308): the band change of a stack reaches an entry. -/
def doBandNotice (n : Nat) (s : State) : State :=
  let c := collAt s n
  let d := delayOf s n
  if decide (c.st = 1) && c.cfg.delayEn && decide (funcStacks s (collFunc s n) ≠ []) && decide (c.cfg.timeout < 2 * d) &&
      c.notices.all (fun x => decide (x.1 ≠ ownDev s) || decide (x.2 < d)) then
    let first := c.notices.all (fun x => decide (x.1 ≠ ownDev s))
    let s := modColl n (fun c => { c with lastDelay := if first then d else max c.lastDelay d }) s
    if c.cfg.isRoot then rootDelay n (ownDev s) d s
    else
      sendClap n c.cfg.root .delay 0 d 0 none
        (modColl n (fun c => { c with notices := [(ownDev s, d)] }) s)
  else s

/-- DELAY_NOTICE (R309): `DELAY` arrives at the root. -/
def doDelayNotice (m : ClapMsg) (s : State) : State :=
  match clapEntry s m with
  | none => clapStale s
  | some n =>
    let c := collAt s n
    if decide (c.st = 1 ∨ c.st = 2) && c.cfg.isRoot && decide (c.round = m.round.toNat) then rootDelay n m.src m.value s
    else clapStale s

/-- EXTEND (R309): applied and forwarded. -/
def doExtend (m : ClapMsg) (s : State) : State :=
  match clapEntry s m with
  | none => clapStale s
  | some n =>
    let c := collAt s n
    if decide (c.st = 1 ∨ c.st = 2) && !c.cfg.isRoot && decide (m.src = c.cfg.parent) && decide (c.round = m.round.toNat) then
      sendKids n .extend 0 m.value 0 (setColl n { c with ext := max c.ext m.value } s)
    else clapStale s

/-! ### Cuts (R312) -/

/-- Each collective entry of a function that is Cut sends nothing more, is BROKEN, and advances its take. -/
def cutColls (f : Nat) (s : State) : State :=
  forEach s.link.colls (fun e s =>
    if e.2.st ≠ 0 ∧ collFunc s e.1 = f then
      callAdvance (collTakeKey e.1) (withdraw (.collArrive (collHalf e.1) (e.1 % 128))
        (modColl e.1 (fun c => { c with st := 3, arrDue := false, waitIn := false }) s))
    else s) s

/-! ### Commands -/

/-- The number of an entry. -/
def collNum (h : Half) (k : Fin 128) : Nat := 128 * h.num + k.val

/-- COLL_VALID_WRITE (R300). -/
def execCollValidWrite (ag : Agent) (h : Half) (k : Fin 128) (v : BitVec 32) (s : State) : Outcome :=
  onAgent s ag (.next (regStore ag h .collId (collNum h k) v.toNat (collIdAct (collNum h k)) s))
/-- LOCAL_ARRIVAL (R301). -/
def execLocalArrival (h : Half) (k : Fin 128) (s : State) : Outcome := onHalf s h (.next (doLocalArrival (collNum h k) s))
/-- ARRIVE (R301). -/
def execArrive (m : ClapMsg) (s : State) : Outcome := .next (doArrive m false s)
/-- DEPART (R301). -/
def execDepart (m : ClapMsg) (s : State) : Outcome := .next (doDepart m s).2
/-- CHILD_WAIT_TIMEOUT (R305). -/
def execChildWaitTimeout (h : Half) (k : Fin 128) (s : State) : Outcome :=
  onHalf s h (.next (doChildTimeout (collNum h k) s))
/-- DEPART_WAIT_TIMEOUT (R306). -/
def execDepartWaitTimeout (h : Half) (k : Fin 128) (s : State) : Outcome :=
  onHalf s h (.next (doDepartTimeout (collNum h k) s))
/-- BAND_NOTICE (R308). -/
def execBandNotice (h : Half) (k : Fin 128) (s : State) : Outcome := onHalf s h (.next (doBandNotice (collNum h k) s))
/-- DELAY_NOTICE (R309). -/
def execDelayNotice (m : ClapMsg) (s : State) : Outcome := .next (doDelayNotice m s)
/-- EXTEND (R309). -/
def execExtend (m : ClapMsg) (s : State) : Outcome := .next (doExtend m s)

end Sys2Proof.Machine
end

