-- ==== Sys2Proof/Machine/Fabric.lean ====
section
/-! DEFINITION. The array sequencer (R72–R76, R81–R107): images and their load checks, contexts, steps, crossbar
streams, sparing, and what a Cut does to the fabric. -/

namespace Sys2Proof.Machine

open Sys2Proof

/-! ### Reading an image (R89, R490) -/

/-- A little-endian field of a byte list. -/
def fieldAt (b : List Byte) (off n : Nat) : Nat := leNat ((b.drop off).take n)
/-- The 32-bit word at an offset. -/
def word4 (b : List Byte) (off : Nat) : Nat := fieldAt b off 4

/-- A cell record (chapter 3). -/
def cellRecOf (b : List Byte) : CellRec :=
  let w0 := word4 b 0
  { cell := natBits 7 0 w0, fmtA := natBits 11 8 w0, fmtB := natBits 15 12 w0, phases := natBits 22 16 w0
    route := word4 b 4, progStart := word4 b 8, progWords := natBits 8 0 (word4 b 0xC), preSrc := word4 b 0x10
    preBytes := natBits 14 0 (word4 b 0x14), preDst := natBits 13 0 (word4 b 0x18) }

/-- Reserved bits of a cell record. -/
def cellRecReserved (b : List Byte) : Bool :=
  decide (natBits 31 23 (word4 b 0) = 0) && decide (natBits 31 28 (word4 b 4) = 0) && decide (natBits 31 9 (word4 b 0xC) = 0) &&
  decide (natBits 31 15 (word4 b 0x14) = 0) && decide (natBits 31 14 (word4 b 0x18) = 0) && decide (word4 b 0x1C = 0)

/-- A stream record. -/
def streamRecOf (b : List Byte) : StreamRec :=
  let w0 := word4 b 0
  { port := natBits 2 0 w0, edge := natBits 7 4 w0, base := natBits 47 0 (fieldAt b 8 8)
    rowBytes := natBits 20 0 (word4 b 0x10), count1 := fieldAt b 0x14 2, count2 := fieldAt b 0x16 2
    stride1 := sext 32 (word4 b 0x18), stride2 := sext 32 (word4 b 0x1C) }

def streamReserved (b : List Byte) : Bool :=
  decide (natBit 3 (word4 b 0) = false) && decide (natBits 31 8 (word4 b 0) = 0) && decide (word4 b 4 = 0) &&
  decide (fieldAt b 0xE 2 = 0) && decide (natBits 31 21 (word4 b 0x10) = 0)

/-- The limits of a stream record (check 3). -/
def streamOk (r : StreamRec) : Bool :=
  decide (r.port ≤ 5) && decide (r.base % 64 = 0) && decide (r.rowBytes % 64 = 0) && decide (64 ≤ r.rowBytes) &&
  decide (r.rowBytes ≤ 2 ^ 20) && decide (1 ≤ r.count1) && decide (1 ≤ r.count2) && decide (r.stride1 % 64 = 0) &&
  decide (r.stride2 % 64 = 0)

/-- A step word (R98), with its `PREEMPT` bit: none for an opcode or operand outside the table. `len`, `streams`, `cues`:
the image's counts; `at_`: the step's own index. -/
def stepOf (w at_ streams cues : Nat) : Option (StepOp × Bool) :=
  let pre := natBit 58 w
  let ops := natBits 57 0 w
  let op : Option StepOp :=
    match natBits 63 59 w with
    | 0 => if ops = 0 then some .stEnd else none
    | 1 => if ops / 2 ^ 9 = 0 ∧ natBits 7 6 ops = 0 then some (.stPhase (natBits 5 0 ops) (natBit 8 ops)) else none
    | 2 => if ops < 64 ∧ ops < streams then some (.stStream ops) else none
    | 3 => if ops < 64 ∧ ops < streams then some (.stStreamWait ops) else none
    | 4 =>
      if ops / 2 ^ 23 = 0 ∧ natBits 5 0 ops < cues ∧ 1 ≤ natBits 21 6 ops then
        some (.stCueWait (natBits 5 0 ops) (natBits 21 6 ops) (natBit 22 ops)) else none
    | 5 =>
      if ops / 2 ^ 14 = 0 ∧ natBits 5 0 ops < cues ∧ 1 ≤ natBits 13 6 ops then
        some (.stCueSignal (natBits 5 0 ops) (natBits 13 6 ops)) else none
    | 6 =>
      if ops / 2 ^ 28 = 0 ∧ natBits 9 0 ops < at_ ∧ 1 ≤ natBits 25 10 ops then
        some (.stLoop (natBits 9 0 ops) (natBits 25 10 ops) (natBits 27 26 ops)) else none
    | 7 => if ops / 2 ^ 20 = 0 then some (.stDelay ops) else none
    | _ => none
  op.map (fun o => (o, pre))

/-- The image header: 64 bytes. -/
structure ImgHdr where
  bytes : Nat
  crc : Nat
  seedFromField : Bool
  arith : Nat
  seed : Nat
  cells : Nat
  steps : Nat
  streams : Nat
  cues : Nat
  next : Option Nat
  lsBase : Nat
  lsRows : Nat
  cellOff : Nat
  progOff : Nat
  stepOff : Nat
  streamOff : Nat
  cueOff : Nat
  cueCrc : Nat
  /-- magic, version, counts, limits, offsets and reserved bits are valid -/
  ok : Bool
  deriving DecidableEq, Repr

/-- `IMAGE_BYTES` is within its limits. -/
def bytesOk (n : Nat) : Bool := decide (n % 8 = 0) && decide (n ≤ 0x00500000)

/-- Read the header. -/
def imgHdr (b : List Byte) : ImgHdr :=
  let w4 := word4 b 4
  let w10 := word4 b 0x10
  let w18 := word4 b 0x18
  let w1C := word4 b 0x1C
  let w20 := word4 b 0x20
  let cells := natBits 8 0 w18
  let steps := natBits 20 10 w18
  let streams := natBits 27 21 w18
  let cues := natBits 6 0 w1C
  let lsB := natBits 6 0 w20
  let lsR := natBits 15 8 w20
  let offs := [word4 b 0x24, word4 b 0x28, word4 b 0x2C, word4 b 0x30, word4 b 0x34]
  let ok := decide (word4 b 0 = 0x46434E4D) && decide (natBits 15 0 w4 = 1) && decide (natBits 31 17 w4 = 0) &&
    bytesOk (word4 b 8) && decide (natBits 31 3 w10 = 0) && decide (1 ≤ cells ∧ cells ≤ 256) && !natBit 9 w18 &&
    decide (1 ≤ steps ∧ steps ≤ 1024) && decide (streams ≤ 64) && decide (natBits 31 28 w18 = 0) && decide (cues ≤ 64) &&
    !natBit 7 w1C && decide (natBits 31 11 w1C = 0) && !natBit 7 w20 && decide (lsR ≤ 128 ∧ lsB + lsR ≤ 128) &&
    decide (natBits 31 16 w20 = 0) && decide (word4 b 0x3C = 0) && offs.all (fun o => decide (o % 8 = 0))
  { bytes := word4 b 8, crc := word4 b 0xC, seedFromField := natBit 16 w4, arith := natBits 2 0 w10
    seed := word4 b 0x14, cells := cells, steps := steps, streams := streams, cues := cues
    next := if natBit 10 w1C then some (natBits 9 8 w1C) else none
    lsBase := lsB, lsRows := lsR, cellOff := word4 b 0x24, progOff := word4 b 0x28, stepOff := word4 b 0x2C
    streamOff := word4 b 0x30, cueOff := word4 b 0x34, cueCrc := word4 b 0x38, ok := ok }

/-- Read an engine's section of an image: poisoned data reads as a section that fails its check (none). -/
structure Section where
  bytes : List Byte
  poison : Bool

/-- Read the bytes of a section; none while memory cannot be read. -/
def readSection (ag : Agent) (a n : Nat) (s : State) : Option Section × State :=
  match engBytes ag a n s with
  | (some (b, p), s) => (some ⟨b, p⟩, s)
  | (none, s) => (none, s)

/-- Chunks of `n` bytes. -/
def chunks (n count : Nat) (b : List Byte) : List (List Byte) := (List.range count).map (fun i => (b.drop (n * i)).take n)

/-- Two extents [a, a + n) meet. -/
def meets (a n b m : Nat) : Bool := decide (0 < n) && decide (0 < m) && decide (a < b + m) && decide (b < a + n)

/-- R490: every section within the image, past its header, the cue table apart from the others. -/
def sectionsOk (hd : ImgHdr) (cells : List CellRec) : Bool :=
  let progEnd := cells.foldl (fun m r => max m (r.progStart + 8 * r.progWords)) 0
  let secs := [(hd.cellOff, 32 * hd.cells), (hd.progOff, progEnd), (hd.stepOff, 8 * hd.steps), (hd.streamOff, 32 * hd.streams)] ++
    cells.map (fun r => (r.preSrc, r.preBytes))
  let cue := (hd.cueOff, 4 * hd.cues)
  (cue :: secs).all (fun x => decide (x.1 + x.2 ≤ hd.bytes) && !meets x.1 x.2 0 64) &&
  secs.all (fun x => !meets cue.1 cue.2 x.1 x.2)

/-- The limits of a cell record (check 3). -/
def cellRecOk (r : CellRec) : Bool :=
  decide (r.progWords ≤ 256) && decide (r.preBytes % 4 = 0) && decide (r.preDst % 128 = 0)

/-! ### The checks of the fabric (check 5: R85–R88, R91, R98) -/

/-- The pair of format codes is accepted. -/
def pairOk (r : CellRec) : Bool :=
  (decide (r.fmtA = 0) && decide (r.fmtB = 0)) ||
  (decide (r.fmtA ≤ 12) && decide (r.fmtB ≤ 12) &&
    (macPair (macFmt r.fmtA) (macFmt r.fmtB) || macPair (macFmt r.fmtB) (macFmt r.fmtA)))

/-- The edge port that a stream's crossbar port attaches to: cell and side (R91). -/
def portEdge (r : StreamRec) : Nat × Dir :=
  match r.port with
  | 0 => (r.edge, .n)
  | 1 => (r.edge, .n)
  | 2 => (16 * r.edge, .w)
  | 3 => (16 * r.edge, .w)
  | 4 => (240 + r.edge, .s)
  | _ => (16 * r.edge + 15, .e)

/-- An array edge port of a cell: it may be used only when a stream attaches to it (R87). -/
def edgeOk (streams : List StreamRec) (c : Nat) (d : Dir) (out : Bool) : Bool :=
  match neighbour c d with
  | some _ => true
  | none => streams.any (fun r => decide (portEdge r = (c, d)) && (decide (4 ≤ r.port) == out))

/-- A route word is accepted (R86, R87). -/
def routeOk (streams : List StreamRec) (r : CellRec) : Bool :=
  let inOk (code : Nat) : Bool :=
    match allDirs.find? (fun d => decide (portCode d = code)) with
    | some d => edgeOk streams r.cell d false
    | none => true
  let outOk (o : Dir) : Bool :=
    let src := routeSrc r.route (dirNum o)
    decide (src ≤ 8) && decide (src ≠ portCode o) && (decide (src ≠ 6 ∧ src ≠ 7) || decide (r.fmtA ≠ 0)) && inOk src &&
      (decide (src = 0) || edgeOk streams r.cell o true)
  let macOk (j : Nat) : Bool :=
    let src := routeSrc r.route j
    decide (src ≤ 5) && inOk src
  allDirs.all outOk && macOk 4 && macOk 5 &&
    allDirs.all (fun d => !natBit (16 + dirNum d) r.route || edgeOk streams r.cell d false)

/-- A cell program is accepted (R88): phase entries in range, banks of MAC issues and read-outs. -/
def progOk (r : CellRec) (prog : List W64) : Bool :=
  decide (r.phases ≤ 64) && decide (r.phases ≤ r.progWords) &&
  (prog.take r.phases).all (fun e =>
    let w := e.toNat
    let ins := prog.drop r.phases
    decide (1 ≤ phLen w ∧ phLen w ≤ 255) && decide (phStart w + phLen w ≤ r.progWords - r.phases) &&
    decide (natBits 63 31 w = 0) &&
    ((ins.drop (phStart w)).take (phLen w)).all (fun i =>
      let op := natBits 63 56 i.toNat
      (decide (op ≠ 0x40) || (natBit 0 i.toNat == phBank w)) && (decide (op ≠ 0x41) || (natBit 0 i.toNat != phBank w))))

/-- Attachments of ports to edges (R91). -/
def attachOk (streams : List StreamRec) : Bool :=
  streams.all (fun a => streams.all (fun b =>
    if a.port = b.port then decide (a.edge = b.edge) else decide (portEdge a ≠ portEdge b)))

/-- Check 5. -/
def fabricOk (m : Image) (rawSteps : Nat) : Bool :=
  m.cells.all (fun r => pairOk r && routeOk m.streams r &&
progOk r (cellProg m r.cell)) &&
  decide (m.steps.length = rawSteps) && attachOk m.streams && decide ((m.cells.map (fun r => r.cell)).Nodup)

/-! ### Extents and windows (checks 6 and 7) -/

/-- The lowest byte and the length of a stream's extent (R92). -/
def streamExtent (r : StreamRec) : Int × Nat :=
  let s1 := ((r.count1 : Int) - 1) * r.stride1
  let s2 := ((r.count2 : Int) - 1) * r.stride2
  let lo := (r.base : Int) + min 0 s1 + min 0 s2
  let hi := (r.base : Int) + max 0 s1 + max 0 s2 + r.rowBytes - 1
  (lo, (hi - lo + 1).toNat)

/-- Every 128 KiB piece of scratchpad in an extent lies in a scratch way of the function. -/
def scratchExtent (s : State) (f a len : Nat) : Bool :=
  let first := a / 2 ^ 17
  let last := (a + len - 1) / 2 ^ 17
  decide (0 < len) && decide (last - first ≤ 8192) &&
  (a :: (a + len - 1) :: (List.range (last - first)).map (fun i => (first + 1 + i) * 2 ^ 17)).all
    (fun b => decide (scratchFunc s b = some f))

/-- A stream's extent is the function's (R92, check 6). -/
def streamExtentOk (s : State) (f : Nat) (r : StreamRec) : Bool :=
  let e := streamExtent r
  decide (0 ≤ e.1) && (extentIn s f e.1.toNat e.2 || scratchExtent s f e.1.toNat e.2)

/-- A preload lies in the image's window. -/
def preloadOk (m : Image) (r : CellRec) : Bool :=
  decide (r.preBytes = 0) || (decide (128 * m.lsBase ≤ r.preDst) && decide (r.preDst + r.preBytes ≤ 128 * (m.lsBase + m.lsRows)))

/-- The windows of two images overlap. -/
def windowsMeet (a b : Image) : Bool := meets a.lsBase a.lsRows b.lsBase b.lsRows

/-- The window of a context: of its image, or of the one being loaded. -/
def ctxWindow (x : Ctx) : Option Image :=
  match x.img with
  | some m => some m
  | none => x.loadImg

/-- The image names a cell in the map-out list of a physical array. -/
def namesOut (m : Image) (outs : List Nat) : Bool := m.cells.any (fun r => outs.contains r.cell)

/-- The lowest free spare of a half (R105). -/
def freeSparePhys (s : State) (h : Half) : Option Nat :=
  (List.range 72).find? (fun p => decide ((physAt s (physKeyOf h p)).role = 1))

/-! ### Results (R100) -/

/-- Write `LAST_RESULT`: 0 OK, 1 STATE, 2 ACTIVE, 3 IMAGE, 4 ADDRESS, 5 CUE, 6 FABRIC, 7 LS_OVERLAP, 8 REMAP_BUSY,
9 NO_SPARE. -/
def ctxResult (h : Half) (i k r : Nat) (s : State) : State := setCtx h i k { ctxAt s h i k with lastResult := r } s

/-- A context becomes EMPTY. -/
def emptyCtx (h : Half) (i k : Nat) (s : State) : State :=
  setCtx h i k { Ctx.init with lastResult := (ctxAt s h i k).lastResult } s

/-- The other contexts of an array. -/
def otherCtx (k : Nat) : List Nat := ([0, 1, 2, 3] : List Nat).filter (fun j => j ≠ k)

/-! ### LOAD (R89, R90, R105) -/

/-- What the check stage found: the image, or the failing result; `rawSteps` words of the step program. -/
structure Checked where
  img : Image
  result : Nat

/-- The agent of a logical array. -/
def arrayAgent (h : Half) (i : Nat) : Agent := .array h (Fin.ofNat 64 i)

/-- The committed image address of a context. -/
def imageAddr (s : State) (h : Half) (i k : Nat) : Nat :=
  rget s .ctxImageLo (ctxKey h i k) + rbits s .ctxImageHi (ctxKey h i k) 15 0 * 2 ^ 32

/-- What reading an image found: nothing yet, an image that check 3 refuses, or the parsed image. -/
inductive ImageGot where
  | later
  | bad
  | image (m : Image) (rawSteps : Nat)

/-- Read the cell programs behind the other sections, and apply the rest of check 3. -/
def readProgs (ag : Agent) (a : Nat) (hd : ImgHdr) (cells : List CellRec) (streams steps cues : List Byte) (s : State) :
    ImageGot × State :=
  let progEnd := cells.foldl (fun m r => max m (r.progStart + 8 * r.progWords)) 0
  match readSection ag (a + hd.progOff) progEnd s with
  | (none, s) => (.later, s)
  | (some pr, s) =>
    let words (r : CellRec) : List W64 :=
      (List.range r.progWords).map (fun j => BitVec.ofNat 64 (fieldAt pr.bytes (r.progStart + 8 * j) 8))
    let sb := chunks 32 hd.streams streams
    let ops := (List.range hd.steps).filterMap (fun j => stepOf (fieldAt steps (8 * j) 8) j hd.streams hd.cues)
    let cs := (List.range hd.cues).map (fun j => BitVec.ofNat 32 (word4 cues (4 * j)))
    let m : Image := {
      addr := a, bytes := hd.bytes, crc := BitVec.ofNat 32 hd.crc, arith := hd.arith
      seed := BitVec.ofNat 32 hd.seed, seedFromField := hd.seedFromField, nextCtx := hd.next
      lsBase := hd.lsBase, lsRows := hd.lsRows, cells := cells, progs := cells.map (fun r => (r.cell, words r))
      steps := ops, streams := sb.map streamRecOf, cues := cs, cueOff := hd.cueOff, cueCount := hd.cues }
    let ok := sb.all streamReserved && m.streams.all streamOk && cs.all (fun c => !malformed c) &&
      decide (crc32 cues = hd.cueCrc) && !pr.poison
    (if ok then .image m hd.steps else .bad, s)

/-- Read the sections behind a header, which lie within the image (R490), and parse them. The rules of check 3 that name offsets
are applied before what lies there is read. -/
def readImage (ag : Agent) (a : Nat) (hd : ImgHdr) (s : State) : ImageGot × State :=
  if !sectionsOk hd [] then (.bad, s)
  else
    match readSection ag (a + hd.cellOff) (32 * hd.cells) s with
    | (none, s) => (.later, s)
    | (some cs, s) =>
      let cb := chunks 32 hd.cells cs.bytes
      let cells := cb.map cellRecOf
      if cs.poison || !cb.all cellRecReserved || !cells.all cellRecOk || !sectionsOk hd cells then (.bad, s)
      else
        match readSection ag (a + hd.streamOff) (32 * hd.streams) s with
        | (none, s) => (.later, s)
        | (some ss, s) =>
          match readSection ag (a + hd.stepOff) (8 * hd.steps) s with
          | (none, s) => (.later, s)
          | (some st, s) =>
            match readSection ag (a + hd.cueOff) (4 * hd.cues) s with
            | (none, s) => (.later, s)
            | (some cu, s) =>
              if ss.poison || st.poison || cu.poison then (.bad, s)
              else readProgs ag a hd cells ss.bytes st.bytes cu.bytes s

/-- Checks 4 to 9 on a parsed image: the result code, 0 when they pass. -/
def lateChecks (s : State) (h : Half) (i k f : Nat) (m : Image) (rawSteps : Nat) : Nat :=
  let p := physAt s (physKeyOf h (((larr s h i).phys).getD 0))
  let others := (otherCtx k).map (fun j => ctxAt s h i j)
  if !m.cues.all (fun c => handleCurrent s c && decide (cueFunc s (cueNum c) = some f)) then 5
  else if !fabricOk m rawSteps then 6
  else if !(m.streams.all (streamExtentOk s f)) || !(m.cells.all (preloadOk m)) then 4
  else if others.any (fun x => ctxActive x && ((ctxWindow x).map (windowsMeet m)).getD false) then 7
  else if namesOut m p.mapOut && others.any ctxActive then 8
  else if namesOut m p.mapOut && (freeSparePhys s h).isNone then 9
  else 0

/-- The cluster of a physical array wakes if it is gated, and is ON 3 µs later (R105, R410). -/
def wakeCluster (h : Half) (p : Nat) (s : State) : State :=
  let n := 35 * h.num + 2 + p / 4
  if (domAt s n).st = 2 then
    modDom n (fun d => { d with st := 1, wakes := (d.wakes + 1) % 2 ^ 16 }) (atTime (s.clock + us 3) s)
  else s

/-- The logical array moves to the lowest free spare (R105): every other context becomes EMPTY, but one in STALE stays in it. A
FAULTED context becomes EMPTY (step 1 against R74: DESIGN CHOICE, log entry 22). -/
def moveToSpare (h : Half) (i k : Nat) (s : State) : State :=
  match freeSparePhys s h with
  | none => s
  | some sp =>
    let l := larr s h i
    let old := physKeyOf h (l.phys.getD 0)
    let s := forEach (otherCtx k) (fun j s => if (ctxAt s h i j).st = .stale then s else emptyCtx h i j s) s
    let s := setPhys old { physAt s old with role := 2 } s
    let s := setPhys (physKeyOf h sp) { physAt s (physKeyOf h sp) with role := 0, logical := i } s
    let a := s.fab.larr.insert (64 * h.num + i) { l with phys := some sp, spared := true }
    wakeCluster h sp
      (event h 0x0203 0 (arrayFunc s h i) (64 * h.num + i) sp 105 { s with fab := { s.fab with larr := a } })

/-- The check stage passed: overlapping contexts become EMPTY, the array moves when it must, the write stage begins. -/
def beginWrite (h : Half) (i k : Nat) (m : Image) (s : State) : State :=
  let s := forEach (otherCtx k) (fun j s =>
    if ((ctxWindow (ctxAt s h i j)).map (windowsMeet m)).getD false then emptyCtx h i j s else s) s
  let p := physAt s (physKeyOf h (((larr s h i).phys).getD 0))
  let s := if namesOut m p.mapOut then moveToSpare h i k s else s
  setCtx h i k { Ctx.init with st := .loading, loadImg := some m } s

/-- LOAD refused by a check after the first: the context becomes EMPTY. -/
def failLoad (h : Half) (i k r : Nat) (s : State) : State := ctxResult h i k r (emptyCtx h i k s)

/-- Checks 2 to 9 on the image at an address: the context is LOADING, and stays so while memory lets a read wait. -/
def loadChecks (h : Half) (i k a : Nat) (s : State) : State :=
  let ag := arrayAgent h i
  match arrayFunc s h i with
  | none => failLoad h i k 4 s
  | some f =>
    if !extentIn s f a 64 then failLoad h i k 4 s
    else
      match readSection ag a 64 s with
      | (none, s) => s
      | (some hb, s) =>
        let hd := imgHdr hb.bytes
        if bytesOk hd.bytes && !extentIn s f a (max 64 hd.bytes) then failLoad h i k 4 s
        else if !hd.ok || hb.poison then failLoad h i k 3 s
        else
          match readImage ag a hd s with
          | (.later, s) => s
          | (.bad, s) => failLoad h i k 3 s
          | (.image m raw, s) =>
            let r := lateChecks s h i k f m raw
            if r = 0 then beginWrite h i k m s else failLoad h i k r s

/-- The action LOAD (R89, R100): check 1, then the check stage. -/
def doLoad (h : Half) (i k : Nat) (s : State) : State :=
  let x := ctxAt s h i k
  match (larr s h i).phys with
  | none => ctxResult h i k 1 s
  | some p =>
    if x.st = .loading ∨ ctxActive x then ctxResult h i k 1 s
    else
      let a := imageAddr s h i k
      loadChecks h i k a (wakeCluster h p (setCtx h i k { Ctx.init with st := .loading, loadFrom := some a } s))

/-! ### START, STOP, DROP, switches (R100–R102) -/

/-- Words left in the switch input buffers of an array are discarded and recorded (R102). -/
def discardWords (h : Half) (i : Nat) (s : State) : State :=
  let p := physKeyOf h (((larr s h i).phys).getD 0)
  let mine (e : Nat × CellSt) : Bool := decide (e.1 / 256 = p)
  let n := ((s.fab.cells.filter mine).map (fun e =>
    e.2.bufN.length + e.2.bufE.length + e.2.bufS.length + e.2.bufW.length)).sum
  let cl (x : CellSt) : CellSt := { x with
    bufN := [], bufE := [], bufS := [], bufW := [], takN := HeadTaken.init, takE := HeadTaken.init, takS := HeadTaken.init
    takW := HeadTaken.init, fwdA := [], fwdB := [], takFA := [], takFB := [], vecOut := [] }
  let cells := s.fab.cells.map (fun e => if mine e then (e.1, cl e.2) else e)
  let s := { s with fab := { s.fab with cells := cells } }
  if n = 0 then s else eventD h 0x0204 0 (arrayFunc s h i) (64 * h.num + i) 0 102 n s

/-- The port queues of an array are empty. -/
def clearPorts (h : Half) (i : Nat) (s : State) : State :=
  let q := s.fab.portQ.filter (fun e => decide (e.1 / 8 ≠ 64 * h.num + i))
  { s with fab := { s.fab with portQ := q } }

/-- A context starts: at step 0 with loop counters zero, or at the step a STOP held it at (R100). -/
def startCtx (h : Half) (i k : Nat) (s : State) : State :=
  let s := wakeCluster h ((larr s h i).phys.getD 0) (clearPorts h i (discardWords h i s))
  let x := ctxAt s h i k
  let held := x.held && decide (x.st = .ready)
  noteProgress h i (setCtx h i k { x with
    st := .running, step := if held then x.step else 0, lc := if held then x.lc else [0, 0, 0, 0]
    held := false, stopPend := false, running := [], words := [], phaseWait := none, issued := false, delayUntil := none
    streams := [], flagged := false, startWhenReady := false, fault := 0 } s)

/-- The action START (R74, R82, R100). -/
def doStart (h : Half) (i k : Nat) (s : State) : State :=
  let x := ctxAt s h i k
  if (larr s h i).phys = none ∨ ¬(x.st = .ready ∨ x.st = .done) then ctxResult h i k 1 s
  else if (activeCtx s h i).isSome then ctxResult h i k 2 s
  else startCtx h i k (ctxResult h i k 0 s)

/-- The action STOP: a request, taken at the next stop point. -/
def doStop (h : Half) (i k : Nat) (s : State) : State :=
  let x := ctxAt s h i k
  if (larr s h i).phys.isSome ∧ ctxActive x then setCtx h i k { x with lastResult := 0, stopPend := true } s
  else ctxResult h i k 1 s

/-- The action DROP. It empties a STALE or FAULTED context too (R74 against R100: DESIGN CHOICE, log entry 22). -/
def doDrop (h : Half) (i k : Nat) (s : State) : State :=
  let x := ctxAt s h i k
  if (larr s h i).phys = none ∨ ctxActive x then ctxResult h i k 1 s
  else ctxResult h i k 0 (emptyCtx h i k s)

/-- The effect of a write to `CTX_CTRL`. -/
def ctxCtrlAct (h : Half) (i k new : Nat) (s : State) : State :=
  match new % 8 with
  | 1 => doLoad h i k s
  | 2 => doStart h i k s
  | 3 => doStop h i k s
  | 4 => doDrop h i k s
  | _ => s

/-- A write of an action to a context's control field. -/
def ctxAction (ag : Agent) (h : Half) (i k act : Nat) (s : State) : State :=
  regStore ag h .ctxCtrl (ctxKey h i k) act (ctxCtrlAct h i k) s

/-! ### The end of a load (R54, R78, R89) -/

/-- The CRC of R89 over an image's bytes: from byte 0x10, `CUE_CRC` and the cue table counted as zero. -/
def imageCrc (m : Image) (b : List Byte) : Nat :=
  crc32 ((b.zipIdx.map (fun p =>
    if (0x38 ≤ p.2 ∧ p.2 < 0x3C) ∨ (m.cueOff ≤ p.2 ∧ p.2 < m.cueOff + 4 * m.cueCount) then (0 : Byte) else p.1)).drop 0x10)

/-- A cell's LFSR state at a load (R54). -/
def lfsrSeed (seed a c : Nat) : W32 :=
  let v := seed ^^^ (0x9E3779B9 * (256 * a + c) % 2 ^ 32)
  if v = 0 then 1 else BitVec.ofNat 32 v

/-- The cells of an image are set up: local store preload and LFSR state. A cell in the array's map-out list is excluded
(R79). -/
def placeCells (h : Half) (i k : Nat) (m : Image) (b : List Byte) (seed : Nat) (s : State) : State :=
  let p := ((larr s h i).phys).getD 0
  let outs := (physAt s (physKeyOf h p)).mapOut
  forEach (m.cells.filter (fun r => !outs.contains r.cell)) (fun r s =>
    let key := cellKey h p r.cell
    let s := setVec key k { vecAt s key k with lfsr := lfsrSeed seed (64 * h.num + i) r.cell } s
    modCell key (fun x => (List.range (r.preBytes / 4)).foldl (fun x j =>
      lsPut (r.preDst / 4 + j) ⟨BitVec.ofNat 32 (word4 b (r.preSrc + 4 * j)), false⟩ x) x) s) s

/-- LOAD_COMPLETE (R89): the write stage ends; a load still in its check stage goes on with that. -/
def doLoadComplete (h : Half) (i k : Nat) (s : State) : State :=
  let x := ctxAt s h i k
  match x.st, x.loadImg with
  | .loading, some m =>
    match readSection (arrayAgent h i) m.addr m.bytes s with
    | (none, s) => s
    | (some b, s) =>
      if b.poison || decide (imageCrc m b.bytes ≠ m.crc.toNat) then ctxResult h i k 3 (emptyCtx h i k s)
      else
        let n := ctxKey h i k
        let s := rput .arithMode n m.arith s
        let s := if m.seedFromField then s else rput .srSeed n m.seed.toNat s
        let s := placeCells h i k m b.bytes (rget s .srSeed n) s
        let outs := (physAt s (physKeyOf h (((larr s h i).phys).getD 0))).mapOut
        let stale := x.staleAtEnd || namesOut m outs
        let s := setCtx h i k { Ctx.init with
          st := if stale then .stale else .ready, img := some m, lastResult := 0 } s
        if x.startWhenReady && !stale && (activeCtx s h i).isNone then startCtx h i k s else s
  | .loading, none =>
    match x.loadFrom with
    | some a => loadChecks h i k a s
    | none => s
  | _, _ => s

/-! ### Steps (R98–R101) -/

/-- The queue of a crossbar port: the active stream first. -/
def portQAt (s : State) (h : Half) (i port : Nat) : List Nat := s.fab.portQ.getD (8 * (64 * h.num + i) + port) []
def setPortQ (h : Half) (i port : Nat) (l : List Nat) (s : State) : State :=
  { s with fab := { s.fab with portQ := s.fab.portQ.setD (8 * (64 * h.num + i) + port) [] l } }

/-- Every started stream of the array's context is complete. -/
def streamsDone (s : State) (h : Half) (i : Nat) : Bool :=
  ([0, 1, 2, 3, 4, 5] : List Nat).all (fun p => decide (portQAt s h i p = []))

/-- The current step of a context: END past the last. -/
def curStep (x : Ctx) : Option (StepOp × Bool) := x.img.map (fun m => m.steps.getD x.step (.stEnd, false))

/-- The next step waits for cells that started the phase of a PHASE with WAIT and have not reported it ended (R98). -/
def phaseWaits (x : Ctx) : Bool :=
  match x.phaseWait with
  | some p => x.running.any (fun r => decide (r.2 = p))
  | none => false

/-- The step that the sequencer of an array may issue now, with its context: none while the context waits, while phases
that a PHASE waits for run, or at a stop point with a STOP pending. -/
def issuable (s : State) (h : Half) (i : Nat) : Option (Nat × Ctx × StepOp) :=
  match activeCtx s h i with
  | none => none
  | some k =>
    let x := ctxAt s h i k
    match curStep x with
    | none => none
    | some (op, pre) =>
      if x.st = .running ∧ !x.issued ∧ !phaseWaits x ∧ !(x.stopPend && pre) then
        some (k, x, op) else none

/-- The step is done: the sequencer goes to the next. -/
def stepOn (h : Half) (i k : Nat) (s : State) : State :=
  let x := ctxAt s h i k
  noteProgress h i (setCtx h i k { x with step := x.step + 1, issued := false, phaseWait := none, delayUntil := none } s)

/-- END (R101): DONE once its streams are complete, then the chain. -/
def doEnd (h : Half) (i : Nat) (s : State) : State :=
  match issuable s h i with
  | some (k, x, .stEnd) =>
    if !streamsDone s h i then s
    else
      let s := noteProgress h i (setCtx h i k { x with
        st := .done, stopPend := false, running := [], phaseWait := none, held := false } s)
      match x.img.bind (fun m => m.nextCtx), x.stopPend with
      | some n, false =>
        let y := ctxAt s h i n
        if y.st = .ready ∨ y.st = .done then startCtx h i n s
        else if y.st = .loading then setCtx h i n { y with startWhenReady := true } s
        else event h 0x0204 0 (arrayFunc s h i) (64 * h.num + i) 0 101 s
      | _, _ => s
  | _ => s

/-- A cell enters a phase: the bank swap when its `ACC_BANK` differs (R88). `resid`: a residue check of the accumulator
additions before the swap failed (R77). -/
def enterPhase (h : Half) (i k c p : Nat) (m : Image) (resid : Bool) (s : State) : State :=
  let ph := ((larr s h i).phys).getD 0
  let key := cellKey h ph c
  let x := ctxAt s h i k
  let s := setCtx h i k { x with words := x.words.erase c } s
  if phBank (phaseEntry m c p) = (cellSt s key).bank then s
  else
    let s := when (resid && decide ((cellSt s key).groupLen ≠ 0)) (residueFail key i k) s
    let r := swapBank (cellSt s key)
    setFlags h ph c i k r.2 (setCell key r.1 s)

/-- PHASE (R98): every cell with a phase p starts it. A cell that still runs an earlier phase starts it after that. -/
def doPhase (h : Half) (i : Nat) (resid : List (Fin 256)) (s : State) : State :=
  match issuable s h i with
  | some (k, x, .stPhase p wait) =>
    match x.img with
    | none => s
    | some m =>
      let cs := (m.cells.filter (fun r => decide (p < r.phases))).map (fun r => r.cell)
      let fresh := cs.filter (fun c => !inPhase x c)
      let s := stepOn h i k (setCtx h i k { x with running := x.running ++ cs.map (fun c => (c, p)) } s)
      let s := setCtx h i k { ctxAt s h i k with phaseWait := if wait then some p else none } s
      forEach fresh (fun c s => enterPhase h i k c p m (resid.any (fun r => decide (r.val = c))) s) s
  | _ => s

/-- PHASE_END (R88): a cell that has run its phase's body `REPEAT` + 1 times reports the phase ended. -/
def doPhaseEnd (h : Half) (i c : Nat) (resid : Bool) (s : State) : State :=
  match activeCtx s h i with
  | none => s
  | some k =>
    let x := ctxAt s h i k
    match x.running.findIdx? (fun r => decide (r.1 = c)), x.img, nextWord x c with
    | some n, some m, none =>
      let rest := x.running.eraseIdx n
      let s := noteProgress h i (setCtx h i k { x with running := rest } s)
      match rest.find? (fun r => decide (r.1 = c)) with
      | some (_, p) => enterPhase h i k c p m resid s
      | none => s
    | _, _, _ => s

/-- STREAM_START (R93): the stream starts, or waits behind the port's active stream. -/
def doStreamStart (h : Half) (i : Nat) (s : State) : State :=
  match issuable s h i with
  | some (k, x, .stStream j) =>
    match x.img.bind (fun m => m.streams[j]?) with
    | none => s
    | some r =>
      let q := portQAt s h i r.port
      let st : NMap StreamSt := if q = [] then x.streams.insert j StreamSt.init else x.streams
      stepOn h i k (setPortQ h i r.port (q ++ [j]) (setCtx h i k { x with streams := st } s))
  | _ => s

/-- STREAM_WAIT (R98). -/
def doStreamWait (h : Half) (i : Nat) (s : State) : State :=
  match issuable s h i with
  | some (k, x, .stStreamWait j) =>
    match x.img.bind (fun m => m.streams[j]?) with
    | none => s
    | some r => if (portQAt s h i r.port).contains j then s else stepOn h i k s
  | _ => s

/-- The cue handle of an index. -/
def imgCue (x : Ctx) (j : Nat) : W32 := (x.img.bind (fun m => m.cues[j]?)).getD 0

/-- CUE_WAIT (R95, R96): a handle whose take has moved on faults the context; else the context is WAITING. -/
def doCueWait (h : Half) (i : Nat) (s : State) : State :=
  match issuable s h i with
  | some (k, x, .stCueWait j t c) =>
    let hdl := imgCue x j
    if handleCurrent s hdl then
      waitFrom h hdl ⟨.ctx h i k, t, c⟩ (setCtx h i k { x with st := .waiting, issued := true } s)
    else faultCtx h i k 6 j s
  | _ => s

/-- CUE_SIGNAL (R96, R97): once every stream started earlier is complete. -/
def doCueSignal (h : Half) (i : Nat) (s : State) : State :=
  match issuable s h i with
  | some (k, x, .stCueSignal j inc) =>
    let hdl := imgCue x j
    if !handleCurrent s hdl then faultCtx h i k 6 j s
    else if streamsDone s h i then signalFrom h hdl inc (stepOn h i k s) else s
  | _ => s

/-- LOOP (R98). -/
def doLoop (h : Half) (i : Nat) (s : State) : State :=
  match issuable s h i with
  | some (k, x, .stLoop target count j) =>
    let v := x.lc.getD j 0
    let n := (if v = 0 then count else v) - 1
    let s := stepOn h i k (setCtx h i k { x with lc := x.lc.set j n } s)
    if n = 0 then s else setCtx h i k { ctxAt s h i k with step := target } s
  | _ => s

/-- DELAY (R98): F_A cycles, 190 in 0.1 µs. -/
def doDelay (h : Half) (i : Nat) (s : State) : State :=
  match issuable s h i with
  | some (k, x, .stDelay n) => setCtx h i k { x with issued := true, delayUntil := some (s.clock + (n + 189) / 190) } s
  | _ => s

/-- DELAY_EXPIRE (R98). -/
def doDelayExpire (h : Half) (i : Nat) (s : State) : State :=
  match activeCtx s h i with
  | some k =>
    match (ctxAt s h i k).delayUntil with
    | some t => stepOn h i k (atTime t s)
    | none => s
  | none => s

/-- STOP_TAKES_EFFECT (R99, R100): at a stop point, with every started stream complete. -/
def doStopTakes (h : Half) (i : Nat) (s : State) : State :=
  match activeCtx s h i with
  | some k =>
    let x := ctxAt s h i k
    match curStep x with
    | some (op, true) =>
      let waiting := decide (x.st = .waiting)
      let isWait : Bool := match op with
        | .stCueWait _ _ _ => true
        | _ => false
      if x.stopPend && streamsDone s h i && !phaseWaits x && (!x.issued || (waiting && isWait)) then
        setCtx h i k { x with
          st := .ready, held := true, stopPend := false, issued := false, running := [], phaseWait := none }
          (withdraw (.ctx h i k) s)
      else s
    | _ => s
  | none => s

/-- STALL_WATCHDOG (R75): 2^20 cycles without progress while RUNNING. -/
def doStallWatchdog (h : Half) (i : Nat) (s : State) : State :=
  match activeCtx s h i with
  | some k =>
    if (ctxAt s h i k).st = .running then
      faultCtx h i k 4 (ctxAt s h i k).step (atTime ((larr s h i).progress + 5519) s)
    else s
  | none => s

/-! ### Streams (R92, R93) -/

/-- The words of a stream, and the address of word n. -/
def streamWords (r : StreamRec) : Nat := r.rowBytes / 64 * r.count1 * r.count2
def streamAddr (r : StreamRec) (n : Nat) : Nat :=
  let per := r.rowBytes / 64
  let row := n / per
  ((r.base : Int) + (row / r.count1 : Nat) * r.stride2 + (row % r.count1 : Nat) * r.stride1 + (n % per * 64 : Nat)).toNat

/-- The active stream of a port: its context, number, record and progress. -/
def activeStream (s : State) (h : Half) (i port : Nat) : Option (Nat × Nat × StreamRec × StreamSt) :=
  match activeCtx s h i, portQAt s h i port with
  | some k, j :: _ =>
    let x := ctxAt s h i k
    (x.img.bind (fun m => m.streams[j]?)).map (fun r => (k, j, r, x.streams.getD j StreamSt.init))
  | _, _ => none

/-- One word of the port's active stream is done; a complete stream gives way to the next of its port. -/
def streamOn (h : Half) (i port k j : Nat) (r : StreamRec) (st : StreamSt) (s : State) : State :=
  let x := ctxAt s h i k
  let s := noteProgress h i s
  if st.pos + 1 < streamWords r then
    setCtx h i k { x with streams := x.streams.insert j { st with pos := st.pos + 1 } } s
  else
    let rest := (portQAt s h i port).drop 1
    let sts := x.streams.insert j { st with pos := st.pos + 1, complete := true }
    let sts := match rest with
      | n :: _ => sts.insert n StreamSt.init
      | [] => sts
    setPortQ h i port rest (setCtx h i k { x with streams := sts } s)

/-- A stream stops at a refused access and never completes (R93). -/
def streamStop (h : Half) (i k j : Nat) (st : StreamSt) (a : Nat) (s : State) : State :=
  let x := ctxAt s h i k
  cfgEvent (arrayAgent h i) a 25 (setCtx h i k { x with streams := x.streams.insert j { st with stopped := true } } s)

/-- What a stream's read of 64 bytes found: refused, not yet, or the word. -/
inductive StreamGot where
  | refused
  | later (s : State)
  | word (w : SwWord) (s : State)

/-- Read 64 bytes for a stream through a port of the array, under the port's regulator (R93, R315). -/
def streamGet (ag : Agent) (port a : Nat) (s : State) : StreamGot :=
  if region s a = .scratch then
    if mayScratch s ag a then
      let r := scratchGet s a 64
      .word ⟨ofBytes 512 r.1, r.2⟩ s
    else .refused
  else if !mayAccess s ag a then .refused
  else if govWaits s ag port a then .later s
  else
    match engBytes ag a 64 s with
    | (some (b, p), s) =>
      .word ⟨ofBytes 512 b, p⟩ (govEngine ag port a 64 true (when p (countPoison ag ((agentFunc s ag).getD 0)) s))
    | (none, s) => .later s

/-- STREAM_READ_DATA (R93): the next word of a read port's active stream enters its edge cell. -/
def doStreamRead (h : Half) (i port : Nat) (s : State) : State :=
  match activeStream s h i port with
  | none => s
  | some (k, j, r, st) =>
    let e := portEdge r
    let key := cellKey h (((larr s h i).phys).getD 0) e.1
    if st.stopped || !hasSpace (cellSt s key) e.2 then s
    else
      let a := streamAddr r st.pos
      match streamGet (arrayAgent h i) port a s with
      | .refused => streamStop h i k j st a s
      | .later s => s
      | .word w s => streamOn h i port k j r st (modCell key (pushWord e.2 w) s)

/-- A write of this engine failed at the hold of its stack: the failure is taken note of once. -/
def takeFailed (ag : Agent) (a : Nat) (s : State) : Bool × State :=
  match locOf s a with
  | some l =>
    if quietFailed s ag l then (true, quietClear ag (waitKey l.sl l.line l.sec) s) else (false, s)
  | none => (false, s)

/-- A word leaves the array through a write port: accepted, or refused (by R25, or an error response of a fenced stack, R162), or
none while it must wait, also under the port's regulator (R315, R320). -/
def streamPut (ag : Agent) (port a : Nat) (w : SwWord) (s : State) : Option Bool × State :=
  if region s a = .scratch then
    if mayScratch s ag a then (some true, scratchPut a (bytesOf 64 w.v) w.p s) else (some false, s)
  else if !mayAccess s ag a then (some false, s)
  else if govWaits s ag port a then (none, s)
  else
    match locOf s a with
    | none => (some false, s)
    | some l =>
      if stackGone s (stackOfSlice l.sl) then (some false, s)
      else
        match takeFailed ag a s, takeFailed ag (a + 32) s with
        | (true, s), _ => (some false, s)
        | _, (true, s) => (some false, s)
        | _, _ =>
          match engPut ag a (bytesOf 64 w.v) w.p s with
          | (true, s) => (some true, govEngine ag port a 64 false s)
          | (false, s) => (none, s)

/-! ### Switch words (R69–R71) -/

/-- The port number 4 or 5 that attaches to an edge output. -/
def writePort (s : State) (h : Half) (i c : Nat) (d : Dir) : Option Nat :=
  ([4, 5] : List Nat).find? (fun p =>
    match activeStream s h i p with
    | some (_, _, r, _) => decide (portEdge r = (c, d))
    | none => false)

/-- A parity error of an arriving word: `SW_PAR`, and the context faults (R71, R76). -/
def swPar (h : Half) (p c i k : Nat) (s : State) : State :=
  cellFault h i k 3 (p * 256 + c) (modCell (cellKey h p c) (fun x => { x with swPar := true }) s)

/-- SWITCH_WORD (R69): one word moves to a neighbour, to a crossbar port, or into the local store. -/
def doSwitchWord (h : Half) (p c : Nat) (mv : SwMove) (par : Bool) (errs : List LsErr) (s : State) : State :=
  match runningOn s h p with
  | none => s
  | some (i, k) =>
    let key := cellKey h p c
    match cellRec (ctxAt s h i k) c with
    | none => s
    | some r =>
      let x := cellSt s key
      match mv with
      | .intoLs d row =>
        match (bufOf x d).head? with
        | none => s
        | some w =>
          if !natBit (16 + dirNum d) r.route || (takOf x d).ls then s
          else
            let x := lsPutRow row { w with p := w.p || par } (takeHead r.route d (fun t => { t with ls := true }) x)
            when par (swPar h p c i k) (noteProgress h i (setCell key x s))
      | .out o row =>
        match outWord x r.route o row with
        | none => s
        | some w =>
          let fromLs := decide (routeSrc r.route (dirNum o) = 5)
          let w : SwWord := ⟨w.v, w.p || par || (fromLs && anyDouble errs)⟩
          match neighbour c o with
          | some c' =>
            let key' := cellKey h p c'
            if hasSpace (cellSt s key') (opposite o) then
              let s := setCell key (outTaken r.route o x) s
              let s := noteProgress h i (modCell key' (pushWord (opposite o) w) s)
              noteLsErrs h p c i k (if fromLs then errs else []) (when par (swPar h p c' i k) s)
            else s
          | none =>
            match writePort s h i c o with
            | none => s
            | some port =>
              match activeStream s h i port with
              | none => s
              | some (k', j, sr, st) =>
                if st.stopped then s
                else
                  let a := streamAddr sr st.pos
                  match streamPut (arrayAgent h i) port a w s with
                  | (none, s) => s
                  | (some false, s) => streamStop h i k' j st a s
                  | (some true, s) =>
                    let s := streamOn h i port k' j sr st (modCell key (outTaken r.route o) s)
                    noteLsErrs h p c i k (if fromLs then errs else []) (when par (swPar h p c i k) s)

/-! ### Ownership, Cut, boot (R81–R84, R107) -/

/-- The clusters that are home to a logical array (R83). -/
def hasLogical (s : State) (h : Half) (j : Nat) : Bool :=
  (List.range 64).any (fun i => decide ((larr s h i).home = some j))

/-- The effect of a write to `CLUSTER_OWNER`: an owner for a cluster that is home to no logical array is ignored and
recorded (R83). -/
def clusterOwnerAct (n new : Nat) (s : State) : State :=
  let h := halfOf 18 n
  if natBit 4 new && !hasLogical s h (n % 18) then ruleEvent' h s else rput .clusterOwner n new s
where
  ruleEvent' (h : Half) (s : State) : State := event h 0x0200 0 none (n % 18) (regAddr .clusterOwner n) 83 s

/-- The logical arrays of a function, as half and number. -/
def funcArrays (s : State) (f : Nat) : List (Half × Nat) :=
  (halves s).flatMap (fun h => (List.range 64).filterMap (fun i => if arrayFunc s h i = some f then some (h, i) else none))

/-- The sticky bits and counts of a cell that a Cut returns to reset (R80). -/
def cutCell (x : CellSt) : CellSt :=
  { x with nv := false, of := false, iw := false, lsCe := false, lsUe := false, swPar := false, ceCount := 0 }

/-- A Cut of a function on the fabric (R107, R80): running contexts fault with REFUSED, then every context is EMPTY. -/
def cutArrays (f : Nat) (s : State) : State :=
  forEach (funcArrays s f) (fun a s =>
    let h := a.1
    let i := a.2
    let s := forEach [0, 1, 2, 3] (fun k s =>
      let s := if ctxActive (ctxAt s h i k) then withdraw (.ctx h i k) (faultCtx h i k 5 0 s) else s
      let n := ctxKey h i k
      let s := setCtx h i k Ctx.init s
      { s with regs := s.regs.clear [(.arithMode, n), (.srSeed, n), (.ctxImageLo, n), (.ctxImageHi, n)] }) s
    let mine (e : Nat × CellSt) : Bool := decide (((larr s h i).phys).map (physKeyOf h) = some (e.1 / 256))
    let cells := s.fab.cells.map (fun e => if mine e then (e.1, cutCell e.2) else e)
    clearPorts h i { s with fab := { s.fab with cells := cells } }) s

/-- The cues of a function. -/
def funcCues (s : State) (f : Nat) : List Nat :=
  s.regs.val.filterMap (fun kv =>
    if kv.1 % 256 = regNum .cueOwner && decide (cueFunc s (kv.1 / 256) = some f) then some (kv.1 / 256) else none)

/-- Each cue of a Cut function takes value 0, drops its waits and advances its take (R107). -/
def cutCues (f : Nat) (s : State) : State := forEach (funcCues s f) (fun n s => cueRelease n true s) s

/-- Cells that were mapped out before this cold boot and passed its self-test return to service, each with an event (R79). -/
def returnCells (h : Half) (t : ArrayTests) (s : State) : State :=
  let mine := s.fab.wasOut.filter (fun e => decide (halfOf 72 e.1 = h))
  let back := mine.filter (fun e => !(t.cells.any (fun c => decide (physKeyOf h c.1 = e.1 ∧ c.2.val = e.2))))
  let s := { s with fab := { s.fab with wasOut := s.fab.wasOut.filter (fun e => decide (halfOf 72 e.1 ≠ h)) } }
  forEach back (fun e s => eventD h 0x0202 0 none e.1 e.2 79 1 s) s

/-- The arrays of one half after its tests (R81, R82): logical arrays to good physical arrays in ascending order, the
rest spares; map-out lists from the self-test (R79). -/
def bootArrays (h : Half) (t : ArrayTests) (s : State) : State :=
  let good := (List.range 72).filter (fun p =>
    !(t.bad.any (fun b => decide (b.val = p))) && !(s.fab.fusedOut.contains (physKeyOf h p)))
  let s := forEach (List.range 72) (fun p s =>
    let n := good.findIdx? (fun g => decide (g = p))
    let role := match n with
      | none => 3
      | some j => if j < 64 then 0 else 1
    setPhys (physKeyOf h p) ⟨role, n.getD 0 % 64, []⟩ s) s
  let s := forEach (List.range 64) (fun i s =>
    let l : LArr := match good[i]? with
      | some p => { LArr.init with phys := some p, home := some (p / 4) }
      | none => LArr.init
    { s with fab := { s.fab with larr := s.fab.larr.insert (64 * h.num + i) l } }) s
  forEach t.cells (fun c s => mapOut h c.1 c.2 79 s) (returnCells h t s)

/-! ### The commands -/

/-- SWITCH_WORD (R69). -/
def execSwitchWord (c : CellRef) (mv : SwMove) (parityErr : Bool) (lsErrs : List LsErr) (s : State) : Outcome :=
  onHalf s c.half (.next (doSwitchWord c.half c.phys c.cell mv parityErr lsErrs s))
/-- PHASE_END (R88). -/
def execPhaseEnd (h : Half) (i : Fin 64) (cell : PhaseCell) (s : State) : Outcome :=
  onHalf s h (.next (doPhaseEnd h i cell.cell cell.residueFail s))
/-- STALL_WATCHDOG (R75). -/
def execStallWatchdog (h : Half) (i : Fin 64) (s : State) : Outcome := onHalf s h (.next (doStallWatchdog h i s))
/-- LOAD (R89). -/
def execLoad (ag : Agent) (h : Half) (i : Fin 64) (k : Fin 4) (s : State) : Outcome :=
  onAgent s ag (.next (ctxAction ag h i k 1 s))
/-- LOAD_COMPLETE (R89). -/
def execLoadComplete (h : Half) (i : Fin 64) (k : Fin 4) (s : State) : Outcome :=
  onHalf s h (.next (doLoadComplete h i k s))
/-- START (R100). -/
def execStart (ag : Agent) (h : Half) (i : Fin 64) (k : Fin 4) (s : State) : Outcome :=
  onAgent s ag (.next (ctxAction ag h i k 2 s))
/-- STOP (R100). -/
def execStop (ag : Agent) (h : Half) (i : Fin 64) (k : Fin 4) (s : State) : Outcome :=
  onAgent s ag (.next (ctxAction ag h i k 3 s))
/-- STOP_TAKES_EFFECT (R100). -/
def execStopTakesEffect (h : Half) (i : Fin 64) (s : State) : Outcome := onHalf s h (.next (doStopTakes h i s))
/-- DROP (R100). -/
def execDrop (ag : Agent) (h : Half) (i : Fin 64) (k : Fin 4) (s : State) : Outcome :=
  onAgent s ag (.next (ctxAction ag h i k 4 s))
/-- END (R101). -/
def execStepEnd (h : Half) (i : Fin 64) (s : State) : Outcome := onHalf s h (.next (doEnd h i s))
/-- PHASE (R98). -/
def execPhase (h : Half) (i : PhaseStart) (s : State) : Outcome := onHalf s h (.next (doPhase h i.array i.residueFail s))
/-- STREAM_START (R93). -/
def execStreamStart (h : Half) (i : Fin 64) (s : State) : Outcome := onHalf s h (.next (doStreamStart h i s))
/-- STREAM_WAIT (R98). -/
def execStreamWait (h : Half) (i : Fin 64) (s : State) : Outcome := onHalf s h (.next (doStreamWait h i s))
/-- STREAM_READ_DATA (R93). -/
def execStreamReadData (h : Half) (i : Fin 64) (port : Fin 4) (s : State) : Outcome :=
  onHalf s h (.next (doStreamRead h i port s))
/-- CUE_WAIT (R96). -/
def execCueWait (h : Half) (i : Fin 64) (s : State) : Outcome := onHalf s h (.next (doCueWait h i s))
/-- CUE_SIGNAL (R97). -/
def execCueSignal (h : Half) (i : Fin 64) (s : State) : Outcome := onHalf s h (.next (doCueSignal h i s))
/-- LOOP (R98). -/
def execLoop (h : Half) (i : Fin 64) (s : State) : Outcome := onHalf s h (.next (doLoop h i s))
/-- DELAY (R98). -/
def execDelay (h : Half) (i : Fin 64) (s : State) : Outcome := onHalf s h (.next (doDelay h i s))
/-- DELAY_EXPIRE (R98). -/
def execDelayExpire (h : Half) (i : Fin 64) (s : State) : Outcome := onHalf s h (.next (doDelayExpire h i s))

/-- CUE_VALUE_WRITE (R108). -/
def execCueValueWrite (ag : Agent) (n : Fin 8192) (v : BitVec 32) (s : State) : Outcome :=
  onAgent s ag (.next (regStore ag (cueHalf n) .cueValue n v.toNat (doCueValue n) s))
/-- CUE_OWNER_WRITE (R108). -/
def execCueOwnerWrite (ag : Agent) (n : Fin 8192) (v : BitVec 32) (s : State) : Outcome :=
  onAgent s ag (.next (regStore ag (cueHalf n) .cueOwner n v.toNat (doCueOwner n) s))
/-- WAIT_DONE (R346). -/
def execWaitDone (h : Half) (tag : BitVec 12) (s : State) : Outcome := onHalf s h (.next (doWaitDone h tag s))

end Sys2Proof.Machine
end

