-- ==== Sys2Proof/Machine/Dolly.lean ====
section
/-! DEFINITION. Dolly (chapter 7): queues, descriptors and their checks, the start, the end and the abandonment of
descriptors, and the engines' moves within memory, scratchpads, local stores and remote memory. Multicast, Reel streams
and remote signals follow in `Story`, RDMA in `Rdma`. -/

namespace Sys2Proof.Machine

open Sys2Proof

/-! ### Queues (R238–R242) -/

/-- The number of a queue of a half. -/
def queueNum (h : Half) (q : Nat) : Nat := 256 * h.num + q

/-- The agent behind a queue. -/
def queueAgent (n : Nat) : Agent := .dolly (halfOf 256 n) (Fin.ofNat 256 n)

def modQueue (n : Nat) (f : QueueSt → QueueSt) (s : State) : State := setQueue n (f (queueAt s n)) s

/-- A number of descriptors from one running index to another (R239). -/
def idxDist (a b : W32) : Nat := (b - a).toNat

/-- The ring offers more descriptors than it holds (R239). -/
def ringOverrun (q : QueueSt) : Bool := decide (2 ^ q.ringLog < idxDist q.head q.tail)

/-- The record ring of a queue is full (R257). -/
def recFull (q : QueueSt) : Bool := decide (q.recLog ≠ 0) && decide (2 ^ q.recLog ≤ idxDist q.recHead q.recTail)

/-- The queue starts descriptors. -/
def queueRuns (q : QueueSt) : Bool := decide (q.st = .idle) || decide (q.st = .running) || decide (q.st = .waiting)

/-- The descriptors that were read but have not started leave the queue, their waits withdrawn (R242, R253). -/
def dropUnstarted (n : Nat) (s : State) : State :=
  let q := queueAt s n
  let un := q.active.filter (fun d => decide (d.phase = .waiting))
  let s := forEach un (fun d s => creditBack d (withdraw (.desc n d.index) s)) s
  modQueue n (fun q => { q with active := q.active.filter (fun d => decide (d.phase ≠ .waiting)) }) s

/-- The state of a queue that runs: IDLE when there is nothing left (R241). -/
def settleQueue (n : Nat) (s : State) : State :=
  modQueue n (fun q =>
    let nothing := decide (q.active = []) && decide (q.head = q.tail)
    match q.st with
    | .idle => if nothing then q else { q with st := .running }
    | .running => if nothing then { q with st := .idle } else q
    | .waiting =>
      if q.active.any (fun d => decide (d.phase = .waiting)) then q
      else { q with st := if nothing then .idle else .running }
    | .stopping => if q.active = [] then { q with st := .stopped } else q
    | _ => q) s

/-- The queue enters ERROR without a descriptor, for a `TAIL` beyond its ring (R239). -/
def overrunError (n : Nat) (s : State) : State :=
  modQueue n (fun q => { q with st := .error, errIndex := q.head.toNat % 2 ^ 16, errStatus := 4 }) (dropUnstarted n s)

/-- The ring is checked when `TAIL` or the state changes. -/
def checkRing (n : Nat) (s : State) : State :=
  let q := queueAt s n
  if q.st = .disabled then s
  else if ringOverrun q then overrunError n s
  else settleQueue n s

/-- `ENABLE` written 1 in DISABLED (R242): the committed rings are latched. -/
def enableQueue (n : Nat) (s : State) : State :=
  let h := halfOf 256 n
  let s := rput .dqTail n 0 (rput .dqRecHead n 0 (groupTake h (.dqRing (Fin.ofNat 256 n)) s))
  let hi := rget s .dqRingHi n
  let rhi := rget s .dqRecHi n
  let lg := natBits 20 16 hi
  let rl := natBits 20 16 rhi
  setQueue n { QueueSt.init with
    st := .idle
    ring := (rget s .dqRingLo n + natBits 15 0 hi * 2 ^ 32) / 4096 * 4096
    ringLog := if 4 ≤ lg ∧ lg ≤ 16 then lg else 4
    recBase := (rget s .dqRecLo n + natBits 15 0 rhi * 2 ^ 32) / 4096 * 4096
    recLog := if 4 ≤ rl ∧ rl ≤ 16 then rl else 0
    errIndex := (queueAt s n).errIndex, errStatus := (queueAt s n).errStatus } s

/-- `ENABLE` written 0 (R242): every active descriptor is abandoned. -/
def disableQueue (n : Nat) (s : State) : State :=
  let s := dropUnstarted n s
  modQueue n (fun q => { q with st := .disabled, active := [] }) s

/-- STOP (R242). -/
def stopQueue (n : Nat) (s : State) : State :=
  let q := queueAt s n
  if queueRuns q || decide (q.st = .recfull) then
    settleQueue n (modQueue n (fun q => { q with st := .stopping }) (dropUnstarted n s))
  else s

/-- RESUME (R242). -/
def resumeQueue (n : Nat) (s : State) : State :=
  let q := queueAt s n
  if q.st = .stopped ∨ q.st = .error then
    let s := modQueue n (fun q => { q with st := if recFull q then .recfull else .running }) s
    checkRing n s
  else s

/-- The effect of a write to `DQ_CTL`: the bits that stay, then `ENABLE`, `STOP` and `RESUME`. A new binding is checked
(R315). -/
def dqCtlAct (n new : Nat) (s : State) : State :=
  let was := decide ((queueAt s n).st ≠ .disabled)
  let bound := rbits s .dqCtl n 22 16
  let s := rput .dqCtl n (setBits 3 2 0 new) s
  let s := when (decide (natBits 22 16 new ≠ bound))
    (bindEvent (halfOf 256 n) (some (128 * (halfOf 256 n).num + natBits 22 16 new)) (queueFunc s n)) s
  let s := if natBit 0 new && !was then enableQueue n s
    else if !natBit 0 new && was then disableQueue n s else s
  when (natBit 3 new) (resumeQueue n) (when (natBit 2 new) (stopQueue n) s)

/-- The effect of a doorbell (R239). -/
def dqTailAct (n new : Nat) (s : State) : State :=
  checkRing n (modQueue n (fun q => { q with tail := BitVec.ofNat 32 new }) (rput .dqTail n new s))

/-- Records consumed: RECFULL ends when there is room (R257). -/
def dqRecHeadAct (n new : Nat) (s : State) : State :=
  let s := modQueue n (fun q => { q with recHead := BitVec.ofNat 32 new }) (rput .dqRecHead n new s)
  let q := queueAt s n
  if q.st = .recfull ∧ !recFull q then checkRing n (setQueue n { q with st := .running } s) else s

/-- The key of a queue's take. -/
def queueTake (n : Nat) : Nat := takeKey (.queue (Fin.ofNat 512 n))

/-- The effect of a write to `DQ_OWNER` (R238): a change advances the take. -/
def dqOwnerAct (n new : Nat) (s : State) : State :=
  if rget s .dqOwner n = new then s else callAdvance (queueTake n) (rput .dqOwner n new s)

/-- The handle of a queue (R238). -/
def queueHandle (s : State) (n : Nat) : W32 := mkCueHandle n (takeSt s (queueTake n)).take

/-- The queue that a handle names, with its take current; else the reply is stale. -/
def handleQueue (s : State) (hdl : W32) : Option Nat :=
  let n := natBits 12 0 hdl.toNat
  if !malformed hdl && decide (n < 512) && hasHalf s (halfOf 256 n) && decide (curTake s (queueTake n) = some (cueTake hdl))
  then some n else none

/-! ### The descriptor (R243–R250) -/

/-- Read a descriptor's fields. -/
def descOf (b : List Byte) : Desc :=
  let w0 := word4 b 0
  let w1 := word4 b 4
  let c := word4 b 0x24
  { opcode := natBits 7 0 w0, waitEn := natBit 8 w0, waitConsume := natBit 9 w0, sigEn := natBit 10 w0
    sigScope := natBit 11 w0, order := natBits 13 12 w0, slate := natBit 14 w0, recOk := natBit 15 w0
    srcKind := natBits 19 16 w0, dstKind := natBits 23 20 w0, arg := natBits 31 24 w0
    waitThreshold := natBits 15 0 w1, sigInc := natBits 23 16 w1
    waitCue := BitVec.ofNat 32 (word4 b 8), sigCue := BitVec.ofNat 32 (word4 b 0xC)
    src := BitVec.ofNat 64 (fieldAt b 0x10 8), dst := BitVec.ofNat 64 (fieldAt b 0x18 8)
    rowBytes := word4 b 0x20, count1 := natBits 15 0 c, count2 := natBits 31 16 c
    srcStride1 := BitVec.ofNat 32 (word4 b 0x28), dstStride1 := BitVec.ofNat 32 (word4 b 0x2C)
    srcStride2 := BitVec.ofNat 32 (word4 b 0x30), dstStride2 := BitVec.ofNat 32 (word4 b 0x34)
    aux := BitVec.ofNat 32 (word4 b 0x38), tag := BitVec.ofNat 32 (word4 b 0x3C) }

/-- A descriptor that could not be read: opcode and tag 0 (R239). -/
def blankDesc : Desc := descOf (List.replicate 64 0)

/-- The opcodes. -/
def opNop : Nat := 0
def opCopy : Nat := 1
def opAdd : Nat := 2
def opFill : Nat := 3
def opGather : Nat := 4
def opScatter : Nat := 5
def opMcast : Nat := 6
def opRdmaWrite : Nat := 7
def opRdmaRead : Nat := 8
def opReel : Nat := 9
def opRsignal : Nat := 10

/-- The serial opcodes (R240). -/
def serialOp (o : Nat) : Bool := decide (o = opAdd) || decide (o = opReel) || decide (o = opRsignal)

/-- One side of a shape: kind, address, strides (R244, R246). -/
structure Side where
  kind : Nat
  addr : Nat
  s1 : Int
  s2 : Int
  deriving DecidableEq, Repr

/-- Where a byte of a side lies (R244). -/
inductive Spot where
  | mem (a : Nat)
  | scratch (a : Nat)
  | ls (arr : Nat) (cell : Nat) (off : Nat)
  | remote (ga : W64)
  | nowhere
  deriving DecidableEq, Repr

/-- Read an address of a kind. A GA with the base's identifier acts as a DPA. -/
def spotOf (s : State) (kind : Nat) (a : Int) : Spot :=
  let n := a.toNat
  let dpa (n : Nat) : Spot :=
    match region s n with
    | .memory => .mem n
    | .scratch => .scratch n
    | _ => .nowhere
  if a < 0 then .nowhere
  else
    match kind with
    | 0 => dpa n
    | 1 =>
      if 2 ^ 64 ≤ n then .nowhere
      else if idOk s && gaOwn s (BitVec.ofNat 64 n) then dpa (n % 2 ^ 48)
      else .remote (BitVec.ofNat 64 n)
    | 2 => if 2 ^ 29 ≤ n then .nowhere else .ls (natBits 28 22 n) (natBits 21 14 n) (natBits 13 0 n)
    | _ => .nowhere

/-- Two spots lie in one region of R246. -/
def sameRegion (a b : Spot) : Bool :=
  match a, b with
  | .mem _, .mem _ => true
  | .scratch _, .scratch _ => true
  | .ls x _ _, .ls y _ _ => decide (x = y)
  | .remote x, .remote y => decide (gaDev x = gaDev y)
  | _, _ => false

/-- The extent of a shape: lowest byte and highest byte (R92). -/
def sideExtent (d : Desc) (x : Side) : Int × Int :=
  let t1 := ((d.count1 : Int) - 1) * x.s1
  let t2 := ((d.count2 : Int) - 1) * x.s2
  ((x.addr : Int) + min 0 t1 + min 0 t2, (x.addr : Int) + max 0 t1 + max 0 t2 + d.rowBytes - 1)

/-- The first byte of row r (i fastest). -/
def rowAddr (d : Desc) (x : Side) (r : Nat) : Int :=
  (x.addr : Int) + (r % d.count1 : Nat) * x.s1 + (r / d.count1 : Nat) * x.s2

/-- The rows and the bytes of a shape. -/
def descRows (d : Desc) : Nat := d.count1 * d.count2
def descTotal (d : Desc) : Nat := d.rowBytes * descRows d

/-- Every row of a local store side lies within one cell (R248). A stride that is a multiple of the cell size keeps the
offset, so one period of rows decides. -/
def lsRowsOk (d : Desc) (x : Side) : Bool :=
  decide (x.kind ≠ 2) || (List.range (descRows d)).all (fun r => decide ((rowAddr d x r).toNat % 16384 + d.rowBytes ≤ 16384))

/-- A side's shape meets R246 and R248. -/
def sideOk (s : State) (d : Desc) (x : Side) : Bool :=
  let e := sideExtent d x
  decide (x.addr % 4 = 0) && decide (x.s1 % 4 = 0) && decide (x.s2 % 4 = 0) && decide (x.kind ≤ 2) &&
  (decide (x.kind ≠ 0) || decide (x.addr < 2 ^ 48)) && (decide (x.kind ≠ 2) || decide (x.addr < 2 ^ 29)) &&
  sameRegion (spotOf s x.kind e.1) (spotOf s x.kind e.2) && lsRowsOk d x

/-- The function of a logical array L0–L127 that is available (R82, R248). -/
def lsArrayFunc (s : State) (a : Nat) : Option Nat :=
  let h := halfOf 64 a
  if hasHalf s h && (lphys s h (a % 64)).isSome then arrayFunc s h (a % 64) else none

/-- A range of bytes from a spot is the function's (R247). -/
def rangeMine (s : State) (f : Nat) (lo hi : Spot) (len : Nat) : Bool :=
  match lo, hi with
  | .mem a, .mem _ => extentIn s f a len
  | .scratch a, .scratch _ => scratchExtent s f a len
  | .ls a _ _, .ls _ _ _ => decide (lsArrayFunc s a = some f)
  | .remote _, .remote _ => true
  | _, _ => false

/-- A side's extent is the function's (R247); a remote extent is checked by the remote device. -/
def sideMine (s : State) (f : Nat) (d : Desc) (x : Side) : Bool :=
  let e := sideExtent d x
  rangeMine s f (spotOf s x.kind e.1) (spotOf s x.kind e.2) (e.2 - e.1 + 1).toNat

/-- The sides of a descriptor. Gathered rows and scattered rows have no strides of their own. -/
def srcSide (d : Desc) : Side :=
  if d.opcode = opGather ∨ d.opcode = opScatter then ⟨d.srcKind, d.src.toNat, d.rowBytes, 0⟩
  else ⟨d.srcKind, d.src.toNat, d.srcStride1.toInt, d.srcStride2.toInt⟩
def dstSide (d : Desc) : Side :=
  if d.opcode = opGather ∨ d.opcode = opScatter then ⟨d.dstKind, d.dst.toNat, d.rowBytes, 0⟩
  else ⟨d.dstKind, d.dst.toNat, d.dstStride1.toInt, d.dstStride2.toInt⟩

/-- The address of the index list of `GATHER` and `SCATTER` (R250). -/
def listAddr (d : Desc) : Nat := d.srcStride1.toNat + d.dstStride1.toNat * 2 ^ 32

/-- The shape fields that every moving opcode checks. -/
def shapeOk (d : Desc) : Bool :=
  decide (4 ≤ d.rowBytes) && decide (d.rowBytes ≤ 2 ^ 30) && decide (d.rowBytes % 4 = 0) && decide (1 ≤ d.count1) &&
  decide (1 ≤ d.count2)

/-- The wait and signal fields (R243). -/
def cueFieldsOk (d : Desc) : Bool :=
  (!d.waitEn || (decide (d.waitThreshold ≠ 0) && !malformed d.waitCue)) &&
  (!d.sigEn || (decide (d.sigInc ≠ 0) && !malformed d.sigCue))

/-- The rules of each opcode's fields (R243–R252, R261, R263, R265, R266). `b`: the descriptor's bytes. -/
def descOk (s : State) (b : List Byte) (d : Desc) : Bool :=
  let common := decide (natBits 31 24 (word4 b 4) = 0) && decide (d.order ≠ 3) && cueFieldsOk d &&
    (!d.slate || decide (d.opcode = opCopy) || decide (d.opcode = opRdmaWrite))
  let noSrcStride := decide (d.srcStride1 = 0) && decide (d.srcStride2 = 0)
  let noDstStride := decide (d.dstStride1 = 0) && decide (d.dstStride2 = 0)
  let noAux := decide (d.aux = 0)
  let noShape := decide (d.rowBytes = 0) && decide (d.count1 = 0) && decide (d.count2 = 0) && noSrcStride && noDstStride
  let src := srcSide d
  let dst := dstSide d
  let host (far : Nat) (r2 : W32) : Bool := decide (far = 3) && decide (r2 = 0) &&
    decide (descTotal d ≤ 2 ^ 30) && decide (natBits 31 20 d.aux.toNat = 0)
  let indexed (k a : Nat) : Bool := decide (k ≤ 2) && decide (a % 4 = 0) && (decide (k ≠ 0) || decide (a < 2 ^ 48)) &&
    (decide (k ≠ 2) || decide (a < 2 ^ 29))
  common && (match d.opcode with
    | 0 => noShape && noAux && decide (d.srcKind = 0) && decide (d.dstKind = 0) && decide (d.arg = 0) &&
           decide (d.src = 0) && decide (d.dst = 0)
    | 1 => shapeOk d && noAux && decide (d.arg = 0) && sideOk s d src && sideOk s d dst
    | 2 => shapeOk d && noAux && decide (1 ≤ d.arg) && decide (d.arg ≤ 15) && sideOk s d src && sideOk s d dst &&
           decide (d.dstKind ≤ 1) && decide (d.rowBytes % 32 = 0) && decide (d.dst.toNat % 32 = 0) &&
           decide (dst.s1 % 32 = 0) && decide (dst.s2 % 32 = 0)
    | 3 => shapeOk d && noAux && decide (d.arg = 0) && decide (d.srcKind = 0) && decide (d.src.toNat < 2 ^ 32) &&
           noSrcStride && sideOk s d dst
    | 4 => shapeOk d && noAux && decide (d.arg < 32) && decide (d.count2 = 1) && decide (d.srcStride2 = 0) &&
           decide (d.dstStride2 = 0) && indexed d.srcKind d.src.toNat && sideOk s d dst &&
           decide (listAddr d % 4 = 0) && decide (listAddr d < 2 ^ 48)
    | 5 => shapeOk d && noAux && decide (d.arg < 32) && decide (d.count2 = 1) && decide (d.srcStride2 = 0) &&
           decide (d.dstStride2 = 0) && indexed d.dstKind d.dst.toNat && sideOk s d src &&
           decide (listAddr d % 4 = 0) && decide (listAddr d < 2 ^ 48)
    | 6 => shapeOk d && noAux && decide (1 ≤ d.arg) && decide (d.arg ≤ 16) && decide (d.dstKind = 0) &&
           sideOk s d src && decide (d.dst.toNat % 16 = 0) && decide (d.dst.toNat < 2 ^ 48) &&
           decide (dst.s1 % 4 = 0) && decide (dst.s2 % 4 = 0)
    | 7 => shapeOk d && decide (d.arg = 0) && decide (d.srcKind = 0) && sideOk s d src &&
           host d.dstKind d.dstStride2
    | 8 => shapeOk d && decide (d.arg = 0) && decide (d.dstKind = 0) && sideOk s d dst &&
           host d.srcKind d.srcStride2
    | 9 => shapeOk d && noAux && decide (d.srcKind = 0) && decide (d.dstKind = 0) && decide (d.dst = 0) && noDstStride &&
           sideOk s d src && decide (d.arg < 64 * numHalves s)
    | 10 => noShape && noAux && decide (d.arg = 0) && decide (d.srcKind = 0) && decide (d.src = 0) &&
            decide (d.dstKind = 1) && decide (d.dst.toNat % 2 ^ 48 = 0) && d.sigEn
    | _ => false)

/-- The cue handles of a descriptor name cues of the function with their current takes (R256). The signal of an
`RSIGNAL` names a cue of another device. -/
def descCuesOk (s : State) (f : Nat) (d : Desc) : Bool :=
  let mine (hdl : W32) : Bool := handleCurrent s hdl && decide (cueFunc s (cueNum hdl) = some f)
  (!d.waitEn || mine d.waitCue) && (!d.sigEn || decide (d.opcode = opRsignal) || mine d.sigCue)

/-! ### Ends (R257–R259) -/

/-- Descriptor statuses. -/
def dsPoison : Nat := 1
def dsAddress : Nat := 2
def dsBadDesc : Nat := 4
def dsTarget : Nat := 5
def dsRemote : Nat := 6
def dsTimeout : Nat := 7
def dsFenced : Nat := 8
def dsRdma : Nat := 9
def dsSlate : Nat := 10
def dsAbandoned : Nat := 11

/-- The active descriptor with a running index. -/
def runAt (s : State) (n : Nat) (idx : W32) : Option DescRun :=
  (queueAt s n).active.find? (fun d => decide (d.index = idx))

/-- Change an active descriptor. -/
def modRun (n : Nat) (idx : W32) (f : DescRun → DescRun) (s : State) : State :=
  modQueue n (fun q => { q with active := setRun idx f q.active }) s

/-- A descriptor freshly read, with its own number. -/
def newRun (idx : W32) (d : Desc) (uid : Nat) : DescRun :=
  { index := idx, d := d, phase := .waiting, status := 0, ended := false, consumed := false, waitIn := false,
    begun := false, pos := 0, bytes := 0, poisoned := false, piece := [], unit := 0, units := [], rtag := none,
    rans := none, sentT := 0, posted := false, idxVals := [], branches := [], targetErr := 0, asked := 0,
    slot := 0, blocked := false, uid := uid, lsErrs := [] }

/-- A Reel stream: entry 64 × half + k. -/
def reelAt (s : State) (k : Nat) : ReelSt := s.dolly.reels.getD k ReelSt.init
def setReel (k : Nat) (x : ReelSt) (s : State) : State :=
  { s with dolly := { s.dolly with reels := s.dolly.reels.insert k x } }

/-- A descriptor ends with a status that stops the queue (R258): later active descriptors are abandoned, what they
consumed is given back, `HEAD` goes back to the one after the failed. A REEL's stream fails with some statuses (R268). -/
def failDesc (n : Nat) (idx : W32) (status : Nat) (s : State) : State :=
  let s := forEach (runAt s n idx).toList creditBack s
  let s := dropUnstarted n (modRun n idx (fun d =>
    { d with phase := .complete, status := status, ended := true, waitIn := false, piece := [] }) s)
  let q := queueAt s n
  let at_ := (q.active.findIdx? (fun d => decide (d.index = idx))).getD 0
  let later := (q.active.drop (at_ + 1)).filter (fun d => !d.ended)
  let note (i : W32) (st : Nat) (s : State) : State :=
    modQueue n (fun q => { q with errIndex := i.toNat % 2 ^ 16, errStatus := st }) s
  let s := note idx status s
  let s := forEach later (fun d s =>
    let s := when d.consumed (signalFrom (halfOf 256 n) d.d.waitCue d.d.waitThreshold) s
    note d.index dsAbandoned (modRun n d.index (fun d =>
      { d with phase := .complete, status := dsAbandoned, ended := true, piece := [] }) s)) s
  let s := modQueue n (fun q => { q with head := idx + 1, st := .error }) s
  match q.active[at_]? with
  | some d =>
    if d.d.opcode = opReel ∧ status ∈ [dsRemote, dsTimeout, dsFenced] then
      setReel d.d.arg { reelAt s d.d.arg with st := 2 } s
    else s
  | none => s

/-- All accesses of a descriptor are done: OK, or POISON when data moved with poison (R259). -/
def completeDesc (n : Nat) (idx : W32) (s : State) : State :=
  match runAt s n idx with
  | none => s
  | some d =>
    let st := if d.poisoned then dsPoison else 0
    let s := modRun n idx (fun d => { d with phase := .complete, status := st }) s
    if d.poisoned then modQueue n (fun q => { q with errIndex := idx.toNat % 2 ^ 16, errStatus := st }) s else s

/-- The writes of a queue's function are performed at GROUP scope as far as this base can tell: none of its requests to
other devices awaits its `ACK_GLOBAL`, and no home waits for remote copies of its lines after a write (R190). -/
def groupDone (s : State) (n : Nat) : Bool :=
  let f := (queueFunc s n).getD 0
  s.coh.reqs.all (fun e => !(decide (e.2.func = f) && (decide (e.2.code = 0x05) || decide (e.2.code = 0x06) ||
    decide (e.2.code = 0x08)))) &&
  s.coh.txs.all (fun e => !(e.2.performed && decide (dpaFunc s (lineDpa s (e.1 / 2 ^ 26) (e.1 % 2 ^ 26)) = some f)))

/-! ### The start (R240, R253, R255, R266) -/

/-- The descriptors before one are complete. -/
def earlierDone (q : QueueSt) (idx : W32) : Bool :=
  (q.active.takeWhile (fun d => decide (d.index ≠ idx))).all (fun d => decide (d.phase = .complete))

/-- The active descriptors of an engine (R236). -/
def engineActive (s : State) (n : Nat) : Nat :=
  let y := rbits s .dqCtl n 11 8
  (s.dolly.queues.map (fun e =>
    if e.1 / 256 = n / 256 ∧ rbits s .dqCtl e.1 11 8 = y then
      (e.2.active.filter (fun d => decide (d.phase ≠ .waiting))).length else 0)).sum

/-- The running descriptors of a queue's engine in the order in which it serves them: those of HIGH queues first (R236). -/
def engineRuns (s : State) (n : Nat) : List (Nat × DescRun) :=
  let y := rbits s .dqCtl n 11 8
  let all := (s.dolly.queues.filter (fun e => decide (e.1 / 256 = n / 256) && decide (rbits s .dqCtl e.1 11 8 = y))).flatMap
    (fun e => (e.2.active.filter (fun d => decide (d.phase = .running))).map (fun d => (e.1, d)))
  all.filter (fun e => rbit s .dqCtl e.1 1) ++ all.filter (fun e => !rbit s .dqCtl e.1 1)

/-- The engine works on a running descriptor now (R236): it is among the 16 that the engine works on, and one of a NORMAL
queue has its turn only while no descriptor of a HIGH queue can go on (log entry 90). -/
def engineServes (s : State) (n : Nat) (idx : W32) : Bool :=
  let l := (engineRuns s n).take 16
  l.any (fun e => decide (e.1 = n) && decide (e.2.index = idx)) &&
  (rbit s .dqCtl n 1 || l.all (fun e => !rbit s .dqCtl e.1 1 || e.2.blocked))

/-- Start the descriptor that was read last, when all it waits for is there; its cue wait is entered last. A REEL takes its
credit here (R266). -/
def tryStart (n : Nat) (s : State) : State :=
  let q := queueAt s n
  match q.active.find? (fun d => decide (d.phase = .waiting)) with
  | none => s
  | some d =>
    let others := q.active.filter (fun e => decide (e.index ≠ d.index))
    let serial := serialOp d.d.opcode || others.any (fun e => serialOp e.d.opcode && decide (e.phase ≠ .complete))
    let ready := queueRuns q && decide (others.length < 4) &&
      (!(serial || decide (1 ≤ d.d.order)) || earlierDone q d.index) && (decide (d.d.order ≠ 2) || groupDone s n)
    if !ready || d.waitIn then s
    else
      let x := reelAt s d.d.arg
      let needs := decide (d.d.opcode = opReel) && decide (d.asked = 0) &&
        decide (some (rbits s .reelId d.d.arg 27 24) = queueFunc s n)
      if needs && (decide (x.st ≠ 1) || decide (x.credits = 0)) then modQueue n (fun q => { q with st := .waiting }) s
      else if !d.d.waitEn && decide (16 ≤ engineActive s n) then s
      else
        let s := if needs then
            modRun n d.index (fun e => { e with asked := 1 }) (setReel d.d.arg { x with credits := x.credits - 1 } s)
          else s
        if d.d.waitEn then
          if descCuesOk s ((queueFunc s n).getD 0) { d.d with sigEn := false } then
            let s := modQueue n (fun q =>
              { q with st := .waiting, active := setRun d.index (fun e => { e with waitIn := true }) q.active }) s
            waitFrom (halfOf 256 n) d.d.waitCue ⟨.desc n d.index, d.d.waitThreshold, d.d.waitConsume⟩ s
          else failDesc n d.index stCue s
        else
          modQueue n (fun q =>
            { q with st := .running, head := d.index + 1,
                     active := setRun d.index (fun e => { e with phase := .running }) q.active }) s

/-- A sector cannot be reached at all: its stack is gone, or this engine's read of it failed at a hold (R162, R260). -/
def engFenced (s : State) (ag : Agent) (a : Nat) : Bool :=
  match locOf s a with
  | some l => stackGone s (stackOfSlice l.sl) || quietFailed s ag l
  | none => false

/-- Forget the failed read that has been reported. -/
def clearFail (ag : Agent) (a : Nat) (s : State) : State :=
  match locOf s a with
  | some l => { s with buf := { s.buf with
      quietFails := s.buf.quietFails.filter (fun q => q ≠ (ag, waitKey l.sl l.line l.sec)) } }
  | none => s

/-- The next number for a remote access of a queue's engine, with the queue's take in its low byte (R238). -/
def issueEngTag (n : Nat) (s : State) : Nat × State :=
  (s.dolly.nextTag * 256 + (takeSt s (queueTake n)).take,
   { s with dolly := { s.dolly with nextTag := s.dolly.nextTag + 1 } })

/-- DESCRIPTOR_READ (R239, R240): the engine reads the descriptor at `HEAD`. After a failure the records of the descriptors
that ended come first (R258). -/
def doDescriptorRead (h : Half) (q0 : Nat) (s : State) : State :=
  let n := queueNum h q0
  let q := queueAt s n
  let ag := queueAgent n
  let idle := !queueRuns q || decide (q.head = q.tail) || q.active.any (fun d => decide (d.phase = .waiting)) ||
    decide (4 ≤ q.active.length) || decide (16 ≤ engineActive s n) ||
    q.active.any (fun d => d.ended || (serialOp d.d.opcode && decide (d.phase ≠ .complete)))
  if idle then s
  else
    let a := q.ring + 64 * (q.head.toNat % 2 ^ q.ringLog)
    let put (d : Desc) (s : State) : State :=
      let t := issueEngTag n s
      modQueue n (fun q => { q with active := q.active ++ [newRun q.head d t.1] }) t.2
    let bad (st : Nat) (s : State) : State := failDesc n q.head st (put blankDesc s)
    match queueFunc s n with
    | none => bad dsAddress (cfgEvent ag a 25 s)
    | some f =>
      if !extentIn s f a 64 then bad dsAddress (cfgEvent ag a 25 s)
      else if engFenced s ag a || engFenced s ag (a + 32) then bad dsFenced (clearFail ag a (clearFail ag (a + 32) s))
      else if govWaits s ag 0 a then s
      else
        match engBytes ag a 64 s with
        | (none, s) => s
        | (some (_, true), s) => bad dsBadDesc (govEngine ag 0 a 64 true s)
        | (some (b, false), s) =>
          let s := govEngine ag 0 a 64 true s
          let d := descOf b
          let s := put d s
          if !descOk s b d then failDesc n q.head dsBadDesc s
          else if !descCuesOk s f d then failDesc n q.head stCue s
          else tryStart n s

/-! ### Bytes at a spot -/

/-- What an access of an engine answers. -/
inductive Got (α : Type) where
  | ok (x : α)
  | wait
  | bad (status : Nat)

/-- The status of a remote access that ended with an error (R247, R257): a refusal is ADDRESS, no answer in time TIMEOUT, a
fence FENCED, the rest REMOTE. -/
def remoteStatus (cause : Nat) : Nat :=
  if cause ∈ [0, 2, 3] then dsAddress else if cause = 16 then dsTimeout else if cause = 5 then dsFenced else dsRemote

/-- The bytes of a poisoned or sound group. -/
def withPoison (bs : List Byte) (p : Bool) : List (Byte × Bool) := bs.map (fun b => (b, p))

/-- A run of local store bytes, word by word (R248), with what their check bits showed (R68). -/
def lsBytes (arr cell off len : Nat) (errs : List ArrErr) (s : State) : List (Byte × Bool) × State :=
  let h := halfOf 64 arr
  match lphys s h (arr % 64) with
  | none => ([], s)
  | some p =>
    let x := cellSt s (cellKey h p cell)
    let met := (errs.filter (fun e => decide (e.arr.val = arr) && decide (e.cell.val = cell) &&
      decide (off / 4 ≤ e.err.word.val) && decide (e.err.word.val < off / 4 + len / 4))).map ArrErr.err
    ((List.range (len / 4)).flatMap (fun i =>
      let w := lsGet x (off / 4 + i)
      withPoison (bytesOf 4 w.v) (w.p || wordDouble met (off / 4 + i))), noteEngLsErrs h p cell (arr % 64) met s)

/-- Write local store words. -/
def lsPutBytes (arr cell off : Nat) (bs : List (Byte × Bool)) (s : State) : State :=
  let h := halfOf 64 arr
  match lphys s h (arr % 64) with
  | none => s
  | some p =>
    modCell (cellKey h p cell) (fun x =>
      (List.range (bs.length / 4)).foldl (fun x i =>
        let w := (bs.drop (4 * i)).take 4
        lsPut (off / 4 + i) ⟨ofBytes 32 (w.map Prod.fst), w.any Prod.snd⟩ x) x) s

/-- A local store may be reached: the array is the function's and its half is not fenced off. -/
def lsReach (s : State) (f arr : Nat) : Nat :=
  if halfOf 64 arr = .h1 ∧ farGone s then dsFenced
  else if lsArrayFunc s arr = some f then 0 else dsAddress

/-- How many bytes one access at a spot can take: up to the end of the sector, or of the row's cell. -/
def spotRoom : Spot → Nat
  | .mem a => 32 - a % 32
  | .scratch a => 32 - a % 32
  | .ls _ _ o => 32 - o % 32
  | .remote g => 32 - g.toNat % 32
  | .nowhere => 4

/-- Read `len` bytes at a spot that lie within one sector, for a descriptor. -/
def spotRead (n : Nat) (idx : W32) (p : Spot) (len : Nat) (s : State) : Got (List (Byte × Bool)) × State :=
  let ag := queueAgent n
  let f := (queueFunc s n).getD 16
  match p with
  | .mem a =>
    if !mayAccess s ag a then (.bad dsAddress, cfgEvent ag a 25 s)
    else if engFenced s ag a then (.bad dsFenced, clearFail ag a s)
    else if govWaits s ag 0 a then (.wait, s)
    else
      match engRead ag (a / 32 * 32) s with
      | (none, s) => (.wait, s)
      | (some (d, q), s) =>
        (.ok (withPoison (((bytesOf 32 d).drop (a % 32)).take len) q),
         when q (countPoison ag f) (govEngine ag 0 a 32 true s))
  | .scratch a =>
    if !mayScratch s ag a then (.bad dsAddress, cfgEvent ag a 25 s)
    else
      let r := scratchGet s a len
      (.ok (withPoison r.1 r.2), when r.2 (countPoison ag f) s)
  | .ls arr c o =>
    let st := lsReach s f arr
    if st ≠ 0 then (.bad st, s)
    else
      let r := lsBytes arr c o len (((runAt s n idx).map DescRun.lsErrs).getD []) s
      (.ok r.1, r.2)
  | .remote ga =>
    match runAt s n idx with
    | none => (.wait, s)
    | some d =>
      let sec := ga.toNat / 32 % 4
      let s1 :=
        if d.rtag.isSome then s
        else
          let t := issueEngTag n s
          let s := modRun n idx (fun d => { d with rtag := some t.1, rans := none }) t.2
          farAccess ag ga (.read (Fin.ofNat 16 (2 ^ sec))) t.1 s
      match (runAt s1 n idx).bind (fun d => d.rans) with
      | none => (.wait, s1)
      | some r =>
        let s2 := modRun n idx (fun d => { d with rtag := none, rans := none }) s1
        match r with
        | .data l =>
          match l.find? (fun x => decide (x.1 = sec)) with
          | some x => (.ok (withPoison (((bytesOf 32 x.2.1).drop (ga.toNat % 32)).take len) x.2.2), s2)
          | none => (.wait, s2)
        | .err c => (.bad (remoteStatus c), s2)
        | .done => (.wait, s2)
  | .nowhere => (.bad dsAddress, s)

/-- A write or add of a descriptor that `send` issues under a number: sent once, accepted when its answer is there. -/
def putVia (n : Nat) (idx : W32) (send : Nat → State → State) (s : State) : Got Unit × State :=
  match runAt s n idx with
  | none => (.wait, s)
  | some d =>
    let s1 :=
      if d.rtag.isSome then s
      else
        let t := issueEngTag n s
        send t.1 (modRun n idx (fun d => { d with rtag := some t.1, rans := none }) t.2)
    match (runAt s1 n idx).bind (fun d => d.rans) with
    | none => (.wait, s1)
    | some r =>
      let s2 := modRun n idx (fun d => { d with rtag := none, rans := none }) s1
      match r with
      | .err c => (.bad (remoteStatus c), s2)
      | _ => (.ok (), s2)

/-- A remote write or add of a descriptor. -/
def remotePut (n : Nat) (idx : W32) (ga : W64) (op : FarOp) (s : State) : Got Unit × State :=
  putVia n idx (farAccess (queueAgent n) ga op) s

/-- Write bytes at a spot, within one sector. -/
def spotWrite (n : Nat) (idx : W32) (p : Spot) (bs : List (Byte × Bool)) (s : State) : Got Unit × State :=
  let ag := queueAgent n
  let f := (queueFunc s n).getD 16
  let pois := bs.any Prod.snd
  match p with
  | .mem a =>
    if !mayAccess s ag a then (.bad dsAddress, cfgEvent ag a 25 s)
    else if engFenced s ag a then (.bad dsFenced, clearFail ag a s)
    else if govWaits s ag 4 a then (.wait, s)
    else
      match engWrite ag (a / 32 * 32) (byteWrite (a % 32) (bs.map Prod.fst) pois) s with
      | (false, s) => (.wait, s)
      | (true, s) => (.ok (), govEngine ag 4 a 32 false s)
  | .scratch a =>
    if !mayScratch s ag a then (.bad dsAddress, cfgEvent ag a 25 s)
    else (.ok (), scratchPut a (bs.map Prod.fst) pois s)
  | .ls arr c o =>
    let st := lsReach s f arr
    if st ≠ 0 then (.bad st, s) else (.ok (), lsPutBytes arr c o bs s)
  | .remote ga =>
    remotePut n idx ga (.write [(Fin.ofNat 4 (ga.toNat / 32 % 4), byteWrite (ga.toNat % 32) (bs.map Prod.fst) pois)]) s
  | .nowhere => (.bad dsAddress, s)

/-- Add one sector at a spot (R251). -/
def spotAdd (n : Nat) (idx : W32) (ro : RedOp) (p : Spot) (bs : List (Byte × Bool)) (s : State) : Got Unit × State :=
  let ag := queueAgent n
  let d : Sec256 := ofBytes 256 (bs.map Prod.fst)
  let pois := bs.any Prod.snd
  match p with
  | .mem a =>
    if !mayAccess s ag a then (.bad dsAddress, cfgEvent ag a 25 s)
    else if engFenced s ag a then (.bad dsFenced, clearFail ag a s)
    else if govWaits s ag 4 a then (.wait, s)
    else if farCombines s ag a then putVia n idx (farCombine ag a ro [(Fin.ofNat 4 (a / 32 % 4), d, pois)]) s
    else
      match engAdd ag a ⟨ro, d, pois⟩ s with
      | (false, s) => (.wait, s)
      | (true, s) => (.ok (), govEngine ag 4 a 32 false s)
  | .scratch a =>
    if !mayScratch s ag a then (.bad dsAddress, cfgEvent ag a 25 s)
    else
      let old := scratchGet s a 32
      (.ok (), scratchPut a (bytesOf 32 (combine ro (ofBytes 256 old.1) d)) (old.2 || pois) s)
  | .remote ga => remotePut n idx ga (.add ro [(Fin.ofNat 4 (ga.toNat / 32 % 4), d, pois)]) s
  | _ => (.bad dsAddress, s)

/-! ### Moving a shape (R246–R252, R269, R270) -/

/-- Where byte `pos` of a side lies: by its row's address, or by an index for the indexed side (R250). None: the row of an
index is misaligned. -/
def posAddr (r : DescRun) (x : Side) (indexed : Bool) (pos : Nat) : Int :=
  let row := pos / r.d.rowBytes
  let base : Int := if indexed then (x.addr : Int) + (r.idxVals.getD row 0 * 2 ^ r.d.arg : Nat) else rowAddr r.d x row
  base + (pos % r.d.rowBytes : Nat)

/-- Where a byte of the descriptor's source or destination lies. -/
def srcPos (r : DescRun) (pos : Nat) : Int := posAddr r (srcSide r.d) (decide (r.d.opcode = opGather)) pos
def dstPos (r : DescRun) (pos : Nat) : Int := posAddr r (dstSide r.d) (decide (r.d.opcode = opScatter)) pos

/-- The bytes of the shape that are written where byte `pos` of it is read (R249). -/
def writtenAt (s : State) (r : DescRun) (pos : Nat) : List Nat :=
  let a := spotOf s r.d.srcKind (srcPos r pos)
  (List.range (descTotal r.d)).filter (fun q => decide (spotOf s r.d.dstKind (dstPos r q) = a))

/-- The first and last byte of a side: over its rows, or by its index list. -/
def spanOf (r : DescRun) (x : Side) (indexed : Bool) : Int × Int :=
  if indexed then
    let l := (List.range r.d.count1).map (fun i => posAddr r x true (i * r.d.rowBytes))
    (l.foldl min (l.headD 0), l.foldl max (l.headD 0) + (r.d.rowBytes : Int) - 1)
  else sideExtent r.d x

/-- The source and the destination extents of a descriptor overlap (R249): they lie in one region and neither ends before the
other. -/
def overlapping (s : State) (r : DescRun) : Bool :=
  let a := spanOf r (srcSide r.d) (decide (r.d.opcode = opGather))
  let b := spanOf r (dstSide r.d) (decide (r.d.opcode = opScatter))
  let norm (k : Nat) (x : Int) : Int := if k = 1 then x % 2 ^ 48 else x
  sameRegion (spotOf s r.d.srcKind a.1) (spotOf s r.d.dstKind b.1) &&
  decide (norm r.d.srcKind a.1 ≤ norm r.d.dstKind b.2) && decide (norm r.d.dstKind b.1 ≤ norm r.d.srcKind a.2)

/-- Where byte `pos` of an overlapping shape takes its value from, by a free choice for each byte: its own source byte as it
was at the start, or what the descriptor has written there, followed as far as the choices lead (R249; log entry 1). -/
def chosenFrom (s : State) (r : DescRun) (choice : List Nat) : Nat → Nat → Nat
  | 0, pos => pos
  | fuel + 1, pos =>
    let w := writtenAt s r pos
    match choice.getD pos 0 % (w.length + 1) with
    | 0 => pos
    | k + 1 => chosenFrom s r choice fuel (w.getD k pos)

/-- One free choice for each byte. -/
def freeChoices : Nat → State → List Nat × State
  | 0, s => ([], s)
  | n + 1, s =>
    let a := freeNat 16 s
    let r := freeChoices n a.2
    (a.1 :: r.1, r.2)

/-- The bytes that an overlapping shape writes, from those its source held at the start. -/
def mixOverlap (r : DescRun) (s : State) : List (Byte × Bool) × State :=
  let c := freeChoices (descTotal r.d) s
  ((List.range (descTotal r.d)).map (fun pos => r.piece.getD (chosenFrom s r c.1 (descTotal r.d) pos) (0, false)), c.2)

/-- Leave open the source words of an ADD that the descriptor itself may have added to (R249; log entry 1). -/
def freeOverlap (r : DescRun) (pos : Nat) (bs : List (Byte × Bool)) (s : State) : List (Byte × Bool) × State :=
  if r.d.opcode ≠ opAdd ∨ !overlapping s r then (bs, s)
  else (List.range (bs.length / 4)).foldl (fun acc i =>
    let w := (bs.drop (4 * i)).take 4
    if writtenAt s r (pos + 4 * i) ≠ [] then
      let v := freeNat 32 acc.2
      (acc.1 ++ withPoison (natLe 4 v.1) (w.any Prod.snd), v.2)
    else (acc.1 ++ w, acc.2)) ([], s)

/-- A granule of a Slate read: 2 KiB of the coherent value at the point, read whole (R231). None while a sector cannot be
read. -/
def granuleBytes (ag : Agent) (g : Nat) (s : State) : Option (List Byte × Bool) × State := engBytes ag (2048 * g) 2048 s

/-- The next granule of a Slate descriptor: one that an access is held for, else the next in order (R270). -/
def nextUnit (s : State) (f : Nat) (r : DescRun) : Nat :=
  let x := srcSide r.d
  let gran (u : Nat) : Nat := (posAddr r x false (2048 * u)).toNat / 2048
  let left := (List.range (descTotal r.d / 2048)).filter (fun u => !r.units.contains u)
  let held := (slateAt s f).held.map (fun q => lineDpa s q.sl q.line / 2048) ++ (slateAt s f).want.map Prod.snd
  match left.find? (fun u => held.contains (gran u)) with
  | some u => u
  | none => left.headD 0

/-- Read the next granule of a Slate descriptor (R231, R269). -/
def slateRead (n : Nat) (idx : W32) (s : State) : Got Unit × State :=
  match runAt s n idx with
  | none => (.wait, s)
  | some r =>
    let f := (queueFunc s n).getD 16
    let ag := queueAgent n
    let u := nextUnit s f r
    let a := (posAddr r (srcSide r.d) false (2048 * u)).toNat
    let g := a / 2048
    let x := slateAt s f
    if x.st ≠ .streaming then (.bad dsSlate, s)
    else if x.grans.getD g 0 = 2 then (.bad dsSlate, s)
    else if !mayAccess s ag a then (.bad dsAddress, cfgEvent ag a 25 s)
    else
      let from_ := if x.grans.getD g 0 = 1 then x.copies.getD g g else g
      if engFenced s ag (2048 * from_) then (.bad dsFenced, clearFail ag (2048 * from_) s)
      else if govWaits s ag 0 (2048 * from_) then (.wait, s)
      else
        match granuleBytes ag from_ s with
        | (none, s) => (.wait, s)
        | (some (_, true), s) => (.bad dsPoison, failGranule f g (govEngine ag 0 (2048 * from_) 2048 true s))
        | (some (b, false), s) =>
          let s := govEngine ag 0 (2048 * from_) 2048 true s
          (.ok (), modRun n idx (fun r => { r with piece := withPoison b false, unit := u, units := r.units ++ [u] })
            (slateDone f g s))

/-- Read more of the source into a descriptor's piece. -/
def readMore (n : Nat) (idx : W32) (s : State) : Got Unit × State :=
  match runAt s n idx with
  | none => (.wait, s)
  | some r =>
    if r.d.slate then slateRead n idx s
    else
      let at_ := r.pos + r.piece.length
      let p := spotOf s r.d.srcKind (srcPos r at_)
      let len := min (spotRoom p) (r.d.rowBytes - at_ % r.d.rowBytes)
      match spotRead n idx p len s with
      | (.ok bs, s) =>
        let o := freeOverlap r at_ bs s
        (.ok (), modRun n idx (fun r => { r with piece := r.piece ++ o.1 }) o.2)
      | (.wait, s) => (.wait, s)
      | (.bad st, s) => (.bad st, s)

/-- Count the 64 B units that an engine reads or writes. -/
def countUnits (r : Reg) (n before after : Nat) (s : State) : State :=
  bumpWrap r (16 * (halfOf 256 n).num + rbits s .dqCtl n 11 8) 31 0 ((after + 63) / 64 - (before + 63) / 64) s

/-- Write the front of a descriptor's piece to its destination: up to the end of a sector. `ro`: as an add. -/
def writeSome (n : Nat) (idx : W32) (ro : Option RedOp) (s : State) : Got Unit × State :=
  match runAt s n idx with
  | none => (.wait, s)
  | some r =>
    let at_ := if r.d.slate then 2048 * r.unit + (2048 - r.piece.length) else r.pos
    let p := spotOf s r.d.dstKind (dstPos r at_)
    let len := min (min (spotRoom p) (r.d.rowBytes - at_ % r.d.rowBytes)) r.piece.length
    let bs := r.piece.take len
    let res := match ro with
      | some ro => spotAdd n idx ro p bs s
      | none => spotWrite n idx p bs s
    match res with
    | (.ok (), s) =>
      let s := countUnits .engWr n r.pos (r.pos + len) s
      let s := when (decide (r.d.opcode ≠ opFill)) (countUnits .engRd n r.pos (r.pos + len)) s
      (.ok (), modRun n idx (fun r => { r with
        piece := r.piece.drop len, pos := r.pos + len, bytes := r.bytes + len
        poisoned := r.poisoned || bs.any Prod.snd }) s)
    | (.wait, s) => (.wait, s)
    | (.bad st, s) => (.bad st, s)

/-- Move the rest of a descriptor's shape, as far as it goes now. An add writes whole sectors. -/
def moveShape (n : Nat) (idx : W32) (ro : Option RedOp) : Nat → State → State
  | 0, s => s
  | fuel + 1, s =>
    match runAt s n idx with
    | none => s
    | some r =>
      let need := if ro.isSome then 32 else 1
      let left := descTotal r.d - r.pos
      if left = 0 then completeDesc n idx s
      else
        match (if r.piece.length < min need left then readMore n idx s else writeSome n idx ro s) with
        | (.ok (), s) => moveShape n idx ro fuel s
        | (.wait, s) => s
        | (.bad st, s) => failDesc n idx st s

/-- Enough steps for a shape. -/
def moveFuel (d : Desc) : Nat := descTotal d + 2

/-- Every row of the indexed side is the function's and aligned; the first row that is not ends the descriptor when the
engine comes to it, so this check is made row by row (R247, R250): 0 when the row may be moved. -/
def indexRowStatus (s : State) (f : Nat) (r : DescRun) (x : Side) (row : Nat) : Nat :=
  let a := posAddr r x true (row * r.d.rowBytes)
  let lo := spotOf s x.kind a
  let hi := spotOf s x.kind (a + (r.d.rowBytes : Int) - 1)
  if a % 4 ≠ 0 then dsBadDesc
  else if !sameRegion lo hi then dsAddress
  else
    let cellOk := match lo with
      | .ls _ _ o => decide (o + r.d.rowBytes ≤ 16384)
      | _ => true
    let devOk := match lo, spotOf s x.kind x.addr with
      | .remote g, .remote g0 => decide (gaDev g = gaDev g0)
      | .remote _, _ => false
      | _, _ => true
    if cellOk && devOk && rangeMine s f lo hi r.d.rowBytes then 0 else dsAddress

/-- Move the rows of an indexed side one by one (R250). -/
def moveIndexed (n : Nat) (idx : W32) (x : Side) : Nat → State → State
  | 0, s => s
  | fuel + 1, s =>
    match runAt s n idx with
    | none => s
    | some r =>
      if descTotal r.d ≤ r.pos then completeDesc n idx s
      else
        let st := indexRowStatus s ((queueFunc s n).getD 16) r x (r.pos / r.d.rowBytes)
        if st ≠ 0 then failDesc n idx st s
        else
          match (if r.piece = [] then readMore n idx s else writeSome n idx none s) with
          | (.ok (), s) => moveIndexed n idx x fuel s
          | (.wait, s) => s
          | (.bad st, s) => failDesc n idx st s

/-- Move a shape whose extents overlap (R249): the source is read whole, then the bytes chosen are written. -/
def moveOverlap (n : Nat) (idx : W32) : Nat → State → State
  | 0, s => s
  | fuel + 1, s =>
    match runAt s n idx with
    | none => s
    | some r =>
      let total := descTotal r.d
      let f := (queueFunc s n).getD 16
      let row (at_ : Nat) (x : Side) (i : Bool) : Nat := if i then indexRowStatus s f r x (at_ / r.d.rowBytes) else 0
      if total ≤ r.pos then completeDesc n idx s
      else if !r.posted && decide (total ≤ r.piece.length) then
        let m := mixOverlap r s
        moveOverlap n idx fuel (modRun n idx (fun r => { r with piece := m.1, posted := true }) m.2)
      else
        let st := if r.posted then row r.pos (dstSide r.d) (decide (r.d.opcode = opScatter))
          else row r.piece.length (srcSide r.d) (decide (r.d.opcode = opGather))
        if st ≠ 0 then failDesc n idx st s
        else
          match (if r.posted then writeSome n idx none s else readMore n idx s) with
          | (.ok (), s) => moveOverlap n idx fuel s
          | (.wait, s) => s
          | (.bad st, s) => failDesc n idx st s

/-- Move a shape whose extents overlap as R249 leaves it, another as `go` does. -/
def moveOr (n : Nat) (r : DescRun) (go : State → State) (s : State) : State :=
  if !r.d.slate && overlapping s r then moveOverlap n r.index (2 * moveFuel r.d) s else go s

/-- Write the pattern of a FILL (R252). -/
def moveFill (n : Nat) (idx : W32) : Nat → State → State
  | 0, s => s
  | fuel + 1, s =>
    match runAt s n idx with
    | none => s
    | some r =>
      if descTotal r.d ≤ r.pos then completeDesc n idx s
      else
        let w := withPoison (natLe 4 (r.d.src.toNat % 2 ^ 32)) false
        let piece := (List.range 8).flatMap (fun _ => w)
        let s := if r.piece = [] then modRun n idx (fun r => { r with piece := piece }) s else s
        match writeSome n idx none s with
        | (.ok (), s) => moveFill n idx fuel s
        | (.wait, s) => s
        | (.bad st, s) => failDesc n idx st s

/-! ### Running a descriptor -/

/-- The conditions on the source of a Slate read (R269). -/
def slateOkDesc (s : State) (f : Nat) (d : Desc) : Bool :=
  let x := slateAt s f
  let e := sideExtent d (srcSide d)
  let segs := (List.range ((e.2 - e.1).toNat / 2 ^ 30 + 2)).map (fun i => e.1.toNat / 2 ^ 30 + i)
  decide (d.srcKind = 0) && decide (d.src.toNat % 2048 = 0) && decide (d.rowBytes % 2048 = 0) &&
  decide (d.srcStride1.toInt % 2048 = 0) && decide (d.srcStride2.toInt % 2048 = 0) && decide (x.st = .streaming) &&
  segs.all (fun g => decide (e.2.toNat / 2 ^ 30 < g) || x.parts.contains (segPart s g))

/-- The checks at a descriptor's start (R247, R269): 0 when it may go on. -/
def startStatus (s : State) (f : Nat) (d : Desc) : Nat :=
  let src := srcSide d
  let dst := dstSide d
  let ok := match d.opcode with
    | 1 => sideMine s f d src && sideMine s f d dst
    | 2 => sideMine s f d src && sideMine s f d dst
    | 3 => sideMine s f d dst
    | 4 => sideMine s f d dst && extentIn s f (listAddr d) (4 * d.count1)
    | 5 => sideMine s f d src && extentIn s f (listAddr d) (4 * d.count1)
    | 6 => sideMine s f d src && extentIn s f d.dst.toNat (16 * d.arg)
    | 7 => sideMine s f d src
    | 8 => sideMine s f d dst
    | 9 => sideMine s f d src
    | _ => true
  if !ok then dsAddress else if d.slate && !slateOkDesc s f d then dsSlate else 0

/-- Read the index list (R250); a poisoned list ends the descriptor as a poisoned descriptor does (DESIGN CHOICE, log entry
12). -/
def readList (n : Nat) (r : DescRun) (s : State) : Got (List Nat) × State :=
  let ag := queueAgent n
  let a := listAddr r.d
  let len := 4 * r.d.count1
  if engFenced s ag a then (.bad dsFenced, clearFail ag a s)
  else if govWaits s ag 0 a then (.wait, s)
  else
    match engBytes ag a len s with
    | (none, s) => (.wait, s)
    | (some (_, true), s) => (.bad dsBadDesc, govEngine ag 0 a len true s)
    | (some (b, false), s) =>
      (.ok ((List.range r.d.count1).map (fun i => word4 b (4 * i))), govEngine ag 0 a len true s)

/-- Begin a descriptor: the checks at its start, made once. -/
def beginDesc (n : Nat) (idx : W32) (s : State) : State :=
  match runAt s n idx with
  | none => s
  | some r =>
    if r.begun || decide (r.phase ≠ .running) then s
    else
      let st := startStatus s ((queueFunc s n).getD 16) r.d
      if st ≠ 0 then failDesc n idx st s
      else if r.d.opcode = opGather ∨ r.d.opcode = opScatter then
        match readList n r s with
        | (.ok l, s) => modRun n idx (fun r => { r with begun := true, idxVals := l }) s
        | (.wait, s) => s
        | (.bad st, s) => failDesc n idx st s
      else modRun n idx (fun r => { r with begun := true }) s

/-- One turn of a running descriptor: what its local store reads meet is held for the turn, and whether it could not go on to
its end is noted. -/
def engineTurn (n : Nat) (idx : W32) (errs : List ArrErr) (body : State → State) (s : State) : State :=
  modRun n idx (fun r => { r with lsErrs := [], blocked := decide (r.phase = .running) })
    (body (modRun n idx (fun r => { r with lsErrs := errs }) s))

/-- Run the descriptor with a running index when its opcode is the command's: it starts when it may, its start is
checked, and `body` does its work while its engine serves it (R236). -/
def runDesc (h : Half) (q : Nat) (idx : W32) (op : Nat) (errs : List ArrErr) (body : Nat → DescRun → State → State)
    (s : State) : State :=
  let n := queueNum h q
  match runAt s n idx with
  | none => s
  | some r =>
    if r.d.opcode ≠ op then s
    else
      let s := if r.phase = .waiting then tryStart n s else s
      if !engineServes s n idx then s
      else
        let s := beginDesc n idx s
        match runAt s n idx with
        | none => s
        | some r => engineTurn n idx errs (fun s => if r.begun && decide (r.phase = .running) then body n r s else s) s

/-- NOP (R245). -/
def doNop (h : Half) (q : Nat) (idx : W32) (s : State) : State :=
  runDesc h q idx opNop [] (fun n r s => completeDesc n r.index s) s

/-- COPY (R246–R249, R269). -/
def doCopy (h : Half) (q : Nat) (idx : W32) (errs : List ArrErr) (s : State) : State :=
  runDesc h q idx opCopy errs (fun n r => moveOr n r (moveShape n r.index none (2 * moveFuel r.d))) s

/-- ADD (R251). -/
def doAddDesc (h : Half) (q : Nat) (idx : W32) (errs : List ArrErr) (s : State) : State :=
  runDesc h q idx opAdd errs (fun n r s => moveShape n r.index (redopOf r.d.arg) (2 * moveFuel r.d) s) s

/-- FILL (R252). -/
def doFill (h : Half) (q : Nat) (idx : W32) (s : State) : State :=
  runDesc h q idx opFill [] (fun n r s => moveFill n r.index (moveFuel r.d) s) s

/-- GATHER (R250). -/
def doGather (h : Half) (q : Nat) (idx : W32) (errs : List ArrErr) (s : State) : State :=
  runDesc h q idx opGather errs (fun n r => moveOr n r (moveIndexed n r.index (srcSide r.d) (2 * moveFuel r.d))) s

/-- SCATTER (R250): rows in ascending order, so that overlapping rows keep the higher. -/
def doScatter (h : Half) (q : Nat) (idx : W32) (errs : List ArrErr) (s : State) : State :=
  runDesc h q idx opScatter errs (fun n r => moveOr n r (moveIndexed n r.index (dstSide r.d) (2 * moveFuel r.d))) s

/-! ### Completion (R254, R257) -/

/-- The bytes of a record (R257). -/
def descRecord (q : QueueSt) (r : DescRun) : List Byte :=
  let phase := q.recTail.toNat / 2 ^ q.recLog % 2
  natLe 4 (r.index.toNat % 2 ^ 16 + r.status * 2 ^ 16 + r.d.opcode % 128 * 2 ^ 24 + (1 - phase) * 2 ^ 31) ++
  natLe 4 r.d.tag.toNat ++ natLe 4 (r.bytes % 2 ^ 32) ++ natLe 4 (r.bytes / 2 ^ 32 % 256 + r.targetErr % 2 ^ 16 * 2 ^ 8)

/-- The queue shows RECFULL (R241, R257): nothing new starts, unstarted descriptors are given back. -/
def enterRecFull (n : Nat) (s : State) : State :=
  if queueRuns (queueAt s n) then modQueue n (fun q => { q with st := .recfull }) (dropUnstarted n s) else s

/-- Write a descriptor's record when it has one to write: false while it cannot be written. A ring that is no longer the
function's takes no record (DESIGN CHOICE, log entry 12). -/
def writeDescRec (n : Nat) (r : DescRun) (s : State) : Bool × State :=
  let q := queueAt s n
  let ag := queueAgent n
  if q.recLog = 0 ∨ (r.status = 0 ∧ !r.d.recOk) then (true, s)
  else if recFull q then (false, enterRecFull n s)
  else
    let a := q.recBase + 16 * (q.recTail.toNat % 2 ^ q.recLog)
    if !mayAccess s ag a || engFenced s ag a then (true, cfgEvent ag a 25 s)
    else if govWaits s ag 4 a then (false, s)
    else
      match engPut ag a (descRecord q r) false s with
      | (false, s) => (false, s)
      | (true, s) =>
        let s := modQueue n (fun q => { q with recTail := q.recTail + 1 }) (govEngine ag 4 a 32 false s)
        (true, if recFull (queueAt s n) then enterRecFull n s else s)

/-- DESCRIPTOR_COMPLETE (R254, R257): a descriptor whose accesses are done writes its record and issues its signal, in ring
order, and leaves the queue. -/
def doDescComplete (h : Half) (q0 : Nat) (idx : W32) (s : State) : State :=
  let n := queueNum h q0
  let q := queueAt s n
  match runAt s n idx with
  | none => s
  | some r =>
    let before := q.active.takeWhile (fun d => decide (d.index ≠ idx))
    let sig := r.d.sigEn && !r.ended && decide (r.d.opcode ≠ opRsignal)
    let turn := before.all (fun d => decide (d.phase = .complete) && !(d.d.sigEn && !d.ended))
    if r.phase ≠ .complete ∨ (sig ∧ !turn) ∨ (sig ∧ r.d.sigScope ∧ !groupDone s n) then s
    else
      match writeDescRec n r s with
      | (false, s) => s
      | (true, s) =>
        let s := when sig (signalFrom h r.d.sigCue r.d.sigInc) s
        let s := modQueue n (fun q => { q with active := q.active.filter (fun d => decide (d.index ≠ idx)) }) s
        settleQueue n s

/-! ### Writes of a queue's fields -/

/-- A write to `DQ_CTL` that keeps its other bits. -/
def dqCtlWrite (ag : Agent) (h : Half) (q : Nat) (set clear : Nat) (s : State) : State :=
  let n := queueNum h q
  let v := rget s .dqCtl n
  regStore ag h .dqCtl n ((v ||| set) - (v &&& clear)) (dqCtlAct n) s

/-- DQ_ENABLE (R242). -/
def execDqEnable (ag : Agent) (h : Half) (q : Fin 256) (v : BitVec 32) (s : State) : Outcome :=
  onAgent s ag (.next
    (regStore ag h .dqCtl (queueNum h q) (v.toNat ||| 1) (dqCtlAct (queueNum h q)) s))
/-- DQ_DISABLE (R242). -/
def execDqDisable (ag : Agent) (h : Half) (q : Fin 256) (s : State) : Outcome :=
  onAgent s ag (.next (dqCtlWrite ag h q 0 1 s))
/-- DQ_STOP (R242). -/
def execDqStop (ag : Agent) (h : Half) (q : Fin 256) (s : State) : Outcome :=
  onAgent s ag (.next (dqCtlWrite ag h q 4 0 s))
/-- DQ_RESUME (R242). -/
def execDqResume (ag : Agent) (h : Half) (q : Fin 256) (s : State) : Outcome :=
  onAgent s ag (.next (dqCtlWrite ag h q 8 0 s))
/-- DOORBELL (R239). -/
def execDoorbell (ag : Agent) (h : Half) (q : Fin 256) (tail : BitVec 32) (s : State) : Outcome :=
  onAgent s ag (.next
    (regStore ag h .dqTail (queueNum h q) tail.toNat (dqTailAct (queueNum h q)) s))
/-- DQ_REC_HEAD_WRITE (R257). -/
def execDqRecHeadWrite (ag : Agent) (h : Half) (q : Fin 256) (v : BitVec 32) (s : State) : Outcome :=
  onAgent s ag (.next
    (regStore ag h .dqRecHead (queueNum h q) v.toNat (dqRecHeadAct (queueNum h q)) s))
/-- DESCRIPTOR_READ (R239). -/
def execDescriptorRead (h : Half) (q : Fin 256) (s : State) : Outcome := onHalf s h (.next (doDescriptorRead h q s))
/-- NOP (R245). -/
def execNop (h : Half) (q : Fin 256) (n : BitVec 32) (s : State) : Outcome := onHalf s h (.next (doNop h q n s))
/-- COPY (R246). -/
def execCopy (h : Half) (q : Fin 256) (n : DescTurn) (s : State) : Outcome := onHalf s h (.next (doCopy h q n.n n.errs s))
/-- ADD (R251). -/
def execAdd (h : Half) (q : Fin 256) (n : DescTurn) (s : State) : Outcome := onHalf s h (.next (doAddDesc h q n.n n.errs s))
/-- FILL (R252). -/
def execFill (h : Half) (q : Fin 256) (n : BitVec 32) (s : State) : Outcome := onHalf s h (.next (doFill h q n s))
/-- GATHER (R250). -/
def execGather (h : Half) (q : Fin 256) (n : DescTurn) (s : State) : Outcome := onHalf s h (.next (doGather h q n.n n.errs s))
/-- SCATTER (R250). -/
def execScatter (h : Half) (q : Fin 256) (n : DescTurn) (s : State) : Outcome := onHalf s h (.next (doScatter h q n.n n.errs s))
/-- DESCRIPTOR_COMPLETE (R254). -/
def execDescriptorComplete (h : Half) (q : Fin 256) (n : BitVec 32) (s : State) : Outcome :=
  onHalf s h (.next (doDescComplete h q n s))

end Sys2Proof.Machine
end

