-- ==== Sys2Proof/Machine/Memory.lean ====
section
/-! DEFINITION. The commands of the memory stacks and channels (R153–R181): channel accesses, thermal bands, holds,
refresh, scrub, training and the traffic generator. What a stack's loss takes with it stands in `Degrade`. -/

namespace Sys2Proof.Machine

open Sys2Proof

/-- The half of a stack S0–S15. -/
def stackHalf (k : Nat) : Half := halfOf 8 k
/-- The half of a pseudo-channel. -/
def chanHalf (c : Nat) : Half := halfOf 512 c

/-- A stack is there and not lost or excluded. -/
def stackLive (s : State) (k : Nat) : Bool := !(stackAt s k).lost && !(stackAt s k).excluded

/-! ### Channel accesses (R164–R170) -/

/-- Accesses that waited at a slice, and transactions that waited for its channels, go on. -/
def afterChan (c : Nat) (s : State) : State := redriveSlice (c / 4) (retryStalled (c / 4) s)

/-- The n-th access of a channel is performed when it is of the kind that the command names and the arbitration grants it. -/
def performKind (c n : Nat) (err : ReadErr) (kind : ChanKind → Bool) (s : State) : State :=
  match (chanAt s c).q[n]? with
  | some o => if kind o.op && chanOpen s c then afterChan c (performGranted c n err s) else s
  | none => s

def isRead : ChanKind → Bool
  | .read _ => true
  | _ => false
def isWrite : ChanKind → Bool
  | .write .. => true
  | .rmw _ => true
  | .dead => true
  | _ => false

/-- MEMORY_SECTOR_READ (R164). -/
def execMemorySectorRead (c : Fin 1024) (n : Nat) (err : ReadErr) (s : State) : Outcome :=
  onHalf s (chanHalf c) (.next (performKind c n err isRead s))

/-- MEMORY_SECTOR_WRITE (R165). -/
def execMemorySectorWrite (c : Fin 1024) (n : Nat) (err : ReadErr) (s : State) : Outcome :=
  onHalf s (chanHalf c) (.next (performKind c n err isWrite s))

/-- MEMORY_SIDE_ADD (R170). -/
def execMemorySideAdd (c : Fin 1024) (n : Nat) (err : ReadErr) (s : State) : Outcome :=
  onHalf s (chanHalf c) (.next (performKind c n err isAdd s))

/-- The age at which a write-combining entry is written (R168, R181), in 0.1 µs. -/
def wcbAge (s : State) (c : Nat) : Nat := max 1 (rbits s .memCfg (chanHalf c).num 15 8)

/-- WCB_AGE_EXPIRE (R168): the entry is written by read-modify-write in its place in the order; where the arbitration grants
another access first, it waits in the queue. -/
def doWcbAge (c n : Nat) (err : ReadErr) (s : State) : State :=
  match (chanAt s c).wcb[n]? with
  | none => s
  | some w =>
    let s := flushWcb c w.line w.sec (atTime (w.t + wcbAge s c) s)
    afterChan c (performGranted c ((chanAt s c).q.length - 1) err s)

def execWcbAgeExpire (c : Fin 1024) (n : Nat) (err : ReadErr) (s : State) : Outcome :=
  onHalf s (chanHalf c) (.next (doWcbAge c n err s))

/-! ### Refresh, recalibration, scrub (R153, R159, R160, R166) -/

/-- REFRESH_MANAGEMENT_REQUEST (R153): honoured at once and counted. -/
def execRefreshManagementRequest (c : Fin 1024) (s : State) : Outcome :=
  onHalf s (chanHalf c) (.next (if stackLive s (stackOfChan c) then bumpWrap .chRfm c 31 0 1 s else s))

/-- PER_BANK_REFRESH (R160): the next bank of the channel, unless the stack refreshes itself. -/
def doRefresh (c : Nat) (s : State) : State :=
  let x := chanAt s c
  if stackLive s (stackOfChan c) && !(stackAt s (stackOfChan c)).selfRefresh then
    setChan c { x with refBank := (x.refBank + 1) % 64, refreshes := x.refreshes + 1 } s
  else s

def execPerBankRefresh (c : Fin 1024) (s : State) : Outcome := onHalf s (chanHalf c) (.next (doRefresh c s))

/-- A recalibration succeeds or fails (R159): the count of successive failures. -/
def noteRecal (c : Nat) (ok : Bool) (s : State) : State :=
  let x := chanAt s c
  setChan c { x with recalFails := if ok then 0 else x.recalFails + 1 } s

/-- SCRUB_READ (R166): the next sector in index order, an access of the queue like any other, performed at once where the
arbitration grants it; at the end of a pass the stack's own counts are recorded, whose
values the manual leaves open. -/
def doScrub (c : Nat) (err : ReadErr) (s : State) : State :=
  if !chanOpen s c || !chanRoom s c 1 then s
  else
    let x := chanAt s c
    let lc := lineOfIndex c x.scrubPos
    let last := decide (x.scrubPos + 1 = 2 ^ 26)
    let s := setChan c { x with
      scrubPos := if last then 0 else x.scrubPos + 1, scrubPasses := x.scrubPasses + b2n last } s
    let s := enqueue c lc.1 lc.2 (.read .scrub) (flushWcb c lc.1 lc.2 s)
    let s := performGranted c ((chanAt s c).q.length - 1) err s
    if last then
      let v := freeNat 64 s
      eventD (chanHalf c) 0x0500 0 none c 0 166 v.1 v.2
    else s

def execScrubRead (c : Fin 1024) (err : ReadErr) (s : State) : Outcome :=
  onHalf s (chanHalf c) (.next (doScrub c err s))

/-! ### Thermal bands (R160–R162) -/

/-- The band of a temperature (R160). -/
def bandOf (t : Int) : Nat :=
  if t ≤ 85 then 0 else if t ≤ 95 then 1 else if t ≤ 105 then 2 else if t < 110 then 3 else 4

/-- The lower bound of a band, in °C (R160). -/
def bandLow : Nat → Int
  | 0 => -1000
  | 1 => 85
  | 2 => 95
  | 3 => 105
  | _ => 110

/-- A band change takes effect: `BAND`, its count, its record, its signal to the Clapper blocks (R161). -/
def bandChange (k new : Nat) (s : State) : State :=
  let s := setStack k { stackAt s k with band := new, lowCount := 0 } s
  let s := bumpSat .stackTemp k 31 16 1 s
  let s := eventD (stackHalf k) 0x0503 0 none k 0 161 new s
  if numHalves s = 2 ∧ !farGone s then zSend (.half (stackHalf k).other) 0 (.zService (.half (stackHalf k).other) 3 ⟨0, 0, 0⟩ k new) s
  else s

/-- A stack enters band 4: drained, fenced with cause THERMAL, in self refresh (R162). -/
def thermalDrain (k : Nat) (s : State) : State :=
  let t := stackAt s k
  let s := setStack k { t with
    fence := if t.fence = 0 then 1 else t.fence, fenceT := if t.fence = 0 then s.clock else t.fenceT
    selfRefresh := decide (t.fence = 0), holdFuncs := if t.fence = 0 then [] else t.holdFuncs, ret := none } s
  bandChange k 4 s

/-- TEMP_READING (R161, R162). -/
def doTempReading (k : Nat) (t : Int) (s : State) : State :=
  let x := stackAt s k
  if !stackLive s k then s
  else
    let x1 : StackSt := { x with temp := t, tempMax := max x.tempMax t, lastTempT := s.clock }
    if x.band = 4 then
      if 110 ≤ t then
        setStack k { x1 with ret := none, lowCount := 0, selfRefresh := decide (x.fence = 1) } s
      else if t ≤ 108 then
        let n := x.lowCount + 1
        let r := if 2 ≤ n ∧ x.ret = none then some (t, s.clock) else x.ret
        setStack k { x1 with lowCount := n, ret := r } s
      else setStack k { x1 with lowCount := 0 } s
    else
      let b := bandOf t
      if x.band < b then
        let s := setStack k x1 s
        if b = 4 then thermalDrain k s else bandChange k b s
      else if t ≤ bandLow x.band - 2 then
        if x.lowCount = 0 then setStack k { x1 with lowCount := 1 } s
        else bandChange k b (setStack k x1 s)
      else setStack k { x1 with lowCount := 0 } s

def execTempReading (st : Fin 16) (t : TempC) (s : State) : Outcome :=
  onHalf s (stackHalf st) (.next (doTempReading st t s))

/-- The accesses and transactions held for a stack go on. -/
def resumeStack (k : Nat) (s : State) : State :=
  redriveStack k (forEach ((List.range 16).map (fun i => 16 * k + i)) retryStalled s)

/-- THERMAL_RETURN (R162): step 5, at the earliest 20 µs after t1. -/
def doThermalReturn (k : Nat) (s : State) : State :=
  let x := stackAt s k
  match x.ret with
  | none => s
  | some (t, t1) =>
    let s := atTime (t1 + us 20) s
    let s := setStack k { x with
      ret := none, selfRefresh := false, fence := if x.fence = 1 then 0 else x.fence, holdFuncs := [] } s
    resumeStack k (bandChange k (bandOf t) s)

def execThermalReturn (st : Fin 16) (s : State) : Outcome := onHalf s (stackHalf st) (.next (doThermalReturn st s))

/-! ### Holds (R162) -/

/-- The sector that a failed fill leaves: I, or P with the partial it kept. -/
def failBase (s : State) (sl line sec : Nat) : Sector :=
  match lookup s sl line with
  | some (_, _, l) =>
    match l.secs.get sec with
    | .filling (some a) => .partSum a
    | _ => .inv
  | none => .inv

/-- The functions whose accesses a failing read takes with it. -/
def failFuncs (s : State) (sl : Nat) (o : ChanOp) : List Nat :=
  match o.op with
  | .read (.pass a) => [a.func]
  | .read .scrub => []
  | .read _ =>
    (failingOf (s.buf.waits.getD (waitKey sl o.line o.sec) []) (failBase s sl o.line o.sec)).map (fun a => a.func)
  | _ => []

/-- A held read fails (R162). -/
def failRead (sl : Nat) (o : ChanOp) (s : State) : State :=
  let ret : FillRet := ⟨o.line, o.sec, 0, true, false, false, false, true, none⟩
  match o.op with
  | .read (.pass a) => fillArrive sl { ret with pass := some a } s
  | .read .scrub => bumpSat .stackStatus (stackOfSlice sl) 31 16 1 s
  | _ => fillArrive sl ret s

/-- An access that waits at a slice is a write or an add. -/
def accWrites (a : SAcc) : Bool :=
  match a.op with
  | .write _ => true
  | .add _ => true
  | _ => false

/-- Transactions of holders that wait for a channel and are over their hold end with an error. -/
def failBlocked (c : Nat) (s : State) : State :=
  let k := stackOfChan c
  forEach s.coh.txs (fun e s =>
    let sl := e.1 / 2 ^ 26
    let line := e.1 % 2 ^ 26
    match e.2.req with
    | some r =>
      if e.2.blocked && decide (chanOf sl line = c) && decide (holdDue s k r.t ≤ s.clock) then
        let s := bumpSat .stackStatus k 31 16 1 (answerError r 5 (putTx sl line none s))
        drainLineQ sl ((s.coh.lineQ.getD sl []).length) (holdRecords k [reqFunc r] s)
      else s
    | none => s) s

/-- HOLD_EXPIRE (R162): on a fenced channel, the accesses whose 5 ms are over fail. -/
def doHoldExpire (c : Nat) (s : State) : State :=
  let k := stackOfChan c
  let sl := c / 4
  let f := (stackAt s k).fence
  if f = 0 ∨ f = 3 then s
  else
    let x := chanAt s c
    let mine (a : SAcc) : Bool := decide (chanOf sl a.line = c) && accWrites a
    let eng (s : State) : List (Agent × Nat × Nat) := s.buf.quietWaits.filter (fun q =>
      decide (q.2.1 / 4 / 2 ^ 26 = sl) && decide (chanOf sl (q.2.1 / 4 % 2 ^ 26) = c))
    let dues := (x.q.filter (fun o => isRead o.op)).map (fun o => holdDue s k o.t) ++
      (((s.buf.stalled.getD sl []).filter mine).map (fun a => holdDue s k a.t)) ++
      ((eng s).map (fun q => holdDue s k q.2.2)) ++
      (s.coh.txs.filterMap (fun e =>
        if e.2.blocked && decide (chanOf (e.1 / 2 ^ 26) (e.1 % 2 ^ 26) = c) then
          e.2.req.map (fun r => holdDue s k r.t) else none))
    match dues with
    | [] => s
    | d :: ds =>
      let s := atTime (ds.foldl min d) s
      let expired (o : ChanOp) : Bool := isRead o.op && decide (holdDue s k o.t ≤ s.clock)
      let gone := x.q.filter expired
      let s := setChan c { x with q := x.q.filter (fun o => !expired o) } s
      let s := forEach gone (fun o s => failRead sl o (holdRecords k (failFuncs s sl o) s)) s
      let late (a : SAcc) : Bool := mine a && decide (holdDue s k a.t ≤ s.clock)
      let st := s.buf.stalled.getD sl []
      let s := { s with buf := { s.buf with stalled := s.buf.stalled.setD sl [] (st.filter (fun a => !late a)) } }
      let s := forEach (st.filter late) (fun a s =>
        holdRecords k [a.func] (failAcc a (bumpSat .stackStatus k 31 16 1 s))) s
      let s := forEach ((eng s).filter (fun q => decide (holdDue s k q.2.2 ≤ s.clock))) (fun q s =>
        let s := { s with buf := { s.buf with
          quietWaits := s.buf.quietWaits.filter (fun p => p ≠ q), quietFails := s.buf.quietFails ++ [(q.1, q.2.1)] } }
        holdRecords k [(agentFunc s q.1).getD 0] (bumpSat .stackStatus k 31 16 1 s)) s
      retryStalled sl (failBlocked c s)

def execHoldExpire (c : Fin 1024) (s : State) : Outcome := onHalf s (chanHalf c) (.next (doHoldExpire c s))

/-! ### Loss of a stack: what its slices and channels lose (R177) -/

/-- The M and P sectors of the lines that a frame holds become I. -/
def dropDirty (l : LineSt) : LineSt :=
  { l with secs := l.secs.map (fun x => match x with
    | .modified _ _ => .inv
    | .partSum _ => .inv
    | x => x) }

def frameDirty : Frame → Nat
  | .held l => dirtyCount l
  | .packed a b => dirtyCount a + (b.map dirtyCount).getD 0

def dropFrame : Frame → Option Frame
  | .held l => putLine .alone (dropDirty l) (.held l)
  | .packed a b =>
    let b' := b.bind (fun b => if emptyLine (dropDirty b) then none else some (dropDirty b))
    if emptyLine (dropDirty a) then b'.map (fun b => .packed b none) else some (.packed (dropDirty a) b')

/-- The condition of R177 is met: the stack's channels are fenced with cause LOST, held accesses fail, unwritten data is
discarded and counted in the record. Causes: 1 recalibration, 2 command parity, 3 no temperature, 4 catastrophic. -/
def loseStack (k cause : Nat) (s : State) : State :=
  let inSt (sl : Nat) : Bool := decide (sl / 16 = k)
  let s := setStack k { stackAt s k with fence := 3, fenceT := s.clock, lost := true, selfRefresh := false, ret := none } s
  let s := forEach ((List.range 64).map (fun i => 64 * k + i)) (fun c s =>
    let x := chanAt s c
    let s := setChan c { x with
      inService := false, q := [], wcb := [], tg := { x.tg with run := false }, arb := ArbSt.init } s
    forEach (x.q.filter (fun o => isRead o.op)) (fun o s => failRead (c / 4) o s) s) s
  let s := forEach ((List.range 16).map (fun i => 16 * k + i)) (fun sl s =>
    let st := s.buf.stalled.getD sl []
    let rs := s.buf.rets.getD sl []
    let s := { s with buf := { s.buf with
      stalled := s.buf.stalled.erase sl, rets := s.buf.rets.erase sl, others := s.buf.others.filter (fun o => decide (o.1 ≠ sl))
      quietWaits := s.buf.quietWaits.filter (fun q => decide (q.2.1 / 2 ^ 28 ≠ sl)) } }
    let s := forEach rs (fun r s => fillArrive sl { r with failed := true, reducePending := false } s) s
    forEach st failAcc s) s
  let waited (o : MaintOp) : List WaitEntry := (opPending s o).filter (fun w => inSt w.sl)
  let frames := s.buf.frames.filter (fun e => inSt (e.1 / 16384))
  let slots := (List.range 16).map (fun i => (((ebufAt s (16 * k + i)).map slotCount).sum))
  let n := (frames.map (fun e => frameDirty e.2)).sum + slots.sum
  let s := { s with buf := { s.buf with
    frames := s.buf.frames.filterMap (fun e =>
      if inSt (e.1 / 16384) then (dropFrame e.2).map (fun f => (e.1, f)) else some e)
    ebuf := s.buf.ebuf.filter (fun e => !inSt e.1)
    maint := s.buf.maint.map (fun e => (e.1, { e.2 with
      run := e.2.run.map (fun o =>
        { o with failed := o.failed + ((waited o).map (fun w => w.slots)).sum, waitFor := o.waitFor.filter (fun w => !inSt w.sl) }) })) } }
  let s := eventD (stackHalf k) 0x0507 3 none k 0 177 (cause + n * 256) s
  forEach s.coh.txs (fun e s =>
    let sl := e.1 / 2 ^ 26
    let line := e.1 % 2 ^ 26
    match e.2.req with
    | some r =>
      if inSt sl && e.2.blocked then
        let s := answerError r 5 (putTx sl line none s)
        drainLineQ sl ((s.coh.lineQ.getD sl []).length) s
      else s
    | none => s) s

/-! ### Training (R154, R157, R158, R176) -/

/-- The stack and half of a repair log record, its channel, bank, row, kind (R176). -/
def recStack (r : Nat) : Nat := natBits 2 0 r + 8 * natBits 3 3 r
def recChan (r : Nat) : Nat := 64 * recStack r + natBits 9 4 r
def recBank (r : Nat) : Nat := natBits 15 10 r
def recRow (r : Nat) : Nat := natBits 30 16 r
def recKind (r : Nat) : Nat := natBits 33 32 r

/-- The record's check holds. -/
def recOk (r : Nat) : Bool := decide (crc16 (natLe 6 (r % 2 ^ 48)) = natBits 63 48 r)

/-- The records of one stack, with their places in the log. -/
def stackRecs (s : State) (k : Nat) : List (Nat × Nat) :=
  (s.mem.repairLog.zipIdx.filter (fun p => recOk p.1 && decide (recStack p.1 = k)))

/-- A logged row that repair could not fix is redirected again without copying, or retired for want of an entry or a
spare (steps 8 and 9; R176). -/
def rebuildRow (c bank row : Nat) (s : State) : State :=
  let x := chanAt s c
  match redirOf x row bank with
  | some _ => s
  | none =>
    match freeSpare x, freeRedir x with
    | some k, some e => setChan c { x with redir := x.redir.insert e ⟨row, bank, k⟩ } s
    | _, _ => listGranules c bank row s

/-- The sectors of a stack return to zero data and zero side bits (step 10). -/
def zeroFill (k : Nat) (s : State) : State :=
  { s with mem := { s.mem with
      dram := s.mem.dram.filter (fun e => decide (e.1 / 2 ^ 37 ≠ k))
      side := s.mem.side.filter (fun e => decide (e.1 / 2 ^ 32 ≠ k)) } }

/-- Lane repairs of training are shown and recorded (R158, R159); every training starts without any. -/
def laneRepairs (k : Nat) (l : List (Fin 64 × BitVec 32)) (s : State) : State :=
  let s := forEach (List.range 64) (fun i s =>
    setChan (64 * k + i) { chanAt s (64 * k + i) with laneMap := Chan.init.laneMap } s) s
  forEach l (fun p s =>
    let c := 64 * k + p.1.val
    eventD (stackHalf k) 0x0508 0 none k 0 159 (p.1.val + p.2.toNat * 64)
      (setChan c { chanAt s c with laneMap := p.2 } s)) s

/-- Lanes and buses that a `LANE_MAP` value replaces. -/
def laneCount (v : BitVec 32) : Nat :=
  b2n (decide (natBits 5 0 v.toNat ≠ 63)) + b2n (decide (natBits 13 8 v.toNat ≠ 63)) + b2n (natBit 16 v.toNat) +
    b2n (natBit 17 v.toNat)

/-- The row of a record: channel within the stack, bank, row. -/
def recKey (r : Nat) : Nat × Nat × Nat := (recChan r % 64, recBank r, recRow r)

/-- One record of the log meets step 8 (R176): its row is repaired when it is already, or when its bank group has a free
resource, which is then used up. -/
def repairRec (a : List (Nat × Nat) × List (Nat × Nat × Nat)) (r : Nat) : List (Nat × Nat) × List (Nat × Nat × Nat) :=
  let key := recKey r
  let bg := 16 * key.1 + key.2.1 / 4
  if a.2.contains key then a
  else if a.1.any (fun p => decide (p.1 = bg ∧ 0 < p.2)) then
    (a.1.map (fun p => if p.1 = bg then (p.1, p.2 - 1) else p), a.2 ++ [key])
  else a

/-- The redirect tables and spares of a stack at the end of step 9: the records of repaired rows leave the log, the other rows
are rebuilt in its order; spares that fail the zero fill are retired. The resources are read again at the end of step 8. -/
def rebuildRows (k : Nat) (rep : TrainReport) (s : State) : State :=
  let recs := (stackRecs s k).map Prod.fst
  let done := recs.foldl repairRec ((stackAt s k).ppr, [])
  let left (r : Nat) : Bool := !(recOk r && decide (recStack r = k) && done.2.contains (recKey r))
  let keep := recs.filter left
  let s := setStack k { stackAt s k with ppr := done.1 } { s with mem := { s.mem with
    repairLog := s.mem.repairLog.filter left
    retired := s.mem.retired.filter (fun r => decide (r.sl / 16 ≠ k)) } }
  let s := forEach (List.range 64) (fun i s =>
    let c := 64 * k + i
    let bad := (rep.badSpares.filter (fun b => b.1.val = i)).map (fun b => b.2.val)
    setChan c { chanAt s c with redir := [], spareRetired := bad } s) s
  forEach keep (fun r s => rebuildRow (recChan r) (recBank r) (recRow r) s) s

/-- A stack that cannot be brought into service is excluded (R158). -/
def excludeStack (k ch step : Nat) (s : State) : State :=
  let s := setStack k { stackAt s k with fence := 3, fenceT := s.clock, excluded := true } s
  eventD (stackHalf k) 0x0508 3 none k 0 158 (ch + step * 64) s

/-- A refused base: its memory controllers stay in reset (R154). -/
def refuseBase (s : State) : State := { s with mem := { MemSt.init with repairLog := s.mem.repairLog } }

/-- The end of a training: lane repairs are shown, every sector is zero, and the channels enter service (R157). -/
def enterService (k : Nat) (rep : TrainReport) (s : State) : State :=
  let s := zeroFill k (laneRepairs k rep.lanes s)
  let s := setStack k { stackAt s k with
    trained := true, laneRepairs := ((rep.lanes.map (fun p => laneCount p.2)).sum) % 256 } s
  forEach (List.range 64) (fun i s => setChan (64 * k + i) { chanAt s (64 * k + i) with inService := true } s) s

/-- The training of a stack at a cold boot (R154, R157, R158), when it is not in service yet and the base is not refused. The
first stack that fails the check of R154 refuses the base and is the one that the identity block reports. -/
def doStackTrain (k : Nat) (rep : TrainReport) (s : State) : State :=
  let x := stackAt s k
  if x.trained || x.excluded || x.lost || s.ident.refused then s
  else
    let s := setStack k { x with
      dies := ((rep.ident.map Prod.fst).getD 0), density := ((rep.ident.map Prod.snd).getD 0)
      ppr := if rep.ident.isSome then rep.ppr.map (fun p => (16 * p.1.val + p.2.1.val, p.2.2)) else [] } s
    match rep.ident with
    | some (16, 4) =>
      match rep.failed with
      | some (ch, step) => excludeStack k ch.val step.val s
      | none => enterService k rep (rebuildRows k rep s)
    | some (d, n) =>
      let id := { s.ident with refused := true, refStack := k, refDies := d, refDensity := n }
      refuseBase { s with ident := id }
    | none => excludeStack k 0 1 s

def execStackTrain (st : Fin 16) (rep : TrainReport) (s : State) : Outcome :=
  onHalf s (stackHalf st) (.next (doStackTrain st rep s))

/-! ### The traffic generator (R178, R180) -/

/-- The mode: 0 off, 1 OFFLINE, 2 INLINE. -/
def tgMode (s : State) (c : Nat) : Nat := let m := rbits s .tgCtl c 1 0
  if m = 3 then 0 else m

/-- What a run writes: OPS 0 and 2 write; OPS 3 acts as 0. -/
def tgOps (s : State) (c : Nat) : Nat := if rbits s .tgCtl c 10 9 = 3 then 0 else rbits s .tgCtl c 10 9

/-- The order: 5 to 7 act as 0. -/
def tgOrder (s : State) (c : Nat) : Nat := if 4 < rbits s .tgCtl c 4 2 then 0 else rbits s .tgCtl c 4 2

/-- The seed: 0 acts as 1. -/
def tgSeedOf (s : State) (c : Nat) : Nat := max 1 (rget s .tgSeed c)

/-- The sector indices of a run. -/
def tgRange (s : State) (c : Nat) : Nat × Nat := (rbits s .tgFirst c 25 0, rbits s .tgLast c 25 0)

/-- How far a sector index comes in the bank-interleaved order: bank fastest, then column, then row (R180). -/
def bankKey (idx : Nat) : Nat := idx / 2048 * 2048 + idx % 32 * 64 + idx / 32 % 64

/-- The place of a sector in a pass (R180). In the orders 3 and 4 the manual leaves it open. -/
def tgPlace (s : State) (c idx : Nat) : Nat :=
  let r := tgRange s c
  match tgOrder s c with
  | 1 => r.2 - idx
  | 2 => ((List.range (r.2 + 1 - r.1)).filter (fun i => decide (bankKey (r.1 + i) < bankKey idx))).length
  | 3 => Config.tgPlace 3 (tgSeedOf s c) (idx - r.1)
  | 4 => Config.tgPlace 4 0 (idx - r.1)
  | _ => idx - r.1

/-- One step of the PRBS31 x^31 + x^28 + 1. -/
def prbsStep (x : Nat) : Nat := (2 * x + b2n (natBit 30 x != natBit 27 x)) % 2 ^ 31

/-- The n-th bit of the PRBS31 of a lane. -/
def prbsBit (seed lane : Nat) (n : Nat) : Bool :=
  natBit 30 ((List.range n).foldl (fun x _ => prbsStep x) (Config.prbsSeed seed lane).toNat)

/-- The 40 lanes over the eight beats of a burst as data and side word (R157, R180): beat b carries word b on the data lanes
and side bits [8b+7:8b] on the side lanes (DEDUCED, log entry 92). -/
def lanesWord (f : Nat → Nat → Bool) : Sec256 × Nat :=
  (BitVec.ofNat 256 ((List.range 256).foldl (fun a i => a + b2n (f (i / 32) (i % 32)) * 2 ^ i) 0),
   (List.range 64).foldl (fun a i => a + b2n (f (i / 8) (32 + i % 8)) * 2 ^ i) 0)

/-- The data and side word that the pattern of a run gives a sector (R180). Patterns that name words only leave the side bits
as R163 computes them. -/
def tgData (s : State) (c idx : Nat) : Sec256 × Nat :=
  let words (f : Nat → Nat) : Sec256 × Nat :=
    let d : Sec256 := BitVec.ofNat 256 ((List.range 8).foldl (fun a i => a + f i % 2 ^ 32 * 2 ^ (32 * i)) 0)
    (d, sideWord d 0)
  let odd := decide (idx / 2048 % 2 = 1)
  let beat (b : Nat) : Nat := 8 * tgPlace s c idx + b
  match rbits s .tgCtl c 8 5 with
  | 1 => words (fun _ => 0xFFFFFFFF)
  | 2 => words (fun i => if (i % 2 = 1) != odd then 0xAAAAAAAA else 0x55555555)
  | 3 => lanesWord (fun b l => decide (beat b % 40 = l))
  | 4 => words (fun i => idx + i * 2 ^ 26)
  | 5 => lanesWord (fun b l => prbsBit (tgSeedOf s c) l (beat b))
  | 6 => lanesWord (fun b l => prbsBit (tgSeedOf s c) l (beat b) != decide (l % 2 = 1))
  | _ => words (fun _ => 0)

/-- Write one sector of a run. -/
def tgWrite (c idx : Nat) (s : State) : State :=
  let v := tgData s c idx
  let k := 2 ^ 26 * c + idx
  let m := dramWrite k v.1 0 s.mem
  { s with mem := if v.2 = sideWord v.1 0 then m else { m with side := m.side.setD k 0 (16 + 32 * v.2) } }

/-- Write `n` sectors from `lo`. `free`: whether a sector is reached is a value that the manual leaves open (the random order,
a run that was stopped; log entry 1). -/
def tgSweep (c : Nat) (free : Bool) : Nat → Nat → State → State
  | 0, _, s => s
  | n + 1, lo, s =>
    if free then
      let b := freeBool s
      tgSweep c free n (lo + 1) (when b.1 (tgWrite c lo) b.2)
    else tgSweep c free n (lo + 1) (tgWrite c lo s)

/-- A stop halts a run after the sector in progress (R180). How far it came, and what its checks counted so far, the commands
do not tell: sectors reached, passes and findings are free values (log entry 1). -/
def tgStop (c : Nat) (s : State) : State :=
  let x := chanAt s c
  if !x.tg.run then s
  else
    let r := tgRange s c
    let s := if tgMode s c = 1 ∧ tgOps s c ≠ 1 then tgSweep c true (r.2 + 1 - r.1) r.1 s else s
    let n := rbits s .tgPasses c 15 0
    let pass := freeNat 16 s
    let count := freeNat 32 pass.2
    let addr := freeNat 26 count.2
    let lo := freeNat 32 addr.2
    let hi := freeNat 8 lo.2
    let any := decide (count.1 ≠ 0)
    setChan c { chanAt hi.2 c with tg := { x.tg with
      run := false, pass := if n = 0 then pass.1 else pass.1 % n, errCount := count.1, anyErr := any
      errAddr := if any then addr.1 else 0, laneLo := if any then BitVec.ofNat 32 lo.1 else 0
      laneHi := if any then BitVec.ofNat 8 hi.1 else 0 } } hi.2

/-- The effect of a write to `TG_GO`. -/
def tgGoAct (c new : Nat) (s : State) : State :=
  let x := chanAt s c
  if natBit 1 new then tgStop c s
  else if natBit 0 new && !x.tg.run then
    if tgMode s c = 1 && decide ((stackAt s (stackOfChan c)).fence ≠ 2) then
      ruleEvent (chanHalf c) 5 178 c (regAddr .tgGo c) none s
    else if tgMode s c = 0 || decide (rget s .tgLast c < rget s .tgFirst c) then s
    else setChan c { x with tg := { TgSt.init with run := true } } s
  else s

/-- TG_START (R178). -/
def execTgStart (ag : Agent) (c : Fin 1024) (s : State) : Outcome :=
  onAgent s ag (.next (regStore ag (chanHalf c) .tgGo c 1 (tgGoAct c) s))

/-- TG_STOP (R180): after the sector in progress. -/
def execTgStop (ag : Agent) (c : Fin 1024) (s : State) : Outcome :=
  onAgent s ag (.next (regStore ag (chanHalf c) .tgGo c 2 (tgGoAct c) s))

/-- The bits in which a stored sector differs from the pattern: data and side bits, before correction. -/
def tgDiff (s : State) (c idx : Nat) : Sec256 × Nat :=
  let v := tgData s c idx
  let k := 2 ^ 26 * c + idx
  (dramSector s.mem k ^^^ v.1, sideOf s.mem k ^^^ v.2)

/-- The bits set in a number below 2^n. -/
def countBits (n x : Nat) : Nat := ((List.range n).filter (fun i => natBit i x)).length

/-- The data lanes and side lanes on which bits differ. -/
def diffLanes (d : Sec256 × Nat) : W32 × BitVec 8 :=
  (BitVec.ofNat 32 ((List.range 8).foldl (fun a b => a ||| natBits (32 * b + 31) (32 * b) d.1.toNat) 0),
   BitVec.ofNat 8 ((List.range 8).foldl (fun a b => a ||| natBits (8 * b + 7) (8 * b) d.2) 0))

/-- What a run has found so far. -/
structure TgFound where
  count : Nat
  first : Option Nat
  lo : W32
  hi : BitVec 8
  deriving DecidableEq, Repr

/-- What the stored content of a range shows against the pattern: differing bits, the sector that fails first in the run's
order, failing lanes. -/
def tgCompare (s : State) (c : Nat) (l : List Nat) : TgFound :=
  l.foldl (fun a idx =>
    let d := tgDiff s c idx
    let n := countBits 256 d.1.toNat + countBits 64 d.2
    if n = 0 then a
    else
      let ln := diffLanes d
      let first := match a.first with
        | some j => if tgPlace s c j ≤ tgPlace s c idx then j else idx
        | none => idx
      ⟨a.count + n, some first, a.lo ||| ln.1, a.hi ||| ln.2⟩) ⟨0, none, 0, 0⟩

/-- Count what a run found. -/
def tgCount (c : Nat) (f : TgFound) (s : State) : State :=
  let x := chanAt s c
  let t := x.tg
  setChan c { x with tg := { t with
    errCount := satAdd 0xFFFFFFFF t.errCount f.count
    errAddr := if t.anyErr then t.errAddr else if 0 < f.count then f.first.getD 0 else t.errAddr
    anyErr := t.anyErr || decide (0 < f.count), laneLo := t.laneLo ||| f.lo, laneHi := t.laneHi ||| f.hi } } s

/-- The reads of an INLINE run that found an error (R178): each meets the checks of R164, and its errored words are
counted. The reads that find none change nothing. -/
def tgInline (c : Nat) (l : List (BitVec 26 × ReadErr)) (s : State) : State :=
  forEach l (fun p s =>
    let r := tgRange s c
    let idx := p.1.toNat
    if !chanOpen s c || !decide (r.1 ≤ idx ∧ idx ≤ r.2) then s
    else
      let lc := lineOfIndex c idx
      let later := (chanAt s c).q.any (fun o => sameSec lc.1 lc.2 o && opWrites o.op)
      let s := (checkedRead c (c / 4) lc.1 lc.2 p.2 later s).2
      tgCount c ⟨p.2.single.dedup.length + b2n (p.2.double || p.2.metaErr), some idx, 0, 0⟩ s) s

/-- TG_PASSES_DONE (R180): the run's passes are done. OFFLINE writes leave the pattern; a run that only checks counts, in each
pass, the bits by which the stored sectors differ, and what the reads themselves meet is reported. A run without an end (0
passes) never completes. -/
def doTgDone (c : Nat) (f : TgFindings) (s : State) : State :=
  let x := chanAt s c
  let n := rbits s .tgPasses c 15 0
  if !x.tg.run || n = 0 then s
  else
    let r := tgRange s c
    let len := r.2 + 1 - r.1
    let s :=
      if tgMode s c = 1 then
        let s :=
          if tgOps s c = 1 then
            let found := tgCompare s c ((List.range len).map (fun i => r.1 + i))
            tgCount c { found with count := found.count * n } s
          else tgSweep c (decide (tgOrder s c = 3)) len r.1 s
        tgCount c ⟨f.count, f.first, f.laneLo, f.laneHi⟩ s
      else tgInline c f.reads s
    let x := chanAt s c
    setChan c { x with tg := { x.tg with run := false, done := true, pass := n } } s

def execTgPassesDone (c : Fin 1024) (f : TgFindings) (s : State) : Outcome :=
  onHalf s (chanHalf c) (.next (doTgDone c f s))

end Sys2Proof.Machine
end

