-- ==== Sys2Proof/Machine/Store.lean ====
section
/-! DEFINITION. What the base keeps without power and what it derives from it (R369, R377, R428–R440): the flash and
the NVM, the active settings record, serials and addresses, the boot state; the count of µs of each half (R422); the bytes
of a Dailies record (R455). -/

namespace Sys2Proof.Machine

open Sys2Proof

/-! ### Bytes -/

/-- The big-endian bytes of a number. -/
def natBe (n x : Nat) : List Byte := (natLe n x).reverse

/-- Read big-endian bytes as a number. -/
def beNat (bs : List Byte) : Nat := leNat bs.reverse

/-- The bytes of a list from an offset, zeros past its end. -/
def slice (off n : Nat) (b : List Byte) : List Byte := (List.range n).map (fun i => b.getD (off + i) 0)

/-- A list of zero bytes. -/
def zeros (n : Nat) : List Byte := List.replicate n 0

/-- A byte of a sparse memory whose unlisted bytes read as `d`. -/
def cellAt (d : Byte) (m : List Host.Cell) (a : Nat) : Byte := NMap.getD m a d

/-- Bytes of a sparse memory. -/
def cellsAt (d : Byte) (m : List Host.Cell) (a n : Nat) : List Byte := (List.range n).map (fun i => cellAt d m (a + i))

/-- Write bytes into a sparse memory. -/
def cellsPut (d : Byte) : List Byte → Nat → List Host.Cell → List Host.Cell
  | [], _, m => m
  | b :: bs, a, m => cellsPut d bs (a + 1) (NMap.setD m a d b)

/-- The first `n` bytes, at most 64, of SHAKE256. -/
def shake (n : Nat) (b : List Byte) : List Byte := (bytesOf 64 (Config.shake256 b)).take n

/-! ### Flash (R430) -/

/-- An erased or unwritten byte of the flash. -/
def flashDefault : Byte := 0xFF

/-- Read the flash. -/
def flashGet (s : State) (a n : Nat) : List Byte := cellsAt flashDefault s.ident.flash a n

/-- Program the flash. -/
def flashPut (a : Nat) (b : List Byte) (s : State) : State :=
  { s with ident := { s.ident with flash := cellsPut flashDefault b a s.ident.flash } }

/-- The start of a firmware slot, and its size. -/
def slotBase (n : Nat) : Nat := 0x100000 + 0x400000 * n
/-- The size of a slot. -/
def slotSize : Nat := 0x400000

/-- The copy of the slot control, A or B, if it is valid: sequence, `PREFER`, `RAISE`. -/
def slotCtl (s : State) (n : Nat) : Option (Nat × Nat × Bool) :=
  let b := flashGet s (0x10000 + 0x1000 * n) 32
  if crc32 (b.take 0x1C) = word4 b 0x1C then some (word4 b 0, fieldAt b 4 1, decide (fieldAt b 5 1 = 1)) else none

/-- The ruling copy: the valid one with the larger sequence (R430), with its number. -/
def rulingCtl (s : State) : Option (Nat × Nat × Nat × Bool) :=
  match slotCtl s 0, slotCtl s 1 with
  | some a, some b => if a.1 < b.1 then some (1, b) else some (0, a)
  | some a, none => some (0, a)
  | none, some b => some (1, b)
  | none, none => none

/-- The slot that the ROM tries first, and whether the floor is to be raised. -/
def preferSlot (s : State) : Nat := match rulingCtl s with
  | some (_, _, p, _) => p % 2
  | none => 0
/-- `RAISE` of the ruling copy. -/
def raiseFlag (s : State) : Bool := match rulingCtl s with
  | some (_, _, _, r) => r
  | none => false

/-- Write the slot control copy that does not rule, with the next sequence (R436). -/
def writeCtl (prefer : Nat) (raise : Bool) (s : State) : State :=
  let n := match rulingCtl s with
    | some (k, q, _, _) => (1 - k, q + 1)
    | none => (0, 1)
  let b := natLe 4 n.2 ++ [BitVec.ofNat 8 prefer, BitVec.ofNat 8 (b2n raise)] ++ zeros 22
  flashPut (0x10000 + 0x1000 * n.1) (b ++ natLe 4 (crc32 b)) s

/-! ### Settings (R440) -/

/-- The bytes of a settings record without its signature, and with it. -/
def recLen : Nat := 768
/-- With the signature of R441. -/
def recSigned : Nat := 30560

/-- The factory settings as a record. -/
def factoryRec : List Byte :=
  zeros 0x40 ++ [0x08, 1, 60] ++ zeros (768 - 0x43)

/-- The active record (R440). -/
def activeRec (s : State) : List Byte := if s.ident.active = [] then factoryRec else s.ident.active

/-- A field of the active record. -/
def setting (s : State) (off n : Nat) : Nat := fieldAt (activeRec s) off n

/-- The transport key of a function, if it has one. -/
def tkey (s : State) (f : Nat) : Option (List Byte) :=
  if natBit f (setting s 0x88 2) then some (slice (0x90 + 32 * f) 32 (activeRec s)) else none

/-- No F0 transport key is set (R377). -/
def openMode (s : State) : Bool := (tkey s 0).isNone

/-- The owner key, if one is set. -/
def ownerKey (s : State) : Option (List Byte) :=
  let k := slice 0x48 64 (activeRec s)
  if k.all (fun b => decide (b = 0)) then none else some k

/-- A record in an area of a half's NVM, A or B, when its CRC is good. -/
def areaRec (s : State) (h : Half) (b : Nat) : Option (List Byte) :=
  let m := if h = .h0 then s.ident.nvm0 else s.ident.nvm1
  let r := cellsAt 0 m (0x40000 * b) recLen
  if word4 r 0x2FC = crc32 (r.take 0x2FC) ∧ word4 r 0 = 0x54534E4D then
    some (if natBit 0 (fieldAt r 6 2) then cellsAt 0 m (0x40000 * b) recSigned else r)
  else none

/-- The better of a half's two areas: the record with the larger sequence, and its area. -/
def bestArea (s : State) (h : Half) : Option (Nat × List Byte) :=
  match areaRec s h 0, areaRec s h 1 with
  | some a, some b => if word4 a 8 < word4 b 8 then some (1, b) else some (0, a)
  | some a, none => some (0, a)
  | none, some b => some (1, b)
  | none, none => none

/-- Write a record to an area of a half's NVM. -/
def areaPut (h : Half) (b : Nat) (r : List Byte) (s : State) : State :=
  match h with
  | .h0 => { s with ident := { s.ident with nvm0 := cellsPut 0 r (0x40000 * b) s.ident.nvm0 } }
  | .h1 => { s with ident := { s.ident with nvm1 := cellsPut 0 r (0x40000 * b) s.ident.nvm1 } }

/-- The active record is chosen (R440): 1 area A, 2 area B, 3 the mirror, 0 factory settings. -/
def chooseRecord (s : State) : State :=
  match bestArea s .h0, (if farGone s then none else bestArea s .h1) with
  | some (b, r), _ => { s with ident := { s.ident with
      active := r, activeB := decide (b = 1), setSource := b + 1, setSeq := word4 r 8 } }
  | none, some (b, r) => { s with ident := { s.ident with
      active := r, activeB := decide (b = 1), setSource := 3, setSeq := word4 r 8 } }
  | none, none => { s with ident := { s.ident with active := [], activeB := false, setSource := 0, setSeq := 0 } }

/-- The fields whose reset value is NVM take the active record's values (R440, step 12 of R424). -/
def applySettings (s : State) : State :=
  let g := setting s
  let s := rput .macLo 0 (g 0x12 4) s
  let s := rput .macHi 0 (g 0x10 2) s
  let s := rput .ipv4Addr 0 (g 0x18 4) s
  let v := g 0x1E 2
  let s := rput .hpNet 0 (g 0x1C 1 % 64 + g 0x1D 1 % 256 * 2 ^ 6 + v % 4096 * 2 ^ 14 + b2n (natBit 15 v) * 2 ^ 26) s
  let s := forEach (List.range 4) (fun k s => rput .ipv6 k (beNat (slice (0x20 + 4 * k) 4 (activeRec s))) s) s
  rput .hpCfg 0 (setBits 23 16 (g 0x42 1) (setBits 8 8 (g 0x41 1 % 2) (setBits 7 0 (g 0x40 1) (rget s .hpCfg 0)))) s

/-! ### Names and addresses (R369) -/

/-- The package serial, 16 bytes. -/
def serialBytes (s : State) : List Byte := bytesOf 16 s.ident.serial

/-- The MAC address, first byte first: the network group's, or derived from the serial when none is set. -/
def ownMac (s : State) : List Byte :=
  let m := natLe 2 (rget s .macHi 0) ++ natLe 4 (rget s .macLo 0)
  if m.all (fun b => decide (b = 0)) then 0x02 :: shake 5 (serialBytes s) else m

/-- The IPv6 addresses as numbers: the link-local one by modified EUI-64, and the configured one (0: none). -/
def v6Local (s : State) : Nat :=
  let m := ownMac s
  beNat ([0xFE, 0x80] ++ zeros 6 ++
    [m.getD 0 0 ^^^ 0x02, m.getD 1 0, m.getD 2 0, 0xFF, 0xFE, m.getD 3 0, m.getD 4 0, m.getD 5 0])
/-- The configured IPv6 address. -/
def v6Cfg (s : State) : Nat :=
  ((rget s .ipv6 0 * 2 ^ 32 + rget s .ipv6 1) * 2 ^ 32 + rget s .ipv6 2) * 2 ^ 32 + rget s .ipv6 3

/-! ### Time (R422) -/

/-- `TIME` of a half in µs. -/
def timeUs (s : State) (h : Half) : Nat :=
  match h with
  | .h0 => (s.clock - s.pwr.time0) / 10
  | .h1 => s.pwr.time1 + (s.clock - s.pwr.time1At) / 10

/-! ### Dailies records as bytes (R455) -/

/-- Bytes 0x00–0x6F of a record. -/
def recBody (r : RingRec) : List Byte :=
  natLe 2 r.r.code ++ natLe 1 r.r.sev ++ natLe 1 (r.r.func.getD 255) ++ natLe 1 r.r.cls ++ natLe 1 r.r.half.num ++
  natLe 2 r.r.index ++ natLe 8 r.time ++ natLe 8 r.r.addr ++ natLe 4 r.r.count ++ natLe 4 r.r.cause ++
  natLe 80 r.r.detail

/-- A record's 128 bytes. -/
def recBytes (r : RingRec) : List Byte :=
  let b := recBody r ++ natLe 4 r.seq ++ natLe 4 r.dropped ++ zeros 4
  b ++ natLe 4 (crc32 b)

/-! ### F0's reserved segments (R34) -/

/-- The first segment of a half's reserved pair. -/
def f0Seg (s : State) (h : Half) : Nat :=
  match s.part, h with
  | .mb1, _ => 1022
  | .mb2, .h0 => 2044
  | .mb2, .h1 => 2046

/-- Where the reserved pair of a half begins. Where its contents lie in it is the firmware's own choice (DESIGN CHOICE, log
entry 13): the reels of session n at 1 MiB × n, the measurement log at 128 MiB, the Dailies ring at 256 MiB. -/
def f0Base (s : State) (h : Half) : Nat := f0Seg s h * 2 ^ 30
/-- The reels of a session: command, completion and event reel. -/
def reelBase (s : State) (ses k : Nat) : Nat := f0Base s .h0 + ses * 2 ^ 20 + (if k = 0 then 0 else if k = 1 then 2 ^ 17 else 2 ^ 19)
/-- The measurement log. -/
def mlogBase (s : State) : Nat := f0Base s .h0 + 2 ^ 27
/-- The Dailies ring that Cadun sets at a boot. -/
def dringBase (s : State) (h : Half) : Nat := f0Base s h + 2 ^ 28

/-- The firmware stores bytes in F0's memory; where memory cannot take them now, they stay in the processor's SRAM. -/
def fwPut (a : Nat) (b : List Byte) (s : State) : State := (engPut (.mp .h0) a b false s).2

end Sys2Proof.Machine
end

