-- ==== Sys2Proof/Machine/Host.lean ====
section
/-! DEFINITION. The host port (R366–R370, R376–R386): frames, discovery, the Cadun transport and its sessions with their
reels, completions and events. -/

namespace Sys2Proof.Machine

open Sys2Proof

/-- Change the host port's state. -/
def modHost (f : HostSt → HostSt) (s : State) : State := { s with host := f s.host }

/-- The host link carries frames. -/
def hostUp (s : State) : Bool := decide (s.host.link = 1)

/-- Send a frame on a priority (R368, R376): nothing leaves while the link is down; a paused priority waits. -/
def hostEmit (prio : Nat) (o : Out) (s : State) : State :=
  if !hostUp s then s
  else if natBit prio s.host.paused.toNat then
    modHost (fun x => { x with held := x.held.insert prio (x.held.getD prio [] ++ [o]) }) s
  else emit o s

/-- A counter of the port. -/
def countHost (r : Reg) (s : State) : State := bumpSat r 0 31 0 1 s

/-! ### Sessions -/

/-- A session. -/
def sesAt (s : State) (n : Nat) : SesSt := s.host.sessions.getD n SesSt.init
/-- Replace a session. -/
def setSes (n : Nat) (x : SesSt) (s : State) : State :=
  modHost (fun h => { h with sessions := h.sessions.setD n SesSt.init x }) s
/-- Change a session. -/
def modSes (n : Nat) (f : SesSt → SesSt) (s : State) : State := setSes n (f (sesAt s n)) s
/-- The key of a session's take. -/
def sesTakeKey (n : Nat) : Nat := takeKey (.session (Fin.ofNat 64 n))

/-- The `SESSION` field of a session. -/
def sesField (s : State) (n : Nat) : Nat := n + 64 * (takeSt s (sesTakeKey n)).take

/-- A session of F0 is open (R370). -/
def f0Open (s : State) : Bool := (List.range 64).any (fun n => decide ((sesAt s n).st ≠ 0) && decide ((sesAt s n).func = 0))

/-- A datagram's header with `CT_MAC` zero, and its payload. -/
def ctBytes (ty ses len seq ack : Nat) (payload : List Byte) : List Byte :=
  natLe 2 0x4D43 ++ natLe 1 1 ++ natLe 1 ty ++ natLe 2 ses ++ natLe 2 len ++ natLe 4 seq ++ natLe 4 ack ++ zeros 16 ++
    payload

/-- The message check of a session's datagram (R377). -/
def ctCheckOf (key : Option (List Byte)) (b : List Byte) : List Byte :=
  match key with
  | some k => shake 16 (k ++ b)
  | none => zeros 16

/-- Send a datagram of a session. The transport's frames use priority 0 (DESIGN CHOICE: the manual gives them none). -/
def sendCt (n ty seq : Nat) (payload : List Byte) (s : State) : State :=
  let x := sesAt s n
  let ses := sesField s n
  let b := ctBytes ty ses payload.length seq x.rxSeq.toNat payload
  hostEmit 0 (.ct ⟨ses, ty, seq, x.rxSeq.toNat, ctCheckOf x.key b, payload⟩) s

/-- Number a datagram of a session and send it; while the session is LOST it stays in its reel (R378). -/
def sendGram (n ty : Nat) (payload : List Byte) (item : Nat) (s : State) : State :=
  let x := sesAt s n
  let seq := x.txSeq + 1
  let s := setSes n { x with
    txSeq := seq, unacked := x.unacked ++ [⟨ty, seq.toNat, payload, item⟩]
    lastSend := if x.unacked = [] then s.clock else x.lastSend } s
  when (decide (x.st = 1)) (sendCt n ty seq.toNat payload) s

/-- Refuse a datagram. -/
def ctRefuse (ses : BitVec 16) (reason : Nat) (s : State) : State :=
  hostEmit 0 (.ctRefuse ses reason) (countHost .ctRefused s)

/-- Close a session: its take advances; commands in it get no completion any more. -/
def closeSes (n : Nat) (s : State) : State :=
  if (sesAt s n).st = 0 then s else callAdvance (sesTakeKey n) (setSes n SesSt.init s)

/-- Resend every datagram that is not acknowledged, oldest first. -/
def resendAll (n : Nat) (s : State) : State :=
  let l := (sesAt s n).unacked
  let s := modSes n (fun x => { x with lastSend := s.clock, retx := min 65535 (x.retx + l.length) }) s
  forEach l (fun g s => sendCt n g.ty g.seq g.payload s) s

/-- What an acknowledged datagram frees: a completion's place, with its command's slot when it was final; an event's. -/
def freeItem (g : UnackGram) (x : SesSt) : SesSt :=
  if g.ty = 0x11 then { x with
    cpls := x.cpls.filter (fun e => decide (e.1.toNat ≠ g.item)), cplHead := BitVec.ofNat 32 (g.item + 1) }
  else { x with evHead := BitVec.ofNat 32 (g.item + 1) }

/-- `ACK_SEQ` of a datagram: datagrams up to it are acknowledged (R378). -/
def takeAcks (n : Nat) (ack : BitVec 32) (s : State) : State :=
  let x := sesAt s n
  let done (g : UnackGram) : Bool := decide ((ack.toNat + 2 ^ 32 - g.seq) % 2 ^ 32 < 2 ^ 31)
  let l := x.unacked.filter done
  if l = [] then s
  else setSes n (l.foldl (fun x g => freeItem g x)
    { x with unacked := x.unacked.filter (fun g => !done g), resends := 0, lastSend := s.clock }) s

/-- The host is heard again: a LOST session is OPEN, and resends (R378). -/
def sesHeard (n : Nat) (s : State) : State :=
  if (sesAt s n).st = 2 then resendAll n (modSes n (fun x => { x with st := 1, resends := 0 }) s) else s

/-- The checks of a datagram from the network (R377, R378): the session that it belongs to, its acknowledgement taken. A session
without a key makes no check of `CT_MAC`. -/
def ctTake (ty : Nat) (g : CtGram) (s : State) : Option Nat × State :=
  let n := g.ses.toNat % 64
  let x := sesAt s n
  if !hostUp s then (none, s)
  else if g.magic.toNat ≠ 0x4D43 ∨ g.ver ≠ 1 ∨ g.ty.toNat ≠ ty ∨ g.len.toNat ≠ g.payload.length ∨ 1024 < g.len.toNat ∨
      2 ^ 14 ≤ g.ses.toNat then (none, ctRefuse g.ses 5 s)
  else if x.st = 0 ∨ x.isLocal ∨ curTake s (sesTakeKey n) ≠ some (g.ses.toNat / 64 % 256) then (none, ctRefuse g.ses 1 s)
  else if x.key.isSome ∧
      ofBytes 128 (ctCheckOf x.key (ctBytes ty g.ses.toNat g.len.toNat g.seq.toNat g.ackSeq.toNat g.payload)) ≠ g.mac then
    (none, countHost .ctRefused s)
  else (some n, takeAcks n g.ackSeq s)

/-! ### Command entries (R379, R380) -/

/-- The opcode, argument length, tag and index of an entry. -/
def entOp (e : ReelEntry) : Nat := fieldAt e 0 2
/-- The argument length. -/
def entLen (e : ReelEntry) : Nat := fieldAt e 2 2
/-- The host's tag. -/
def entTag (e : ReelEntry) : Nat := word4 e 4
/-- The running index. -/
def entIndex (e : ReelEntry) : Nat := word4 e 8
/-- The arguments: bytes beyond `ARG_LEN` read as zero (R392). -/
def entArgs (e : ReelEntry) : List Byte := slice 0 112 ((e.drop 16).take (entLen e))

/-- An entry is well formed. -/
def entOk (e : ReelEntry) : Bool := decide (entLen e ≤ 112) && decide (word4 e 12 = 0)

/-- The free command slots of a session (R380). -/
def freeSlots (x : SesSt) : Nat := 2 ^ x.c - x.cmds.length - (x.cpls.filter (fun e => e.2.2)).length

/-- Write a completion of a command (R378, R380, R383): into the completion reel, to the host, or to the cue of a local
session. Flags: bit 0 `FINAL`, bit 1 `AUTO`. -/
def complete (n : Nat) (idx : W32) (status : Nat) (res : List Byte) (final auto : Bool) (s : State) : State :=
  let x := sesAt s n
  match x.cmds.find? (fun c => decide (c.index = idx)) with
  | none => s
  | some c =>
    let e := natLe 2 (entOp c.entry) ++ natLe 1 status ++ natLe 1 (b2n final + 2 * b2n auto) ++ natLe 4 (entTag c.entry) ++
      natLe 4 idx.toNat ++ natLe 4 (min 112 res.length) ++ slice 0 112 res
    let cpl := x.cplTail
    let s := setSes n { x with
      cmds := if final then x.cmds.filter (fun c => decide (c.index ≠ idx))
        else x.cmds.map (fun c => if c.index = idx then { c with pendSent := true } else c)
      cpls := x.cpls ++ [(cpl, idx, final)], cplTail := cpl + 1 } s
    let s := fwPut (reelBase s n 1 + 128 * (cpl.toNat % 2 ^ (x.c + 1))) e s
    if x.isLocal then
      let cue := BitVec.ofNat 32 (rget s .sesCue n)
      if cue = 0 then s else signalField .h0 cue 1 s
    else sendGram n 0x11 e cpl.toNat s

/-- The opcodes of the command set. -/
def cmdCodes : List Nat :=
  [1, 2, 3, 0x10, 0x11, 0x12, 0x13, 0x20, 0x21, 0x30, 0x31, 0x32, 0x33, 0x34, 0x40, 0x41, 0x42, 0x43, 0x44, 0x45, 0x46, 0x50,
   0x51, 0x52, 0x53, 0x54, 0x58, 0x59, 0x60, 0x61, 0x70, 0x71, 0x80, 0x81, 0x82, 0x83, 0x84, 0x85, 0x90, 0x91, 0x92, 0xA0,
   0xA1, 0xA2, 0xA3, 0xA4]

/-- A command whose opcode is unknown gets BAD_ARG when its turn comes (R391). -/
def settleUnknown (n : Nat) : Nat → State → State
  | 0, s => s
  | fuel + 1, s =>
    match (sesAt s n).cmds.find? (fun c => !c.started) with
    | none => s
    | some c =>
      if cmdCodes.contains (entOp c.entry) then s
      else settleUnknown n fuel (complete n c.index 2 [] true false s)

/-- Accept entries into a session's reel: their points of acceptance (R379, R383). -/
def acceptEntries (n : Nat) (l : List ReelEntry) (s : State) : State :=
  let s := modSes n (fun x => { x with
    cmds := x.cmds ++ l.map (fun e => ⟨BitVec.ofNat 32 (entIndex e), e, s.clock, false, false, none⟩)
    nextIndex := x.nextIndex + BitVec.ofNat 32 l.length }) s
  settleUnknown n (l.length + 1) s

/-- The entries carry consecutive indices from the next one expected, and are well formed. -/
def entriesOk (next : W32) (l : List ReelEntry) : Bool :=
  l.zipIdx.all (fun e => entOk e.1 && decide (BitVec.ofNat 32 (entIndex e.1) = next + BitVec.ofNat 32 e.2))

/-- ENTRIES (R378–R380). -/
def doEntries (g : CtGram) (s : State) : State :=
  match ctTake 0x10 g s with
  | (none, s) => s
  | (some n, s) =>
    let x := sesAt s n
    let l := chunks 128 (g.payload.length / 128) g.payload
    if g.seq ≠ x.rxSeq + 1 then
      if (x.rxSeq.toNat + 2 ^ 32 - g.seq.toNat) % 2 ^ 32 < 2 ^ 31 then sendCt n 0x20 0 [] s else s
    else if g.payload.length % 128 ≠ 0 ∨ l.length = 0 ∨ 8 < l.length ∨ !entriesOk x.nextIndex l then ctRefuse g.ses 5 s
    else if freeSlots x < l.length then ctRefuse g.ses 3 s
    else
      let s := sesHeard n (modSes n (fun x => { x with rxSeq := g.seq }) s)
      let s := forEach l (fun e s => fwPut (reelBase s n 0 + 128 * (entIndex e % 2 ^ x.c)) e s) s
      sendCt n 0x20 0 [] (acceptEntries n l s)

/-- CT_ACK (R378). -/
def doCtAck (g : CtGram) (s : State) : State :=
  match ctTake 0x20 g s with
  | (none, s) => s
  | (some n, s) => sesHeard n s

/-- CLOSE (R378). -/
def doClose (g : CtGram) (s : State) : State :=
  match ctTake 0x05 g s with
  | (none, s) => s
  | (some n, s) => closeSes n s

/-- The transport's resend interval (`CT_RTO`; 0 acts as 1). -/
def ctRto (s : State) : Nat := us 100 * max 1 (rbits s .hpCfg 0 31 24)

/-- CT_RESEND (R378): after eight resends without an acknowledgement, the session is LOST. -/
def doCtResend (n : Nat) (s : State) : State :=
  let x := sesAt s n
  if x.st ≠ 1 ∨ x.unacked = [] then s
  else
    let s := atTime (x.lastSend + ctRto s) s
    if 8 ≤ x.resends then setSes n { x with st := 2, lostT := s.clock } s
    else resendAll n (setSes n { x with resends := x.resends + 1 } s)

/-- SESSION_LOST_TIMEOUT (R378). -/
def doLostTimeout (n : Nat) (s : State) : State :=
  let x := sesAt s n
  if x.st ≠ 2 then s else closeSes n (atTime (x.lostT + 600 * 1000 * ms 1) s)

/-- AUTO_PENDING (R381). -/
def doAutoPending (c : CmdRef) (s : State) : State :=
  match (sesAt s c.ses.val).cmds.find? (fun x => decide (x.index = c.index)) with
  | none => s
  | some x => if x.pendSent then s else complete c.ses.val c.index 1 [] false true (atTime (x.t + us 900) s)

/-! ### Events (R382, R406, R466) -/

/-- Write an event to a session's event reel; a full reel or the rate limit drops it, and the next event says so. -/
def putEvent (n : Nat) (lost : Nat) (r : RingRec) (s : State) : State :=
  let x := sesAt s n
  if x.st = 0 ∨ !rbit s .sesStatus n 7 then s
  else
    let sec := timeUs s .h0 / 10 ^ 6
    let used := if x.evSecond = sec then x.evCount else 0
    if 2 ^ x.e ≤ (x.evTail - x.evHead).toNat ∨ 100000 ≤ used then
      setSes n { x with evLost := min 255 (x.evLost + lost + 1) } s
    else
      let e := natLe 2 r.r.code ++ natLe 1 r.r.sev ++ natLe 1 (min 255 (x.evLost + lost)) ++ natLe 4 x.evSeq.toNat ++
        natLe 8 r.time ++ recBody r
      let s := setSes n { x with
        evTail := x.evTail + 1, evSeq := x.evSeq + 1, evLost := 0, evSecond := sec, evCount := used + 1 } s
      let s := fwPut (reelBase s n 2 + 128 * (x.evTail.toNat % 2 ^ x.e)) e s
      if x.isLocal then s else sendGram n 0x12 e x.evTail.toNat s

/-- An event goes to the sessions of its function and to those of F0. `lost`: records overwritten before it. -/
def tellSessions (lost : Nat) (r : RingRec) (s : State) : State :=
  forEach (List.range 64) (fun n s =>
    let x := sesAt s n
    if x.func = 0 ∨ some x.func = r.r.func then putEvent n lost r s else s) s

/-- The UC-D records since the last cold boot, up to 16, oldest first (R466). -/
def ucdRecords (s : State) : List RingRec :=
  ((s.col0.ucd ++ s.col1.ucd).insertionSort (fun a b => a.time ≤ b.time)).take 16

/-! ### Opening sessions (R377) -/

/-- The lowest session that is closed and whose take is current; at most 8 of a function. -/
def freeSession (s : State) (f : Nat) : Option Nat :=
  let mine := (List.range 64).filter (fun n => decide ((sesAt s n).st ≠ 0) && decide ((sesAt s n).func = f))
  if 8 ≤ mine.length then none
  else (List.range 64).find? (fun n => decide ((sesAt s n).st = 0) && (curTake s (sesTakeKey n)).isSome)

/-- A session opens; an F0 session first receives the UC-D records. -/
def openSes (n f : Nat) (isLocal : Bool) (key : Option (List Byte)) (c e : Nat) (s : State) : State :=
  let s := setSes n { SesSt.init with st := 1, func := f, isLocal := isLocal, key := key, c := c, e := e } s
  if f = 0 then forEach (ucdRecords s) (fun r s => putEvent n 0 r s) s else s

/-- A number in its bounds. -/
def clampTo (lo hi x : Nat) : Nat := max lo (min hi x)

/-- The MAC of an OPEN is right; F0 without a key needs none (R377). -/
def openOk (s : State) (o : OpenReq) : Bool :=
  match tkey s o.func.val with
  | some k => decide (ofBytes 128 (shake 16 (k ++ natLe 16 o.nonce.toNat)) = o.mac)
  | none => decide (o.func.val = 0)

/-- OPEN (R377). The sizes granted are those asked, brought within their bounds (DESIGN CHOICE). -/
def doOpen (o : OpenReq) (s : State) : State :=
  let f := o.func.val
  let hn := natLe 16 o.nonce.toNat
  if !hostUp s then s
  else
    if !openOk s o then ctRefuse 0 2 s
    else
      match freeSession s f with
      | none => ctRefuse 0 4 s
      | some n =>
        let bn := freeNat 128 s
        let s := bn.2
        let key := (tkey s f).map (fun k => shake 32 (k ++ hn ++ natLe 16 bn.1))
        let c := clampTo 4 10 o.c
        let e := clampTo 6 12 o.e
        let s := hostEmit 0 (.ctReply n (BitVec.ofNat 8 (takeSt s (sesTakeKey n)).take) (BitVec.ofNat 128 bn.1) c e) s
        openSes n f false key c e s

/-! ### Local sessions (R383) -/

/-- The next entry of a local session's command reel behind those read so far: none once one did not come sound. -/
def newEntry1 (n : Nat) (x : SesSt) (acc : Option (List ReelEntry) × State) (i : Nat) : Option (List ReelEntry) × State :=
  match acc.1 with
  | none => acc
  | some l =>
    match engBytes (.mp .h0) (reelBase acc.2 n 0 + 128 * ((x.nextIndex.toNat + i) % 2 ^ x.c)) 128 acc.2 with
    | (some (b, false), s) => (some (l ++ [b]), s)
    | (_, s) => (none, s)

/-- The `count` entries of a local session's command reel from its next index on, read from the function's memory. -/
def newEntries (n : Nat) (x : SesSt) (count : Nat) (s : State) : Option (List ReelEntry) × State :=
  (List.range count).foldl (newEntry1 n x) (some [], s)

/-- The effect of a write to `SES_CMD_DB`: the entries up to the index are accepted, all or none; ignored for a network
session. A reel that cannot be read now leaves the write to be made again. -/
def sesCmdDbAct (n new : Nat) (s : State) : State :=
  let x := sesAt s n
  if x.st = 0 ∨ !x.isLocal then s
  else
    let count := (new + 2 ^ 32 - x.nextIndex.toNat) % 2 ^ 32
    if freeSlots x < count ∨ count = 0 then rput .sesCmdDb n new s
    else
      match newEntries n x count s with
      | (none, s) => s
      | (some l, s) =>
        let s := rput .sesCmdDb n new s
        if entriesOk x.nextIndex l then acceptEntries n l s else s

/-- The effect of a write to `SES_CPL_HEAD`: the completions up to the index are consumed. -/
def sesCplHeadAct (n new : Nat) (s : State) : State :=
  let s := rput .sesCplHead n new s
  let x := sesAt s n
  if x.st = 0 ∨ !x.isLocal then s
  else setSes n { x with
    cplHead := BitVec.ofNat 32 new
    cpls := x.cpls.filter (fun e => decide ((e.1.toNat + 2 ^ 32 - new) % 2 ^ 32 < 2 ^ 31)) } s

/-! ### Discovery (R369, R370) -/

/-- The ANNOUNCE payload. -/
def announceBytes (s : State) : List Byte :=
  let i := s.ident
  [if s.part = .mb1 then 1 else 2, BitVec.ofNat 8 i.bootState, BitVec.ofNat 8 (b2n (openMode s)),
   BitVec.ofNat 8 s.zor.halves] ++ natLe 2 i.devId.toNat ++ [BitVec.ofNat 8 (b2n i.idValid), 0] ++ ownMac s ++ zeros 2 ++
  natLe 4 i.fwVersion.toNat ++ serialBytes s ++ natLe 4 (rget s .ipv4Addr 0) ++
  (if s.host.v6CfgOk then natBe 16 (v6Cfg s) else zeros 16) ++ zeros 8

/-- Send an ANNOUNCE to its destinations: ff02::1, and the IPv4 subnet's broadcast address, in IPv4-mapped form. -/
def announce (s : State) : State :=
  let b := announceBytes s
  let ip := rget s .ipv4Addr 0
  let len := rbits s .hpNet 0 5 0
  let s := hostEmit 0 (.announce (BitVec.ofNat 128 (0xFF02 * 2 ^ 112 + 1)) b) s
  let s := when (decide (ip ≠ 0)) (hostEmit 0 (.announce
    (BitVec.ofNat 128 (0xFFFF * 2 ^ 32 + (ip ||| (2 ^ (32 - min 32 len) - 1)))) b)) s
  modHost (fun x => { x with lastAnnounce := s.clock }) s

/-- ANNOUNCE_TIMER (R370). -/
def doAnnounceTimer (s : State) : State :=
  let sec := if f0Open s then rbits s .hpCfg 0 23 16 else 1
  if sec = 0 then s else announce (atTime (s.host.lastAnnounce + sec * 1000 * ms 1) s)

/-- DISCOVER (R370). -/
def doDiscover (sender : BitVec 128) (s : State) : State := hostEmit 0 (.announce sender (announceBytes s)) s

/-- HOST_LINK_DOWN (R368). Which lanes still hold alignment is not given (log entry 1). -/
def doHostDown (s : State) : State :=
  if s.host.link = 0 then s
  else
    let v := freeNat 8 s
    event .h0 0x0A01 0 none 0 0 368 (modHost (fun x => { x with
      link := 0, laneLock := BitVec.ofNat 8 v.1, paused := 0, held := [] }) v.2)

/-- HOST_LINK_UP (R368). Without a module, and while the port's domain is not ON, the link stays down (R410, R478). -/
def doHostUp (s : State) : State :=
  if s.host.link = 1 ∨ s.pins.modPresentN ∨ (s.pwr.doms.getD 31 DomSt.init).st ≠ 1 then s
  else announce (event .h0 0x0A01 0 none 0 0 368 (modHost (fun x => { x with link := 1, laneLock := 0xFF }) s))

/-- DUPLICATE_ADDRESS_DETECTION_END (R369): no conflict was found. -/
def doDadEnd (w : V6Which) (s : State) : State :=
  match w with
  | .linkLocal => modHost (fun x => if x.v6LocalBad then x else { x with v6LocalOk := true }) s
  | .configured =>
    if v6Cfg s = 0 then s else modHost (fun x => if x.v6CfgBad then x else { x with v6CfgOk := true }) s

/-- Another node claims an address that the base is checking: it is not used (R369). -/
def dadConflict (w : V6Which) (s : State) : State :=
  let bad : Bool := match w with
    | .linkLocal => !s.host.v6LocalOk && !s.host.v6LocalBad
    | .configured => !s.host.v6CfgOk && !s.host.v6CfgBad && decide (v6Cfg s ≠ 0)
  if !bad then s
  else event .h0 0x0A01 0 none 0 0 369 (modHost (fun x => match w with
    | .linkLocal => { x with v6LocalBad := true }
    | .configured => { x with v6CfgBad := true }) s)

/-- The destinations that the port takes (R367, third row). -/
def takesMac (s : State) (d : BitVec 48) : Bool :=
  let grp (a : Nat) : Nat := 0x3333FF000000 + a % 2 ^ 24
  decide (d.toNat = beNat (ownMac s)) || decide (d = 0xFFFFFFFFFFFF) || decide (d.toNat = 0x333300000001) ||
  decide (d.toNat = grp (v6Local s)) || (decide (v6Cfg s ≠ 0) && decide (d.toNat = grp (v6Cfg s)))

/-- A frame is discarded and counted. -/
def rxDiscard (s : State) : State := countHost .rxDiscards s

/-- ETH_FRAME_RECEIVE (R367): the first row that matches decides. What a PFC frame, a RoCEv2 packet or a transport datagram
does comes with its own command. With `VLAN_EN`, untagged frames are discarded. -/
def doEthFrame (f : EthFrame) (s : State) : State :=
  let pause (s : State) : Option State := match f.body with
    | .macControl op => if f.dest = 0x0180C2000001 then some (if op = 0x0101 then s else rxDiscard s) else none
    | _ => none
  if !hostUp s then s
  else if !f.fcsOk then countHost .fcsErr s
  else
    match pause s with
    | some s => s
    | none =>
      if rbit s .hpNet 0 26 && !f.tagged then s
      else if !takesMac s f.dest then rxDiscard s
      else
        match f.body with
        | .neighbourOrEcho true =>
          let sec := s.clock / 10 ^ 7
          let used := if s.host.answersSecond = sec then s.host.answers else 0
          if 1000 ≤ used then s
          else hostEmit 0 .neighbourAnswer (modHost (fun x => { x with answers := used + 1, answersSecond := sec }) s)
        | .addressClaim w => dadConflict w s
        | .udp p => if p.toNat = 4791 ∨ p.toNat = 47210 then s else rxDiscard s
        | _ => rxDiscard s

/-- PFC_FRAME (R376): the named priorities pause or resume; what waited for a resumed priority is sent. -/
def doPfc (enable pause : BitVec 8) (s : State) : State :=
  if !hostUp s then s
  else
    let p := (s.host.paused &&& ~~~enable) ||| (enable &&& pause)
    let s := modHost (fun x => { x with paused := p }) s
    forEach (List.range 8) (fun k s =>
      if natBit k p.toNat then s
      else
        let l := s.host.held.getD k []
        forEach l emit (modHost (fun x => { x with held := x.held.erase k }) s)) s

/-- The sessions of a function that is Cut (R384): network sessions are closed, local reels are emptied. -/
def cutSessions (f : Nat) (s : State) : State :=
  forEach (List.range 64) (fun n s =>
    let x := sesAt s n
    if x.st = 0 ∨ x.func ≠ f then s
    else if x.isLocal then
      let s := rput .sesCplHead n 0 (rput .sesCmdDb n 0 s)
      setSes n { SesSt.init with st := x.st, func := f, isLocal := true, c := x.c, e := x.e, evSeq := x.evSeq } s
    else closeSes n s) s

/-! ### The commands -/

/-- ETH_FRAME_RECEIVE (R367). -/
def execEthFrameReceive (f : EthFrame) (s : State) : Outcome := .next (doEthFrame f s)
/-- HOST_LINK_DOWN (R368). -/
def execHostLinkDown (s : State) : Outcome := .next (doHostDown s)
/-- HOST_LINK_UP (R368). -/
def execHostLinkUp (s : State) : Outcome := .next (doHostUp s)
/-- ANNOUNCE_TIMER (R370). -/
def execAnnounceTimer (s : State) : Outcome := .next (doAnnounceTimer s)
/-- DISCOVER (R370). -/
def execDiscover (sender : BitVec 128) (s : State) : Outcome := .next (doDiscover sender s)
/-- PFC_FRAME (R376). -/
def execPfcFrame (enable pause : BitVec 8) (s : State) : Outcome := .next (doPfc enable pause s)
/-- OPEN (R377). -/
def execCtOpen (o : OpenReq) (s : State) : Outcome := .next (doOpen o s)
/-- CLOSE (R378). -/
def execCtClose (g : CtGram) (s : State) : Outcome := .next (doClose g s)
/-- ENTRIES (R379). -/
def execEntries (g : CtGram) (s : State) : Outcome := .next (doEntries g s)
/-- CT_ACK (R378). -/
def execCtAck (g : CtGram) (s : State) : Outcome := .next (doCtAck g s)
/-- CT_RESEND (R378). -/
def execCtResend (ses : Fin 64) (s : State) : Outcome := .next (doCtResend ses.val s)
/-- SESSION_LOST_TIMEOUT (R378). -/
def execSessionLostTimeout (ses : Fin 64) (s : State) : Outcome := .next (doLostTimeout ses.val s)
/-- AUTO_PENDING (R381). -/
def execAutoPending (c : CmdRef) (s : State) : Outcome := .next (doAutoPending c s)
/-- SES_CMD_DB (R383). -/
def execSesCmdDb (ag : Agent) (ses : Fin 64) (v : BitVec 32) (s : State) : Outcome :=
  onAgent s ag (.next (regStore ag .h0 .sesCmdDb ses.val v.toNat (sesCmdDbAct ses.val) s))
/-- SES_CPL_HEAD (R383). -/
def execSesCplHead (ag : Agent) (ses : Fin 64) (v : BitVec 32) (s : State) : Outcome :=
  onAgent s ag (.next (regStore ag .h0 .sesCplHead ses.val v.toNat (sesCplHeadAct ses.val) s))
/-- DUPLICATE_ADDRESS_DETECTION_END (R369). -/
def execDuplicateAddressDetectionEnd (w : V6Which) (s : State) : Outcome := .next (doDadEnd w s)

end Sys2Proof.Machine
end

