-- ==== Sys2Proof/Machine/Dailies.lean ====
section
/-! DEFINITION. Dailies (chapter "Errors, containment and Dailies"): the collectors and their rings, the reading of the
rings into events, samples (R454–R457). -/

namespace Sys2Proof.Machine

open Sys2Proof

/-! ### The ring -/

/-- Where the ring of a half lies, and how many records it holds (R454, R467). -/
def dringAddr (s : State) (h : Half) : Nat := rget s .dringLo h.num + rbits s .dringHi h.num 15 0 * 2 ^ 32
def dringSize (s : State) (h : Half) : Nat :=
  let n := rbits s .dringHi h.num 20 16
  if 10 ≤ n ∧ n ≤ 20 then 2 ^ n else 2 ^ 14

/-- The processor reads the records of a half: those of H1 pass over Zoram (R456). -/
def ringReadable (s : State) (h : Half) : Bool :=
  decide (s.cad.mp0.st = 1) && (decide (h = .h0) || decide (s.zor.halves = 1))

/-- A record is written to the ring of its half: stamped, appended, counted for its function. Record n of the ring lies at
its `REC_SEQ` modulo the size (log entry 13). -/
def writeRec (h : Half) (r : DRec) (s : State) : State :=
  let c := collector s h
  let n : RingRec := { seq := c.seq, time := timeUs s h, dropped := min (2 ^ 32 - 1) c.dropped, r := r }
  let size := dringSize s h
  let full := decide (size ≤ c.ring.length)
  let dropped := c.dropped
  let s := setCollector h { c with
    seq := (c.seq + 1) % 2 ^ 32, dropped := 0
    ring := (if full then c.ring.drop 1 else c.ring) ++ [n]
    lostNext := if full then c.lostNext + 1 else c.lostNext
    ucd := if r.sev = 3 ∧ c.ucd.length < 16 then c.ucd ++ [n] else c.ucd } s
  let s := when full (bumpSat .overwritten h.num 31 0 1) s
  let s := bumpSat .droppedTotal h.num 31 0 dropped s
  let s := if r.sev = 2 then
      let s := bumpSat .ucfTotal h.num 31 0 1 s
      match r.func with
      | some f => bumpSat .funcErr (16 * h.num + f) 15 0 1 s
      | none => s
    else when (decide (r.sev = 3)) (bumpSat .ucdTotal h.num 31 0 1) s
  let s := (engPut (.mp h) (dringAddr s h + 128 * (n.seq % size)) (recBytes n) false s).2
  if decide (r.code = 0x0C01) then s
  else
    let s := when (decide (dropped ≠ 0)) (event h 0x0C01 0 none 0 0 454) s
    when full (event h 0x0C01 0 none 0 0 456) s

/-- DAILIES_RECORD (R454, R455): the collector takes a record. An information or CE record of a kind written in the last
1 ms is not written; its occurrences go into the next of that kind. -/
def doDailiesRecord (h : Half) (s : State) : State :=
  let c := collector s h
  match c.inq with
  | [] => s
  | r :: rest =>
    if !c.on then s
    else
      let s := when (decide (r.sev = 1)) (bumpSat .ceTotal h.num 31 0 r.count) s
      let recent := c.recent.filter (fun e => decide (s.clock < e.2 + ms 1))
      let key := foldKey r
      let held := ((c.folded.filter (fun e => decide (e.1 = key))).map Prod.snd).sum
      let others := c.folded.filter (fun e => decide (e.1 ≠ key))
      if r.sev < 2 ∧ recent.any (fun e => decide (e.1 = key)) then
        setCollector h { c with inq := rest, recent := recent, folded := (key, held + r.count) :: others } s
      else if r.sev < 2 then
        let c := { c with inq := rest, recent := (key, s.clock) :: recent, folded := others }
        writeRec h { r with count := r.count + held } (setCollector h c s)
      else writeRec h r (setCollector h { c with inq := rest } s)

/-- A record becomes events: all but a sample that `SAMPLE_EVENTS` keeps out (R457). -/
def eventful (s : State) (h : Half) (r : RingRec) : Bool :=
  decide (r.r.code ≠ 0x0C02) || rbit s .dailiesCtl h.num 16

/-- DAILIES_READ (R456): the oldest record of the ring that was not read becomes events (R382, R406). -/
def doDailiesRead (h : Half) (s : State) : State :=
  if !ringReadable s h then s
  else
    let c := collector s h
    match c.ring with
    | [] => s
    | r :: rest =>
      let s := setCollector h { c with ring := rest, lostNext := 0 } s
      if eventful s h r then tellSessions c.lostNext r s else s

/-- Everything recorded so far becomes events: an event that a command causes is written before its final completion
(R406). -/
def flushEvents (s : State) : State :=
  forEach (halves s) (fun h s =>
    let s := forEach (collector s h).inq (fun _ s => doDailiesRecord h s) s
    forEach (collector s h).ring (fun _ s => doDailiesRead h s) s) s

/-- The ring restarts empty, and `REC_SEQ` continues (R464, R467). -/
def restartRing (h : Half) (s : State) : State :=
  setCollector h { collector s h with ring := [], lostNext := 0 } s

/-- The effect of a write to `DRING_COMMIT`: the group's committed set applies, and the ring restarts empty. -/
def dringCommitAct (h : Half) (new : Nat) (s : State) : State :=
  if natBit 0 new && groupPending s h .dring then restartRing h (groupApply h .dring s) else s

/-! ### Samples (R457) -/

/-- The detail of a sample. The manual does not lay it out: stacks as `TEMP` and `BAND`, one byte each; `POWER` and `GRANT`
in two bytes, `THROTTLE` in one; `ERR_TOTALS` word by word (DESIGN CHOICE, log entry 15). The port counters and the regulators'
bytes do not fit into 80 bytes, and what a record shows of them is open (log entry 1). -/
def sampleDetail (h : Half) (g : Nat) (s : State) : Nat × State :=
  let i := h.num
  if g = 0 then
    (leNat ((List.range 8).flatMap (fun k =>
      let x := stackAt s (8 * i + k)
      [BitVec.ofInt 8 x.temp, BitVec.ofNat 8 x.band])), s)
  else if g = 1 then
    let x := match h with
      | .h0 => s.pwr.gaf0
      | .h1 => s.pwr.gaf1
    (leNat (natLe 2 x.power ++ natLe 2 x.grant ++ natLe 1 x.throttle), s)
  else if g = 4 then
    (leNat ([Reg.ceTotal, .ucfTotal, .ucdTotal, .overwritten, .droppedTotal, .xbarCe, .stackCmdPar].flatMap
      (fun r => natLe 4 (rget s r i))), s)
  else freeNat 640 s

/-- SAMPLE (R457): a record for each selected group; its `CAUSE` is the group. -/
def doSample (h : Half) (s : State) : State :=
  let per := rbits s .dailiesCtl h.num 15 0
  if per = 0 ∨ !(collector s h).on then s
  else
    let s := atTime ((collector s h).lastSample + ms per) s
    let s := setCollector h { collector s h with lastSample := s.clock } s
    forEach ([0, 1, 2, 3, 4].filter (fun g => rbit s .sampleMask h.num g)) (fun g s =>
      let d := sampleDetail h g s
      eventD h 0x0C02 0 none g 0 g d.1 d.2) s

/-! ### The commands -/

/-- DAILIES_RECORD (R454). -/
def execDailiesRecord (h : Half) (s : State) : Outcome := onHalf s h (.next (doDailiesRecord h s))
/-- DAILIES_READ (R456). -/
def execDailiesRead (h : Half) (s : State) : Outcome := onHalf s h (.next (doDailiesRead h s))
/-- SAMPLE (R457). -/
def execSample (h : Half) (s : State) : Outcome := onHalf s h (.next (doSample h s))

end Sys2Proof.Machine
end

