-- ==== Sys2Proof/Machine/McLocal.lean ====
section
/-! DEFINITION. Multicast packets at a target (R295, R298): the copies that a replication point holds for the base itself
are applied, and the local branch acknowledges. -/

namespace Sys2Proof.Machine

open Sys2Proof

/-- The sectors of a packet by their numbers in the line: data with poison (R285). -/
def pktSecs (p : Packet) : LinePart :=
  let named := ([0, 1, 2, 3] : List (Fin 4)).filter (fun i => natBit i.val p.addr.toNat)
  (named.zip (p.data.zipIdx)).map (fun e => (e.1, e.2.1, natBit e.2.2 p.poison.toNat))

/-- The lines of a packet that writes or adds up to four whole lines (R285): the GA and the sectors of each, with masks. -/
def pktLines (p : Packet) : List (W64 × List (Fin 4 × SecWr)) :=
  if 4 < p.data.length ∧ p.data.length % 4 = 0 ∧ p.addr.toNat % 16 = 15 then
    (List.range (p.data.length / 4)).map (fun j =>
      (BitVec.ofNat 64 (p.addr.toNat / 128 * 128 + 128 * j),
       ([0, 1, 2, 3] : List (Fin 4)).map (fun i =>
         (i, (⟨p.data.getD (4 * j + i.val) 0, fullMask, natBit (4 * j + i.val) p.poison.toNat⟩ : SecWr)))))
  else
    [(p.addr, (pktSecs p).zipIdx.map (fun e =>
      (e.1.1, (⟨e.1.2.1, if p.xmask then p.masks.getD e.2 0 else fullMask, e.1.2.2⟩ : SecWr))))]

/-- A line of a multicast write may be written here: the sender is the base itself or a member, and the segment is open to
it (R186, R187). -/
def mcMayWrite (s : State) (p : Packet) (ga : W64) : Bool :=
  let a := gaDpa ga
  let own := idOk s && decide (p.src = ownDev s)
  decide (region s a = .memory) && inMapped s a &&
  (if own then inFuncMem s p.func.toNat a
   else groupOpen s && (memberOf s p.src).isSome && rbit s .segExport (a / 2 ^ 30) 0)

/-- The header of a multicast write from another device, whose epoch counts (R225, R228, R229). -/
def mcHdr (s : State) (p : Packet) : Option CohHdr :=
  if idOk s && decide (p.src = ownDev s) then none
  else (memberOf s p.src).map (fun m =>
    { src := .member (Fin.ofNat 4096 m), tag := p.tag.toFin, take := p.take, addr := p.addr, func := p.func.toFin
      epoch := p.epoch, scope := .base, ord := .rlx })

/-- The stores of a multicast write or add, sector by sector. `ro`: an add. -/
def mcStores (ro : Option RedOp) (ls : List (W64 × List (Fin 4 × SecWr))) : List (Nat × SecOp × Need) :=
  ls.flatMap (fun l => l.2.map (fun e =>
    let a := gaDpa l.1 / 128 * 128 + 32 * e.1.val
    match ro with
    | none => (a, .write e.2, .write)
    | some ro => (a, .add ⟨ro, e.2.data, e.2.poison⟩, .add (redopCode ro))))

/-- A multicast write from after its sender's point reaches the base's point first (R225). -/
def mcPoint (hd : Option CohHdr) (ls : List (W64 × List (Fin 4 × SecWr))) (s : State) : State :=
  match hd with
  | some h => forEach ls (fun l => epochTrigger h (gaDpa l.1)) s
  | none => s

/-- A multicast write or add of lines at the base: none while it must wait (it has stored nothing then), else whether it was
accepted. -/
def mcPut (p : Packet) (ro : Option RedOp) (s : State) : Option Bool × State :=
  let ls := pktLines p
  let hd := mcHdr s p
  if !ls.all (fun l => mcMayWrite s p l.1) then (some false, s)
  else
    let r := engStoreAll (.remote p.src) hd (mcStores ro ls) (mcPoint hd ls s)
    (if r.1 then some true else none, r.2)

/-- Apply a copy at the base: none while it must wait; else whether it was accepted. -/
def mcApply (p : Packet) (s : State) : Option Bool × State :=
  let sn : SnoopRef := ⟨some p.src, 0, p.tag.toFin, p.take⟩
  let h := farHalf s p.addr
  match p.kind.toNat, p.op.toNat with
  | 1, 0x05 => mcPut p none s
  | 1, 0x06 =>
    match redopOf p.auxf.toNat with
    | none => (some false, s)
    | some ro => mcPut p (some ro) s
  | 1, 0x20 => (some true, doInv h (gaLine p.addr) sn s)
  | 1, 0x21 => (some true, doRecall h (gaLine p.addr) sn s)
  | 1, 0x22 => (some true, doDowngrade h (gaLine p.addr) sn s)
  | 1, 0x23 => (some true, doCollect h (gaLine p.addr) sn s)
  | _, _ => (some false, countLink .badPkt s)

/-- Copies held for the base itself are applied in order; the last is acknowledged (R298). -/
def mcLocalGo (src : BitVec 16) (tag : BitVec 12) (take : BitVec 8) : Nat → State → State
  | 0, s => s
  | n + 1, s =>
    let b := (List.find? (isMcOp src tag take) s.link.mcops).bind (fun o => o.branches.find? (fun b => decide (b.port = 16)))
    match b with
    | none => s
    | some b =>
      match b.held with
      | [] => s
      | c :: cs =>
        if b.failed then s
        else
          match mcApply c.pkt s with
          | (none, s) => s
          | (some ok, s) =>
            let s := modBranch (isMcOp src tag take) 16 (fun b =>
              if ok then { b with
                held := cs, lastT := s.clock, tookLast := b.tookLast || c.last, acked := b.acked || c.last
                info := if c.last then { noAck with okCount := 1 } else b.info }
              else { b with held := [], failed := true }) s
            mcLocalGo src tag take n s

/-- The local branches of every operation go on; members that failed a snoop are dropped at their homes (R210). -/
def mcDeliverLocal (s : State) : State :=
  mcDrops (mcSettle (forEach s.link.mcops (fun o s =>
    mcLocalGo o.src o.tag o.take (((o.branches.map (fun b => b.held.length)).sum) + 1) s) s))

end Sys2Proof.Machine
end

