-- ==== Sys2Proof/Machine/Story.lean ====
section
/-! DEFINITION. Storyboard programs across bases: Reel streams, remote cue signals and multicasts (R256, R263–R268,
R311), and what a Cut does to queues and streams (R271). -/

namespace Sys2Proof.Machine

open Sys2Proof

/-! ### Reel streams (R265, R311) -/

def reelHalf (k : Nat) : Half := halfOf 64 k
def reelTakeKey (k : Nat) : Nat := takeKey (.reel (reelHalf k) (Fin.ofNat 64 k))
def reelFunc (s : State) (k : Nat) : Nat := rbits s .reelId k 27 24
def reelName (s : State) (k : Nat) : Nat := rbits s .reelId k 15 0
def modReel (k : Nat) (f : ReelSt → ReelSt) (s : State) : State := setReel k (f (reelAt s k)) s

/-- The stream waits on its `FREE_CUE` with threshold 1 and consume set (R267). -/
def armFree (k : Nat) (s : State) : State :=
  waitFrom (reelHalf k) (currentHandle s (reelAt s k).freeCue) ⟨.reelFree (reelHalf k) (k % 64), 1, true⟩ s

/-- `VALID` written 1 (R265): the stream latches its committed settings, its take advances, it is OPEN with SLOTS
credits. -/
def openReel (k : Nat) (s : State) : State :=
  let s := groupTake (reelHalf k) (.reel (Fin.ofNat 64 k)) s
  let get (r : Reg) (hi lo : Nat) : Nat := natBits hi lo (s.regs.took s.part r k)
  let slots := if 2 ≤ get .reelBaseHi 19 16 ∧ get .reelBaseHi 19 16 ≤ 8 then get .reelBaseHi 19 16 else 2
  let lg := if 11 ≤ get .reelBaseHi 28 24 ∧ get .reelBaseHi 28 24 ≤ 26 then get .reelBaseHi 28 24 else 11
  let x : ReelSt := { ReelSt.init with
    st := 1, credits := slots, next := BitVec.ofNat 16 (get .reelNext 15 0), prev := BitVec.ofNat 16 (get .reelPrev 15 0)
    base := (get .reelBaseLo 31 0 + 2 ^ 32 * get .reelBaseHi 15 0) / 2 ^ lg * 2 ^ lg
    slots := slots, slotLog := lg, arriveCue := get .reelCues 12 0, freeCue := get .reelCues 28 16 }
  armFree k (setReel k x (callAdvance (reelTakeKey k) s))

/-- `VALID` written 0: the stream is CLOSED. -/
def closeReel (k : Nat) (s : State) : State :=
  withdraw (.reelFree (reelHalf k) (k % 64)) (setReel k ReelSt.init s)

/-- The effect of a write to `REEL_ID`. -/
def reelIdAct (k new : Nat) (s : State) : State :=
  let was := rbit s .reelId k 31
  let s := rput .reelId k new s
  if !was && natBit 31 new then openReel k s
  else if was && !natBit 31 new then closeReel k s
  else s

/-- The open stream that an identifier names with its current take, on either half (R311). -/
def reelEntry (s : State) (coll : BitVec 16) (take : BitVec 8) : Option Nat :=
  match List.find? (fun (e : Nat × ReelSt) => decide (e.2.st = 1) && decide (reelName s e.1 = coll.toNat)) s.dolly.reels with
  | some e => if curTake s (reelTakeKey e.1) = some take.toNat then some e.1 else none
  | none => none

/-- Send a Reel packet of a stream (R311). -/
def sendReel (k : Nat) (dest : BitVec 16) (op sendNo addr : Nat) (secs : List (Sec256 × Bool)) (s : State) : State :=
  let coll := BitVec.ofNat 16 (reelName s k)
  let take := BitVec.ofNat 8 (takeSt s (reelTakeKey k)).take
  let slot := sendNo % max 1 (reelAt s k).slots
  sendPacket { blankPkt with
      dest := dest, kind := 3#4, op := BitVec.ofNat 8 op, tag := BitVec.ofNat 12 sendNo, take := take, xfield := coll
      addr := BitVec.ofNat 64 addr, poison := poisonBits (secs.map Prod.snd), data := secs.map Prod.fst }
    (emit (.reel dest op coll take slot addr secs) s)

/-- BLOCK (R266, R311): the sectors are written at their DPA within the slot area, only from the configured predecessor.
False while memory cannot take them: nothing is written then. -/
def doBlock (b : BlockPkt) (s : State) : Bool × State :=
  match reelEntry s b.coll b.take with
  | none => (true, countLink .collStale s)
  | some k =>
    let x := reelAt s k
    let a := b.addr.toNat
    let ag := Agent.mp (reelHalf k)
    let len := 32 * b.secs.length
    if b.dev ≠ x.prev then (true, countLink .collStale s)
    else if a < x.base ∨ x.base + x.slots * 2 ^ x.slotLog < a + len ∨ a % 32 ≠ 0 ∨ 16 < b.secs.length then
      (true, countLink .badPkt s)
    else if !extentIn s (reelFunc s k) a len then (true, cfgEvent ag a 25 s)
    else
      engStoreAll ag none (b.secs.zipIdx.map (fun e => (a + 32 * e.2, .write ⟨e.1.1, fullMask, e.1.2⟩, .write))) s

/-- ARRIVAL (R267): the arrive cue is signalled, the notice acknowledged. -/
def doArrival (coll : BitVec 16) (take : BitVec 8) (dev : BitVec 16) (sendNo : Nat) (s : State) : State :=
  match reelEntry s coll take with
  | none => countLink .collStale s
  | some k =>
    let x := reelAt s k
    if dev ≠ x.prev then countLink .collStale s
    else
      let s := setReel k { x with recv := (x.recv + 1) % 2 ^ 16 } s
      let s := signalNum (reelHalf k) x.arriveCue 1 s
      sendReel k dev 3 sendNo (sendNo % x.slots) [] s

/-- The `REEL` descriptor of a stream that awaits the acknowledgement of a send: queue and descriptor. -/
def reelSender (s : State) (k sendNo : Nat) : Option (Nat × DescRun) :=
  (s.dolly.queues.filterMap (fun (e : Nat × QueueSt) =>
    (List.find? (fun (d : DescRun) => decide (d.d.opcode = opReel) && decide (d.d.arg = k) && d.posted &&
      decide (d.phase = .running) && decide ((d.slot - 1) % 4096 = sendNo % 4096)) e.2.active).map (fun d => (e.1, d)))).head?

/-- ARRIVAL_ACK (R266): the descriptor that sent the block is complete. -/
def doArrivalAck (coll : BitVec 16) (take : BitVec 8) (dev : BitVec 16) (sendNo : Nat) (s : State) : State :=
  match reelEntry s coll take with
  | none => countLink .collStale s
  | some k =>
    if dev ≠ (reelAt s k).next then countLink .collStale s
    else
      match reelSender s k sendNo with
      | some (n, d) => completeDesc n d.index (modRun n d.index (fun r => { r with bytes := r.pos }) s)
      | none => s

/-- REEL_FREE (R267): a satisfied wait on `FREE_CUE` sends one credit to the predecessor, and the stream waits again. -/
def doReelFree (k : Nat) (s : State) : State :=
  let x := reelAt s k
  if x.st = 1 ∧ 0 < x.freeDue ∧ (curTake s (reelTakeKey k)).isSome then
    armFree k (sendReel k x.prev 4 0 0 [] (setReel k { x with freeDue := x.freeDue - 1 } s))
  else s

/-- CREDIT (R267). -/
def doCredit (coll : BitVec 16) (take : BitVec 8) (dev : BitVec 16) (s : State) : State :=
  match reelEntry s coll take with
  | none => countLink .collStale s
  | some k =>
    let x := reelAt s k
    if dev ≠ x.next then countLink .collStale s else setReel k { x with credits := min x.slots (x.credits + 1) } s

/-! ### REEL (R266, R268) -/

/-- Bytes as whole sectors; what a last sector holds past the bytes is not given (log entry 1). -/
def packSectors (bs : List (Byte × Bool)) (s : State) : List (Sec256 × Bool) × State :=
  let n := (bs.length + 31) / 32
  let pad := freeNat 256 s
  let fill := (bytesOf 32 (BitVec.ofNat 256 pad.1)).drop (bs.length % 32)
  let all := bs ++ (if bs.length % 32 = 0 then [] else withPoison fill false)
  ((List.range n).map (fun i =>
    let part := (all.drop (32 * i)).take 32
    (ofBytes 256 (part.map Prod.fst), part.any Prod.snd)), if bs.length % 32 = 0 then s else pad.2)

/-- Send the block of a stream packet by packet, up to 16 sectors each, then the arrival notice. -/
def reelGo (n : Nat) (idx : W32) (k : Nat) : Nat → State → State
  | 0, s => s
  | fuel + 1, s =>
    match runAt s n idx with
    | none => s
    | some r =>
      let x := reelAt s k
      let left := descTotal r.d - r.pos
      let sendNo := r.slot - 1
      if left = 0 then
        let s := sendReel k x.next 2 sendNo (sendNo % max 1 x.slots) [] s
        let s := setReel k { x with sent := (x.sent + 1) % 2 ^ 16 } s
        modRun n idx (fun r => { r with posted := true, sentT := s.clock }) s
      else if r.piece.length < min 512 left then
        match readMore n idx s with
        | (.ok (), s) => reelGo n idx k fuel s
        | (.wait, s) => s
        | (.bad st, s) => failDesc n idx st s
      else
        let bs := r.piece.take 512
        let v := packSectors bs s
        let a := x.base + sendNo % max 1 x.slots * 2 ^ x.slotLog + r.pos
        let s := sendReel k x.next 1 sendNo a v.1 v.2
        let s := countUnits .engRd n r.pos (r.pos + bs.length) s
        let s := countUnits .engWr n r.pos (r.pos + bs.length) s
        reelGo n idx k fuel (modRun n idx (fun r => { r with
          piece := r.piece.drop 512, pos := r.pos + bs.length
          poisoned := r.poisoned || bs.any Prod.snd }) s)

/-- REEL (R266). A stream that is another function's or too small for the source ends the descriptor with BAD_DESC; its credit
was taken when it started. A posted block awaits its acknowledgement for the request timeout (R257). -/
def doReel (h : Half) (q : Nat) (idx : W32) (s : State) : State :=
  runDesc h q idx opReel [] (fun n r s =>
    let k := r.d.arg
    let x := reelAt s k
    if some (reelFunc s k) ≠ queueFunc s n ∨ 2 ^ x.slotLog < descTotal r.d then failDesc n r.index dsBadDesc s
    else if r.posted then
      if r.sentT + reqTimeoutLen s (halfOf 256 n) ≤ s.clock then failDesc n r.index dsTimeout s else s
    else if reelHalf k ≠ halfOf 256 n ∧ farGone s then failDesc n r.index dsFenced s
    else if x.st ≠ 1 ∨ (curTake s (reelTakeKey k)).isNone then s
    else if r.asked = 0 then s
    else
      let s := if r.slot = 0 then modRun n r.index (fun r => { r with slot := x.sent + 1 }) s else s
      reelGo n r.index k (2 * moveFuel r.d) s) s

/-! ### Remote cue signals (R256) -/

/-- The receiving side of a remote signal: whether it is accepted, and the state after. -/
def takeRsig (r : RSig) (s : State) : Bool × State :=
  let n := cueNum r.cue
  let ok := handleCurrent s r.cue && (memberOf s r.dev).isSome && rbit s .cueRemote (n / 32) (n % 32)
  if ok then (true, cueSignal r.cue r.inc.val s)
  else
    let h := if !malformed r.cue && cueThere s n then cueHalf n else .h0
    (false, event h 0x0601 0 (cueFunc s n) r.dev.toNat r.cue.toNat 0 (bumpSat .rsigRefused h.num 31 0 1 s))

/-- A packet of kind 4 whose fields the manual does not lay out (log entry 1). -/
def openPacket (dest : BitVec 16) (op : Nat) (s : State) : Packet × State :=
  let a := freeNat 64 s
  let b := freeNat 64 a.2
  ({ blankPkt with
      dest := dest, kind := 4#4, op := BitVec.ofNat 8 op, addr := BitVec.ofNat 64 a.1, xfield := BitVec.ofNat 16 b.1
      tag := BitVec.ofNat 12 (b.1 / 2 ^ 16), take := BitVec.ofNat 8 (b.1 / 2 ^ 28), auxf := BitVec.ofNat 4 (b.1 / 2 ^ 36)
      func := BitVec.ofNat 4 (b.1 / 2 ^ 40) }, b.2)

/-- RSIGNAL_RECEIVE (R256): accepted and applied, or refused, and answered. -/
def doRsignalReceive (r : RSig) (s : State) : State :=
  let v := takeRsig r s
  let p := openPacket r.dev (if v.1 then 2 else 3) (emit (.rsigAnswer r.dev v.1 r.tag) v.2)
  sendPacket p.1 p.2

/-- RSIGNAL (R256): always a release at GROUP scope, sent once the queue's writes are performed there. A signal to the base
itself is applied at once. -/
def doRsignal (h : Half) (q : Nat) (idx : W32) (s : State) : State :=
  runDesc h q idx opRsignal [] (fun n r s =>
    if r.posted then
      if r.sentT + reqTimeoutLen s (halfOf 256 n) ≤ s.clock then failDesc n r.index dsTimeout s else s
    else if !groupDone s n then s
    else
      let dev := BitVec.ofNat 16 (r.d.dst.toNat / 2 ^ 48)
      if idOk s && decide (dev = ownDev s) then
        match takeRsig ⟨dev, r.d.sigCue, Fin.ofNat 256 r.d.sigInc, 0⟩ s with
        | (true, s) => completeDesc n r.index s
        | (false, s) => failDesc n r.index dsRemote s
      else
        let s := modRun n r.index (fun r => { r with posted := true, sentT := s.clock }) s
        let p := openPacket dev 1 (emit (.rsignal dev r.d.sigCue r.d.sigInc (queueHandle s n) r.index) s)
        sendPacket p.1 p.2) s

/-- An answer to an `RSIGNAL` names its queue's handle and its running index; one whose handle is stale is discarded (R222,
R238). -/
def rsigAnswer (queue idx : W32) (f : Nat → State → State) (s : State) : State :=
  match handleQueue s queue with
  | none => staleMsg (if natBits 12 0 queue.toNat / 256 = 1 ∧ hasHalf s .h1 then .h1 else .h0) s
  | some n =>
    match runAt s n idx with
    | some r => if r.d.opcode = opRsignal ∧ r.posted ∧ r.phase = .running then f n s else s
    | none => s

/-- RSIG_ACK (R256). -/
def doRsigAck (queue idx : W32) (s : State) : State := rsigAnswer queue idx (fun n => completeDesc n idx) s

/-- RSIG_REFUSED (R256). -/
def doRsigRefused (queue idx : W32) (s : State) : State := rsigAnswer queue idx (fun n => failDesc n idx dsRemote) s

/-! ### Multicasts (R263, R264, R299) -/

/-- Change branch i of a descriptor. -/
def modBr (n : Nat) (idx : W32) (i : Nat) (f : BranchSt → BranchSt) (s : State) : State :=
  modRun n idx (fun r => { r with branches := r.branches.mapIdx (fun j b => if j = i then f b else b) }) s

/-- A branch fails (R264): its data is dropped, its bit set in `TARGET_ERR`. -/
def failBranch (n : Nat) (idx : W32) (i : Nat) (s : State) : State :=
  modRun n idx (fun r => { r with targetErr := r.targetErr ||| 2 ^ i })
    (modBr n idx i (fun b => { b with failed := true, held := [], rtag := none, rans := none }) s)

/-- An entry of the destination list (R263). -/
def branchOf (t : Nat) (b : List Byte) (i : Nat) : BranchSt :=
  let w := word4 b (16 * i + 8)
  { addr := BitVec.ofNat 64 (fieldAt b (16 * i) 8), kind := natBits 3 0 w, group := natBits 31 16 w, tag := 0, take := 0
    pos := 0, held := [], rtag := none, rans := none, lastT := t, sent := false, failed := false, doneB := false }

/-- The side of a branch: the descriptor's destination strides from the branch's address. -/
def branchSide (r : DescRun) (b : BranchSt) : Side :=
  ⟨if b.kind = 4 then 0 else b.kind, b.addr.toNat, r.d.dstStride1.toInt, r.d.dstStride2.toInt⟩

/-- An entry is well formed (R244, R246, R263). -/
def branchOk (s : State) (r : DescRun) (bytes : List Byte) (i : Nat) (b : BranchSt) : Bool :=
  let w := word4 bytes (16 * i + 8)
  (decide (b.kind ≤ 2) || decide (b.kind = 4)) && decide (word4 bytes (16 * i + 12) = 0) && decide (natBits 15 4 w = 0) &&
  decide (b.group < 4096) && (decide (b.kind = 4) || decide (b.group = 0)) && sideOk s r.d (branchSide r b)

/-- Read the destination list. -/
def readBranches (n : Nat) (r : DescRun) (s : State) : Got (List BranchSt) × State :=
  let ag := queueAgent n
  let a := r.d.dst.toNat
  let len := 16 * r.d.arg
  if engFenced s ag a then (.bad dsFenced, clearFail ag a s)
  else if govWaits s ag 0 a then (.wait, s)
  else
    match engBytes ag a len s with
    | (none, s) => (.wait, s)
    | (some (_, true), s) => (.bad dsBadDesc, govEngine ag 0 a len true s)
    | (some (b, false), s) =>
      let s := govEngine ag 0 a len true s
      let l := (List.range r.d.arg).map (branchOf s.clock b)
      if l.zipIdx.all (fun e => branchOk s r b e.2 e.1) then (.ok l, s) else (.bad dsBadDesc, s)

/-- The sectors of a line that bytes from an offset touch: data, mask and poison of each. -/
def lineSectors (off : Nat) (bs : List (Byte × Bool)) : List (Nat × SecWr) :=
  ((List.range 4).filter (fun k => decide (off < 32 * k + 32) && decide (32 * k < off + bs.length))).map (fun k =>
    let lo := max off (32 * k)
    let hi := min (off + bs.length) (32 * k + 32)
    let part := (bs.drop (lo - off)).take (hi - lo)
    (k, byteWrite (lo - 32 * k) (part.map Prod.fst) (part.any Prod.snd)))

/-- One write of a multicast operation as a packet (R285, R296). -/
def mcWritePacket (f : Nat) (tag : BitVec 12) (take : BitVec 8) (epoch : Bool) (ga : Nat) (last : Bool) (l : List (Nat × SecWr)) :
    Packet :=
  let full := l.all (fun e => decide (e.2.mask = fullMask))
  { blankPkt with
    kind := 1#4, op := 5#8, xmask := !full, epoch := epoch, tag := tag, take := take, func := BitVec.ofNat 4 f
    addr := BitVec.ofNat 64 (ga / 128 * 128 + (l.map (fun e => 2 ^ e.1)).sum + b2n last * 64)
    masks := if full then [] else (l.map (fun e => e.2.mask)) ++ List.replicate (4 - l.length) 0
    poison := poisonBits (l.map (fun e => e.2.poison)), data := l.map (fun e => e.2.data) }

/-- The bytes at the front of a branch are accepted. -/
def branchTook (n : Nat) (idx : W32) (i len : Nat) (s : State) : State :=
  modBr n idx i (fun b => { b with
    pos := b.pos + len, held := b.held.drop len, lastT := s.clock, rtag := none, rans := none }) s

/-- An MGROUP branch goes on (R264, R299): true when something changed for it. -/
def pushGroup (n : Nat) (idx : W32) (i : Nat) (r : DescRun) (b : BranchSt) (s : State) : Bool × State :=
  let f := (queueFunc s n).getD 16
  if b.sent then
    match b.rans with
    | none => (false, s)
    | some .done => (true, modBr n idx i (fun b => { b with doneB := true }) s)
    | some _ => (true, failBranch n idx i s)
  else if b.held = [] then (false, s)
  else
    match b.rtag with
    | none =>
      match issueReqTag (halfOf 256 n) s with
      | none => (false, s)
      | some (t, tk, s) => (true, modBr n idx i (fun b => { b with rtag := some t, tag := t, take := tk }) s)
    | some _ =>
      let a := (posAddr r (branchSide r b) false b.pos).toNat
      let len := min (min (128 - a % 128) (r.d.rowBytes - b.pos % r.d.rowBytes)) b.held.length
      let last := decide (b.pos + len = descTotal r.d)
      let l := lineSectors (a % 128) (b.held.take len)
      let ga := (ownDev s).toNat * 2 ^ 48 + a
      let pkt := mcWritePacket f (BitVec.ofNat 12 b.tag) b.take (epochOf s f) ga last l
      match mcSend b.group pkt s with
      | none => (false, s)
      | some s =>
        let s := emit (.mcWrite b.group b.tag b.take a last (l.map (fun e => (e.2.data, e.2.poison)))) s
        (true, modBr n idx i (fun b => { b with
          pos := b.pos + len, held := b.held.drop len, lastT := s.clock, sent := last }) s)

/-- A branch goes on with the data held for it: true when something changed for it. -/
def pushBranch (n : Nat) (idx : W32) (i : Nat) (s : State) : Bool × State :=
  match runAt s n idx with
  | none => (false, s)
  | some r =>
    match r.branches[i]? with
    | none => (false, s)
    | some b =>
      if b.failed || b.doneB then (false, s)
      else if b.kind = 4 then pushGroup n idx i r b s
      else if b.held = [] then
        if b.pos = descTotal r.d then (true, modBr n idx i (fun b => { b with doneB := true }) s) else (false, s)
      else
        let p := spotOf s b.kind (posAddr r (branchSide r b) false b.pos)
        let len := min (min (spotRoom p) (r.d.rowBytes - b.pos % r.d.rowBytes)) b.held.length
        let bs := b.held.take len
        let count (s : State) : State := countUnits .engWr n b.pos (b.pos + len) s
        match p with
        | .remote ga =>
          let s1 :=
            if b.rtag.isSome then s
            else
              let t := issueEngTag n s
              let w := byteWrite (ga.toNat % 32) (bs.map Prod.fst) (bs.any Prod.snd)
              farAccess (queueAgent n) ga (.write [(Fin.ofNat 4 (ga.toNat / 32 % 4), w)]) t.1
                (modBr n idx i (fun b => { b with rtag := some t.1, rans := none }) t.2)
          match ((runAt s1 n idx).bind (fun r => r.branches[i]?)).bind (fun b => b.rans) with
          | none => (false, s1)
          | some (.err _) => (true, failBranch n idx i s1)
          | some _ => (true, branchTook n idx i len (count s1))
        | p =>
          match spotWrite n idx p bs s with
          | (.ok (), s) => (true, branchTook n idx i len (count s))
          | (.wait, s) => (false, s)
          | (.bad _, s) => (true, failBranch n idx i s)

/-- Every branch once, in order. -/
def pushBranches (n : Nat) (idx : W32) : List Nat → State → Bool × State
  | [], s => (false, s)
  | i :: is, s =>
    let a := pushBranch n idx i s
    let b := pushBranches n idx is a.2
    (a.1 || b.1, b.2)

/-- A branch still has something to do. -/
def branchLive (b : BranchSt) : Bool := !b.failed && !b.doneB

/-- The data read goes to each branch that is still live. -/
def shareOut (n : Nat) (idx : W32) (s : State) : State :=
  match runAt s n idx with
  | none => s
  | some r =>
    let s := countUnits .engRd n r.pos (r.pos + r.piece.length) s
    modRun n idx (fun r => { r with
      branches := r.branches.map (fun b => if branchLive b then { b with held := b.held ++ r.piece } else b)
      pos := r.pos + r.piece.length, bytes := r.bytes + r.piece.length
      poisoned := r.poisoned || r.piece.any Prod.snd, piece := [] }) s

/-- A multicast goes on as far as it can now: its branches take what is held, the source is read while no live branch holds
64 KiB. -/
def mcastGo (n : Nat) (idx : W32) : Nat → State → State
  | 0, s => s
  | fuel + 1, s =>
    match pushBranches n idx (List.range 16) s with
    | (true, s) => mcastGo n idx fuel s
    | (false, s) =>
      match runAt s n idx with
      | none => s
      | some r =>
        let live := r.branches.filter branchLive
        if live = [] then
          if r.branches.any (fun b => b.failed) then failDesc n idx dsTarget s else completeDesc n idx s
        else if r.pos < descTotal r.d ∧ live.all (fun b => decide (b.held.length < 65536)) then
          match readMore n idx s with
          | (.ok (), s) => mcastGo n idx fuel (shareOut n idx s)
          | (.wait, s) => s
          | (.bad st, s) => failDesc n idx st s
        else s

/-- MCAST (R263, R264). -/
def doMcast (h : Half) (q : Nat) (idx : W32) (errs : List ArrErr) (s : State) : State :=
  mcDeliverLocal <| runDesc h q idx opMcast errs (fun n r s =>
    let go (s : State) : State := mcastGo n r.index (20 * moveFuel r.d) s
    if r.branches = [] then
      match readBranches n r s with
      | (.ok l, s) => go (modRun n r.index (fun r => { r with branches := l }) s)
      | (.wait, s) => s
      | (.bad st, s) => failDesc n r.index st s
    else go s) s

/-- MCAST_BRANCH_TIMEOUT (R264): a branch that accepted nothing new for the multicast hold time, though data
waits for it, fails. -/
def doMcastTimeout (h : Half) (q : Nat) (idx : W32) (d : Nat) (s : State) : State :=
  let n := queueNum h q
  match (runAt s n idx).bind (fun r => if r.phase = .running then r.branches[d]? else none) with
  | none => s
  | some b =>
    if branchLive b && decide (b.held ≠ []) then
      let s := failBranch n idx d (atTime (b.lastT + mcHold s) s)
      doMcast h q idx [] s
    else s

/-! ### Cuts (R271) -/

/-- The streams of a function that is Cut fail, and their identifiers advance their takes. -/
def cutReels (f : Nat) (s : State) : State :=
  forEach s.dolly.reels (fun e s =>
    if e.2.st ≠ 0 ∧ reelFunc s e.1 = f then
      callAdvance (reelTakeKey e.1) (withdraw (.reelFree (reelHalf e.1) (e.1 % 64))
        (modReel e.1 (fun x => { x with st := 2, freeDue := 0 }) s))
    else s) s

/-- Every queue of a function that is Cut is disabled without records or signals; it keeps its rings, its engine and its
regulator, and its take advances. -/
def cutQueues (f : Nat) (s : State) : State :=
  forEach ((List.range (256 * numHalves s)).filter (fun n => decide (queueFunc s n = some f))) (fun n s =>
    let s := setQueue n QueueSt.init (disableQueue n s)
    let s := rput .dqCtl n (Nat.land (rget s .dqCtl n) 0x7F0F00) s
    callAdvance (queueTake n) (rput .dqTail n 0 (rput .dqRecHead n 0 s))) s

/-! ### Commands -/

/-- The number of a stream. -/
def reelNum (h : Half) (k : Fin 64) : Nat := 64 * h.num + k.val

/-- MCAST (R263). -/
def execMcast (h : Half) (q : Fin 256) (n : DescTurn) (s : State) : Outcome :=
  onHalf s h (.next (doMcast h q.val n.n n.errs s))
/-- MCAST_BRANCH_TIMEOUT (R264). -/
def execMcastBranchTimeout (h : Half) (q : Fin 256) (n : BitVec 32) (d : Fin 16) (s : State) : Outcome :=
  onHalf s h (.next (doMcastTimeout h q.val n d.val s))
/-- REEL (R266). -/
def execReel (h : Half) (q : Fin 256) (n : BitVec 32) (s : State) : Outcome := onHalf s h (.next (doReel h q.val n s))
/-- RSIGNAL (R256). -/
def execRsignal (h : Half) (q : Fin 256) (n : BitVec 32) (s : State) : Outcome := onHalf s h (.next (doRsignal h q.val n s))
/-- RSIGNAL_RECEIVE (R256). -/
def execRsignalReceive (r : RSig) (s : State) : Outcome := .next (doRsignalReceive r s)
/-- RSIG_ACK (R256). -/
def execRsigAck (queue n : BitVec 32) (s : State) : Outcome := .next (doRsigAck queue n s)
/-- RSIG_REFUSED (R256). -/
def execRsigRefused (queue n : BitVec 32) (s : State) : Outcome := .next (doRsigRefused queue n s)
/-- REEL_VALID_WRITE (R265). -/
def execReelValidWrite (ag : Agent) (h : Half) (k : Fin 64) (v : BitVec 32) (s : State) : Outcome :=
  onAgent s ag (.next (regStore ag h .reelId (reelNum h k) v.toNat (reelIdAct (reelNum h k)) s))
/-- BLOCK (R311). -/
def execBlock (b : BlockPkt) (s : State) : Outcome := .next (doBlock b s).2
/-- ARRIVAL (R267). -/
def execArrival (coll : BitVec 16) (take : BitVec 8) (dev sendNo : BitVec 16) (s : State) : Outcome :=
  .next (doArrival coll take dev sendNo.toNat s)
/-- ARRIVAL_ACK (R266). -/
def execArrivalAck (coll : BitVec 16) (take : BitVec 8) (dev sendNo : BitVec 16) (s : State) : Outcome :=
  .next (doArrivalAck coll take dev sendNo.toNat s)
/-- REEL_FREE (R267). -/
def execReelFree (h : Half) (k : Fin 64) (s : State) : Outcome := onHalf s h (.next (doReelFree (reelNum h k) s))
/-- CREDIT (R267). -/
def execCredit (coll : BitVec 16) (take : BitVec 8) (dev : BitVec 16) (s : State) : Outcome := .next (doCredit coll take dev s)

end Sys2Proof.Machine
end

