-- ==== Sys2Proof/Machine/Deliver.lean ====
section
/-! DEFINITION. Packets at the front of a port's receive queues: delivered to the base, forwarded, or replicated
(R283–R286, R290–R297). -/

namespace Sys2Proof.Machine

open Sys2Proof

/-! ### Reading packets -/

def scopeOf (n : Nat) : Scope := if n = 0 then .agent else if n = 1 then .base else .group
def ordOf (n : Nat) : MOrd := if n = 0 then .rlx else if n = 1 then .acq else if n = 2 then .rel else .acqRel

def atomOpOf (n : Nat) : Option AtomOp :=
  [AtomOp.swap, .cas, .fetchAdd, .fetchMin, .fetchMax, .fetchAnd, .fetchOr, .fetchXor, .load, .store][n]?
def atomTyOf (n : Nat) : Option AtomTy := [AtomTy.b32, .b64, .int32, .int64, .fp32][n]?

/-- The atomic of a request's 32 B of data, with its byte offset (R286). -/
def atomicOf (d : Sec256) : Option (Atomic × Fin 128) :=
  let n := d.toNat
  match atomOpOf (natBits 3 0 n), atomTyOf (natBits 6 4 n) with
  | some op, some ty =>
    some (⟨op, ty, BitVec.ofNat 64 (n / 2 ^ 64), BitVec.ofNat 64 (n / 2 ^ 128)⟩, Fin.ofNat 128 (4 * natBits 11 7 n))
  | _, _ => none

/-- The data of a Continuity packet has the length its header says (R285). -/
def cohLenOk (p : Packet) : Bool :=
  let op := p.op.toNat
  let k := (([0, 1, 2, 3] : List Nat).filter (fun i => natBit i p.addr.toNat)).length
  let n := p.data.length
  if op = 0x05 ∨ op = 0x06 then
    decide (n = k) || (decide (n % 4 = 0) && decide (0 < n) && decide (n ≤ 16) && decide (k = 4) && !p.xmask)
  else if op = 0x08 ∨ op = 0x34 then decide (n = 1)
  else if op ∈ [0x09, 0x0A, 0x30, 0x36] then decide (n = k)
  else decide (n = 0)

/-- Byte masks go with writes only, one for each sector named; those not used are zero (R283, R285). -/
def maskRuleOk (p : Packet) : Bool :=
  !p.xmask || (decide (p.op.toNat = 5) &&
    (p.masks.drop (([0, 1, 2, 3] : List Nat).filter (fun i => natBit i p.addr.toNat)).length).all (fun m => decide (m = 0)))

/-- The rules that every packet of a kind keeps (R283, R285, R298, R302, R311). -/
def pktRuleOk (p : Packet) : Bool :=
  !p.rsv && decide (p.data.length ≤ 16) && (match p.kind.toNat with
    | 1 => cohLenOk p && maskRuleOk p && (p.mc || natBit 6 p.addr.toNat)
    | 2 => decide (p.data.length ≤ 1) && (decide (p.op.toNat = 1) || decide (p.data = [])) && !p.xmask &&
      decide (natBits 39 32 p.addr.toNat ≤ 2)
    | 3 => (decide (p.op.toNat = 1) || decide (p.data = [])) && !p.xmask
    | 4 => decide (p.op.toNat ≠ 4) || (decide (p.data.length = 1) && !p.xmask)
    | _ => true)

/-- A Clapper packet's message (R302). -/
def clapOf (p : Packet) : ClapMsg :=
  let a := p.addr.toNat
  { coll := BitVec.ofNat 16 a, take := p.take, round := BitVec.ofNat 16 (a / 2 ^ 16), status := Fin.ofNat 3 (natBits 39 32 a)
    value := natBits 63 40 a, firstExcl := p.xfield, red := p.data.head?, src := p.src }

/-- The content of an `MC_ACK` (R298). -/
def mcInfoOf (p : Packet) : McAckInfo :=
  let n := (p.data.headD 0).toNat
  let fc := natBits 31 16 n
  { okCount := natBits 15 0 n, failCount := fc, more := natBit 40 n
    fails := (List.range (min 8 fc)).map (fun i => (BitVec.ofNat 16 (n / 2 ^ (64 + 16 * i)), natBit (32 + i) n)) }

/-! ### Continuity packets (R186, R285) -/

/-- A Continuity request from another device (R31, R186). -/
def reqPacket (p : Packet) (s : State) : State :=
  let err (cause : Nat) (s : State) : State :=
    sendCoh (.dev p.src) { blankCoh with code := 0x3A, tag := p.tag.toNat, take := p.take, addr := p.addr, cause := cause } s
  match memberOf s p.src with
  | none => err 1 s
  | some m =>
    let hd : CohHdr :=
      { src := .member (Fin.ofNat 4096 m), tag := p.tag.toFin, take := p.take, addr := p.addr, func := p.func.toFin
        epoch := p.epoch, scope := scopeOf p.scope.toNat, ord := ordOf p.ord.toNat }
    let ls := pktLines p
    let go (k : HKind) : State := fromHolder hd k s
    match p.op.toNat with
    | 0x01 => go .rdS
    | 0x02 => go .rdX
    | 0x03 => go .upgrade
    | 0x04 => go (.rdNc (p.addr.toNat % 16))
    | 0x05 => fromHolderLines hd (ls.map (fun l => (l.1, .wrNc l.2))) s
    | 0x06 =>
      match redopOf p.auxf.toNat with
      | none => countLink .badPkt s
      | some ro =>
        fromHolderLines hd (ls.map (fun l => (l.1, .addNc ro (l.2.map (fun e => (e.1, e.2.data, e.2.poison)))))) s
    | 0x07 =>
      match redopOf p.auxf.toNat with
      | none => countLink .badPkt s
      | some ro => go (.joinA ro)
    | 0x08 =>
      match atomicOf (p.data.headD 0) with
      | none => countLink .badPkt s
      | some (a, off) => go (.atomic a off.val)
    | 0x09 => go (.wb (natBit 5 p.addr.toNat) (pktSecs p))
    | 0x0A =>
      match redopOf p.auxf.toNat with
      | none => countLink .badPkt s
      | some ro => go (.mergeA ro (pktSecs p))
    | 0x0B => go .evictE
    | 0x0C => go .renew
    | _ => bumpSat .badMsg 0 31 0 1 s

/-- A snoop from another device's home, or the answer of one. -/
def respPacket (p : Packet) (s : State) : State :=
  let h := farHalf s p.addr
  let ga := gaLine p.addr
  let sn : SnoopRef := ⟨some p.src, 0, p.tag.toFin, p.take⟩
  let tag : Fin 4096 := p.tag.toFin
  let lease := natBits 7 0 p.xfield.toNat
  let nc := natBit 4 p.addr.toNat
  let atHome (f : Nat → Fin 4096 → State → State) (s : State) : State :=
    match memberOf s p.src, homeOf s (gaDpa ga) with
    | some m, some l => f l.1 (Fin.ofNat 4096 m) s
    | _, _ => bumpSat .badMsg h.num 31 0 1 s
  match p.op.toNat with
  | 0x20 => doInv h ga sn s
  | 0x21 => doRecall h ga sn s
  | 0x22 => doDowngrade h ga sn s
  | 0x23 => doCollect h ga sn s
  | 0x30 =>
    let g : Granted := if nc then .nc else if natBits 10 8 p.xfield.toNat = 2 then .e else .s
    doData h tag.val p.take g (pktSecs p) lease s
  | 0x31 => doGrant h tag.val p.take nc lease s
  | 0x32 => doAckLocal h tag.val p.take s
  | 0x33 => doAckGlobal h tag.val p.take s
  | 0x34 => doAtomicResult h tag.val p.take (BitVec.ofNat 64 (p.data.headD 0).toNat) s
  | 0x35 => atHome (fun sl m s => doSnoopAck sl tag p.take (.member m) (natBit 5 p.addr.toNat) p.func.toFin p.epoch s) s
  | 0x36 =>
    atHome (fun sl m s => doSnoopData sl tag p.take (.member m) (redopOf p.auxf.toNat) (pktSecs p) p.func.toFin p.epoch s) s
  | 0x37 => doAck h tag.val p.take s
  | 0x38 => doNack h tag.val p.take s
  | 0x39 => doRetry h tag.val p.take s
  | 0x3A => doError h tag.val p.take p.auxf.toNat s
  | _ => bumpSat .badMsg h.num 31 0 1 s

/-! ### Delivery (R283, R290, R292) -/

/-- The front packet's age as it stands here. -/
def arrivedAge (s : State) (p : Nat) (k : Packet) : Nat := min 1023 (k.age + rbits s .portCtl p 11 4)

/-- An `MC_ACK` names an operation that is in progress with another take of its tag (R222). -/
def mcStale (s : State) (p : Nat) (k : Packet) : Bool :=
  s.link.mcops.any (fun o => decide (o.tag = k.tag) && decide (o.take ≠ k.take) && o.branches.any (fun b => decide (b.port = p)))

/-- A packet of the base's own is handled: false while it must wait where it is. Signals and their answers, and `LINK_INFO`,
come with their own commands, since the manual lays out no fields for them (DESIGN CHOICE). -/
def handlePacket (p : Nat) (k : Packet) (s : State) : Bool × State :=
  match k.kind.toNat with
  | 1 => (true, if k.op.toNat < 0x20 then reqPacket k s else respPacket k s)
  | 2 =>
    let m := clapOf k
    match k.op.toNat with
    | 1 => (true, doArrive m (natBit 0 k.poison.toNat) s)
    | 2 => doDepart m s
    | 3 => (true, doDelayNotice m s)
    | 4 => (true, doExtend m s)
    | _ => (true, countLink .badPkt s)
  | 3 =>
    match k.op.toNat with
    | 1 => doBlock ⟨k.xfield, k.take, k.src, BitVec.ofNat 48 k.addr.toNat,
        k.data.zipIdx.map (fun e => (e.1, natBit e.2 k.poison.toNat))⟩ s
    | 2 => (true, doArrival k.xfield k.take k.src k.tag.toNat s)
    | 3 => (true, doArrivalAck k.xfield k.take k.src k.tag.toNat s)
    | 4 => (true, doCredit k.xfield k.take k.src s)
    | _ => (true, countLink .badPkt s)
  | 4 =>
    if k.op.toNat = 4 then
      match List.find? (fun o => decide (o.tag = k.tag) && decide (o.take = k.take) &&
          o.branches.any (fun b => decide (b.port = p) && !b.acked && !b.failed)) s.link.mcops with
      | some o => (true, doMcAck o.src o.tag o.take p (mcInfoOf k) s)
      | none => (true, if mcStale s p k then staleMsg (halfOf 8 p) s else s)
    else (true, s)
  | _ => (true, s)

/-- PACKET_DELIVER (R283, R284, R290, R292): the front packet of a class, when it is for the base itself. -/
def doPacketDeliver (p vc : Nat) (dl : Bool) (s : State) : State :=
  match frontPkt s p vc dl with
  | none => s
  | some k =>
    let info := decide (k.kind = 5#4) && decide (k.op = 1#8)
    if k.mc ∨ (idOk s ∧ k.dest ≠ ownDev s ∧ !info) then s
    else
      let done (s : State) : State := consumePkt p vc dl s
      if !idOk s && !info then done (countLink .noRoute s)
      else if 500 ≤ arrivedAge s p k then done (countLink .aged s)
      else if k.kind = 1#4 ∧ (vcOf 1 k.op.toNat).isNone then done (bumpSat .badMsg (halfOf 8 p).num 31 0 1 s)
      else if vcOf k.kind.toNat k.op.toNat ≠ some vc ∨ !pktRuleOk k then done (countLink .badPkt s)
      else
        match handlePacket p k s with
        | (true, s) => mcDeliverLocal (done s)
        | (false, s) => s

/-- Send a packet on to a port (R291, R342): within a half it is queued there; to a port of the other half it crosses Zoram, on
ZC0 when it is of VC0 and on ZC4 otherwise, and that half queues it. -/
def forwardTo (p vc q : Nat) (cross : Bool) (k : Packet) (s : State) : State :=
  if halfOf 8 p = halfOf 8 q then queuePkt q vc { k with dl := k.dl || cross } s
  else zSend (.half (halfOf 8 q)) (if vc = 0 then 0 else 4) (.zPacket (.half (halfOf 8 q)) p vc k) s

/-- PACKET_FORWARD (R291–R293): the front packet of a class, when it is for another base. `us`: its time at the base. -/
def doPacketForward (p vc : Nat) (dl : Bool) (us : Nat) (s : State) : State :=
  match frontPkt s p vc dl with
  | none => s
  | some k =>
    if k.mc ∨ !idOk s ∨ k.dest = ownDev s then s
    else
      let s := consumePkt p vc dl s
      let age := min 1023 (arrivedAge s p k + us)
      if 500 ≤ age then countLink .aged s
      else
        match routeOf s k.dest.toNat with
        | some (q, cross) => forwardTo p vc q cross { k with age := age } s
        | none =>
          let s := countLink .noRoute s
          let asks := (decide (k.kind = 1#4) && decide (k.op.toNat < 0x20)) || (decide (k.kind = 4#4) && decide (k.op = 1#8))
          if asks && (routeOf s k.src.toNat).isSome then
            sendCoh (.dev k.src)
              { blankCoh with code := 0x3A, tag := k.tag.toNat, take := k.take, addr := k.addr, cause := 6 } s
          else s

/-- MC_PACKET (R295–R297): the front packet of a class is replicated to its group's branches, or waits for hold space or for
a place among the operations. -/
def doMcPacket (p vc : Nat) (dl : Bool) (us : Nat) (s : State) : State :=
  match frontPkt s p vc dl with
  | none => s
  | some k =>
    if !k.mc then s
    else
      let age := min 1023 (arrivedAge s p k + us)
      if !idOk s then consumePkt p vc dl (countLink .noRoute s)
      else if 500 ≤ age then consumePkt p vc dl (countLink .aged s)
      else if vcOf k.kind.toNat k.op.toNat ≠ some vc ∨ !pktRuleOk k ∨ 4096 ≤ k.dest.toNat then
        consumePkt p vc dl (countLink .badPkt s)
      else
        match mcReplicate (some p) { k with age := age } s with
        | none => s
        | some s => mcDeliverLocal (consumePkt p vc dl s)

/-! ### Commands -/

/-- PACKET_DELIVER (R290). -/
def execPacketDeliver (p : Fin 16) (vc : Fin 8) (dl : Bool) (s : State) : Outcome :=
  onPort s p.val (.next (doPacketDeliver p.val vc.val dl s))
/-- PACKET_FORWARD (R291). -/
def execPacketForward (p : Fin 16) (vc : Fin 8) (dl : Bool) (us : Nat) (s : State) : Outcome :=
  onPort s p.val (.next (doPacketForward p.val vc.val dl us s))
/-- MC_PACKET (R297). -/
def execMcPacket (p : Fin 16) (vc : Fin 8) (dl : Bool) (us : Nat) (s : State) : Outcome :=
  onPort s p.val (.next (doMcPacket p.val vc.val dl us s))

end Sys2Proof.Machine
end

