-- ==== Sys2Proof/Machine/Rdma.lean ====
section
/-! DEFINITION. RoCEv2 queue pairs (R371–R376, R384, R385) as requester and responder, host memory keys, and the Dolly
descriptors `RDMA_WRITE` and `RDMA_READ` (R261, R262). Codes on the wire are those of the InfiniBand transport (PRESUMED,
log entry 14): 0x0A write, 0x0C read request, 0x10 read response, 0x11 acknowledge, 0x12 atomic acknowledge; `NAK` codes 0
sequence error, 1 invalid request, 2 remote access error, 3 remote operational error. -/

namespace Sys2Proof.Machine

open Sys2Proof

/-! ### Queue pairs -/

/-- A queue pair. -/
def qpAt (s : State) (n : Nat) : QpSt := s.host.qps.getD n QpSt.init
/-- Replace a queue pair's running state. -/
def setQp (n : Nat) (x : QpSt) (s : State) : State := modHost (fun h => { h with qps := h.qps.setD n QpSt.init x }) s
/-- Change it. -/
def modQp (n : Nat) (f : QpSt → QpSt) (s : State) : State := setQp n (f (qpAt s n)) s
/-- The key of a queue pair's take. -/
def qpTakeKey (n : Nat) : Nat := takeKey (.qp (Fin.ofNat 4096 n))
/-- The key of a host memory key's take. -/
def mkTakeKey (k : Nat) : Nat := takeKey (.key (Fin.ofNat 1024 k))

/-- A queue pair exists, and its owner. -/
def qpFunc (s : State) (n : Nat) : Option Nat := ownerField s .qpOwner n

/-- The effect of a write to `QP_OWNER` (R371): a change advances the take. -/
def qpOwnerAct (n new : Nat) (s : State) : State :=
  if rget s .qpOwner n % 32 = new % 32 then s else callAdvance (qpTakeKey n) (rput .qpOwner n (new % 32) s)

/-- The effect of a write to `MK_CTL`: a change of `MK_VALID` advances the take. -/
def mkCtlAct (k new : Nat) (s : State) : State :=
  let old := rbit s .mkCtl k 4
  let s := rput .mkCtl k new s
  if old = natBit 4 new then s else callAdvance (mkTakeKey k) s

/-- The queue pair that a BTH names with its current take (R371). -/
def qpNamed (s : State) (dqpn : BitVec 24) : Option Nat :=
  let n := dqpn.toNat % 4096
  if dqpn.toNat / 2 ^ 20 = 0 ∧ (qpFunc s n).isSome ∧ curTake s (qpTakeKey n) = some (dqpn.toNat / 4096 % 256) then some n
  else none

/-- The priority of a queue pair. -/
def qpPrio (s : State) (n : Nat) : Nat := rbits s .qpQos n 24 22
/-- The path MTU in bytes; codes outside the table act as the largest (DESIGN CHOICE). -/
def qpMtu (s : State) (n : Nat) : Nat :=
  let p := rbits s .qpPath n 2 0
  if 1 ≤ p ∧ p ≤ 5 then 128 * 2 ^ p else 4096
/-- The largest requester message (`MSG_LOG2`; values outside 12–30 act as 20). -/
def msgSize (s : State) : Nat :=
  let m := rbits s .hpCfg 0 13 9
  2 ^ (if 12 ≤ m ∧ m ≤ 30 then m else 20)

/-- Send a packet of a queue pair. -/
def qpEmit (n : Nat) (o : Out) (s : State) : State := hostEmit (qpPrio s n) o s

/-- The running descriptor that posted a packet, with the queue's take still current (R238). -/
def pktRun (s : State) (p : QpPkt) : Option DescRun :=
  if curTake s (queueTake p.queue) ≠ some p.take then none
  else (runAt s p.queue p.index).filter (fun r => decide (r.uid = p.run) && decide (r.phase = .running) && !r.ended)

/-- A reply to a packet reaches the descriptor that posted it; one that bears an old take of the queue is stale (R238). -/
def onReply (p : QpPkt) (f : DescRun → State → State) (s : State) : State :=
  match pktRun s p with
  | some r => f r s
  | none => when (decide (curTake s (queueTake p.queue) ≠ some p.take)) (staleMsg (halfOf 256 p.queue)) s

/-- The descriptors with messages to post on a queue pair that still run, in the order in which they started. -/
def liveUsers (s : State) (x : QpSt) : List (Nat × W32) :=
  x.users.filter (fun u => match runAt s u.1 u.2 with
    | some r => decide (r.phase = .running) && r.posted
    | none => false)

/-- A queue pair forgets what it sent, and the descriptors that use it end with RDMA (R262). -/
def qpDrop (n : Nat) (s : State) : State :=
  let x := qpAt s n
  let users := liveUsers s x ++ ((x.sent.filter (fun p => (pktRun s p).isSome)).map (fun p => (p.queue, p.index))).filter
    (fun u => !x.users.contains u)
  forEach users (fun u s =>
    match runAt s u.1 u.2 with
    | some r => if r.phase = .running ∧ !r.ended then failDesc u.1 u.2 dsRdma s else s
    | none => s) (setQp n { x with sent := [], users := [] } s)

/-- A queue pair enters ERR (R372). A Cut names its own cause also where the queue pair was in ERR. -/
def qpError (n cause : Nat) (s : State) : State :=
  if (qpAt s n).st = 4 then when (decide (cause = 5)) (modQp n (fun x => { x with cause := 5 })) s
  else
    let s := modQp n (fun x => { x with st := 4, cause := cause }) s
    qpDrop n (event .h0 0x0A02 0 (qpFunc s n) n 0 cause s)

/-- A queue pair moves to a state on command (R372, R394). -/
def qpMove (n st : Nat) (s : State) : State :=
  if st = 4 then qpError n 0 s
  else if st = 0 then
    let s := qpDrop n s
    modQp n (fun x => { QpSt.init with rate := x.rate, lastCnp := x.lastCnp, lastRec := x.lastRec }) s
  else if st < 4 then modQp n (fun x => { x with st := st }) s
  else s

/-- The next PSN after one, and the distance between two. -/
def psnAdd (a k : Nat) : Nat := (a + k) % 2 ^ 24
/-- How far a PSN lies after another. -/
def psnFrom (a b : Nat) : Nat := (a + 2 ^ 24 - b) % 2 ^ 24

/-- Send a request packet. -/
def sendPkt (n : Nat) (p : QpPkt) (s : State) : State :=
  qpEmit n (.roce n (if p.read then 0x0C else 0x0A) p.psn p.va p.rkey p.len p.bytes) s

/-- Post a packet: it takes its PSNs and is sent. -/
def postPkt (n : Nat) (read : Bool) (span va rkey len : Nat) (bytes : List Byte) (q : Nat) (idx : W32) (pos : Nat)
    (s : State) : State :=
  let psn := rget s .qpSqPsn n
  let p : QpPkt := ⟨psn, span, read, va, rkey, len, bytes, q, idx, pos, (takeSt s (queueTake q)).take,
    ((runAt s q idx).map DescRun.uid).getD 0⟩
  let x := qpAt s n
  let s := setQp n { x with sent := x.sent ++ [p], lastT := if x.sent = [] then s.clock else x.lastT } s
  sendPkt n p (rput .qpSqPsn n (psnAdd psn span) s)

/-- Room for more PSNs: half of the number space at most is outstanding. -/
def psnRoom (s : State) (n : Nat) : Bool :=
  match (qpAt s n).sent with
  | [] => true
  | p :: _ => decide (psnFrom (rget s .qpSqPsn n) p.psn < 2 ^ 22)

/-! ### The descriptors (R261, R373) -/

/-- The queue pair of an RDMA descriptor. -/
def descQp (d : Desc) : Nat := natBits 11 0 d.aux.toNat

/-- The start of an RDMA descriptor: its queue pair must be its function's, with the handle's take, in RTS (R261). In ERR the
descriptor ends with RDMA (R262). 0: it may go on. -/
def rdmaStatus (s : State) (n : Nat) (d : Desc) : Nat :=
  let q := descQp d
  if qpFunc s q ≠ queueFunc s n ∨ curTake s (qpTakeKey q) ≠ some (natBits 19 12 d.aux.toNat) then dsBadDesc
  else if (qpAt s q).st = 4 then dsRdma
  else if (qpAt s q).st ≠ 3 then dsBadDesc
  else 0

/-- A descriptor joins its queue pair, in the order in which descriptors start; those that run no more leave it. -/
def joinQp (q n : Nat) (idx : W32) (s : State) : State :=
  modQp q (fun x => { x with users := (liveUsers s x).filter (fun u => u ≠ (n, idx)) ++ [(n, idx)] }) s

/-- A descriptor has posted all its messages. -/
def leaveQp (q n : Nat) (idx : W32) (s : State) : State :=
  modQp q (fun x => { x with users := x.users.filter (fun u => u ≠ (n, idx)) }) s

/-- A descriptor has packets that are not acknowledged. -/
def waitsAck (s : State) (q n : Nat) (idx : W32) : Bool :=
  (qpAt s q).sent.any (fun p => decide (p.queue = n) && decide (p.index = idx) && (pktRun s p).isSome)

/-- An `RDMA_WRITE` goes on: it posts packets while its turn on the queue pair lasts and its source can be read. It stops at
the first poisoned sector (R259). -/
def writeGo (q n : Nat) (idx : W32) : Nat → State → State
  | 0, s => s
  | fuel + 1, s =>
    match runAt s n idx with
    | none => s
    | some r =>
      let total := descTotal r.d
      if r.pos = total then
        let s := leaveQp q n idx s
        if waitsAck s q n idx then s else completeDesc n idx s
      else if (liveUsers s (qpAt s q)).head? ≠ some (n, idx) ∨ !psnRoom s q then s
      else
        let at_ := if r.d.slate then 2048 * r.unit + (2048 - r.piece.length) else r.pos
        let want := if r.d.slate then
            (if r.piece = [] then 1 else min (qpMtu s q) r.piece.length)
          else min (qpMtu s q) (min (msgSize s - r.pos % msgSize s) (total - r.pos))
        if r.piece.length < want then
          match readMore n idx s with
          | (.ok (), s) => writeGo q n idx fuel s
          | (.wait, s) => s
          | (.bad st, s) => failDesc n idx st (leaveQp q n idx s)
        else if (r.piece.take want).any Prod.snd then failDesc n idx dsPoison (leaveQp q n idx s)
        else
          let bs := (r.piece.take want).map Prod.fst
          let s := postPkt q false 1 (r.d.dst.toNat + at_) r.d.dstStride1.toNat want bs n idx r.pos s
          let s := countUnits .engRd n r.pos (r.pos + want) s
          writeGo q n idx fuel (modRun n idx (fun r => { r with
            piece := r.piece.drop want, pos := r.pos + want }) s)

/-- The body of an RDMA descriptor: its queue pair is checked when it first comes to it. -/
def rdmaBody (go : Nat → Nat → W32 → State → State) (n : Nat) (r : DescRun) (s : State) : State :=
  let q := descQp r.d
  if r.posted then go q n r.index s
  else
    let st := rdmaStatus s n r.d
    if st ≠ 0 then failDesc n r.index st s
    else go q n r.index (joinQp q n r.index (modRun n r.index (fun r => { r with posted := true }) s))

/-- RDMA_WRITE (R261). -/
def doRdmaWrite (h : Half) (q : Nat) (idx : W32) (s : State) : State :=
  runDesc h q idx opRdmaWrite [] (fun n r s =>
    rdmaBody (fun qp n idx s => writeGo qp n idx (2 * moveFuel r.d) s) n r s) s

/-- The bytes that came for an `RDMA_READ` are written, as far as memory takes them. -/
def readStore (n : Nat) (idx : W32) : Nat → State → State
  | 0, s => s
  | fuel + 1, s =>
    match runAt s n idx with
    | none => s
    | some r =>
      if r.piece = [] then s
      else
        match writeSome n idx none s with
        | (.ok (), s) => readStore n idx fuel s
        | (.wait, s) => s
        | (.bad st, s) => failDesc n idx st s

/-- Post the read requests of a descriptor: at most 16 of a queue pair are outstanding (R373). -/
def readPost (q n : Nat) (idx : W32) : Nat → State → State
  | 0, s => s
  | fuel + 1, s =>
    match runAt s n idx with
    | none => s
    | some r =>
      let total := descTotal r.d
      if r.asked = total then leaveQp q n idx s
      else if (liveUsers s (qpAt s q)).head? ≠ some (n, idx) ∨ !psnRoom s q ∨
          16 ≤ ((qpAt s q).sent.filter (fun p => p.read)).length then s
      else
        let len := min (msgSize s) (total - r.asked)
        let span := (len + qpMtu s q - 1) / qpMtu s q
        let s := postPkt q true span (r.d.src.toNat + r.asked) r.d.srcStride1.toNat len [] n idx r.asked s
        readPost q n idx fuel (modRun n idx (fun r => { r with asked := r.asked + len }) s)

/-- An `RDMA_READ` goes on. -/
def readGo (q n : Nat) (idx : W32) (fuel : Nat) (s : State) : State :=
  let s := readPost q n idx fuel (readStore n idx fuel s)
  match runAt s n idx with
  | some r => if r.pos = descTotal r.d ∧ r.phase = .running then completeDesc n idx s else s
  | none => s

/-- RDMA_READ (R261). -/
def doRdmaRead (h : Half) (q : Nat) (idx : W32) (s : State) : State :=
  runDesc h q idx opRdmaRead [] (fun n r s =>
    rdmaBody (fun qp n idx s => readGo qp n idx (moveFuel r.d) s) n r s) s

/-! ### The requester (R373) -/

/-- Resend everything from the oldest packet that is not acknowledged. -/
def qpResend (n : Nat) (s : State) : State :=
  forEach (qpAt s n).sent (sendPkt n) (modQp n (fun x => { x with lastT := s.clock }) s)

/-- A resend of the oldest PSN is due: after `RETRY` of them without progress the queue pair enters ERR. -/
def qpRetry (n : Nat) (s : State) : State :=
  if rbits s .qpPath n 5 3 ≤ (qpAt s n).retries then qpError n 1 s
  else qpResend n (modQp n (fun x => { x with retries := x.retries + 1 }) s)

/-- What was acknowledged is written at the far end (R257); descriptors whose last packet is acknowledged are complete. -/
def ackedDescs (n : Nat) (gone : List QpPkt) (s : State) : State :=
  forEach gone (fun p s =>
    onReply p (fun r s =>
      let s := when (!p.read) (modRun p.queue p.index (fun r => { r with bytes := r.bytes + p.len })) s
      if !p.read ∧ r.pos = descTotal r.d ∧ !waitsAck s n p.queue p.index then
        completeDesc p.queue p.index (leaveQp n p.queue p.index s)
      else s) s) s

/-- The write packets at the front whose PSN an acknowledgement covers. -/
def ackedFront (psn : Nat) : List QpPkt → List QpPkt
  | [] => []
  | p :: l => if !p.read ∧ psnFrom psn p.psn < 2 ^ 23 then p :: ackedFront psn l else []

/-- Acknowledge the packets up to a PSN. -/
def qpAck (n psn : Nat) (s : State) : State :=
  let gone := ackedFront psn (qpAt s n).sent
  if gone = [] then s
  else
    let s := modQp n (fun x => { x with
      sent := x.sent.drop gone.length, retries := 0, rnrs := 0, lastT := s.clock }) s
    ackedDescs n gone s

/-- A packet of a read response: the bytes of the oldest read request, in order (R373). Earlier writes are acknowledged by
it. -/
def qpReadData (n psn : Nat) (bytes : List Byte) (s : State) : State :=
  let s := qpAck n (psnFrom psn 1) s
  match (qpAt s n).sent with
  | p :: rest =>
    if !p.read ∨ p.psn ≠ psn then s
    else
      let bs := bytes.take p.len
      let left : QpPkt := { p with
        psn := psnAdd p.psn 1, span := p.span - 1, va := p.va + bs.length, len := p.len - bs.length
        pos := p.pos + bs.length }
      let s := modQp n (fun x => { x with
        sent := if p.span ≤ 1 then rest else left :: rest, retries := 0, rnrs := 0, lastT := s.clock }) s
      onReply p (fun r s =>
        let s := modRun p.queue p.index (fun r => { r with piece := r.piece ++ withPoison bs false }) s
        readGo n p.queue p.index (moveFuel r.d) s) s
  | [] => s

/-- ROCE_RESPONSE (R373). -/
def doRoceResponse (dqpn : BitVec 24) (r : RoceResp) (s : State) : State :=
  if !hostUp s then s
  else
    match qpNamed s dqpn with
    | none => staleMsg .h0 s
    | some n =>
      if (qpAt s n).st ≠ 3 then s
      else
        match r with
        | .ack psn => qpAck n psn.toNat s
        | .readData psn bytes => qpReadData n psn.toNat bytes s
        | .seqNak psn =>
          let s := qpAck n (psnFrom psn.toNat 1) s
          if (qpAt s n).sent = [] then s else qpRetry n s
        | .rnrNak psn =>
          let s := qpAck n (psnFrom psn.toNat 1) s
          let k := (qpAt s n).rnrs + 1
          if rbits s .qpPath n 8 6 ≤ k then qpError n 1 s
          else qpResend n (modQp n (fun x => { x with rnrs := k }) s)
        | .errNak _ => qpError n 2 s

/-- The acknowledgement timeout of a queue pair, 4.096 µs × 2^TIMEOUT, rounded up to 0.1 µs. -/
def qpTimeout (s : State) (n : Nat) : Nat := (4096 * 2 ^ rbits s .qpPath n 13 9 + 99) / 100

/-- ROCE_ACK_TIMEOUT (R373). -/
def doRoceTimeout (n : Nat) (s : State) : State :=
  let x := qpAt s n
  if x.st ≠ 3 ∨ x.sent = [] then s else qpRetry n (atTime (x.lastT + qpTimeout s n) s)

/-- CONGESTION_NOTIFICATION (R376). -/
def doCnp (dqpn : BitVec 24) (s : State) : State :=
  if !hostUp s then s
  else
    match qpNamed s dqpn with
    | none => staleMsg .h0 s
    | some n => modQp n (fun x => { x with rate := x.rate / 2, lastCnp := some s.clock, lastRec := s.clock }) s

/-- RATE_RECOVERY (R376): 55 µs without a further notice. -/
def doRateRecovery (n : Nat) (s : State) : State :=
  let x := qpAt s n
  if 65536 ≤ x.rate then s
  else
    let s := atTime (max x.lastRec (x.lastCnp.getD 0) + us 55) s
    setQp n { x with rate := min 65536 (x.rate + 4096), lastRec := s.clock } s

/-! ### The responder (R374, R375, R385) -/

/-- The checks of R374 on a request's key: take, check, function, range, permission. `perm`: bit of `MK_CTL`. -/
def keyFits (s : State) (n : Nat) (rkey : BitVec 32) (perm : Nat) (va : BitVec 64) (len : Nat) : Bool :=
  let k := natBits 9 0 rkey.toNat
  let base := rget s .mkBaseLo k + rbits s .mkBaseHi k 15 0 * 2 ^ 32
  let size := rget s .mkLenLo k + rbits s .mkLenHi k 15 0 * 2 ^ 32
  let f := rbits s .mkCtl k 3 0
  let a := va.toNat
  rbit s .mkCtl k 4 && decide (curTake s (mkTakeKey k) = some (natBits 17 10 rkey.toNat)) &&
  decide (rbits s .mkCtl k 29 16 = natBits 31 18 rkey.toNat) && decide (qpFunc s n = some f) &&
  decide (a < 2 ^ 48) && decide (base ≤ a) && decide (a + len ≤ base + size) && rbit s .mkCtl k perm

/-- The checks of R374 on a request: its key, and R25. -/
def keyOk (s : State) (n : Nat) (rkey : BitVec 32) (perm : Nat) (va : BitVec 64) (len : Nat) : Bool :=
  keyFits s n rkey perm va len && (decide (len = 0) || extentIn s ((qpFunc s n).getD 0) va.toNat len)

/-- Answer with a `NAK`. -/
def nak (n code psn : Nat) (s : State) : State := qpEmit n (.roceNak n code psn) s

/-- A remote access error: the queue pair enters ERR with cause ACCESS (R374). `fits`: the key was in order, so R25 refused the
access, which is recorded. -/
def accessError (fits : Bool) (n psn : Nat) (va : BitVec 64) (s : State) : State :=
  qpError n 3 (nak n 2 psn (when fits (cfgEvent (.host (Fin.ofNat 16 ((qpFunc s n).getD 0))) va.toNat 25) s))

/-- A response or an atomic meets poison (R375): counted for the function, `NAK`, ERR with cause POISON, a UC-F record. -/
def poisonError (n psn a : Nat) (s : State) : State :=
  let f := (qpFunc s n).getD 0
  let s := countPoison (.host (Fin.ofNat 16 f)) f s
  event .h0 0x0A00 2 (some f) n a 375 (qpError n 4 (nak n 3 psn s))

/-- A congestion notification packet for a packet marked CE, at most one per queue pair in each 50 µs (R376). -/
def notice (b : Bth) (n : Nat) (s : State) : State :=
  let x := qpAt s n
  if !b.ce ∨ !rbit s .hpCfg 0 8 then s
  else
    match x.lastCnpSent with
    | some t => if s.clock < t + us 50 then s
      else qpEmit n (.cnp n) (setQp n { x with lastCnpSent := some s.clock } s)
    | none => qpEmit n (.cnp n) (setQp n { x with lastCnpSent := some s.clock } s)

/-- A request arrives (R371, R372): what is expected next goes to `body`, an earlier PSN to `again`, a later one is answered
with a sequence error. -/
def respond (b : Bth) (body again : Nat → State → State) (s : State) : State :=
  if !hostUp s then s
  else if !b.icrcOk then countHost .icrcErr s
  else
    match qpNamed s b.dqpn with
    | none => staleMsg .h0 s
    | some n =>
      if (qpAt s n).st ≠ 2 ∧ (qpAt s n).st ≠ 3 then s
      else
        let s := notice b n s
        let want := rget s .qpRqPsn n
        let d := psnFrom b.psn.toNat want
        if d = 0 then body n s
        else if d < 2 ^ 23 then nak n 0 want s
        else again n s

/-- What one sector of a host access came to. -/
inductive HostGot where
  | ok
  | wait
  | fenced
  deriving DecidableEq, Repr

/-- Write bytes for the host port, sector by sector. -/
def hostPut (ag : Agent) : Nat → Nat → List Byte → State → HostGot × State
  | 0, _, _, s => (.ok, s)
  | fuel + 1, a, bs, s =>
    if bs = [] then (.ok, s)
    else if engFenced s ag a then (.fenced, clearFail ag a s)
    else
      let k := 32 - a % 32
      match engWrite ag (a / 32 * 32) (byteWrite (a % 32) (bs.take k) false) s with
      | (false, s) => (.wait, s)
      | (true, s) => hostPut ag fuel (a + (bs.take k).length) (bs.drop k) s

/-- RDMA_WRITE_REQUEST (R374, R375): one packet of a write, acknowledged once it is performed. -/
def doRdmaWriteReq (b : Bth) (va : BitVec 64) (rkey : BitVec 32) (bytes : List Byte) (s : State) : State :=
  let psn := b.psn.toNat
  respond b (fun n s =>
    if !keyOk s n rkey 6 va bytes.length then accessError (keyFits s n rkey 6 va bytes.length) n psn va s
    else
      match hostPut (.host (Fin.ofNat 16 ((qpFunc s n).getD 0))) (bytes.length / 32 + 2) va.toNat bytes s with
      | (.ok, s) => qpEmit n (.roce n 0x11 psn 0 0 0 []) (rput .qpRqPsn n (psnAdd psn 1) s)
      | (.wait, s) => s
      | (.fenced, s) => nak n 3 psn s)
    (fun n s => qpEmit n (.roce n 0x11 (psnFrom (rget s .qpRqPsn n) 1) 0 0 0 []) s) s

/-- The data of a read response: bytes, whether it met poison first, and whether it met a fence; none while a sector cannot
be read. -/
def hostGet (ag : Agent) (last : Nat) : Nat → Nat → List Byte → State → Option (List Byte × Bool × Bool) × State
  | 0, _, acc, s => (some (acc, false, false), s)
  | fuel + 1, a, acc, s =>
    if last ≤ a then (some (acc, false, false), s)
    else if engFenced s ag a then (some (acc, false, true), clearFail ag a s)
    else
      match engRead ag (a / 32 * 32) s with
      | (none, s) => (none, s)
      | (some (_, true), s) => (some (acc, true, false), s)
      | (some (d, false), s) =>
        let k := min (32 - a % 32) (last - a)
        hostGet ag last fuel (a + k) (acc ++ ((bytesOf 32 d).drop (a % 32)).take k) s

/-- Send a read response packet by packet. -/
def sendResponse (n : Nat) : Nat → Nat → List Byte → State → State
  | 0, _, _, s => s
  | fuel + 1, psn, bs, s =>
    let k := qpMtu s n
    let s := qpEmit n (.roce n 0x10 psn 0 0 (min k bs.length) (bs.take k)) s
    if bs.length ≤ k then s else sendResponse n fuel (psnAdd psn 1) (bs.drop k) s

/-- Read for the host and answer. `adv`: the request is the one expected. -/
def hostRead (adv : Bool) (psn : Nat) (va : BitVec 64) (rkey : BitVec 32) (len : Nat) (n : Nat) (s : State) : State :=
  if !keyOk s n rkey 5 va len then accessError (keyFits s n rkey 5 va len) n psn va s
  else
    let ag : Agent := .host (Fin.ofNat 16 ((qpFunc s n).getD 0))
    match hostGet ag (va.toNat + len) (len / 32 + 2) va.toNat [] s with
    | (none, s) => s
    | (some (bs, poison, fenced), s) =>
      let span := max 1 ((len + qpMtu s n - 1) / qpMtu s n)
      let whole := bs.length / qpMtu s n
      if poison ∨ fenced then
        let s := when (decide (0 < whole)) (sendResponse n whole psn (bs.take (whole * qpMtu s n))) s
        if poison then poisonError n (psnAdd psn whole) (va.toNat + bs.length) s
        else nak n 3 (psnAdd psn whole) s
      else
        let s := sendResponse n span psn bs s
        when adv (rput .qpRqPsn n (psnAdd psn span)) s

/-- RDMA_READ_REQUEST (R374, R375): it sees every earlier write of its queue pair, which is performed. -/
def doRdmaReadReq (b : Bth) (va : BitVec 64) (rkey : BitVec 32) (len : BitVec 32) (s : State) : State :=
  respond b (hostRead true b.psn.toNat va rkey len.toNat) (hostRead false b.psn.toNat va rkey len.toNat) s

/-- An atomic of the host (R375), performed at its home slice; a request that is repeated gets its old answer again. A word
that is not aligned is an invalid request (PRESUMED, log entry 14). -/
def hostAtomic (b : Bth) (va : BitVec 64) (rkey : BitVec 32) (a : Atomic) (s : State) : State :=
  let psn := b.psn.toNat
  let answer (n : Nat) (old : W64) (s : State) : State := qpEmit n (.roce n 0x12 psn 0 0 8 (bytesOf 8 old)) s
  respond b (fun n s =>
    let f := (qpFunc s n).getD 0
    let ag : Agent := .host (Fin.ofNat 16 f)
    if !keyOk s n rkey 7 va 8 then accessError (keyFits s n rkey 7 va 8) n psn va s
    else if va.toNat % 8 ≠ 0 then nak n 1 psn s
    else if engFenced s ag va.toNat then nak n 3 psn (clearFail ag va.toNat s)
    else
      match locOf s va.toNat with
      | none => s
      | some l =>
        match ownReady ag none .write l.sl l.line s with
        | (false, s) => s
        | (true, s) =>
          match atomicAt l.sl l.line ag f a (va.toNat % 128) s with
          | none => s
          | some (none, s) => poisonError n psn va.toNat s
          | some (some old, s) =>
            let s := modQp n (fun x => { x with atoms := ((psn, old) :: x.atoms).take 16 }) s
            answer n old (rput .qpRqPsn n (psnAdd psn 1) s))
    (fun n s =>
      match (qpAt s n).atoms.find? (fun e => decide (e.1 = psn)) with
      | some e => answer n e.2 s
      | none => s) s

/-! ### Cut (R384) -/

/-- Queue pairs and keys of a function that is Cut, and its sessions. -/
def cutHost (f : Nat) (s : State) : State :=
  let s := forEach ((List.range 4096).filter (fun n => decide (qpFunc s n = some f))) (fun n s =>
    callAdvance (qpTakeKey n) (qpError n 5 s)) s
  let s := forEach ((List.range 1024).filter (fun k => decide (ownerField s .mkCtl k = some f))) (fun k s =>
    callAdvance (mkTakeKey k) s) s
  cutSessions f s

/-! ### The commands -/

/-- RDMA_WRITE (R261). -/
def execRdmaWrite (h : Half) (q : Fin 256) (n : BitVec 32) (s : State) : Outcome := onHalf s h (.next (doRdmaWrite h q.val n s))
/-- RDMA_READ (R261). -/
def execRdmaRead (h : Half) (q : Fin 256) (n : BitVec 32) (s : State) : Outcome := onHalf s h (.next (doRdmaRead h q.val n s))
/-- RDMA_WRITE_REQUEST (R374). -/
def execRdmaWriteRequest (b : Bth) (va : BitVec 64) (rkey : BitVec 32) (bytes : List (BitVec 8)) (s : State) : Outcome :=
  .next (doRdmaWriteReq b va rkey bytes s)
/-- RDMA_READ_REQUEST (R374). -/
def execRdmaReadRequest (b : Bth) (va : BitVec 64) (rkey : BitVec 32) (len : BitVec 32) (s : State) : Outcome :=
  .next (doRdmaReadReq b va rkey len s)
/-- FETCH_ADD (R375): `FETCH_ADD` INT64. -/
def execFetchAdd (b : Bth) (va : BitVec 64) (rkey : BitVec 32) (operand : BitVec 64) (s : State) : Outcome :=
  .next (hostAtomic b va rkey ⟨.fetchAdd, .int64, operand, 0⟩ s)
/-- CMP_SWAP (R375): `CAS` B64. -/
def execCmpSwap (b : Bth) (va : BitVec 64) (rkey : BitVec 32) (compare operand : BitVec 64) (s : State) : Outcome :=
  .next (hostAtomic b va rkey ⟨.cas, .b64, operand, compare⟩ s)
/-- ROCE_RESPONSE (R373). -/
def execRoceResponse (dqpn : BitVec 24) (r : RoceResp) (s : State) : Outcome := .next (doRoceResponse dqpn r s)
/-- ROCE_ACK_TIMEOUT (R373). -/
def execRoceAckTimeout (qp : Fin 4096) (s : State) : Outcome := .next (doRoceTimeout qp.val s)
/-- CONGESTION_NOTIFICATION (R376). -/
def execCongestionNotification (dqpn : BitVec 24) (s : State) : Outcome := .next (doCnp dqpn s)
/-- RATE_RECOVERY (R376). -/
def execRateRecovery (qp : Fin 4096) (s : State) : Outcome := .next (doRateRecovery qp.val s)

end Sys2Proof.Machine
end

