-- ==== Sys2Proof/Machine/Regul.lean ====
section
/-! DEFINITION. Regulators: windows, misses and their causes, admission of guarantees, bindings, Cuts (R314–R332). Their
counting stands in `Machine/Gov.lean`. -/

namespace Sys2Proof.Machine

open Sys2Proof

/-- The regulator's block takes its committed set, and its cap, at a window boundary (R17, R321). -/
def regulTake (q : Nat) (s : State) : State :=
  let s := groupTake (regulHalf q) (.reg (Fin.ofNat 128 q)) s
  { s with regs := s.regs.take s.part [(.regCap, q)] }

/-! ### Partitions on stacks (R33, R324) -/

/-- A mapped segment of a partition. -/
def partSegs1 (s : State) (p : Nat) : Option Nat :=
  (listedSegs s).find? (fun g => decide (segMode s g ≠ 0) && decide (segPart s g = p))

/-- How a partition is spread: none for uniform, else the half it is near. On MB1 every partition is near H0. -/
def partNear (s : State) (p : Nat) : Option Half :=
  match s.part with
  | .mb1 => some .h0
  | .mb2 =>
    match partSegs1 s p with
    | some g => if segMode s g = 2 then some (Half.ofBit (rbits s .segMap g 13 13)) else none
    | none => none

/-- A stack holds memory of a partition. -/
def partOnStack (s : State) (p k : Nat) : Bool :=
  (partSegs1 s p).isSome && (match partNear s p with
    | none => true
    | some h => decide (halfOf 8 k = h))

/-! ### Windows and misses (R321, R329, R330) -/

/-- What troubles the stacks of a partition now: 3 fenced, 2 in band 1 or above, 1 neither (R330). -/
def partTrouble (s : State) (p since : Nat) : Nat :=
  let ks := (List.range (8 * numHalves s)).filter (partOnStack s p)
  if ks.any (fun k => decide ((stackAt s k).fence ≠ 0) || (decide (since ≤ (stackAt s k).fenceT) && decide (0 < (stackAt s k).fenceT)) ||
      (decide (halfOf 8 k = .h1) && farGone s)) then 3
  else if ks.any (fun k => decide (1 ≤ (stackAt s k).band)) then 2
  else 1

/-- A miss is recorded (R330). -/
def noteMiss (q cause : Nat) (late : Bool) (s : State) : State :=
  let h := regulHalf q
  let s := modRegul q (fun x => { x with
    miss := true, missCause := cause, missLate := late, missCount := min (2 ^ 16 - 1) (x.missCount + 1) }) s
  let s := emit (.irq h q) s
  let s := when (rbit s .regCue q 31) (signalNum h (rbits s .regCue q 12 0) 1) s
  event h 0x0701 0 (regulFunc s q) (q % 128) 0 cause s

/-- Accesses that a cap held are issued (R320). -/
def releaseHeld (q : Nat) (s : State) : State :=
  let l := (regulAt s q).held
  forEach l (fun r s =>
    match r.kind with
    | .own accs =>
      homeArrive { r with kind := .own (accs.map (fun a => { a with t := s.clock })), t := s.clock }
        (forEach accs (fun a => govIssue a.reg) s)
    | _ => homeArrive { r with t := s.clock } s) (modRegul q (fun x => { x with held := [] }) s)

/-- WINDOW_BOUNDARY (R321): the closing window is judged, its count written, and the next one starts with the committed
set. -/
def doWindowBoundary (q : Nat) (s : State) : State :=
  let x0 := regulAt s q
  if !x0.active then s
  else
    let w := regulWindow s q
    let s := atTime (x0.winStart + us w) s
    let x := if x0.outstanding = 0 then x0 else regulBusy s.clock x0
    let demanding := decide (9 * w ≤ 10 * min w x.busyUs)
    let cls := regulClass s q
    let latMiss := decide (cls = 2) && decide (natBits 23 16 (regulSet s .regLat q) * x.reads < 256 * x.lates)
    let bwMiss := demanding && decide (x.count / 64 < regulSet s .regGuar q)
    let cause := max x.worst (partTrouble s (regulPart s q) (x.winStart + 1))
    let s := setRegul q { x with
      winStart := s.clock, count := 0, busyUs := 0, busyLast := 0, reads := 0, lates := 0, deliv := x.count / 64
      demanding := demanding } s
    let s := when (decide (cls ≠ 0) && (bwMiss || latMiss)) (noteMiss q cause latMiss) s
    let s := regulTake q s
    let s := modRegul q (fun x => { x with worst := partTrouble s (regulPart s q) (s.clock + 1) }) s
    releaseHeld q s

/-- The effect of a commit of a regulator's group (R17, R321): the first starts its windows, and its set is taken at
once. -/
def regCommitAct (q : Nat) (s : State) : State :=
  if (regulAt s q).active then s
  else
    let s := regulTake q s
    setRegul q { regulAt s q with
      active := true, winStart := s.clock, worst := partTrouble s (regulPart s q) (s.clock + 1) } s

/-! ### Admission (R323–R327) -/

/-- A guarantee: class, declared access class, direction, partition, bytes per window in 64 B units, window in µs. -/
structure Guarantee where
  cls : Nat
  acls : Nat
  dir : Nat
  part : Nat
  guar : Nat
  window : Nat
  deriving DecidableEq, Repr

/-- The guarantee in a regulator's committed set. -/
def guaranteeOf (s : State) (q : Nat) : Guarantee :=
  { cls := rbits s .regCfg q 1 0, acls := rbits s .regCfg q 4 2, dir := rbits s .regCfg q 5 5, part := rbits s .regCfg q 13 8
    guar := rget s .regGuar q, window := min 1000 (max 1 (rbits s .regWindow q 9 0)) }

/-- The efficiency of an access class in thousandths (R323). -/
def effOf (a : Nat) : Nat := [323, 647, 970, 970, 776, 162, 162, 388].getD a 323

/-- What a substitution makes of a stack's share (R465): 16 slices and those that it stands in for; nothing on the stack that is
substituted. -/
def subShare (s : State) (k : Nat) : Rat :=
  let d := deg s (halfOf 8 k)
  let from_ := 16 * (8 * (halfOf 8 k).num + d.subStack)
  if !d.subValid then 1
  else if k % 8 = d.subStack then 0
  else (16 + ((List.range 16).filter (fun j => decide (substitute s (from_ + j) = some (16 * k + j)))).length : Nat) / 16

/-- The load of a guarantee on a stack, as a fraction (R324, R465). -/
def loadOn (s : State) (g : Guarantee) (k : Nat) : Rat :=
  let phi : Rat :=
    match s.part, partNear s g.part with
    | .mb2, none => 1 / 16
    | _, some h => if halfOf 8 k = h then 1 / 8 else 0
    | _, none => 1 / 8
  (64 * g.guar : Nat) / (g.window : Nat) * (phi * subShare s k) / ((effOf g.acls * 32768 * 100 : Nat) / 1000)

/-- What a guarantee moves over Zoram towards a half, as a fraction of 32.8 TB/s (R325). -/
def zoramOn (s : State) (q : Nat) (g : Guarantee) (side : Half) : Rat :=
  if s.part = .mb1 then 0
  else
    let chi : Rat := match partNear s g.part with
      | none => 1 / 2
      | some h => if h = regulHalf q then 0 else 1
    let reads := decide (g.acls ≤ 1) || ((decide (g.acls = 2) || decide (g.acls = 3)) && decide (g.dir = 0))
    let share : Rat :=
      if g.acls = 4 then 1 / 2
      else if reads then (if side = regulHalf q then 1 else 0)
      else (if side = regulHalf q then 0 else 1)
    (64 * g.guar : Nat) / (g.window : Nat) * chi * share / (32800000 : Nat)

/-- The admitted guarantees, one of them left out. -/
def admittedBut (s : State) (out : Option Nat) : List (Nat × Guarantee) :=
  s.reg.filterMap (fun e =>
    if e.2.admitted && !e.2.unadmitted && decide (some e.1 ≠ out) then some (e.1, guaranteeOf s e.1) else none)

def sumRat (l : List Rat) : Rat := l.foldl (· + ·) 0

/-- The sums over a set of guarantees. -/
def stackSum (s : State) (l : List (Nat × Guarantee)) (k : Nat) : Rat := sumRat (l.map (fun e => loadOn s e.2 k))
def highSum (s : State) (l : List (Nat × Guarantee)) (k : Nat) : Rat :=
  stackSum s (l.filter (fun e => decide (e.2.cls = 3))) k
def zoramSum (s : State) (l : List (Nat × Guarantee)) (side : Half) : Rat := sumRat (l.map (fun e => zoramOn s e.1 e.2 side))

/-- The budgets of `ADMIT_CFG` in %. -/
def admitPct (s : State) : Nat := min 95 (rbits s .admitCfg 0 6 0)
def highPct (s : State) : Nat := min (admitPct s) (rbits s .admitCfg 0 14 8)

/-- The stacks that count: all of them, or those that remain (R327). -/
def loadStacks (s : State) (remaining : Bool) : List Nat :=
  (List.range (8 * numHalves s)).filter (fun k => !remaining || !stackGone s k)

/-- Checks 1 to 3 of R325 over a set of guarantees. -/
def fits (s : State) (l : List (Nat × Guarantee)) (remaining : Bool) : Bool :=
  (loadStacks s remaining).all (fun k =>
    decide (stackSum s l k * 100 ≤ (admitPct s : Nat)) && decide (highSum s l k * 100 ≤ (highPct s : Nat))) &&
  decide (zoramSum s l .h0 * 100 ≤ (admitPct s : Nat)) && decide (zoramSum s l .h1 * 100 ≤ (admitPct s : Nat))

/-- Check 4 of R325: the latency target in 4 ns units. -/
def latOk (s : State) (q : Nat) (g : Guarantee) (lat : Nat) : Bool :=
  decide (g.cls ≠ 2) || decide ((if s.part = .mb1 ∨ partNear s g.part = some (regulHalf q) then 280 else 315) ≤ 4 * lat)

/-- A fraction in 0.1 % units, to the nearest, as the manual's worked example rounds. -/
def permille (r : Rat) : Nat := (r * 1000 + 1 / 2).floor.toNat

/-- The loads that `STACK_LOAD` and `ZORAM_LOAD` show. -/
def stackLoadVal (s : State) (k : Nat) : Nat :=
  min 1023 (permille (stackSum s (admittedBut s none) k)) + min 1023 (permille (highSum s (admittedBut s none) k)) * 2 ^ 16
def zoramLoadVal (s : State) : Nat :=
  min 1023 (permille (zoramSum s (admittedBut s none) .h0)) + min 1023 (permille (zoramSum s (admittedBut s none) .h1)) * 2 ^ 16

/-- The highest load over the stacks, for the result of `REG_SET`. -/
def worstLoad (s : State) : Nat := ((loadStacks s false).map (fun k => stackLoadVal s k % 2 ^ 16)).foldl max 0

/-- Set a regulator's guarantee (R325): none when a check fails. The fields are written and their group is committed (R17). -/
def setGuarantee (q : Nat) (g : Guarantee) (lat late : Nat) (s : State) : Option State :=
  if g.cls ≠ 0 ∧ !(fits s ((q, g) :: admittedBut s (some q)) false && latOk s q g lat) then none
  else
    let s := putField .regCfg q (g.cls + 4 * g.acls + 32 * g.dir + 256 * g.part) s
    let s := putField .regWindow q g.window (putField .regGuar q g.guar s)
    let s := groupApply (halfOf 128 q) (.reg (Fin.ofNat 128 q)) (putField .regLat q (lat + late * 2 ^ 16) s)
    some (regCommitAct q (modRegul q (fun x => { x with admitted := decide (g.cls ≠ 0), unadmitted := false }) s))

/-- The regulator's loads are released (R326). -/
def releaseLoads (q : Nat) (s : State) : State := modRegul q (fun x => { x with admitted := false, unadmitted := false }) s

/-- The effect of a write to `REG_OWNER`: a change releases the regulator's loads (R326, R332). -/
def regOwnerAct (q new : Nat) (s : State) : State :=
  if rget s .regOwner q = new then s else releaseLoads q (rput .regOwner q new s)

/-- The removal of a partition releases the loads of the regulators that name it (R326). -/
def releasePart (p : Nat) (s : State) : State :=
  forEach s.reg (fun e s => when (e.2.admitted && decide ((guaranteeOf s e.1).part = p)) (releaseLoads e.1) s) s

/-- The admission is repeated after the base entered a degraded operation (R327): regulators in order, each against those
before it that fit. A guarantee whose partition is held does not survive and is left as it is. -/
def readmit (s : State) : State :=
  let survives (e : Nat × Guarantee) : Bool :=
    match partSegs1 s e.2.part with
    | some g => !rbit s .segMap g 14
    | none => false
  let go := (s.reg.filterMap (fun e => if e.2.admitted then some (e.1, guaranteeOf s e.1) else none)).filter survives
  let r := go.foldl (fun (acc : List (Nat × Guarantee) × List Nat) e =>
    if fits s (acc.1 ++ [e]) true then (acc.1 ++ [e], acc.2) else (acc.1, acc.2 ++ [e.1])) ([], [])
  forEach r.2 (fun q s =>
    event (regulHalf q) 0x0701 0 (regulFunc s q) (q % 128) 0 0 (modRegul q (fun x => { x with unadmitted := true }) s)) s

/-! ### Bindings (R315) -/

/-- The effect of a write to a binding field. -/
def bindAct (r : Reg) (i new : Nat) (s : State) : State :=
  let s := rput r i new s
  match r with
  | .arrReg0 =>
    let h := halfOf 64 i
    forEach [0, 8, 16, 24] (fun lo s => bindEvent h (bindOf h new lo) (arrayFunc s h (i % 64)) s) s
  | .arrReg1 =>
    let h := halfOf 64 i
    forEach [0, 8] (fun lo s => bindEvent h (bindOf h new lo) (arrayFunc s h (i % 64)) s) s
  | .guestReg => bindEvent (halfOf 2 i) (bindOf (halfOf 2 i) new 0) (some (siteFunc s i)) s
  | .hostReg => bindEvent .h0 (bindOf .h0 new 0) (some (i % 16)) s
  | .remoteReg => bindEvent (halfOf 16 i) (bindOf (halfOf 16 i) new 0) (some (i % 16)) s
  | _ => s

/-! ### Cuts (R331) -/

/-- A Cut clears the miss state, the count, the cap and the miss cue of a function's regulators. -/
def cutReguls (f : Nat) (s : State) : State :=
  forEach ((List.range (128 * numHalves s)).filter (fun q => decide (regulFunc s q = some f))) (fun q s =>
    let s := rput .regCap q 0 (rput .regCue q 0 s)
    modRegul q (fun x => { x with miss := false, missCause := 0, missLate := false, missCount := 0, deliv := 0 }) s) s

/-! ### Commands -/

/-- WINDOW_BOUNDARY (R321). -/
def execWindowBoundary (h : Half) (q : Fin 128) (s : State) : Outcome :=
  onHalf s h (.next (doWindowBoundary (128 * h.num + q.val) s))

end Sys2Proof.Machine
end

