-- ==== Sys2Proof/Machine/Measure.lean ====
section
/-! DEFINITION. Measurements (R443, R444): the four registers and the log of their extends. -/

namespace Sys2Proof.Machine

open Sys2Proof

/-- A log entry (R444). -/
def measEntry (i r kind : Nat) (f : Option Nat) (t : Nat) (d detail : List Byte) : List Byte :=
  natLe 4 i ++ natLe 1 r ++ natLe 1 kind ++ natLe 1 (f.getD 255) ++ natLe 1 0 ++ natLe 8 t ++ slice 0 64 d ++ slice 0 16 detail

/-- Entry `i` of the log goes to memory; before memory is in service it stays in SRAM. -/
def measStore (i : Nat) (e : List Byte) (s : State) : State := fwPut (mlogBase s + 96 * i) e s

/-- An extend of register `r` (R443): the register, the count, and an entry of the log while it has room. -/
def measure (r kind : Nat) (f : Option Nat) (d detail : List Byte) (s : State) : State :=
  let id := s.ident
  let v : W512 := ofBytes 512 (shake 64 (bytesOf 64 (id.meas.getD r 0) ++ d))
  let e := measEntry id.extends_ r kind f (timeUs s .h0) d detail
  let full := decide (65536 ≤ id.mlog.length)
  let new := { id with
    meas := id.meas.set r v, extends_ := id.extends_ + 1, logFull := id.logFull || full
    mlog := if full then id.mlog else id.mlog ++ [e] }
  let s := { s with ident := new }
  if full ∨ id.bootState = 0 then s else measStore id.mlog.length e s

end Sys2Proof.Machine
end

