-- ==== Sys2Proof/Machine/Zoram.lean ====
section
/-! DEFINITION. The Zoram die link: Splice maps, training, frames and LINK flits, the bundle lists, sideband lanes and their
messages, capability negotiation, eye scans, and guest sites up to their fence (R333–R358, R362–R365). -/

namespace Sys2Proof.Machine

open Sys2Proof

/-! ### Sideband messages (R347) -/

/-- The key of a lane, and of the attachment that keeps its messages. -/
def sbKey : SbRef → Nat
  | .half h l => 2 * h.num + l
  | .site g => 8 + g
def sbAttach : SbRef → SbRef
  | .half h _ => .half h 0
  | .site g => .site g
def sbAt (s : State) (k : Nat) : SbSt := s.zor.sbs.getD k SbSt.init
def setSb (k : Nat) (x : SbSt) (s : State) : State := { s with zor := { s.zor with sbs := s.zor.sbs.insert k x } }
def modSb (k : Nat) (f : SbSt → SbSt) (s : State) : State := setSb k (f (sbAt s k)) s
def sbHalf : SbRef → Half
  | .half h _ => h
  | .site g => halfOf 2 g

/-- The CRC-16 of a message: over its type, its length and its payload (R347). -/
def sbCrc (m : SbMsg) : Nat := crc16 (m.ty :: BitVec.ofNat 8 m.payload.length :: m.payload)

/-- The lane on which a side sends: the lowest one active (R347); none when its sideband is not up. -/
def sbLane (s : State) : SbRef → Option SbRef
  | .half h _ => ([0, 1] : List (Fin 2)).findSome? (fun l =>
      if (sbAt s (2 * h.other.num + l.val)).active then some (.half h l) else none)
  | .site g => if (sbAt s (8 + g)).active then some (.site g) else none

/-- Send a sideband message; every message but `ACK` (type 1) is kept until it is acknowledged. -/
def sideSend (from_ : SbRef) (ty : Nat) (payload : List Byte) (s : State) : State :=
  match sbLane s from_ with
  | none => s
  | some l =>
    let m : SbMsg := ⟨BitVec.ofNat 8 ty, payload⟩
    let s := emit (.side l ty payload) s
    if ty = 1 then s else modSb (sbKey (sbAttach from_)) (fun x => { x with sent := x.sent ++ [(m, 1, s.clock)] }) s

/-- A message that was received is answered with an `ACK` of its type and CRC, where the sideband is up (R347). -/
def sideGot (on : SbRef) (ty : Nat) (payload : List Byte) (s : State) : State :=
  sideSend (sbAttach on) 1 (BitVec.ofNat 8 ty :: natLe 2 (sbCrc ⟨BitVec.ofNat 8 ty, payload⟩)) s

/-- A message from one half to the other and its `ACK`, where both halves take part in one command. -/
def sideTold (h : Half) (ty : Nat) (payload : List Byte) (s : State) : State :=
  match sbLane s (.half h 0) with
  | none => s
  | some l => sideGot (.half h.other 0) ty payload (emit (.side l ty payload) s)

/-! ### Splice maps (R334–R336, R357) -/

/-- The lanes that a map marks bad. -/
def badLanes (m : BitVec 528) : List Nat := (List.range 528).filter (fun i => natBit i m.toNat)

/-- The width that a direction's map and clock give (R334, R335): 2 full, 3 half, 4 disabled. -/
def dirWidth (m : BitVec 528) (clockOk : Bool) : Nat :=
  let good := 528 - (badLanes m).length
  if !clockOk then 4 else if 512 ≤ good then 2 else if 256 ≤ good then 3 else 4

/-- Both directions run at the narrower width (R335). -/
def pairWidth (a b : Nat) : Nat := max a b

/-- What the training of one direction gives: its final map, the repeats, whether the union rule set it. -/
structure DirFinal where
  map : BitVec 528
  repeats : Nat
  union : Bool
  deriving DecidableEq, Repr

/-- The receiver's view in an attempt: its assembly map with the lanes that fail its test (R336). -/
def rxViewAt (asm : BitVec 528) (t : DirTraining) (i : Nat) : BitVec 528 := asm ||| t.fails.getD i (t.fails.getLastD 0)

/-- Settle a direction (R336, R357): the views compared, up to three repeats, then the union. -/
def settleDir (asm drv : BitVec 528) (t : DirTraining) : DirFinal :=
  match [0, 1, 2, 3].find? (fun i => decide (rxViewAt asm t i = drv)) with
  | some i => ⟨drv, i, false⟩
  | none => ⟨rxViewAt asm t 3 ||| drv, 3, true⟩

/-- The slots with a message's flits among those of frames. -/
def payloadSlots (l : List (BitVec 16 × List ZSlot)) : List ZSlot := l.flatMap (fun e => e.2.filter (fun sl => (slotZc sl).isSome))

/-- A bundle's end after a training: frames are numbered from 0, credits start from the receive buffers (R337, R340). Flits
of frames that the far end has not accepted are sent again in the first frames, and a message that has begun to arrive goes
on with them (DESIGN CHOICE, log entry 96). -/
def trainedEnd (x : BundleSt) (f : DirFinal) (tx : BitVec 528) (w t : Nat) (clockOk : Bool) : BundleSt :=
  { x with
    st := w, bad := f.map, txBad := tx, clockFail := !clockOk, union := f.union, rxNext := 0, rxNak := false, txNext := 0
    txAcked := 0, nakTimes := [], lastAdvance := t, credits := (List.range 5).map (fun c => (c, zBuf c)), freed := []
    framesSinceAck := 0, peerRx := 0, resend := payloadSlots x.replay ++ x.resend, replay := [] }

/-- Each bad lane outside the assembly map is recorded, as is a map set by the union rule (R336, R357). -/
def recordLanes (h : Half) (index : Nat) (f : DirFinal) (asm : BitVec 528) (s : State) : State :=
  let s := forEach (badLanes (f.map &&& ~~~ asm)) (fun l s => eventD h 0x0901 1 none index 0 336 l s) s
  when f.union (event h 0x0901 1 none index 0 357) s

/-- The number that a sideband message gives a bundle, and the direction that its end receives: 1 towards H0 or the base, 0 the
other way (DESIGN CHOICE, log entry 97). -/
def bundleNum : BundleRef → Nat
  | .z _ n => n.val
  | .site _ c => c.val
def inDir : BundleRef → Nat
  | .z h _ => b2n (decide (h = .h0))
  | .site _ _ => 1

/-- The attachment's sideband, as the bundle's end sees it. -/
def bundleSb : BundleRef → SbRef
  | .z h _ => .half h 0
  | .site g _ => .site g

/-- A `SPLICE`: a bundle, a direction, a view and its CRC (R336, R347). -/
def spliceBytes (b : BundleRef) (dir : Nat) (view : BitVec 528) : List Byte :=
  [BitVec.ofNat 8 (bundleNum b), BitVec.ofNat 8 dir] ++ bytesOf 66 view ++ natLe 4 (crc32 (bytesOf 66 view))

/-- A message about a bundle from its end: between the halves within the command that trains both ends. -/
def bundleTell (b : BundleRef) (ty : Nat) (payload : List Byte) (s : State) : State :=
  match b with
  | .z h _ => sideTold h ty payload s
  | .site _ _ => sideSend (bundleSb b) ty payload s

/-- What a training says about the direction that an end receives (R336, R357): at each attempt the receiver's view and the
transmitter's answer, and the final map where it is the union of the two. A guest answers with its own message. -/
def sendViews (b : BundleRef) (asm drv : BitVec 528) (t : DirTraining) (f : DirFinal) (s : State) : State :=
  let far (view : BitVec 528) (s : State) : State := match b with
    | .z h _ => sideTold h.other 0x07 (spliceBytes b (inDir b) view) s
    | .site _ _ => s
  let s := forEach (List.range (f.repeats + 1)) (fun i s =>
    far drv (bundleTell b 0x07 (spliceBytes b (inDir b) (rxViewAt asm t i)) s)) s
  when f.union (fun s => far f.map (bundleTell b 0x07 (spliceBytes b (inDir b) f.map) s)) s

/-- A `BUNDLE_STATE` (R343, R347): the state, the last frame accepted and the last that the far end acknowledged. -/
def stateBytes (b : BundleRef) (st : Nat) (rxNext txAcked : BitVec 16) : List Byte :=
  [BitVec.ofNat 8 (bundleNum b), BitVec.ofNat 8 st] ++ natLe 2 (rxNext - 1).toNat ++ natLe 2 (txAcked - 1).toNat

/-- A bundle whose state a training changed is reported; one that left service with what it had accepted. -/
def reportBundle (b : BundleRef) (was : BundleSt) (s : State) : State :=
  let x := bundleAt s (bundleKey b)
  if x.st = was.st then s
  else if bundleUp x then bundleTell b 0x08 (stateBytes b x.st x.rxNext x.txAcked) s
  else bundleTell b 0x08 (stateBytes b x.st was.rxNext was.txAcked) s

/-- No lane passes and no clock: a direction about which nothing is reported. -/
def deadDir : DirTraining := ⟨[BitVec.allOnes 528], false⟩

/-- Train bundle n between the halves: what H0 receives and what H1 receives. The repeats come with the state. Each receiver
sends its views; frames that the far end accepted are not sent again. -/
def trainZ (n : Nat) (d0 d1 : DirTraining) (s : State) : Nat × State :=
  let y0 := bundleAt s n
  let y1 := bundleAt s (16 + n)
  let x0 := { y0 with replay := y0.replay.filter (fun e => !seqLe e.1 (y1.rxNext - 1)) }
  let x1 := { y1 with replay := y1.replay.filter (fun e => !seqLe e.1 (y0.rxNext - 1)) }
  let f0 := settleDir x0.assembly x0.driverBad d0
  let f1 := settleDir x1.assembly x1.driverBad d1
  let w := pairWidth (dirWidth f0.map d0.clockOk) (dirWidth f1.map d1.clockOk)
  let s := setBundle n (trainedEnd x0 f0 f1.map w s.clock d0.clockOk) s
  let s := setBundle (16 + n) (trainedEnd x1 f1 f0.map w s.clock d1.clockOk) s
  let s := recordLanes .h0 n f0 x0.assembly (recordLanes .h1 n f1 x1.assembly s)
  let b0 : BundleRef := .z .h0 (Fin.ofNat 16 n)
  let b1 : BundleRef := .z .h1 (Fin.ofNat 16 n)
  let s := sendViews b0 x0.assembly x0.driverBad d0 f0 (sendViews b1 x1.assembly x1.driverBad d1 f1 s)
  (max f0.repeats f1.repeats, reportBundle b0 y0 (reportBundle b1 y1 s))

/-- Count the repeats of R357 at both halves. -/
def addMismatches (n : Nat) (s : State) : State :=
  let add (h : Half) (m : NMap Nat) : NMap Nat := m.insert h.num (min 255 (m.getD h.num 0 + n))
  { s with zor := { s.zor with mismatches := add .h1 (add .h0 s.zor.mismatches) } }

/-- A half applies its list of bundles up. -/
def applyList (h : Half) (s : State) : State :=
  match h with
  | .h0 => { s with zor := { s.zor with upList0 := bundlesUp s .h0 } }
  | .h1 => { s with zor := { s.zor with upList1 := bundlesUp s .h1 } }

/-- Train all 16 bundles (R356–R358): at least 12 up make the base whole. -/
def trainAll (dirs : List (DirTraining × DirTraining)) (s : State) : State :=
  let r := (List.range 16).foldl (fun (acc : Nat × State) n =>
    let d := dirs.getD n (deadDir, deadDir)
    let t := trainZ n d.1 d.2 acc.2
    (max acc.1 t.1, t.2)) (0, s)
  let s := addMismatches r.1 r.2
  let s := applyList .h0 (applyList .h1 s)
  if 12 ≤ (bundlesUp s .h0).length then { s with zor := { s.zor with halves := 1 } } else s

/-! ### Sideband lanes (R348–R351) -/

/-- A sideband starts at stage 1 (R348, R349): taps at c−1 = 0 and c+1 = 4. -/
def startSb (s0 : SbRef) (s : State) : State :=
  modSb (sbKey s0) (fun x => { x with
    stage := 1, stageT := s.clock, los := false, lol := false, active := false, tapPre := 0, tapPost := 4, txPre := 0
    txPost := 4, txLimits := 0, sent := [], ts1Count := 0, peerOrient := none }) s

/-! ### Guest sites: waits and fence (R363) -/

/-- The waits of a site's guest on cues are dropped. -/
def withdrawSite (g : Nat) (s : State) : State :=
  let mine (w : Waiter) : Bool := match w with
    | .site g' _ => decide (g' = g)
    | _ => false
  { s with
    cues := s.cues.map (fun kc => (kc.1, { kc.2 with waits := kc.2.waits.filter (fun w => !mine w.who) }))
    zor := { s.zor with xWaits := s.zor.xWaits.filter (fun kw => !mine kw.2) } }

def siteTagKey (g : Nat) : Nat := takeKey (.siteTag (Fin.ofNat 4 g))

/-- The requests of a site's guest that are outstanding in the base complete and their answers are discarded: those that
wait for a line leave its queue, those in progress answer nobody. -/
def dropSiteReqs (g : Nat) (s : State) : State :=
  let mine (r : HReq) : Bool := match r.hd with
    | some hd => decide (hd.src = .site (Fin.ofNat 4 g))
    | none => false
  { s with coh := { s.coh with lineQ := s.coh.lineQ.map (fun e => (e.1, e.2.filter (fun r => !mine r))) } }

/-- Fence a guest site (R363): its messages are discarded, its requests complete, its copies are lost, its waits dropped, its
takes advance, `FENCE_NOTICE` is sent where the sideband works. Causes: 1 LINK, 2 SNOOP, 3 VIOLATION, 4 COMMAND. -/
def fenceSite (g cause : Nat) (s : State) : State :=
  let x := siteAt s g
  if x.st = 0 ∨ x.st = 3 then s
  else
    let h := halfOf 2 g
    let gf : Fin 4 := Fin.ofNat 4 g
    let s := sideSend (.site gf) 0x0A [BitVec.ofNat 8 cause] s
    let s := setSite g { x with st := 3, cause := cause, violTimes := [] } s
    let s := forEach [0, 1, 2, 3] (fun b s => modBundle (64 + 4 * g + b) (fun y => { y with
      st := 0, rxq := [], part := [], txq := [], frame := [], replay := [], resend := [], linkDue := [] }) s) s
    let s := dropHolder (.site gf) (dropSiteReqs g s)
    let s := callAdvance (siteTagKey g) (withdrawSite g s)
    event h 0x0903 2 (some (siteFunc s g)) (g % 2) 0 cause s

/-- The bundles of a site below which it is fenced (R365). -/
def minBundles (s : State) (g : Nat) : Nat :=
  let n := rbits s .gsCtl g 10 8
  if 1 ≤ n ∧ n ≤ 4 then n else 1

/-- A site's bundles that are up. -/
def siteUp (s : State) (g : Nat) : Nat := ((List.range 4).filter (fun b => bundleUp (bundleAt s (64 + 4 * g + b)))).length

/-- After a change of a site's bundles: BRINGUP becomes ACTIVE once its sideband is in stage 5 and enough bundles are up;
ACTIVE is fenced with LINK when too few are (R363). -/
def siteCheck (g : Nat) (s : State) : State :=
  let x := siteAt s g
  let n := siteUp s g
  if x.st = 1 ∧ (sbAt s (8 + g)).stage = 5 ∧ minBundles s g ≤ n then
    let f := siteFunc s g
    let d := shake 64 (x.capRec ++ [BitVec.ofNat 8 g, BitVec.ofNat 8 f])
    measure 3 7 (some f) d x.capRec (setSite g { x with st := 2 } s)
  else if x.st = 2 ∧ n < minBundles s g then fenceSite g 1 s
  else s

/-- A sideband starts again at stage 1 (R348, R350): counted and recorded; a guest site in use is fenced with LINK. -/
def restartSb (s0 : SbRef) (s : State) : State :=
  let s := modSb (sbKey s0) (fun x => { x with restarts := min 255 (x.restarts + 1) }) s
  let s := startSb s0 (ruleEvent (sbHalf s0) 9 348 (sbKey s0) 0 none s)
  match s0 with
  | .site g => if (siteAt s g.val).st = 2 then fenceSite g.val 1 s else s
  | .half _ _ => s

/-- H1 acknowledged the `GF_GRANT` that H0 sent: H0 applies the grant that waited (R416). -/
def grantAcked (s : State) : State :=
  match s.pwr.gaf0.pendGrant with
  | some g =>
    let p := s.pwr
    { s with pwr := { p with gaf0 := { p.gaf0 with grant := g, pendGrant := none } } }
  | none => s

/-- SB_ACK (R347): the message with this type and CRC is acknowledged. -/
def doSbAck (s0 : SbRef) (ty : BitVec 8) (crc : BitVec 16) (s : State) : State :=
  let k := sbKey (sbAttach s0)
  let is (e : SbMsg × Nat × Nat) : Bool := decide (e.1.ty = ty) && decide (sbCrc e.1 = crc.toNat)
  let there := (sbAt s k).sent.any is
  let s := modSb k (fun x => { x with sent := x.sent.eraseP is }) s
  if there && decide (k = 0) && decide (ty = 0x19) then grantAcked s else s

/-- SIDEBAND_RESEND (R347): the oldest message without an acknowledgement is repeated 10 µs after its last send; after eight
sends the sideband restarts. -/
def doSbResend (s0 : SbRef) (s : State) : State :=
  let k := sbKey (sbAttach s0)
  match (sbAt s k).sent with
  | [] => s
  | (m, n, t) :: rest =>
    let s := atTime (t + us 10) s
    if 8 ≤ n then restartSb s0 (modSb k (fun x => { x with sent := [] }) s)
    else
      match sbLane s s0 with
      | none => restartSb s0 (modSb k (fun x => { x with sent := [] }) s)
      | some l => emit (.side l m.ty.toNat m.payload) (modSb k (fun x => { x with sent := (m, n + 1, s.clock) :: rest }) s)

/-- The latest times of the stages (R348). -/
def stageLimit (st : Nat) : Nat := if st = 1 then us 10 else if st = 2 then ms 1 else if st = 3 then ms 2 else ms 3

/-- SIDEBAND_STAGE_TIMEOUT (R348). -/
def doSbStageTimeout (s0 : SbRef) (s : State) : State :=
  let x := sbAt s (sbKey s0)
  if 1 ≤ x.stage ∧ x.stage ≤ 4 then restartSb s0 (atTime (x.stageT + stageLimit x.stage) s) else s

/-- The base's own capability record (R352). The vendor, product and revision codes of the die are not given (log entry
1). -/
def ownCap (s0 : SbRef) (s : State) : List Byte × State :=
  let v := freeNat 40 s
  let h := sbHalf s0
  let between : Bool := match s0 with
    | .half _ _ => true
    | .site _ => false
  ([2#8, BitVec.ofNat 8 h.num, BitVec.ofNat 8 (if between then 16 else 4), BitVec.ofNat 8 (if between then 8 else 15), 3#8, 0#8] ++
    natLe 2 4096 ++ natLe 5 v.1 ++ [BitVec.ofNat 8 h.num, 0#8, 0#8], v.2)

/-- TS1 (R348, R355): eight training sets in a row with lock end stage 3, and the capability record is sent. Between the
halves, the same ORIENT on both sides refuses the base. -/
def doTs1 (s0 : SbRef) (orient locked : Bool) (s : State) : State :=
  let x := sbAt s (sbKey s0)
  let conflict : Bool := match s0 with
    | .half h _ => decide (orient = decide (h = .h1))
    | .site _ => false
  if x.stage = 0 ∨ 4 ≤ x.stage then s
  else if conflict then
    event .h0 0x0002 3 none 0 0 355 { s with
      ident := { s.ident with orientConflict := true, refused := true }
      zor := { s.zor with halves := 0 } }
  else
    let n := if locked then x.ts1Count + 1 else 0
    let st := if 8 ≤ n then 4 else if 1 ≤ n then 3 else 2
    let s := setSb (sbKey s0) { x with
      stage := st, ts1Count := n, peerOrient := some orient, active := decide (st = 4) } s
    if st = 4 then
      let c := ownCap s0 s
      sideSend (sbAttach s0) 0x05 c.1 c.2
    else s

/-- A tap request's code (R347). -/
def tapCode : TapReq → Byte
  | .hold => 0
  | .inc => 1
  | .dec => 2

/-- One tap after a request, and whether it stands at its limit (R349). -/
def tapStep (r : TapReq) (v limit : Nat) : Nat × Bool :=
  match r with
  | .hold => (v, false)
  | .inc => if v < limit then (v + 1, false) else (v, true)
  | .dec => if 0 < v then (v - 1, false) else (v, true)

/-- TAP_REQ (R349): applied and answered. c0 is 48 − c−1 − c+1; a request for it that the other taps do not bring about meets
its limit (DESIGN CHOICE). -/
def doTapReq (s0 : SbRef) (pre post main : TapReq) (s : State) : State :=
  let x := sbAt s (sbKey s0)
  if x.stage < 2 then s
  else
    let a := tapStep pre x.txPre 8
    let b := tapStep post x.txPost 16
    let m := match main with
      | .hold => false
      | .inc => decide (x.txPre + x.txPost ≤ a.1 + b.1)
      | .dec => decide (a.1 + b.1 ≤ x.txPre + x.txPost)
    let lim := b2n a.2 + 2 * b2n b.2 + 4 * b2n m
    let s := setSb (sbKey s0) { x with txPre := a.1, txPost := b.1, txLimits := lim } s
    sideSend (sbAttach s0) 0x04 [BitVec.ofNat 8 a.1, BitVec.ofNat 8 b.1, BitVec.ofNat 8 lim] s

/-- TAP_ACK (R349): the taps that the far transmitter applied. -/
def doTapAck (s0 : SbRef) (pre : Fin 9) (post : Fin 17) (_limits : BitVec 3) (s : State) : State :=
  modSb (sbKey s0) (fun x => if x.stage < 2 then x else { x with tapPre := pre.val, tapPost := post.val }) s

/-- SB_LANE_LOSS (R350): the lane is inactive; when its direction has no other, the sideband restarts. -/
def doSbLaneLoss (s0 : SbRef) (why : LaneLoss) (s : State) : State :=
  let mark (s : State) : State := modSb (sbKey s0) (fun x => { x with
    active := false, los := x.los || decide (why = .signal), lol := x.lol || decide (why = .lock) }) s
  let s1 := mark s
  let others : Bool := match s0 with
    | .half h l => (sbAt s (2 * h.num + (1 - l.val))).active
    | .site _ => false
  if (sbAt s (sbKey s0)).stage = 0 then s else if others then s1 else mark (restartSb s0 s)

/-- The effect of a write to `EYE_CTL` of a lane (R351). -/
def eyeAct (r : Reg) (i k new : Nat) (s : State) : State :=
  let s := rput r i (new % 2 ^ 31) s
  if natBit 31 new && !(sbAt s k).eyeRun then modSb k (fun x => { x with eyeRun := true }) s else s

/-- EYE_SCAN_DONE (R351). -/
def doEyeScanDone (s0 : SbRef) (errors : Nat) (s : State) : State :=
  modSb (sbKey s0) (fun x => if x.eyeRun then { x with eyeRun := false, eyeErrors := min (2 ^ 31 - 1) errors } else x) s

/-! ### Capability negotiation (R352, R353) -/

/-- The outcome of a guest's record at a site: none when the attachment stays down. -/
def siteOutcome (s : State) (g : Nat) (c : CapRec) : Option SiteSt :=
  let rates := natBits 3 0 c.rates.toNat
  let rate := if natBit 3 rates then 4 else if natBit 2 rates then 3 else if natBit 1 rates then 2
    else if natBit 0 rates then 1 else 0
  let coh := natBit 1 c.agent.toNat && rbit s .gsCtl g 7
  let fwMax := if rbits s .gsCtl g 6 5 = 2 then 2 else 1
  if natBit 1 c.zver.toNat && decide (rate ≠ 0) && (coh || natBit 0 c.agent.toNat) then
    some { siteAt s g with
      coherent := coh, fwClass := min c.fwClass fwMax, bundles := min c.bundles 4, rate := rate
      tags := min c.maxTags 4096, vendor := c.vendor, product := c.product }
  else none

/-- The outcome as a `CAP_GRANT`, in the layout of `CAP`. -/
def grantBytes (h : Half) (x : SiteSt) : List Byte :=
  [2#8, BitVec.ofNat 8 h.num, BitVec.ofNat 8 x.bundles, BitVec.ofNat 8 (2 ^ (x.rate - 1)),
    if x.coherent then 2#8 else 1#8, BitVec.ofNat 8 x.fwClass] ++ natLe 2 x.tags ++ natLe 2 x.vendor.toNat ++
    natLe 2 x.product.toNat ++ [0#8, BitVec.ofNat 8 h.num, 0#8, 0#8]

/-- A capability record's bytes (R352). -/
def capBytes (c : CapRec) : List Byte :=
  [c.zver, c.role, BitVec.ofNat 8 c.bundles, c.rates, c.agent, BitVec.ofNat 8 c.fwClass] ++ natLe 2 c.maxTags ++
    natLe 2 c.vendor.toNat ++ natLe 2 c.product.toNat ++ [c.dieRev, c.orient, 0#8, 0#8]

/-- CAP (R352, R353): the base side decides. Between the halves the outcome is fixed. -/
def doCap (s0 : SbRef) (c : CapRec) (s : State) : State :=
  let k := sbKey s0
  if (sbAt s k).stage ≠ 4 then s
  else
    match s0 with
    | .half h _ =>
      sideSend (sbAttach s0) 0x06 ([2#8, BitVec.ofNat 8 h.num, 16#8, 8#8, 2#8, 0#8] ++ natLe 2 4096 ++ List.replicate 8 0#8)
        (modSb k (fun x => { x with stage := 5 }) s)
    | .site g =>
      let s := modSite g.val (fun x => { x with vendor := c.vendor, product := c.product, capRec := capBytes c }) s
      if (siteAt s g.val).st ≠ 1 then s
      else
        match siteOutcome s g.val c with
        | some x =>
          siteCheck g.val (sideSend s0 0x06 (grantBytes (sbHalf s0) x)
            (modSb k (fun x => { x with stage := 5 }) (setSite g.val x s)))
        | none =>
          let d := c.zver.toNat + c.role.toNat * 2 ^ 8 + c.bundles % 256 * 2 ^ 16 + c.rates.toNat * 2 ^ 24 +
            c.agent.toNat * 2 ^ 32 + c.fwClass % 256 * 2 ^ 40 + c.maxTags % 65536 * 2 ^ 48 + c.vendor.toNat * 2 ^ 64 +
            c.product.toNat * 2 ^ 80 + c.dieRev.toNat * 2 ^ 96 + c.orient.toNat * 2 ^ 104
          eventD (sbHalf s0) 0x0904 0 (some (siteFunc s g.val)) (g.val % 2) 0 0 d s

/-- CAP_GRANT (R353), received by a half from the other: the sideband is active. -/
def doCapGrant (s0 : SbRef) (_c : CapRec) (s : State) : State :=
  match s0 with
  | .half _ _ => modSb (sbKey s0) (fun x => if x.stage = 4 then { x with stage := 5 } else x) s
  | .site _ => s

/-! ### Bundles in service (R338, R339, R343, R344, R356) -/

def bundleHalf : BundleRef → Half
  | .z h _ => h
  | .site g _ => halfOf 2 g
def bundleSide : BundleRef → ZSrc
  | .z h _ => .half h.other
  | .site g _ => .site g

/-- Count on `ZB_ERR` of a bundle's end: frames discarded in [15:0], retrains in [31:16]. -/
def countBundle (b : BundleRef) (retrain : Bool) (s : State) : State :=
  let hi := if retrain then 31 else 15
  let lo := if retrain then 16 else 0
  match b with
  | .z h n => bumpSat .zbErr (16 * h.num + n) hi lo 1 s
  | .site g c => bumpSat .gzbErr (4 * g + c) hi lo 1 s

/-- The number of a bundle in a record: Zn, or a guest bundle by its site. -/
def bundleIndex : BundleRef → Nat
  | .z _ n => n.val
  | .site g c => 4 * g.val + c.val

/-- A retrain is counted, and produces one record (R339, R453). -/
def noteRetrain (b : BundleRef) (s : State) : State :=
  event (bundleHalf b) 0x0901 1 none (bundleIndex b) 0 339 (countBundle b true s)

/-- The width at which a bundle ran last, or that its maps give (R335). -/
def lastWidth (s : State) (b : BundleRef) : Nat :=
  let x := bundleAt s (bundleKey b)
  let own := dirWidth x.bad (!x.clockFail)
  if bundleUp x then x.st
  else match b with
    | .z h n =>
      let y := bundleAt s (16 * h.other.num + n)
      pairWidth own (dirWidth y.bad (!y.clockFail))
    | .site _ _ => own

/-- The width that a bundle had before a training; none for one that had not trained. -/
def widthWas (s : State) (b : BundleRef) : Option Nat :=
  if (bundleAt s (bundleKey b)).st = 0 then none else some (lastWidth s b)

/-- A training that changed a bundle's width produces a record. -/
def noteWidth (b : BundleRef) (was : Option Nat) (s : State) : State :=
  when (was.any (fun w => decide (w ≠ lastWidth s b))) (event (bundleHalf b) 0x0901 1 none (bundleIndex b) 0 335) s

/-- BUNDLE_RETRAIN (R339, R356–R358) up to what follows from too few bundles: the retrain is counted, the bundle trains with
what both directions show. A guest's bundle trains only while the site is brought up or active, and only those granted. -/
def retrainCore (b : BundleRef) (rx tx : DirTraining) (s : State) : State :=
  let was := widthWas s b
  let s := when (bundleUp (bundleAt s (bundleKey b))) (noteRetrain b) s
  match b with
  | .z h n =>
    let s := when (bundleUp (bundleAt s (16 * h.other.num + n))) (countBundle (.z h.other n) true) s
    let t := match h with
      | .h0 => trainZ n rx tx s
      | .h1 => trainZ n tx rx s
    zPump (16 * h.num + n) h (zPump (16 * h.other.num + n) h.other (noteWidth b was (addMismatches t.1 t.2)))
  | .site g c =>
    let x := siteAt s g.val
    if (x.st = 1 ∨ x.st = 2) ∧ c.val < x.bundles then
      let y := bundleAt s (bundleKey b)
      let f := settleDir y.assembly y.driverBad rx
      let w := pairWidth (dirWidth f.map rx.clockOk) (dirWidth (y.rxView ||| tx.fails.getLastD 0) tx.clockOk)
      let tm := y.rxView ||| tx.fails.getLastD 0
      let s := recordLanes (bundleHalf b) (4 * g.val + c.val) f y.assembly
        (setBundle (bundleKey b) (trainedEnd y f tm w s.clock rx.clockOk) s)
      let s := reportBundle b y (sendViews b y.assembly y.driverBad rx f s)
      zPump (bundleKey b) (bundleHalf b) (siteCheck g.val (noteWidth b was s))
    else s

/-- LINK_FLIT (R338, R339): frames acknowledged, credits returned, or a replay of the frames kept; 16 `NAK`s within 10 µs call
for a retrain. -/
def doLinkFlit (b : BundleRef) (l : ZLink) (s : State) : State :=
  let k := bundleKey b
  let x := bundleAt s k
  if !bundleUp x then s
  else
    let cr := l.credits.foldl (fun m c => NMap.insert m c.1.val (NMap.getD m c.1.val 0 + c.2)) x.credits
    let adv := l.ackValid && decide (l.ackSeq + 1 ≠ x.txAcked)
    let x := { x with
      credits := cr, txAcked := if l.ackValid then l.ackSeq + 1 else x.txAcked
      lastAdvance := if adv then s.clock else x.lastAdvance
      replay := if l.ackValid then x.replay.filter (fun e => !seqLe e.1 l.ackSeq) else x.replay }
    if l.nak then
      let times := (x.nakTimes.filter (fun t => decide (s.clock < t + us 10))) ++ [s.clock]
      if 16 ≤ times.length then sideSend (bundleSb b) 0x08 (stateBytes b 1 x.rxNext x.txAcked)
        (noteRetrain b (setBundle k { x with st := 1, nakTimes := [] } s))
      else zPump k (bundleHalf b) (forEach x.replay (fun e => emitFrame k e.1 e.2) (setBundle k { x with nakTimes := times } s))
    else zPump k (bundleHalf b) (setBundle k x s)

/-- SPLICE (R336): the far side's view of a direction; a receiver's view is answered with the transmitter's. A view whose CRC
does not hold is not taken. -/
def doSplice (b : BundleRef) (rxDir : Bool) (view : BitVec 528) (crc : BitVec 32) (s : State) : State :=
  let k := bundleKey b
  if crc32 (bytesOf 66 view) ≠ crc.toNat then s
  else if rxDir then modBundle k (fun x => { x with driverBad := view }) s
  else
    let own : BitVec 528 := match b with
      | .z h n => (bundleAt s (16 * h.other.num + n)).driverBad
      | .site _ _ => 0
    sideSend (bundleSb b) 0x07 (spliceBytes b (1 - inDir b) own) (modBundle k (fun x => { x with rxView := view }) s)

/-- BUNDLE_STATE (R343): the far end's state of a bundle and the last frame it accepted. -/
def doBundleState (b : BundleRef) (st : Fin 5) (lastRx _lastTx : BitVec 16) (s : State) : State :=
  modBundle (bundleKey b) (fun x => { x with
    peerRx := lastRx, txAcked := lastRx + 1, replay := x.replay.filter (fun e => !seqLe e.1 lastRx), st := if bundleUp x && decide (st.val ≠ 2 ∧ st.val ≠ 3) then st.val else x.st }) s

/-- A bundle has left the list (R343): the flits of its unacknowledged frames and of messages begun go on over the first
bundle of the new list, where what has arrived of a message is completed too (DESIGN CHOICE, log entry 96); messages that
wait go over the new list. -/
def leaveList (src : ZSrc) (k : Nat) (s : State) : State :=
  let x := bundleAt s k
  let l := x.txq.flatMap (fun e => e.2.map (fun m => (e.1, m)))
  let begun := l.flatMap (fun e => if e.2.begun then e.2.slots else [])
  let s := setBundle k { x with txq := [], replay := [], resend := [], part := [], linkDue := [] } s
  let s := match (uList s src)[0]? with
    | none => s
    | some k0 => zPump k0 (zSide src) (modBundle k0 (fun y => { y with
        resend := y.resend ++ payloadSlots x.replay ++ x.resend ++ begun
        part := x.part.foldl (fun p e => NMap.insert p e.1 e.2) y.part }) s)
  forEach (l.filter (fun e => !e.2.begun)) (fun e => zPlace src e.1 e.2) s

/-- BUNDLE_LIST_CHANGE (R343): the new list applies; what a bundle that left still had goes on over the new list. -/
def doBundleList (src : ZSrc) (s : State) : State :=
  match src with
  | .half h =>
    let old := if h = .h0 then s.zor.upList0 else s.zor.upList1
    let s := applyList h s
    let s := forEach (old.filter (fun n => !(bundlesUp s h).contains n)) (fun n => leaveList (.half h.other) (16 * h.num + n)) s
    forEach (bundlesUp s h) (fun n => zPump (16 * h.num + n) h) s
  | .site g =>
    let s := siteCheck g.val s
    forEach [0, 1, 2, 3] (fun b s =>
      let k := 64 + 4 * g.val + b
      if bundleUp (bundleAt s k) then s else leaveList (.site g) k s) s

/-- The front message of a channel leaves its receive buffer: its flits are free. -/
def popMsg (k zc : Nat) (s : State) : State :=
  let x := bundleAt s k
  match x.rxq.getD zc [] with
  | [] => s
  | (m, _) :: rest =>
    setBundle k { x with
      rxq := NMap.setD x.rxq zc [] rest, freed := NMap.setD x.freed zc 0 (NMap.getD x.freed zc 0 + m.flits) } s

/-- ZORAM_AGE_DISCARD (R344): the front message has waited 250 µs. -/
def doZoramAge (b : BundleRef) (zc : Nat) (s : State) : State :=
  match (bundleAt s (bundleKey b)).rxq.getD zc [] with
  | [] => s
  | (_, t) :: _ => bumpSat .zaged (bundleHalf b).num 31 0 1 (popMsg (bundleKey b) zc (atTime (t + zAge) s))

/-- BAND (R346): the Clapper block of a half learns the band of a stack of the other half. -/
def doBand (h : Half) (st b : Nat) (s : State) : State :=
  if halfOf 8 st = h then s else setStack st { stackAt s st with noticeBand := b } s

/-! ### Guest sites: opening, snoops, fences (R362, R365) -/

/-- The effect of a write to `GS_CTL`: `OPEN` brings the site up at stage 1 of R348, or fences and closes it. -/
def gsCtlAct (g new : Nat) (s : State) : State :=
  let was := rbit s .gsCtl g 0
  let s := rput .gsCtl g new s
  let gf : Fin 4 := Fin.ofNat 4 g
  if natBit 0 new && (!was || decide ((siteAt s g).st = 3 ∨ (siteAt s g).st = 0)) then
    startSb (.site gf) (setSite g { SiteSt.init with st := 1 } s)
  else if !natBit 0 new && was then
    let s := fenceSite g 4 s
    modSb (8 + g) (fun x => { x with stage := 0, active := false }) (modSite g (fun x => { x with st := 0 }) s)
  else s

/-- SNOOP_LIMIT_EXPIRE (R362): the oldest snoop to a coherent guest stays unanswered for `SNOOP_LIMIT`. -/
def doSnoopLimit (g : Nat) (s : State) : State :=
  let ts := (s.coh.snoops.filter (fun e => decide (e.2.holder = .site (Fin.ofNat 4 g)))).map (fun e => e.2.t)
  match ts with
  | [] => s
  | t :: rest =>
    if (siteAt s g).st = 2 then
      fenceSite g 2 (atTime (rest.foldl min t + us (max 1 (rbits s .gsCtl g 23 16))) s)
    else s

/-- A guest as an agent: of the function that its site is bound to. -/
def siteAgent (s : State) (g : Nat) : Agent := .guest (Fin.ofNat 4 g) (Fin.ofNat 16 (siteFunc s g))

/-- A guest's earlier writes are performed at a scope (R190, R362). -/
def guestDone (s : State) (g : Nat) (sc : Scope) : Bool := !agentPending s (siteAgent s g) false (decide (sc = .group))

/-- FENCE (R362): answered with `FENCE_DONE` once the guest's earlier writes are performed at its scope. -/
def doGuestFence (g : Nat) (tag : Nat) (sc : Scope) (s : State) : State :=
  if (siteAt s g).st = 2 && guestDone s g sc then
    zSend (.site (Fin.ofNat 4 g)) 0 (.zService (.site (Fin.ofNat 4 g)) 2
      (zHead s (.site (Fin.ofNat 4 g)) (siteFunc s g) tag) 0 0) s
  else s

/-- CUT_NOTICE (R364): the bound function was Cut. -/
def cutSites (f : Nat) (s : State) : State :=
  forEach ((List.range (2 * numHalves s)).filter (fun g => decide ((siteAt s g).st = 1 ∨ (siteAt s g).st = 2) &&
      decide (siteFunc s g = f))) (fun g s =>
    sideSend (.site (Fin.ofNat 4 g)) 0x0B [] (callAdvance (siteTagKey g) (withdrawSite g s))) s

/-! ### Commands -/

/-- Run a meaning on a side of Zoram that the part has. -/
def onSb (s : State) (s0 : SbRef) (r : Outcome) : Outcome :=
  match s0 with
  | .half _ _ => onPart (decide (s.part = .mb2)) r
  | .site g => onHalf s (halfOf 2 g) r
def onBundle (s : State) (b : BundleRef) (r : Outcome) : Outcome :=
  match b with
  | .z _ _ => onPart (decide (s.part = .mb2)) r
  | .site g _ => onHalf s (halfOf 2 g) r
def onSide (s : State) (z : ZSrc) (r : Outcome) : Outcome :=
  match z with
  | .half _ => onPart (decide (s.part = .mb2)) r
  | .site g => onHalf s (halfOf 2 g) r

/-- LINK_FLIT (R338). -/
def execLinkFlit (b : BundleRef) (l : ZLink) (s : State) : Outcome := onBundle s b (.next (doLinkFlit b l s))
/-- BUNDLE_LIST_CHANGE (R343). -/
def execBundleListChange (src : ZSrc) (s : State) : Outcome := onSide s src (.next (doBundleList src s))
/-- ZORAM_AGE_DISCARD (R344). -/
def execZoramAgeDiscard (b : BundleRef) (zc : Fin 5) (s : State) : Outcome := onBundle s b (.next (doZoramAge b zc.val s))
/-- SB_ACK (R347). -/
def execSbAck (s0 : SbRef) (ty : BitVec 8) (crc : BitVec 16) (s : State) : Outcome := onSb s s0 (.next (doSbAck s0 ty crc s))
/-- SIDEBAND_RESEND (R347). -/
def execSidebandResend (s0 : SbRef) (s : State) : Outcome := onSb s s0 (.next (doSbResend s0 s))
/-- SIDEBAND_STAGE_TIMEOUT (R348). -/
def execSidebandStageTimeout (s0 : SbRef) (s : State) : Outcome := onSb s s0 (.next (doSbStageTimeout s0 s))
/-- TS1 (R348, R355). The lane and stage that it names are the sender's; lock decides. -/
def execTs1 (s0 : SbRef) (lane : Fin 2) (stage : Fin 6) (orient locked : Bool) (s : State) : Outcome :=
  onSb s s0 (.next (doTs1 s0 orient locked (sideGot s0 0x02 [BitVec.ofNat 8 lane.val, BitVec.ofNat 8 stage.val,
    BitVec.ofNat 8 (b2n orient)] s)))
/-- TAP_REQ (R349). -/
def execTapReq (s0 : SbRef) (pre post main : TapReq) (s : State) : Outcome := 
  onSb s s0 (.next (doTapReq s0 pre post main (sideGot s0 0x03 [tapCode pre, tapCode post, tapCode main] s)))
/-- TAP_ACK (R349). -/
def execTapAck (s0 : SbRef) (pre : Fin 9) (post : Fin 17) (limits : BitVec 3) (s : State) : Outcome :=
  onSb s s0 (.next (doTapAck s0 pre post limits
    (sideGot s0 0x04 [BitVec.ofNat 8 pre.val, BitVec.ofNat 8 post.val, BitVec.ofNat 8 limits.toNat] s)))
/-- SB_LANE_LOSS (R350). -/
def execSbLaneLoss (s0 : SbRef) (why : LaneLoss) (s : State) : Outcome := onSb s s0 (.next (doSbLaneLoss s0 why s))
/-- EYE_GO (R351). -/
def execEyeGo (ag : Agent) (s0 : SbRef) (v : BitVec 32) (s : State) : Outcome :=
  onAgent s ag (.next (match s0 with
    | .half h l => regStore ag h .eyeCtl (2 * h.num + l.val) v.toNat (eyeAct .eyeCtl (2 * h.num + l.val) (sbKey s0)) s
    | .site g => regStore ag (halfOf 2 g) .gsEyeCtl g.val v.toNat (eyeAct .gsEyeCtl g.val (sbKey s0)) s))
/-- EYE_SCAN_DONE (R351). -/
def execEyeScanDone (s0 : SbRef) (errors : Nat) (s : State) : Outcome := onSb s s0 (.next (doEyeScanDone s0 errors s))
/-- CAP_GRANT (R353). -/
def execCapGrant (s0 : SbRef) (c : CapRec) (s : State) : Outcome :=
  onSb s s0 (.next (doCapGrant s0 c (sideGot s0 0x06 (capBytes c) s)))
/-- SPLICE (R336). -/
def execSplice (b : BundleRef) (rxDir : Bool) (view : BitVec 528) (crc : BitVec 32) (s : State) : Outcome :=
  onBundle s b (.next (doSplice b rxDir view crc (sideGot (bundleSb b) 0x07
    ([BitVec.ofNat 8 (bundleNum b), BitVec.ofNat 8 (if rxDir then inDir b else 1 - inDir b)] ++ bytesOf 66 view ++
      natLe 4 crc.toNat) s)))
/-- BUNDLE_STATE (R343). -/
def execBundleState (b : BundleRef) (st : Fin 5) (lastRx lastTx : BitVec 16) (s : State) : Outcome :=
  onBundle s b (.next (doBundleState b st lastRx lastTx (sideGot (bundleSb b) 0x08
    ([BitVec.ofNat 8 (bundleNum b), BitVec.ofNat 8 st.val] ++ natLe 2 lastRx.toNat ++ natLe 2 lastTx.toNat) s)))
/-- SNOOP_LIMIT_EXPIRE (R362). -/
def execSnoopLimitExpire (g : Fin 4) (s : State) : Outcome := onHalf s (halfOf 2 g) (.next (doSnoopLimit g.val s))
/-- GUEST_SITE_FENCE (R363). -/
def execGuestSiteFence (g : Fin 4) (cause : SiteCause) (s : State) : Outcome :=
  onHalf s (halfOf 2 g) (.next (fenceSite g.val (match cause with
    | .link => 1
    | .snoop => 2
    | .violation => 3
    | .command => 4) s))
/-- FENCE (R362). -/
def execFence (g : Fin 4) (tag : BitVec 12) (scope : Scope) (s : State) : Outcome :=
  onHalf s (halfOf 2 g) (.next (doGuestFence g.val tag.toNat scope s))
/-- BAND (R346). -/
def execBand (h : Half) (st : Fin 16) (b : Fin 5) (s : State) : Outcome :=
  onPart (decide (s.part = .mb2)) (.next (doBand h st.val b.val s))

end Sys2Proof.Machine
end

