-- ==== Sys2Proof/Machine/Cut.lean ====
section
/-! DEFINITION. Cuts (R401–R403), the release of segments and ways (R397, R400), and the fence of H1 (R359, R360, R423). -/

namespace Sys2Proof.Machine

open Sys2Proof

/-! ### Functions -/

/-- A function's own state. -/
def funcAt (s : State) (f : Nat) : FuncSt := s.cad.funcs.getD f FuncSt.init
/-- Replace it. -/
def setFunc (f : Nat) (x : FuncSt) (s : State) : State := { s with cad := { s.cad with funcs := s.cad.funcs.insert f x } }
/-- Change it. -/
def modFunc (f : Nat) (g : FuncSt → FuncSt) (s : State) : State := setFunc f (g (funcAt s f)) s

/-- The keys of the takes of every identifier that a function owns (R222, R223). -/
def ownedTakes (s : State) (f : Nat) : List Nat :=
  funcCues s f ++
  ((List.range (256 * numHalves s)).filter (fun n => decide (queueFunc s n = some f))).map queueTake ++
  ((List.range 4096).filter (fun n => decide (qpFunc s n = some f))).map qpTakeKey ++
  ((List.range 1024).filter (fun k => decide (ownerField s .mkCtl k = some f))).map mkTakeKey ++
  (s.link.colls.filter (fun e => decide (e.2.st ≠ 0) && decide (collFunc s e.1 = f))).map (fun e => collTakeKey e.1) ++
  (s.dolly.reels.filter (fun e => decide (e.2.st ≠ 0) && decide (reelFunc s e.1 = f))).map (fun e => reelTakeKey e.1) ++
  ((List.range 64).filter (fun n => decide ((sesAt s n).st ≠ 0) && !(sesAt s n).isLocal && decide ((sesAt s n).func = f))).map
    sesTakeKey ++
  ((List.range (2 * numHalves s)).filter (fun g => decide ((siteAt s g).st ≠ 0) && decide (siteFunc s g = f))).map siteTagKey

/-- Keys whose advance has not taken place yet. -/
def dueKeys (s : State) (l : List Nat) : List Nat := l.filter (fun k => (takeSt s k).due)

/-- The requests of a function to other devices and to the other half are forgotten: their answers are stale (R219). What
sends lines back stays. -/
def dropFuncReqs (f : Nat) (s : State) : State :=
  let mine (e : Nat × FarReq) : Bool := decide (e.2.func = f) && (match e.2.why with
    | some (.access _ _ _) => true
    | _ => false)
  { s with coh := { s.coh with
      reqs := s.coh.reqs.filter (fun e => !mine e)
      farQ := s.coh.farQ.filter (fun q => decide (agentFunc s q.ag ≠ some f)) } }

/-- The fields of a function's maintenance ports and `FUNC_BUF` return to reset (R9, R151), and its re-reads are counted
anew. -/
def cutFields (f : Nat) (s : State) : State :=
  forEach (halves s) (fun h s =>
    let n := portKey h f
    { s with regs := s.regs.clear ([Reg.maintAddrLo, .maintAddrHi, .maintLenLo, .maintLenHi, .maintCtl, .maintRecLo,
      .maintRecHi, .maintCue, .funcBuf, .funcDeadCount].map (fun r => (r, n))) }) s

/-- Give back a hold on a way or a segment. -/
def holdWay (n : Nat) (on : Bool) (s : State) : State := rput .wayMap n (setBits 9 9 (b2n on) (rget s .wayMap n)) s
def holdSeg (seg : Nat) (on : Bool) (s : State) : State := rput .segMap seg (setBits 14 14 (b2n on) (rget s .segMap seg)) s

/-- A command's entry, argument by argument. -/
def argB (e : ReelEntry) (i : Nat) : Nat := leNat (slice i 1 (entArgs e))
def argN (e : ReelEntry) (i n : Nat) : Nat := leNat (slice i n (entArgs e))

/-- The key of a command in progress. -/
def cmdKey (n : Nat) (i : W32) : Nat := 2 ^ 32 * n + i.toNat

/-- What a command in progress holds that was not held before it. -/
def cmdHolds (s : State) (k : Nat) : List Nat := s.cad.holds.getD k []
def noteHolds (k : Nat) (l : List Nat) (s : State) : State := { s with cad := { s.cad with holds := s.cad.holds.setD k [] l } }
def dropHolds (k : Nat) (s : State) : State := { s with cad := { s.cad with holds := s.cad.holds.erase k } }

/-- Undo what a command before its commit step has done (R390, R402): the holds of `WAYS_SET` and `PART_EXPORT`, the
bring-up of `GUEST_OPEN`. -/
def undoCmd (k : Nat) (e : ReelEntry) (s : State) : State :=
  if entOp e = 0x33 then dropHolds k (forEach (cmdHolds s k) (fun n s => holdWay n false s) s)
  else if entOp e = 0x34 then dropHolds k (forEach (cmdHolds s k) (fun g s => holdSeg g false s) s)
  else if entOp e = 0x80 then
    let g := argB e 0 % 4
    rputBits .gsCtl g 0 0 0 (setSite g SiteSt.init s)
  else s

/-- The function that an undoable command names. -/
def undoFunc (s : State) (e : ReelEntry) : Option Nat :=
  if entOp e = 0x33 ∨ entOp e = 0x34 then partFunc s (argB e 0)
  else if entOp e = 0x80 then some (argB e 1)
  else if entOp e = 0x70 then some (argB e 0)
  else none

/-- The commands of a function that are in progress before their commit step end with FAILED (R402). -/
def abortCmds (f : Nat) (s : State) : State :=
  forEach (List.range 64) (fun n s =>
    forEach ((sesAt s n).cmds.filter (fun c => c.started && c.due.isNone)) (fun c s =>
      if undoFunc s c.entry = some f then complete n c.index 9 [] true false (undoCmd (cmdKey n c.index) c.entry s) else s) s) s

/-- A Cut is complete (step 6 of R401): its event is written, then its commands are answered. -/
def finishCut (f : Nat) (s : State) : State :=
  let x := funcAt s f
  let s := setFunc f { x with
    st := if x.destroy then 3 else 1, cutCount := min 65535 (x.cutCount + 1), cutKeys := []
    cutWaits := [] } s
  let s := flushEvents (event .h0 0x0101 0 (some f) f 0 401 s)
  forEach x.cutWaits (fun w s =>
    let t := (((sesAt s w.1).cmds.find? (fun c => decide (c.index = w.2))).map (fun c => c.t)).getD x.cutT
    complete w.1 w.2 0 (natLe 4 ((s.clock - t) / 10)) true false s) s

/-- A Cut in progress ends once every take it waits for has advanced (step 4 of R401). -/
def settleCut (f : Nat) (s : State) : State :=
  let x := funcAt s f
  if x.st = 2 ∧ dueKeys s x.cutKeys = [] then finishCut f s else s

/-- A Cut of a function (R401), for a `LAST_CUT_CAUSE` (1 `CUT`, 2 fence of H1, 3 `FUNC_DESTROY`). F0 is never Cut. The steps
before the takes' advances are made at once. -/
def cutFunc (f cause : Nat) (destroy : Bool) (s : State) : State :=
  let x := funcAt s f
  if f = 0 ∨ x.st ≠ 1 then s
  else
    let keys := ownedTakes s f
    let s := setFunc f { x with st := 2, lastCause := cause, cutT := s.clock, cutKeys := keys, destroy := destroy } s
    let s := abortCmds f s
    let s := cutQueues f (cutCues f (cutArrays f s))
    let s := cutFields f (abandonMaint f (cutReels f s))
    let s := cutReguls f (cutColls f s)
    let s := cutSites f (cutHost f s)
    let s := dropFuncReqs f (giveUpFunc f (failSlate f 3 s))
    settleCut f s

/-! ### The release of segments (R397, R400) -/

/-- The line lies in a segment. -/
def lineInSeg (s : State) (seg sl line : Nat) : Bool := decide (lineDpa s sl line / 2 ^ 30 = seg)

/-- The memory of a line is there: its stack is not gone, and its half not fenced off. -/
def lineThere (s : State) (sl : Nat) : Bool :=
  !stackGone s (stackOfSlice sl) && !(decide (halfOf 128 sl = .h1) && farGone s)

/-- The lines of a segment that the directory or an open transaction lists. -/
def segDirLines (s : State) (seg : Nat) : List (Nat × Nat) :=
  let d := s.coh.dir.map (fun e => (e.1 / 16384, lineOf (e.1 / 16 % 1024) e.2.tag))
  let t := s.coh.txs.map (fun e => (e.1 / 2 ^ 26, e.1 % 2 ^ 26))
  (d ++ t).dedup.filter (fun p => lineInSeg s seg p.1 p.2)

/-- Every copy of a segment's lines outside the slices is invalidated (step 2): false while one is still being recalled. -/
def segCoherent (seg : Nat) (s : State) : Bool × State :=
  (segDirLines s seg).foldl (fun r p =>
    if lineThere r.2 p.1 then
      match opCoherent p.1 p.2 4 r.2 with
      | (ok, s) => (r.1 && ok, s)
    else r) (true, s)

/-- The lines of a segment that frames hold. -/
def segFrameLines (s : State) (seg : Nat) : List (Nat × Nat) :=
  let l := s.buf.frames.flatMap (fun e =>
    let sl := e.1 / 16384
    let set := e.1 / 16 % 1024
    match e.2 with
    | .held l => [(sl, lineOf set l.tag)]
    | .packed a b => (sl, lineOf set a.tag) :: (match b with
      | some b => [(sl, lineOf set b.tag)]
      | none => []))
  l.filter (fun p => lineInSeg s seg p.1 p.2)

/-- The sector index that a physical sector of a channel serves: redirects run backwards. -/
def unphys (x : Chan) (p : Nat) : Nat :=
  match List.find? (fun e => decide (spareIndex e.2.spare (p % 32) = p)) x.redir with
  | some e => e.2.row * 2048 + e.2.bank * 32 + p % 32
  | none => p

/-- A physical sector of a channel lies in a segment. -/
def physInSeg (s : State) (seg k : Nat) : Bool :=
  let c := k / 2 ^ 26
  let p := lineOfIndex c (unphys (chanAt s c) (k % 2 ^ 26))
  lineInSeg s seg (c / 4) p.1

/-- Invalidate a segment in the slices, drop what is on its way to or from memory, and zero it (steps 2 and 3). -/
def purgeSeg (seg : Nat) (s : State) : State :=
  let s0 := s
  let s := forEach (segFrameLines s seg) (fun p s =>
    match lookup s p.1 p.2 with
    | some (w, pl, l) => updLine p.1 p.2 w pl { l with secs := Quad.all .inv } s
    | none => s) s
  let out (sl line : Nat) : Bool := !lineInSeg s0 seg sl line
  { s with
    buf := { s.buf with
      ebuf := s.buf.ebuf.map (fun e => (e.1, e.2.filter (fun b => out e.1 b.line)))
      waits := s.buf.waits.filter (fun e => out (e.1 / 4 / 2 ^ 26) (e.1 / 4 % 2 ^ 26))
      stalled := s.buf.stalled.map (fun e => (e.1, e.2.filter (fun a => out e.1 a.line)))
      rets := s.buf.rets.map (fun e => (e.1, e.2.filter (fun r => out e.1 r.line))) }
    mem := { s.mem with
      dram := s.mem.dram.filter (fun e => !physInSeg s0 seg (e.1 / 32))
      side := s.mem.side.filter (fun e => !physInSeg s0 seg e.1)
      chans := s.mem.chans.map (fun e => (e.1, { e.2 with
        q := e.2.q.filter (fun o => out (e.1 / 4) o.line), wcb := e.2.wcb.filter (fun w => out (e.1 / 4) w.line) })) }
    coh := { s.coh with dir := s.coh.dir.filter (fun e => out (e.1 / 16384) (lineOf (e.1 / 16 % 1024) e.2.tag)) } }

/-- A segment leaves its partition (R397): false while copies are outstanding. A free segment is exported to nobody (DESIGN
CHOICE, log entry 16). -/
def releaseSeg (seg : Nat) (s : State) : Bool × State :=
  match segCoherent seg (holdSeg seg true s) with
  | (false, s) => (false, s)
  | (true, s) => (true, rput .segMap seg 0 (rput .segExport seg 0 (purgeSeg seg s)))

/-- Release segments, the highest first: false while one is still being released. -/
def releaseSegs (l : List Nat) (s : State) : Bool × State :=
  let s := forEach l (fun g s => holdSeg g true s) s
  l.reverse.foldl (fun r g =>
    match releaseSeg g r.2 with
    | (ok, s) => (r.1 && ok, s)) (true, s)

/-- The ways of a partition become unassigned. -/
def releaseWays (p : Nat) (s : State) : State :=
  forEach (List.range (16 * numHalves s)) (fun n s =>
    if decide (rbits s .wayMap n 5 0 = p) && rbit s .wayMap n 6 then rput .wayMap n 0 s else s) s

/-- A partition goes (R397): false while it is still being released. -/
def releasePartition (p : Nat) (s : State) : Bool × State :=
  match releaseSegs (partSegs s p) s with
  | (false, s) => (false, s)
  | (true, s) => (true, rput .partCfg p (regReset s.part .partCfg p) (releasePart p (releaseWays p s)))

/-! ### The fence of H1 (R358–R360) -/

/-- A partition has memory on a stack of a half. -/
def partOnHalf (s : State) (p : Nat) (h : Half) : Bool :=
  (List.range 8).any (fun k => partOnStack s p (8 * h.num + k))

/-- Segments with memory on a half. -/
def segOnHalf (s : State) (g : Nat) (h : Half) : Bool :=
  decide (segMode s g = 1) || (decide (segMode s g = 2) && (rbit s .segMap g 13 == decide (h = .h1)))

/-- A function has a resource on H1 (R359). -/
def onH1 (s : State) (f : Nat) : Bool :=
  (List.range 18).any (fun k => decide (clusterFunc s .h1 k = some f)) ||
  (listedSegs s).any (fun g => segOnHalf s g .h1 && decide (segFunc s g = some f)) ||
  (List.range 16).any (fun w => decide (wayOwner s (16 + w) = some f)) ||
  (List.range 256).any (fun q => decide (queueFunc s (256 + q) = some f)) ||
  (funcCues s f).any (fun n => decide (cueHalf n = .h1)) ||
  (List.range 128).any (fun q => decide (regulFunc s (128 + q) = some f)) ||
  s.link.colls.any (fun e => decide (128 ≤ e.1) && decide (e.2.st ≠ 0) && decide (collFunc s e.1 = f)) ||
  s.dolly.reels.any (fun e => decide (64 ≤ e.1) && decide (e.2.st ≠ 0) && decide (reelFunc s e.1 = f)) ||
  [2, 3].any (fun g => decide ((siteAt s g).st = 1 ∨ (siteAt s g).st = 2) && decide (siteFunc s g = f))

/-- Every field of the machine by number. -/
def allRegs : List Reg := (List.range 13).flatMap regsOf

/-- A field key belongs to H1's own fields outside its AON domain (R423: the identity block, and power and clocks, lie in
AON). -/
def h1RegKey (k : Nat) : Bool :=
  match allRegs.find? (fun r => decide (regNum r = k % 256)) with
  | some r => decide ((regRow r).h1 = .own) && decide (regCount r ≤ k / 256) && decide ((regRow r).cls ≠ 0) &&
      decide ((regRow r).cls ≠ 0xB)
  | none => false

/-- Accesses of H0's agents that wait in H1 fail (step 2 of R359). -/
def failAtH1 (s : State) : State :=
  let fail (l : List SAcc) (s : State) : State := forEach (l.filter (fun a => decide (agentHalf a.ag = .h0))) failAcc s
  let s := forEach (s.buf.waits.filter (fun e => decide (128 ≤ e.1 / 4 / 2 ^ 26))) (fun e s => fail e.2 s) s
  let s := forEach (s.buf.stalled.filter (fun e => decide (128 ≤ e.1))) (fun e s => fail e.2 s) s
  let s := forEach (s.buf.rets.filter (fun e => decide (128 ≤ e.1))) (fun e s =>
    fail (e.2.filterMap (fun r => r.pass)) s) s
  let own (r : HReq) (s : State) : State :=
    if decide (agentHalf (reqAgent r) = .h0) && r.hd.isNone then answerError r 5 s
    else match r.hd with
      | some _ => if (match reqHolder r with
          | some h => isMember h
          | none => false) then answerError r 5 s else s
      | none => s
  let s := forEach (s.coh.txs.filter (fun e => decide (128 ≤ e.1 / 2 ^ 26))) (fun e s =>
    match e.2.req with
    | some r => own r s
    | none => s) s
  let s := forEach (s.coh.lineQ.filter (fun e => decide (128 ≤ e.1))) (fun e s => forEach e.2 own s) s
  let toH1 (e : Nat × FarReq) : Bool :=
    decide (4096 ≤ e.1) || (match farHome s e.2.ga with
      | .slice l => decide (128 ≤ l)
      | _ => false)
  let s := forEach (s.coh.reqs.filter toH1) (fun e s => reqFails (Half.ofBit (e.1 / 4096)) (e.1 % 4096) e.2 5 s) s
  let q := s.coh.farQ.filter (fun x => decide (x.h = .h1))
  let s := { s with coh := { s.coh with farQ := s.coh.farQ.filter (fun x => decide (x.h = .h0)) } }
  forEach (q.filter (fun x => decide (agentHalf x.ag = .h0))) (fun x s =>
    farFail x.ag ((agentFunc s x.ag).getD 0) x.op x.rtag x.ga 5 s) s

/-- A line of H0's far cache whose home is H1. -/
def farLineOfH1 (s : State) (l : FarLine) : Bool :=
  match farHome s l.ga with
  | .slice n => decide (128 ≤ n)
  | _ => false

/-- H1's shared buffer and memory are gone: nothing is held, and memory is zero when it returns (R360). -/
def discardMem (s : State) : State :=
  { s with
    buf := { s.buf with
      frames := s.buf.frames.filter (fun e => decide (e.1 / 16384 < 128)), plru := s.buf.plru.filter (fun e => decide (e.1 / 1024 < 128))
      ebuf := s.buf.ebuf.filter (fun e => decide (e.1 < 128)), waits := s.buf.waits.filter (fun e => decide (e.1 / 4 / 2 ^ 26 < 128))
      stalled := s.buf.stalled.filter (fun e => decide (e.1 < 128)), rets := s.buf.rets.filter (fun e => decide (e.1 < 128))
      wayFunc := s.buf.wayFunc.filter (fun e => decide (e.1 < 16)), wayZero := s.buf.wayZero.filter (fun e => decide (e.1 < 16))
      scratch := s.buf.scratch.filter (fun e => decide (e.1 < 2 ^ 28))
      scratchPoison := s.buf.scratchPoison.filter (fun e => decide (e.1 * 32 < 2 ^ 28))
      quietFails := s.buf.quietFails.filter (fun q => decide (agentHalf q.1 = .h0))
      quietWaits := s.buf.quietWaits.filter (fun q => decide (agentHalf q.1 = .h0) && decide (q.2.1 / 2 ^ 28 < 128))
      others := s.buf.others.filter (fun o => decide (o.1 < 128)), arb := s.buf.arb.filter (fun e => decide (e.1 < 128))
      maint := s.buf.maint.filter (fun e => decide (e.1 < 16)) }
    mem := { s.mem with
      dram := s.mem.dram.filter (fun e => decide (e.1 < 2 ^ 40)), side := s.mem.side.filter (fun e => decide (e.1 < 2 ^ 35))
      chans := s.mem.chans.filter (fun e => decide (e.1 < 512)), retired := s.mem.retired.filter (fun r => decide (r.sl < 128))
      stacks_ := (List.range 8).foldl (fun m k => m.insert (8 + k) { StackSt.init with fence := 3, fenceT := s.clock })
        s.mem.stacks_ } }

/-- H1's Continuity is gone. -/
def discardCoh (s : State) : State :=
  { s with
    coh := { s.coh with
      dir := s.coh.dir.filter (fun e => decide (e.1 / 16384 < 128)), dirPlru := s.coh.dirPlru.filter (fun e => decide (e.1 / 1024 < 128))
      recovery := s.coh.recovery.filter (fun n => decide (n / 1024 < 128)), txs := s.coh.txs.filter (fun e => decide (e.1 / 2 ^ 26 < 128))
      lineQ := s.coh.lineQ.filter (fun e => decide (e.1 < 128)), snoops := s.coh.snoops.filter (fun e => decide (e.1 / 4096 < 128))
      far := s.coh.far.filter (fun e => decide (e.1 < 65536) && !farLineOfH1 s e.2)
      farQ := s.coh.farQ.filter (fun q => decide (q.h = .h0)), farPlru := s.coh.farPlru.filter (fun e => decide (e.1 < 4096))
      reqs := s.coh.reqs.filter (fun e => decide (e.1 < 4096)), staleSeen := s.coh.staleSeen.filter (fun e => decide (e.1 < 1)) } }

/-- The identifier of a take belongs to H1. -/
def h1Take (k : Nat) : Bool :=
  if k < 0x2000 then decide (cueHalf k = .h1)
  else if k < 0x3000 then decide (0x2100 ≤ k)
  else if k < 0x5000 then false
  else if k < 0x5400 then decide (0x5080 ≤ k)
  else if k < 0x5800 then decide (0x5440 ≤ k)
  else if k < 0x5C00 then false
  else decide (0x5C02 ≤ k)

/-- H1's arrays, cues, queues, streams, links and collectives are gone. What its AON domain keeps stays: map-out lists, roles
and the logical array map, with each cell's `RES_FAIL` (R80, R423). -/
def discardWork (s : State) : State :=
  let s := forEach (List.range 8) (fun p s => portDown (8 + p) .down s) s
  let cells := s.fab.cells.filterMap (fun e =>
    if e.1 / 256 < 72 then some e
    else if e.2.resFail || decide (e.2.fixes ≠ []) then
      some (e.1, { CellSt.init with resFail := e.2.resFail, fixes := e.2.fixes })
    else none)
  { s with
    fab := { s.fab with
      ctxs := s.fab.ctxs.filter (fun e => decide (e.1 < 256)), cells := cells
      vecs := s.fab.vecs.filter (fun e => decide (e.1 / 4 / 256 < 72)), portQ := s.fab.portQ.filter (fun e => decide (e.1 < 512)) }
    cues := (s.cues.filter (fun e => decide (cueHalf e.1 = .h0))).map (fun e => (e.1, { e.2 with
      waits := e.2.waits.filter (fun w => match w.who with
        | .half h _ => decide (h = .h0)
        | .ctx h _ _ => decide (h = .h0)
        | .desc q _ => decide (q < 256)
        | .site g _ => decide (g < 2)
        | .reelFree h _ => decide (h = .h0)
        | .collArrive h _ => decide (h = .h0)) }))
    takes := s.takes.filter (fun e => !h1Take e.1)
    dolly := { s.dolly with
      queues := s.dolly.queues.filter (fun e => decide (e.1 < 256)), reels := s.dolly.reels.filter (fun e => decide (e.1 < 64)) }
    link := { s.link with
      ports := s.link.ports.filter (fun e => decide (e.1 < 8)), colls := s.link.colls.filter (fun e => decide (e.1 < 128)) }
    reg := s.reg.filter (fun e => decide (e.1 < 128)) }

/-- H1's ends of Zoram, its guest sites, its processor, its Gaffer and its collector are reset; its domains but AON are in
reset. -/
def discardUnits (s : State) : State :=
  { s with
    regs := { s.regs with
      val := s.regs.val.filter (fun e => !h1RegKey e.1), pend := s.regs.pend.filter (fun e => !h1RegKey e.1)
      taken := s.regs.taken.filter (fun e => !h1RegKey e.1), latch := s.regs.latch.filter (fun e => !h1RegKey e.1) }
    zor := { s.zor with
      bundles := s.zor.bundles.filter (fun e => decide (32 ≤ e.1) && decide (e.1 < 72))
      sites := s.zor.sites.filter (fun e => decide (e.1 < 2)), sbs := s.zor.sbs.filter (fun e => decide (e.1 < 10))
      upList0 := [], upList1 := [], xWaits := [], h1Reset := true }
    cad := { s.cad with mp1 := MpSt.init }
    pwr := { s.pwr with
      doms := s.pwr.doms.filter (fun e => decide (e.1 ≤ 35)), gaf1 := GafSt.init
      pllLost := s.pwr.pllLost.filter (fun e => decide (e.1 < 8)) }
    col1 := { CollectorSt.init with ucd := s.col1.ucd }
    deg1 := DegSt.init }

/-- H1 discards its state and stays in reset (R360, R423). -/
def discardH1 (s : State) : State := discardUnits (discardWork (discardCoh (discardMem s)))

/-- The package budget P in W that is in force (R415): the value that the last exchange took; larger ones act as the reset
value. -/
def pkgLimit (s : State) : Nat :=
  let v := s.regs.took s.part .gafferCfg 0 % 2 ^ 13
  if regReset s.part .gafferCfg 0 < v then regReset s.part .gafferCfg 0 else v

/-- The part's package floor F in W (R415). -/
def halfFloor (s : State) : Nat :=
  match s.part with
  | .mb1 => 80
  | .mb2 => 75

/-- Every channel of R466: the event 0x0003 to F0's sessions, and one ANNOUNCE with `BOOT_STATE` 3. Before the base is
host-ready, step 12 of the boot does this. -/
def enterDegraded (s : State) : State :=
  if s.ident.bootState = 1 ∨ s.ident.bootState = 3 then
    let s := { s with ident := { s.ident with bootState := 3 } }
    announce (event .h0 0x0003 3 none 0 0 466 s)
  else s

/-- H0 fences H1 (R359): once, whatever calls for it again. `cause` is that of the reset record (R407). -/
def fenceH1 (cause : Nat) (s : State) : State :=
  if s.part = .mb1 ∨ farGone s then s
  else
    let cut := (List.range 16).filter (fun f => decide (f ≠ 0) && onH1 s f)
    let s := { s with zor := { s.zor with halves := 2 } }
    let s := failAtH1 s
    let s := dropHolder .xFar s
    let s := forEach [2, 3] (fun g s => fenceSite g 1 s) s
    let s := discardH1 s
    let s := forEach (listedSegs s) (fun g s => if segOnHalf s g .h1 then holdSeg g true s else s) s
    let p := s.pwr
    let s := { s with pwr := { p with
      rec1 := { p.rec1 with cause := cause }
      gaf0 := { p.gaf0 with grant := pkgLimit s - halfFloor s, pendGrant := none } } }
    let s := forEach cut (fun f s => cutFunc f 2 false s) s
    enterDegraded (event .h0 0x0902 3 none 0 0 359 (readmit s))

end Sys2Proof.Machine
end

