-- ==== Sys2Proof/Machine/Degrade.lean ====
section
/-! DEFINITION. Degraded operation (R400, R459–R465): the loss of a stack and what follows, the substitution of its slices, and
the commands that lose one; a stack taken out for maintenance and its return (R179). -/

namespace Sys2Proof.Machine

open Sys2Proof

def setDeg (h : Half) (d : DegSt) (s : State) : State :=
  match h with
  | .h0 => { s with deg0 := d }
  | .h1 => { s with deg1 := d }

/-- The half of a stack. -/
def halfOfStack (k : Nat) : Half := halfOf 8 k

/-- A stack counts as gone for the degraded mode: lost, or excluded at training. -/
def stackOut (s : State) (k : Nat) : Bool := (stackAt s k).lost || (stackAt s k).excluded

/-- The partition of a half's reserved segments (R34). -/
def f0Part (s : State) (h : Half) : Nat := segPart s (f0Seg s h)

/-- The substitution of R462 is installed for a stack, or, where the half has one, the half is closed (R463). The loss of the
stack under maintenance itself turns its substitution into that of a lost stack. -/
def installSub (k : Nat) (s : State) : State :=
  let h := halfOfStack k
  let d := deg s h
  if !d.subValid then setDeg h { d with subValid := true, subStack := k % 8, subMaint := false } s
  else if d.subStack = k % 8 then setDeg h { d with subMaint := false } s
  else setDeg h { d with subClosed := true } s

/-- F0's reserved segments of a half are rebuilt (R464). -/
def rebuildF0 (h : Half) (s : State) : State :=
  let s := restartRing h s
  if h = .h0 then
    let s := { s with ident := { s.ident with logFull := true } }
    forEach (List.range 64) (fun n s => if (sesAt s n).st ≠ 0 ∧ !(sesAt s n).isLocal then closeSes n s else s) s
  else s

/-- A stack is lost, and the base proceeds under R461. `LAST_CUT_CAUSE` has no code for these Cuts (log entry 1). -/
def degradeStack (k cause : Nat) (s : State) : State :=
  let x := stackAt s k
  if x.fence = 3 ∨ !x.trained then s
  else
    let h := halfOfStack k
    let s := loseStack k cause s
    let parts := (List.range 64).filter (fun p => (partFunc s p).isSome && decide (partFunc s p ≠ some 0) && partOnStack s p k)
    let fs := (parts.filterMap (fun p => partFunc s p)).dedup
    let s := forEach parts (fun p s => forEach (partSegs s p) (fun g s => holdSeg g true s) s) s
    let s := forEach fs (fun f s => event h 0x0500 2 (some f) k 0 461 s) s
    let s := forEach fs (fun f s =>
      let v := freeNat 4 s
      cutFunc f v.1 false v.2) s
    let s := installSub k (rebuildF0 h s)
    enterDegraded (readmit s)

/-! ### The conditions of R177 -/

/-- RECALIBRATION (R159, R177): the third failure in a row loses the stack. -/
def doRecalibration (c : Nat) (ok : Bool) (s : State) : State :=
  let k := stackOfChan c
  if !(chanAt s c).inService ∨ (stackAt s k).fence = 3 then s
  else
    let s := noteRecal c ok s
    if 3 ≤ (chanAt s c).recalFails then degradeStack k 1 s else s

/-- COMMAND_BUS_PARITY_ERROR (R177): counted and repeated; the sixteenth of a channel within 1 ms loses the stack. -/
def doCommandParity (c : Nat) (s : State) : State :=
  let k := stackOfChan c
  let h := halfOfStack k
  let x := chanAt s c
  if !x.inService ∨ (stackAt s k).fence = 3 then s
  else
    let ts := x.parTimes.filter (fun t => decide (s.clock < t + ms 1)) ++ [s.clock]
    let s := setChan c { x with parTimes := ts } (bumpSat .stackCmdPar h.num 31 0 1 s)
    let s := event h 0x0500 1 none c 0 177 s
    if 16 ≤ ts.length then degradeStack k 2 s else s

/-- STACK_TEMP_READ_FAIL (R177): no reading has succeeded for 1 ms. -/
def doTempReadFail (k : Nat) (s : State) : State :=
  if (stackAt s k).fence = 3 ∨ !(stackAt s k).trained then s
  else degradeStack k 3 (atTime ((stackAt s k).lastTempT + ms 1) s)

/-- RECALIBRATION (R159). -/
def execRecalibration (c : Fin 1024) (ok : Bool) (s : State) : Outcome :=
  onHalf s (halfOf 512 c) (.next (doRecalibration c.val ok s))
/-- STACK_LOST (R177): a loss condition as such, whose cause the record does not name (0). -/
def execStackLost (st : Fin 16) (s : State) : Outcome := onHalf s (halfOfStack st) (.next (degradeStack st.val 0 s))
/-- STACK_TEMP_READ_FAIL (R177). -/
def execStackTempReadFail (st : Fin 16) (s : State) : Outcome := onHalf s (halfOfStack st) (.next (doTempReadFail st.val s))
/-- CATASTROPHIC_TEMP (R177). -/
def execCatastrophicTemp (st : Fin 16) (s : State) : Outcome := onHalf s (halfOfStack st) (.next (degradeStack st.val 4 s))
/-- COMMAND_BUS_PARITY_ERROR (R177). -/
def execCommandBusParityError (c : Fin 1024) (s : State) : Outcome :=
  onHalf s (halfOf 512 c) (.next (doCommandParity c.val s))

/-! ### Maintenance of a stack (R179) -/

/-- The lines of a half's reserved segments that anything holds: frames, eviction buffers, channels, memory. -/
def f0Lines (s : State) (h : Half) : List (Nat × Nat) :=
  let seg := f0Seg s h
  let mem (k : Nat) : Nat × Nat :=
    let c := k / 2 ^ 26
    (c / 4, (lineOfIndex c (unphys (chanAt s c) (k % 2 ^ 26))).1)
  let l := segFrameLines s seg ++ segFrameLines s (seg + 1) ++
    s.buf.ebuf.flatMap (fun e => e.2.map (fun b => (e.1, b.line))) ++
    s.mem.chans.flatMap (fun e => e.2.q.map (fun o => (e.1 / 4, o.line)) ++ e.2.wcb.map (fun w => (e.1 / 4, w.line))) ++
    s.mem.dram.map (fun e => mem (e.1 / 32)) ++ s.mem.side.map (fun e => mem e.1)
  (l.filter (fun p => lineInSeg s seg p.1 p.2 || lineInSeg s (seg + 1) p.1 p.2)).dedup

/-- The lines of a list are free of outside copies and of fills under way: false while they are not. -/
def linesQuiet (l : List (Nat × Nat)) (s : State) : Bool × State :=
  l.foldl (fun r p =>
    match opCoherent p.1 p.2 5 r.2 with
    | (ok, s) => (r.1 && ok && !lineBusy s p.1 p.2, settleLine p.1 p.2 s)) (true, s)

/-- Take a line's value out of where it is: invalidated in its slice, gone from the eviction buffer and the channel, zero in
memory. -/
def takeLine (sl line : Nat) (s : State) : List (Sec256 × Bool) × State :=
  let v := [0, 1, 2, 3].map (fun i => sectorValue s sl line i)
  let s := match lookup s sl line with
    | some (w, pl, l) => updLine sl line w pl { l with secs := Quad.all .inv } s
    | none => s
  let c := chanOf sl line
  let x := chanAt s c
  let s := setEbuf sl ((ebufAt s sl).filter (fun e => decide (e.line ≠ line)))
    (setChan c { x with q := x.q.filter (fun o => decide (o.line ≠ line)), wcb := x.wcb.filter (fun w => decide (w.line ≠ line)) } s)
  (v, forEach [0, 1, 2, 3] (fun i s => rawWrite c (sectorIndex line i) 0 0 s) s)

/-- Change the substitution of a half, and move the reserved segments' lines whose home changes with it. -/
def moveF0 (h : Half) (d : DegSt) (l : List (Nat × Nat)) (s : State) : State :=
  let there := setDeg h d s
  let moves := l.filterMap (fun p =>
    let a := lineDpa s p.1 p.2
    match homeOf there a with
    | some (sl, sla) => if (sl, sla / 128) = p then none else some (p, (sl, sla / 128))
    | none => none)
  let r := moves.foldl (fun (r : List ((Nat × Nat) × List (Sec256 × Bool)) × State) m =>
    match takeLine m.1.1 m.1.2 r.2 with
    | (v, s) => (r.1 ++ [(m.2, v)], s)) ([], s)
  forEach r.1 (fun m s =>
    forEach (m.2.zipIdx) (fun v s =>
      rawWrite (chanOf m.1.1 m.1.2) (sectorIndex m.1.2 v.2) v.1.1 (b2n v.1.2) s) s) (setDeg h d r.2)

/-- The fence of `STACK_MAINT`: false while the lines to be moved are not quiet. -/
def maintFence (k : Nat) (s : State) : Bool × State :=
  let h := halfOfStack k
  let l := (f0Lines s h).filter (fun p => decide (stackOfSlice p.1 = k))
  match linesQuiet l s with
  | (false, s) => (false, s)
  | (true, s) =>
    let s := moveF0 h { deg s h with subValid := true, subStack := k % 8, subMaint := true } l s
    (true, setStack k { stackAt s k with fence := 2, fenceT := s.clock, holdFuncs := [] } s)

/-- The return of `STACK_MAINT` (R179): the stack trains again from step 5 of R157, its tables kept; its granules are copied back, the substitution goes. False while the
lines to be moved are not quiet. -/
def maintReturn (k : Nat) (rep : TrainReport) (s : State) : Bool × State :=
  let h := halfOfStack k
  let l := f0Lines s h
  match linesQuiet (l.filter (fun p => decide (dpaDirect s p.1 (p.2 * 128) = none))) s with
  | (false, s) => (false, s)
  | (true, s) =>
    let x := stackAt s k
    let s := forEach (List.range 64) (fun i s => setChan (64 * k + i) { chanAt s (64 * k + i) with inService := false } s) s
    let s := setStack k { x with trained := false, fence := 0 } s
    let s := match rep.failed with
      | some (ch, step) => if 5 ≤ step.val then excludeStack k ch.val step.val s else enterService k rep s
      | none => enterService k rep s
    if (stackAt s k).trained then (true, moveF0 h { deg s h with subValid := false, subMaint := false } l s)
    else (true, setDeg h { deg s h with subMaint := false } s)

/-! ### The degraded mode (R467) -/

/-- `DMODE`: 1 stacks, 2 H0 only, 3 both. -/
def dmode (s : State) : Nat :=
  b2n ((List.range (8 * numHalves s)).any (fun k => !(decide (8 ≤ k) && farGone s) && stackOut s k)) + 2 * b2n (farGone s)

/-- The field `DEGRADED` of a half. -/
def degradedWord (s : State) (h : Half) : Nat :=
  let d := deg s h
  dmode s + 2 ^ 8 * b2n d.subValid + 2 ^ 9 * d.subStack + 2 ^ 12 * b2n d.subClosed + 2 ^ 13 * b2n d.subMaint

end Sys2Proof.Machine
end

