-- ==== Sys2Proof/Machine/Ident.lean ====
section
/-! DEFINITION. Identity and firmware (R428–R439, R442, R445): images and their verification, keys and certificates, the
identity record, quotes. -/

namespace Sys2Proof.Machine

open Sys2Proof

/-! ### Firmware images (R431, R432) -/

/-- Every byte of a list is zero. -/
def allZero (b : List Byte) : Bool := b.all (fun x => decide (x = 0))

/-- The signature's length under the Idael key and under the keys of the base (R431, R439). -/
def sigLong : Nat := 29792
/-- The shorter signature. -/
def sigShort : Nat := 17088

/-- The image that stands in the flash at a slot, as its bytes say (R431). -/
def parseImage (s : State) (n : Nat) : FwImage :=
  let a := slotBase n
  let hd := flashGet s a 128
  let len := leNat (slice 12 4 hd)
  let ok := decide (slice 0 4 hd = natLe 4 0x57464E4D) && decide (slice 4 2 hd = natLe 2 1) && allZero (slice 20 108 hd) &&
    decide (128 + len + sigLong ≤ 1835008) && decide (leNat (slice 7 1 hd) < 64)
  let body := if ok then flashGet s a (128 + len) else []
  let sig := if ok then flashGet s (a + 128 + len) sigLong else []
  { formatOk := ok, parts := (hd.getD 6 0), svn := Fin.ofNat 64 (leNat (slice 7 1 hd)), version := ofBytes 32 (slice 8 4 hd)
    digest := Config.shake256 body, sigOk := ok && Config.slhVerify Config.idaelKey body sig }

/-- The image of a slot: what the boot ROM read of a slot that is as manufactured, else what the flash holds. -/
def slotImage (s : State) (n : Nat) : Option FwImage :=
  if s.ident.slotsWritten.contains n then some (parseImage s n) else s.ident.images.find? n

/-- Why an image does not verify (R432, R446): 1 format, 2 part, 3 below the floor, 4 signature; 0 it verifies. -/
def imageFault (s : State) (m : Option FwImage) : Nat :=
  match m with
  | none => 1
  | some m =>
    let bit := if s.part = .mb1 then 0 else 1
    if !m.formatOk then 1
    else if !natBit bit m.parts.toNat then 2
    else if m.svn.val < s.ident.die0.floor then 3
    else if !m.sigOk then 4 else 0

/-! ### Keys and certificates (R438, R439) -/

/-- A text as bytes. -/
def asciiBytes (l : List Nat) : List Byte := l.map (BitVec.ofNat 8)

/-- The seeds of the device key: "MNDK". -/
def dkSeeds : List Byte := shake 48 (bytesOf 32 Config.deviceSecret ++ asciiBytes [0x4D, 0x4E, 0x44, 0x4B])
/-- The seeds of the alias key of an image: "MNAK". -/
def akSeeds (digest : W512) : List Byte :=
  shake 48 (bytesOf 32 Config.deviceSecret ++ asciiBytes [0x4D, 0x4E, 0x41, 0x4B] ++ bytesOf 64 digest)

/-- A signature of the base. -/
def signBytes (seeds msg : List Byte) : List Byte := (List.range sigShort).map (fun i => Config.slhSign seeds msg i)

/-- A die entry of the identity record (R429). -/
def dieEntry (f : DieFuses) (h : Half) : List Byte :=
  natLe 6 f.lot.toNat ++ natLe 1 f.wafer ++ [f.x, f.y] ++ natLe 1 h.num ++ natLe 1 f.rev ++ zeros 5

/-- The device certificate (R439). -/
def deviceCert (s : State) : List Byte :=
  natLe 4 0x43444E4D ++ natLe 4 1 ++ bytesOf 32 (Config.publicKey dkSeeds) ++ serialBytes s ++ dieEntry s.ident.die0 .h0 ++
    (if s.part = .mb1 then zeros 16 else dieEntry s.ident.die1 .h1) ++ (List.range sigLong).map Config.certSig

/-- The alias certificate (R439). -/
def aliasCert (s : State) : List Byte :=
  let body := natLe 4 0x43414E4D ++ natLe 4 1 ++ bytesOf 32 s.ident.akPub ++ bytesOf 64 s.ident.digest ++
    natLe 4 s.pwr.rec0.boots
  body ++ signBytes dkSeeds body

/-! ### The identity record (R429) -/

/-- `HALVES` as the identity record and `DEV_INFO` give it. -/
def halvesByte (s : State) : Nat := if s.part = .mb1 then 1 else s.zor.halves

/-- The code of the part. -/
def partCode (s : State) : Nat := if s.part = .mb1 then 1 else 2

/-- The identity record, 320 bytes. -/
def idRecord (s : State) : List Byte :=
  let i := s.ident
  let h1 := decide (s.part = .mb2) && (i.h1Reported || !farGone s)
  let b := natLe 4 0x44494E4D ++ natLe 2 1 ++ natLe 2 320 ++ natLe 1 (partCode s) ++ natLe 1 (halvesByte s) ++
    natLe 1 i.bootState ++ zeros 1 ++ natLe 2 i.devId.toNat ++ natLe 1 (b2n i.idValid) ++ zeros 1 ++ serialBytes s ++
    dieEntry i.die0 .h0 ++ (if h1 then dieEntry i.die1 .h1 else zeros 16) ++
    (List.range 16).flatMap (fun k => bytesOf 8 (i.serials.getD k 0)) ++ bytesOf 32 i.dkPub ++ bytesOf 32 i.akPub ++
    natLe 4 i.fwVersion.toNat ++ natLe 1 (b2n i.runSlot) ++ natLe 1 i.svn ++ natLe 1 i.die0.floor ++ zeros 1 ++
    natLe 4 i.setSeq ++ zeros 48
  b ++ natLe 4 (crc32 b)

/-! ### Measurements of settings (R443) -/

/-- The digest of the active record: its 768 bytes with the transport keys zero. -/
def settingsDigest (s : State) : List Byte :=
  let r := slice 0 768 (activeRec s)
  shake 64 (r.take 0x90 ++ zeros 512 ++ r.drop 0x290)

/-- The SETTINGS measurement. -/
def measureSettings (s : State) : State :=
  measure 1 3 none (settingsDigest s) (natLe 4 (leNat (slice 8 4 (activeRec s)))) s

/-! ### Quotes (R445) -/

/-- A quote without log entries, signed with the alias key. -/
def quoteBytes (s : State) (f : Nat) (nonce : List Byte) : List Byte :=
  let i := s.ident
  let b := natLe 4 0x54514E4D ++ natLe 2 1 ++ natLe 2 (b2n i.logFull) ++ natLe 1 f ++ zeros 3 ++ natLe 4 i.extends_ ++
    natLe 8 (timeUs s .h0) ++ zeros 8 ++ nonce ++ i.meas.flatMap (bytesOf 64) ++ idRecord s
  b ++ signBytes (akSeeds i.digest) b

end Sys2Proof.Machine
end

