-- ==== Sys2Proof/Machine/Power.lean ====
section
/-! DEFINITION. Power, clocks and resets (chapter 13), with the board's signals that act on them (chapter 16): domains, buck
and supply faults, the Gaffers, die temperatures and trips, `TIME`, how the base and H1 go down. -/

namespace Sys2Proof.Machine

open Sys2Proof

/-! ### Pieces -/

/-- A half's Gaffer. -/
def gafAt (s : State) (h : Half) : GafSt :=
  match h with
  | .h0 => s.pwr.gaf0
  | .h1 => s.pwr.gaf1
/-- Change it. -/
def modGaf (h : Half) (f : GafSt → GafSt) (s : State) : State :=
  let p := s.pwr
  match h with
  | .h0 => { s with pwr := { p with gaf0 := f p.gaf0 } }
  | .h1 => { s with pwr := { p with gaf1 := f p.gaf1 } }
/-- A half's management processor. -/
def mpAt (s : State) (h : Half) : MpSt :=
  match h with
  | .h0 => s.cad.mp0
  | .h1 => s.cad.mp1
/-- Change it. -/
def modMp (h : Half) (f : MpSt → MpSt) (s : State) : State :=
  let c := s.cad
  match h with
  | .h0 => { s with cad := { c with mp0 := f c.mp0 } }
  | .h1 => { s with cad := { c with mp1 := f c.mp1 } }

/-- The half runs: the base is up, and H1 is not held in reset. -/
def halfRuns (s : State) (h : Half) : Bool :=
  !s.pwr.down && (decide (h = .h0) || (decide (s.part = .mb2) && !farGone s && !s.zor.h1Reset))

/-! ### The cold reset (R423) -/

/-- A cold reset: every field of both halves at its reset value. What stays is what no reset reaches: fuses, flash and NVM,
the reset records of the AON domains, the pins, and the model's own queue, clock, output and counter. -/
def coldReset (s : State) : State :=
  let r := State.reset
  let i := s.ident
  let bundles := s.zor.bundles.map (fun e => (e.1, { BundleSt.init with assembly := e.2.assembly }))
  { r with
    part := s.part, clock := s.clock, pending := s.pending, out := s.out, freeCtr := s.freeCtr, pins := s.pins
    fab := { FabricSt.init with
      fusedOut := s.fab.fusedOut
      wasOut := (s.fab.wasOut ++ s.fab.phys.flatMap (fun e => e.2.mapOut.map (fun c => (e.1, c)))).dedup }
    mem := { MemSt.init with repairLog := s.mem.repairLog }
    zor := { ZoramSt.init with bundles := bundles }
    pwr := { PowerSt.init with
      rec0 := s.pwr.rec0, rec1 := s.pwr.rec1, tripHot := s.pwr.tripHot, refLost := s.pwr.refLost, die := s.pwr.die }
    ident := { IdentSt.init with
      die0 := i.die0, die1 := i.die1, serial := i.serial, flash := i.flash, nvm0 := i.nvm0, nvm1 := i.nvm1
      storeCount := i.storeCount, images := i.images, slotsWritten := i.slotsWritten } }

/-- Some sensor of H0 last read 100 °C or more. -/
def h0Hot (s : State) : Bool := (List.range 22).any (fun k => decide (100 ≤ (s.pwr.die.getD k (0, 0)).1))

/-- The base goes down with a reset cause (R407), a trip kind and a domain; it boots again at COLD_BOOT. A trip pulls TRIP_N
low until then (R474). -/
def takeDown (cause kind dom : Nat) (s : State) : State :=
  let p := s.pwr
  let mark (r : ResetRec) : ResetRec := { r with cause := cause, pinReset := false, tripKind := kind, tripDom := dom }
  let pins := { s.pins with tripN := s.pins.tripN && decide (kind = 0) }
  coldReset { s with
    pwr := { p with
      rec0 := mark p.rec0, rec1 := mark p.rec1
      tripHot := decide (kind = 2) || (decide (cause = 4) && h0Hot s) }
    pins := pins }

/-- A reset of H1 with a cause, seen by H0 at once: H0 fences H1 (R359, R423). -/
def h1Down (cause kind dom : Nat) (s : State) : State :=
  if s.part = .mb1 then s
  else
    let s := fenceH1 cause s
    let p := s.pwr
    { s with pwr := { p with rec1 := { p.rec1 with cause := cause, tripKind := kind, tripDom := dom } } }

/-- A half trips (R419, R421): H0 takes the base down, H1 is reset and fenced. The half says so on the sideband first. -/
def trip (h : Half) (kind : Nat) (s : State) : State :=
  let s := sideSend (.half h 0) 0x1C [4] s
  match h with
  | .h0 => takeDown 4 kind 0 s
  | .h1 => h1Down 4 kind 0 s

/-- H1 learns that H0 is lost (R360): it discards its state and waits in reset. -/
def h1Loses (s : State) : State :=
  if s.part = .mb1 ∨ s.zor.h1Reset then s else discardH1 s

/-! ### Resets that the halves tell each other (R359, R360, R416, R423) -/

/-- RESET_NOTICE, received by a half. -/
def doResetNotice (h : Half) (s : State) : State :=
  match h with
  | .h0 => fenceH1 3 s
  | .h1 => h1Loses s

/-- TRIP_NOTICE, received by a half. -/
def doTripNotice (h : Half) (s : State) : State :=
  match h with
  | .h0 => fenceH1 4 s
  | .h1 => h1Loses s

/-- H1_RESET (R423): H0 fences it. -/
def doH1Reset (s : State) : State := if farGone s then discardH1 s else fenceH1 3 s

/-- WATCHDOG_EXPIRE (R388). -/
def doWatchdog (h : Half) (s : State) : State :=
  if !halfRuns s h then s
  else
    let s := sideSend (.half h 0) 0x09 [] s
    match h with
    | .h0 => takeDown 1 0 0 s
    | .h1 => h1Down 1 0 0 s

/-! ### Heartbeats and work of the management processors (R387, R388) -/

/-- MP_BEAT: sent every 10 ms; over the sideband while Zoram is not up. -/
def doMpBeat (h : Half) (s : State) : State :=
  if (mpAt s h).st ≠ 1 ∨ !halfRuns s h then s
  else
    let n := ((mpAt s h).beat + 1) % 2 ^ 32
    let s := modMp h (fun m => { m with beat := n }) s
    let s := when (decide (s.zor.halves = 0)) (fun s => sideGot (.half h.other 0) 0x13 (natLe 4 n)
      (sideSend (.half h 0) 0x13 (natLe 4 n) s)) s
    if s.part = .mb1 then s else modMp h.other (fun m => { m with beatSeenT := s.clock }) s

/-- MP_BEAT_LOSS: 30 ms without a heartbeat of H1. -/
def doMpBeatLoss (s : State) : State :=
  if s.part = .mb1 ∨ farGone s ∨ s.cad.mp0.st ≠ 1 then s
  else fenceH1 3 (atTime (s.cad.mp0.beatSeenT + ms 30) s)

/-- MP_HELLO, received by a half: what the other runs. H1 has then reported. -/
def doMpHello (h : Half) (fw : W32) (slot : Bool) (s : State) : State :=
  let s := modMp h (fun m => { m with hello := some (fw, slot), beatSeenT := s.clock }) s
  let i := s.ident
  if h = .h0 then { s with ident := { i with h1Reported := true } } else s

/-- MP_WORK, received by H1: the item is taken up. -/
def doMpWork (item : Nat) (s : State) : State :=
  if s.cad.mp1.st ≠ 1 ∨ !halfRuns s .h1 then s
  else
    modMp .h1 (fun m => { m with works := m.works ++ [item] })
      (modMp .h0 (fun m => { m with works := if m.works.contains item then m.works else m.works ++ [item] }) s)

/-- MP_DONE, received by H0: the item is over on both halves. -/
def doMpDone (item : Nat) (s : State) : State :=
  let drop (m : MpSt) : MpSt := { m with works := m.works.filter (fun x => decide (x ≠ item)) }
  modMp .h0 drop (modMp .h1 drop s)

/-! ### Domains (R408–R411) -/

/-- The contexts of every array that a cluster's physical arrays serve are EMPTY; also true of a cluster of spares, retired
and bad arrays. -/
def clusterIdle (s : State) (h : Half) (k : Nat) : Bool :=
  (List.range 64).all (fun i =>
    match (larr s h i).phys with
    | some p => decide (p / 4 ≠ k) || [0, 1, 2, 3].all (fun c => decide ((ctxAt s h i c).st = .empty))
    | none => true)

/-- A regulator with an admitted guarantee loads the stack (R410). -/
def stackLoaded (s : State) (k : Nat) : Bool :=
  (admittedBut s none).any (fun g => decide (0 < loadOn s g.2 k))

/-- Some access waits for a stack. -/
def stackWanted (s : State) (k : Nat) : Bool :=
  s.mem.chans.any (fun e => decide (e.1 / 64 = k) && decide (e.2.q ≠ [])) ||
  s.buf.stalled.any (fun e => decide (e.1 / 16 = k) && decide (e.2 ≠ [])) ||
  s.buf.waits.any (fun e => decide (e.1 / 4 / 2 ^ 26 / 16 = k) && decide (e.2 ≠ []))

/-- The state that a domain may leave ON for, when its condition holds (R410). -/
def gateTo (s : State) (h : Half) (i : Nat) : Option Nat :=
  let n := 35 * h.num + i
  let ctl := rget s .domCtl n
  if i = 31 then (if natBit 1 ctl then some 2 else none)
  else if natBit 0 ctl then none
  else if 2 ≤ i ∧ i < 20 then
    let spare := (List.range 64).all (fun j => decide (((larr s h j).phys).map (fun p => p / 4) ≠ some (i - 2)))
    if spare || (natBit 2 ctl && clusterIdle s h (i - 2)) then some 2 else none
  else if 20 ≤ i ∧ i < 28 then
    let k := 8 * h.num + (i - 20)
    let x := stackAt s k
    let idle := max 1 (natBits 15 4 ctl)
    if natBit 3 ctl && decide (x.lastAccess + us idle ≤ s.clock) && !stackWanted s k && !stackLoaded s k &&
      decide (x.band ≤ 3) && decide (x.fence = 0) then some 3 else none
  else if i = 29 ∨ i = 30 then
    if (List.range 4).all (fun j => !rbit s .portCtl (8 * h.num + 4 * (i - 29) + j) 0) then some 2 else none
  else if i = 32 then (if s.part = .mb1 ∨ farGone s then some 0 else none)
  else if 33 ≤ i then (if (siteAt s (2 * h.num + (i - 33))).st = 0 ∧ !rbit s .gsCtl (2 * h.num + (i - 33)) 0 then some 2 else none)
  else none

/-- DOMAIN_GATE (R410). -/
def doDomainGate (h : Half) (i : Nat) (s : State) : State :=
  let n := 35 * h.num + i
  if (domAt s n).st ≠ 1 then s
  else
    match gateTo s h i with
    | none => s
    | some st =>
      let s := modDom n (fun d => { d with st := st }) s
      if st = 3 then
        let k := 8 * h.num + (i - 20)
        setStack k { stackAt s k with selfRefresh := true } s
      else if i = 31 then doHostDown s
      else s

/-- The wake time of a domain in clock units (R410). -/
def wakeTime (i : Nat) : Nat :=
  if 2 ≤ i ∧ i < 20 then us 3
  else if 20 ≤ i ∧ i < 28 then us 20
  else if i = 29 ∨ i = 30 then us 500
  else if i = 31 then ms 1
  else if 33 ≤ i then us 200
  else 0

/-- DOMAIN_WAKE (R410, R411): a gated or sleeping domain whose wake event is there reaches ON after its wake time. A fenced
stack is not woken. -/
def doDomainWake (h : Half) (i : Nat) (s : State) : State :=
  let n := 35 * h.num + i
  let d := domAt s n
  let k := 8 * h.num + (i - 20)
  let wanted := if d.st = 3 then (stackWanted s k || rbit s .domCtl n 0 || !rbit s .domCtl n 3) && decide ((stackAt s k).fence = 0)
    else (gateTo s h i).isNone
  if (d.st = 2 ∨ d.st = 3) ∧ wanted ∧ i ≠ 32 then
    let s := atTime (s.clock + wakeTime i) s
    let s := modDom n (fun d => { d with st := 1, wakes := (d.wakes + 1) % 2 ^ 16 }) s
    if d.st = 3 then
      let s := setStack k { stackAt s k with selfRefresh := false } s
      forEach ((List.range 16).map (fun j => 16 * k + j)) retryStalled s
    else s
  else s

/-! ### Faults of bucks and supplies (R412–R414, R470, R474) -/

/-- The codes of `FAULT_CAUSE`. -/
def faultCode : BuckFaultKind → Nat
  | .undervoltage => 1
  | .overcurrent => 2
  | .overtemperature => 3

/-- A cluster's buck fails: its physical arrays are retired, the logical arrays they served have none and their contexts are
EMPTY; a record for the function that owned it. -/
def loseCluster (h : Half) (k : Nat) (s : State) : State :=
  let f := clusterFunc s h k
  let s := forEach (List.range 64) (fun i s =>
    let l := larr s h i
    match l.phys with
    | some p =>
      if p / 4 = k then
        let s := forEach [0, 1, 2, 3] (fun c s => withdraw (.ctx h i c) (setCtx h i c Ctx.init s)) s
        let fab := s.fab
        { s with fab := { fab with larr := fab.larr.insert (64 * h.num + i) { l with phys := none } } }
      else s
    | none => s) s
  let s := forEach [0, 1, 2, 3] (fun j s =>
    let n := 72 * h.num + 4 * k + j
    let fab := s.fab
    { s with fab := { fab with phys := fab.phys.insert n { fab.phys.getD n PArr.init with role := 2 } } }) s
  match f with
  | some f => event h 0x0B02 2 (some f) (2 + k) 0 413 s
  | none => s

/-- BUCK_FAULT (R413): the domain enters FAULT. H1's HOST domain and MB1's ZORAM domain are always OFF (R21): no buck of theirs
runs. -/
def doBuckFault (h : Half) (i : Nat) (k : BuckFaultKind) (s : State) : State :=
  let n := 35 * h.num + i
  if (domAt s n).st = 5 ∨ s.pwr.down ∨ (h = .h1 ∧ i = 31) ∨ (s.part = .mb1 ∧ i = 32) then s
  else
    let s := modDom n (fun d => { d with st := 5, cause := faultCode k }) s
    if i = 0 ∨ i = 1 ∨ i = 28 then
      match h with
      | .h0 => takeDown 4 5 i s
      | .h1 => h1Down 4 5 i (event h 0x0B02 3 none i 0 (faultCode k) s)
    else if i < 20 then loseCluster h (i - 2) s
    else if i < 28 then degradeStack (8 * h.num + (i - 20)) 5 (event h 0x0B02 3 none i 0 (faultCode k) s)
    else if i < 31 then forEach (List.range 4) (fun j s => portDown (8 * h.num + 4 * (i - 29) + j) .failed s) s
    else if i = 31 then doHostDown (event h 0x0B02 3 none i 0 (faultCode k) s)
    else if i = 32 then fenceH1 3 (event h 0x0B02 3 none i 0 (faultCode k) s)
    else
      let g := 2 * h.num + (i - 33)
      fenceSite g 1 (event h 0x0B02 2 (some (siteFunc s g)) i 0 (faultCode k) s)

/-- The throttle level changes: each entry into level 1 or above and each return to 0 is recorded, at most one each per 1 ms
(R418). -/
def setLevel (h : Half) (new : Nat) (s : State) : State :=
  let g := gafAt s h
  let old := g.throttle
  let s := modGaf h (fun g => { g with throttle := new }) s
  let free (t : Option Nat) : Bool := match t with
    | some t => decide (t + ms 1 ≤ s.clock)
    | none => true
  if old = 0 ∧ new ≠ 0 ∧ free g.lastEnter then
    event h 0x0B01 0 none 0 0 1 (modGaf h (fun g => { g with lastEnter := some s.clock }) s)
  else if old ≠ 0 ∧ new = 0 ∧ free g.lastLeave then
    event h 0x0B01 0 none 0 0 0 (modGaf h (fun g => { g with lastLeave := some s.clock }) s)
  else s

/-- VIN_FAST_THRESHOLD (R414). -/
def doVinFast (s : State) : State :=
  if s.pwr.down then s
  else forEach (halves s) (fun h s =>
    setLevel h (max 8 (gafAt s h).throttle) (modGaf h (fun g => { g with vinLow := true }) s)) s

/-- VIN_MAIN_RESTORED (R414). -/
def doVinRestored (s : State) : State :=
  forEach (halves s) (fun h s => modGaf h (fun g => { g with vinLow := false }) s) s

/-- VIN_TRIP (R414, R470): both halves enter reset; without power of the AON domains, their records are lost too. -/
def doVinTrip (aonKept : Bool) (s : State) : State :=
  let pins := { s.pins with pwrGood := false }
  let s := takeDown 4 4 0 { s with pins := pins }
  if aonKept then s
  else
    let p := s.pwr
    { s with pwr := { p with rec0 := ResetRec.init, rec1 := ResetRec.init, tripHot := false, die := [] } }

/-- PWR_GOOD_HIGH (R471): the AON domains run and the I3C target answers; the cold boot is COLD_BOOT. -/
def doPwrGood (s : State) : State :=
  let pins := { s.pins with pwrGood := true }
  { s with pins := pins }

/-- RESET_N_ASSERT (R474): the base goes into cold reset, reported as power-on with `PIN_RESET`. -/
def doResetN (s : State) : State :=
  let pins := { s.pins with resetN := false }
  let s := takeDown 0 0 0 { s with pins := pins }
  let p := s.pwr
  { s with pwr := { p with rec0 := { p.rec0 with pinReset := true }, rec1 := { p.rec1 with pinReset := true } } }

/-! ### The Gaffers (R415–R418) -/

/-- The two Gaffers exchange: MB2 with H1 in service. -/
def exchanging (s : State) : Bool := halfRuns s .h0 && halfRuns s .h1

/-- A quotient rounded to whole watts; how a fraction is rounded is open (log entry 1). -/
def roundW (num den : Nat) (s : State) : Nat × State :=
  if num % den = 0 then (num / den, s)
  else
    let b := freeBool s
    (num / den + b2n b.1, b.2)

/-- H0's grant of a division of P (R415): the demands D0 and D1, in W. -/
def grantOf (d0 d1 : Nat) (s : State) : Nat × State :=
  let p := pkgLimit s
  let f := halfFloor s
  if d0 + d1 ≤ p then roundW (2 * d0 + (p - d0 - d1)) 2 s
  else
    let a := max d0 f
    let b := max d1 f
    match roundW (f * (a + b - 2 * f) + (p - 2 * f) * (a - f)) (a + b - 2 * f) s with
    | (g, s) => (min g p, s)

/-- GF_REPORT (R415, R416): H0 computes the grants, sends G1, applies its own at once when it falls. A new package limit
applies from here. -/
def doGfReport (demand : Nat) (s : State) : State :=
  if !exchanging s then s
  else
    let s := groupTake .h0 .pkg s
    let g := s.pwr.gaf0
    match grantOf (g.power + g.removed) demand s with
    | (g0, s) =>
      let g1 := pkgLimit s - g0
      let n := (g.exchange + 1) % 2 ^ 16
      let s := sideSend (.half .h0 0) 0x19 (natLe 2 g1 ++ natLe 2 n) s
      modGaf .h0 (fun g => { g with
        exchange := n, lastMsg := s.clock, fallback := false
        grant := if g0 ≤ g.grant then g0 else g.grant, pendGrant := if g0 ≤ g.grant then none else some g0 }) s

/-- GF_GRANT (R416): H1 applies its grant. -/
def doGfGrant (grant exchange : Nat) (s : State) : State :=
  if !exchanging s then s
  else modGaf .h1 (fun g => { g with grant := grant, exchange := exchange, lastMsg := s.clock, fallback := false }) s

/-- GRANT_ACK_TIMEOUT (R416): H0 keeps the lower of its old and new grants. -/
def doGrantTimeout (s : State) : State :=
  if s.pwr.gaf0.pendGrant.isNone then s
  else modGaf .h0 (fun g => { g with pendGrant := none }) (atTime (s.pwr.gaf0.lastMsg + us 30) s)

/-- GAFFER_FALLBACK (R416): P ÷ 2 after 300 µs without the other half's message. H0 grants each half as much; where its own
grant rises it waits for H1's `ACK`. -/
def doFallback (h : Half) (s : State) : State :=
  if !exchanging s then s
  else
    let s := atTime ((gafAt s h).lastMsg + us 300) s
    let p := pkgLimit s / 2
    match h with
    | .h0 =>
      let n := (s.pwr.gaf0.exchange + 1) % 2 ^ 16
      modGaf .h0 (fun g => { g with
        exchange := n, fallback := true
        grant := min p g.grant, pendGrant := if p ≤ g.grant then none else some p })
        (sideSend (.half .h0 0) 0x19 (natLe 2 p ++ natLe 2 n) s)
    | .h1 => modGaf .h1 (fun g => { g with grant := p, fallback := true }) s

/-- The power of the last 10 µs joins those of the last 100 µs, whose mean is kept in whole watts (DESIGN CHOICE, log entry 98). -/
def noteGafPower (h : Half) (power removed : Nat) (s : State) : State :=
  modGaf h (fun g =>
    let l := (power, removed) :: g.last.take 9
    { g with last := l, power := (l.map (fun e => e.1)).sum / l.length, removed := (l.map (fun e => e.2)).sum / l.length }) s

/-- THROTTLE_ADJUST (R417, R418): the power of the last 10 µs against the grant; the arithmetic power removed is estimated from
the cluster power. `T_THROTTLE` overrides, and the fast threshold holds at least 8. -/
def doThrottle (h : Half) (power cluster : Nat) (s : State) : State :=
  if !halfRuns s h then s
  else
    let g := gafAt s h
    let l := g.throttle
    let s := noteGafPower h power (cluster * l / (16 - l)) s
    if g.tempHold then s
    else
      let n := if g.grant < power then min 15 (l + 1) else if 100 * power < 95 * g.grant then l - 1 else l
      setLevel h (if g.vinLow then max 8 n else n) s

/-! ### Die sensors, clocks, time (R419–R422) -/

/-- `T_THROTTLE`. -/
def tThrottle (s : State) (h : Half) : Int := ((min 115 (rbits s .thermCfg h.num 7 0) : Nat) : Int)

/-- DIE_SENSOR_READ (R419). While the base is down after a trip, readings of H0 below 100 °C let it boot. -/
def doDieSensor (h : Half) (t : DieTemps) (s : State) : State :=
  match t with
  | none => if halfRuns s h then trip h 2 s else s
  | some l =>
    let p := s.pwr
    let die := l.foldl (fun m r =>
      let k := 22 * h.num + r.1.val
      m.insert k (r.2, max r.2 (m.getD k (r.2, r.2)).2)) p.die
    let s := { s with pwr := { p with die := die } }
    let p := s.pwr
    if p.down then
      if h = .h0 ∧ p.tripHot ∧ !h0Hot s then { s with pwr := { p with tripHot := false } } else s
    else if !halfRuns s h then s
    else if l.any (fun r => decide (120 ≤ r.2)) then trip h 1 s
    else
      let now := (List.range 22).filterMap (fun k => (die.find? (22 * h.num + k)).map Prod.fst)
      let g := gafAt s h
      let hot := now.any (fun x => decide (tThrottle s h < x))
      let cool := now.all (fun x => decide (x ≤ tThrottle s h - 3))
      if hot ∨ (g.tempHold ∧ !cool) then
        setLevel h (min 15 (g.throttle + 2)) (modGaf h (fun g => { g with tempHold := true }) s)
      else modGaf h (fun g => { g with tempHold := false }) s

/-- CLOCK_LOSS (R421): a loss of the reference or of a core PLL is a trip with cause CLOCK. Without the reference the base
stays down until it returns. -/
def doClockLoss (h : Half) (k : ClockLossKind) (s : State) : State :=
  let s := if halfRuns s h then trip h 3 s else s
  let p := s.pwr
  match h, k with
  | .h0, .reference => { s with pwr := { p with refLost := true } }
  | _, _ => s

/-- REFCLK_AON_RETURN (R423): the boot is COLD_BOOT. -/
def doRefReturn (s : State) : State :=
  let p := s.pwr
  { s with pwr := { p with refLost := false } }

/-- TIME_SET (R422). -/
def doTimeSet (t : BitVec 64) (s : State) : State :=
  let p := s.pwr
  { s with pwr := { p with time1 := t.toNat, time1At := s.clock } }

/-- The effect of a write to `PKG_COMMIT`: the set applies at the next exchange; where there is none, at once. -/
def pkgCommitAct (new : Nat) (s : State) : State :=
  if natBit 0 new && groupPending s .h0 .pkg then
    let s := groupApply .h0 .pkg s
    if exchanging s then s
    else
      let s := groupTake .h0 .pkg s
      modGaf .h0 (fun g => { g with grant := if s.part = .mb1 then pkgLimit s else pkgLimit s - halfFloor s }) s
  else s

/-- The effect of a write to `DOM_CTL`: `FORCE_OFF` of HOST gates the domain, and clearing it wakes the domain. -/
def domCtlAct (n new : Nat) (s : State) : State := rput .domCtl n new s

/-! ### The commands -/

/-- RESET_NOTICE (R359). -/
def execResetNotice (h : Half) (s : State) : Outcome := 
  onHalf s .h1 (.next (doResetNotice h (sideGot (.half h 0) 0x09 [] s)))
/-- FENCE_H1 (R359). -/
def execFenceH1 (_why : FenceWhy) (s : State) : Outcome := onHalf s .h1 (.next (fenceH1 3 s))
/-- H0_LOSS_AT_H1 (R360). -/
def execH0LossAtH1 (s : State) : Outcome := onHalf s .h1 (.next (h1Loses s))
/-- MP_HELLO (R387). -/
def execMpHello (h : Half) (fw : BitVec 32) (slot : Bool) (s : State) : Outcome := 
  onHalf s .h1 (.next (doMpHello h fw slot (sideGot (.half h 0) 0x10 (natLe 4 fw.toNat ++ [BitVec.ofNat 8 (b2n slot)]) s)))
/-- MP_WORK (R387). -/
def execMpWork (item opcode : BitVec 16) (args : List (BitVec 8)) (s : State) : Outcome :=
  onHalf s .h1 (.next (doMpWork item.toNat (sideGot (.half .h1 0) 0x11 (natLe 2 item.toNat ++ natLe 2 opcode.toNat ++ args) s)))
/-- MP_DONE (R387). -/
def execMpDone (item : BitVec 16) (status : BitVec 8) (result : List (BitVec 8)) (s : State) : Outcome :=
  onHalf s .h1 (.next (doMpDone item.toNat (sideGot (.half .h0 0) 0x12 (natLe 2 item.toNat ++ [status] ++ result) s)))
/-- MP_BEAT (R388). -/
def execMpBeat (sender : Half) (s : State) : Outcome := onHalf s sender (.next (doMpBeat sender s))
/-- MP_BEAT_LOSS (R388). -/
def execMpBeatLoss (s : State) : Outcome := onHalf s .h1 (.next (doMpBeatLoss s))
/-- WATCHDOG_EXPIRE (R388). -/
def execWatchdogExpire (h : Half) (s : State) : Outcome := onHalf s h (.next (doWatchdog h s))
/-- DOMAIN_GATE (R410). -/
def execDomainGate (h : Half) (i : Fin 35) (s : State) : Outcome := onHalf s h (.next (doDomainGate h i.val s))
/-- DOMAIN_WAKE (R410). -/
def execDomainWake (h : Half) (i : Fin 35) (s : State) : Outcome := onHalf s h (.next (doDomainWake h i.val s))
/-- BUCK_FAULT (R413). -/
def execBuckFault (h : Half) (i : Fin 35) (k : BuckFaultKind) (s : State) : Outcome := onHalf s h (.next (doBuckFault h i.val k s))
/-- VIN_FAST_THRESHOLD (R414). -/
def execVinFastThreshold (s : State) : Outcome := .next (doVinFast s)
/-- VIN_TRIP (R414). -/
def execVinTrip (aonKept : Bool) (s : State) : Outcome := .next (doVinTrip aonKept s)
/-- GF_REPORT (R415). -/
def execGfReport (demand power : BitVec 16) (level : Fin 16) (hot : Int) (s : State) : Outcome :=
  onHalf s .h1 (.next (doGfReport demand.toNat (sideGot (.half .h0 0) 0x18 (natLe 2 demand.toNat ++ natLe 2 power.toNat ++
    [BitVec.ofNat 8 level.val, BitVec.ofInt 8 hot]) s)))
/-- GF_GRANT (R416). -/
def execGfGrant (grant exchange : BitVec 16) (s : State) : Outcome := 
  onHalf s .h1 (.next (doGfGrant grant.toNat exchange.toNat
    (sideGot (.half .h1 0) 0x19 (natLe 2 grant.toNat ++ natLe 2 exchange.toNat) s)))
/-- GRANT_ACK_TIMEOUT (R416). -/
def execGrantAckTimeout (s : State) : Outcome := onHalf s .h1 (.next (doGrantTimeout s))
/-- GAFFER_FALLBACK (R416). -/
def execGafferFallback (h : Half) (s : State) : Outcome := onHalf s .h1 (.next (doFallback h s))
/-- THROTTLE_ADJUST (R417). -/
def execThrottleAdjust (h : Half) (power cluster : Nat) (s : State) : Outcome := onHalf s h (.next (doThrottle h power cluster s))
/-- DIE_SENSOR_READ (R419). -/
def execDieSensorRead (h : Half) (temps : DieTemps) (s : State) : Outcome := onHalf s h (.next (doDieSensor h temps s))
/-- CLOCK_LOSS (R421). -/
def execClockLoss (h : Half) (k : ClockLossKind) (s : State) : Outcome := onHalf s h (.next (doClockLoss h k s))
/-- TIME_SET (R422). -/
def execTimeSet (t : BitVec 64) (s : State) : Outcome := 
  onHalf s .h1 (.next (doTimeSet t (sideGot (.half .h1 0) 0x1B (natLe 8 t.toNat) s)))
/-- TRIP_NOTICE (R416). -/
def execTripNotice (h : Half) (cause : BitVec 8) (s : State) : Outcome :=
  onHalf s .h1 (.next (doTripNotice h (sideGot (.half h 0) 0x1C [cause] s)))
/-- H1_RESET (R423). -/
def execH1Reset (s : State) : Outcome := onHalf s .h1 (.next (doH1Reset s))
/-- RESET_N_ASSERT (R474). -/
def execResetNAssert (s : State) : Outcome := .next (doResetN s)
/-- PWR_GOOD_HIGH (R471). -/
def execPwrGoodHigh (s : State) : Outcome := .next (doPwrGood s)
/-- VIN_MAIN_RESTORED (R414). -/
def execVinMainRestored (s : State) : Outcome := .next (doVinRestored s)
/-- REFCLK_AON_RETURN (R423). -/
def execRefclkAonReturn (s : State) : Outcome := .next (doRefReturn s)

end Sys2Proof.Machine
end

