-- ==== Sys2Proof/Machine/Boot.lean ====
section
/-! DEFINITION. The cold boot (R424–R426, R433, R434, R440, R475), the return of H1, and the rise of the rollback floor
(R442). The steps of a boot happen within one command: how long each takes is left out (log entry 17). -/

namespace Sys2Proof.Machine

open Sys2Proof

/-! ### Steps 1 to 5 -/

/-- `RESET_INFO` of a half (R427). -/
def resetInfo (r : ResetRec) : Nat :=
  r.cause + 2 ^ 4 * b2n r.pinReset + 2 ^ 5 * r.tripKind + 2 ^ 8 * r.tripDom + 2 ^ 16 * r.boots

/-- A power domain takes a state. -/
def setDom (h : Half) (i st : Nat) (s : State) : State := modDom (35 * h.num + i) (fun d => { d with st := st }) s

/-- Steps 3 and 4: the collector runs, MGMT, FABRIC and ZORAM are ON, the processor runs its boot ROM. -/
def bootHalfOn (h : Half) (s : State) : State :=
  let s := setDom h 28 1 (setDom h 1 1 s)
  let s := when (decide (s.part = .mb2)) (setDom h 32 1) s
  setCollector h { collector s h with on := true, lastSample := s.clock } s

/-- Step 1: the AON domains run, straps are latched, `TIME` starts, the Gaffers apply P ÷ 2 each on MB2. -/
def bootAon (rep : BootReport) (s : State) : State :=
  let s := coldReset s
  let p := s.pwr
  let start (r : ResetRec) : ResetRec := { r with boots := min 65535 (r.boots + 1) }
  let grant := if s.part = .mb1 then pkgLimit s else pkgLimit s / 2
  let pins := { s.pins with resetN := true, tripN := true, straps := rep.straps, bootHoldBall := rep.straps.getLsbD 4 }
  { s with
    pins := pins
    pwr := { p with
      rec0 := start p.rec0, rec1 := start p.rec1, time0 := s.clock, time1At := s.clock, down := false
      gaf0 := { p.gaf0 with grant := grant, lastMsg := s.clock }
      gaf1 := { p.gaf1 with grant := grant, lastMsg := s.clock } } }

/-- Step 2: every sideband lane between the halves is active (R348). -/
def bootSidebands (s : State) : State :=
  if s.part = .mb1 then s
  else forEach (List.range 4) (fun k s => modSb k (fun x => { x with
    stage := 5, stageT := s.clock, active := true, tapPost := 4, txPost := 4 }) s) s

/-- Step 5: the bundles train; with fewer than 12 up, H1 is fenced (R358). -/
def bootZoram (rep : BootReport) (s : State) : State :=
  if s.part = .mb1 then { s with zor := { s.zor with halves := 1 } }
  else
    let s := trainAll rep.zoram s
    if s.zor.halves = 1 then s else fenceH1 3 s

/-- Steps 1 to 5. With both halves on one ORIENT, both stay in reset (R355). -/
def bootFront (rep : BootReport) (s : State) : State :=
  let s := bootAon rep s
  if s.part = .mb2 ∧ !rep.orientOk then
    let i := s.ident
    let p := s.pwr
    event .h0 0x0002 3 none 0 0 355 { s with
      ident := { i with orientConflict := true, refused := true }
      pwr := { p with down := true } }
  else
    let c := s.pwr.rec0
    let s := eventD .h0 0x0005 (if c.cause = 0 ∨ c.cause = 2 then 0 else 3) none 0 0 c.cause (resetInfo c) s
    let s := forEach (halves s) bootHalfOn (bootSidebands s)
    bootZoram rep s

/-! ### Steps 6 and 7: firmware (R433, R434, R439) -/

/-- What the ROM reads of the slots that are as manufactured. -/
def noteImages (rep : BootReport) (s : State) : State :=
  let i := s.ident
  let put (n : Nat) (m : Option FwImage) (l : NMap FwImage) : NMap FwImage :=
    match m with
    | some m => l.insert n m
    | none => l.erase n
  { s with ident := { i with images := put 1 rep.image1 (put 0 rep.image0 i.images) } }

/-- The slot that the ROM loads: `PREFER` when its image verifies, else the other; none when neither does. -/
def romSlot (s : State) : Option (Nat × FwImage) :=
  let try_ (n : Nat) : Option (Nat × FwImage) :=
    if imageFault s (slotImage s n) = 0 then (slotImage s n).map (fun m => (n, m)) else none
  match try_ (preferSlot s) with
  | some r => some r
  | none => try_ (1 - preferSlot s)

/-- The ROM loads an image: keys, measurements, and the processor runs it. -/
def loadImage (n : Nat) (m : FwImage) (s : State) : State :=
  let i := s.ident
  let back := decide (n ≠ preferSlot s)
  let s := { s with ident := { i with
    fwVersion := m.version, svn := m.svn.val, digest := m.digest, runSlot := decide (n = 1), fallback := back
    dkPub := Config.publicKey dkSeeds, akPub := Config.publicKey (akSeeds m.digest) } }
  let s := measure 0 1 none (bytesOf 64 Config.romDigest) (natLe 4 Config.romRev) s
  let s := measure 0 2 none (bytesOf 64 m.digest) (natLe 1 n ++ natLe 4 m.version.toNat ++ natLe 1 m.svn.val) s
  let s := modMp .h0 (fun x => { x with st := 1, fwSlot := decide (n = 1), beatSeenT := s.clock }) s
  when back (event .h0 0x0004 0 none n 0 433) s

/-- BOOT_GO at H1 (R434): the copy whose digest agrees is run, and measured (R443: `DETAIL` 0 boot, 1 rejoin). -/
def bootGoAt (digest : W512) (detail : Nat) (s : State) : State :=
  if s.cad.mp0.st = 1 ∧ s.cad.mp1.st = 0 ∧ halfRuns s .h1 ∧ digest = s.ident.digest then
    let s := modMp .h1 (fun x => { x with st := 1, fwSlot := s.ident.runSlot, beatSeenT := s.clock }) s
    measure 2 6 none (bytesOf 64 digest) (natLe 1 detail) s
  else s

/-- Step 7: H0 copies its image to H1 and sends `BOOT_GO`; H1 runs it, both say hello, and H1 takes H0's `TIME`. H1 that says
nothing is fenced (R425). The length of the image is open (log entry 1). -/
def bootH1 (hello : Bool) (detail : Nat) (s : State) : State :=
  if s.part = .mb1 ∨ farGone s then s
  else if !hello then fenceH1 3 s
  else
    let len := freeNat 32 s
    let s := sideTold .h0 0x1A (bytesOf 64 s.ident.digest ++ natLe 4 len.1) len.2
    let s := bootGoAt s.ident.digest detail s
    let said := some (s.ident.fwVersion, s.ident.runSlot)
    let hello := natLe 4 s.ident.fwVersion.toNat ++ [BitVec.ofNat 8 (b2n s.ident.runSlot)]
    let s := sideTold .h0 0x10 hello (sideTold .h1 0x10 hello s)
    let s := modMp .h0 (fun x => { x with hello := said, beatSeenT := s.clock }) (modMp .h1 (fun x => { x with hello := said }) s)
    let i := s.ident
    let s := sideTold .h0 0x1B (natLe 8 (timeUs s .h0)) s
    doTimeSet (BitVec.ofNat 64 (timeUs s .h0)) { s with ident := { i with h1Reported := true } }

/-! ### Steps 8 to 11: arrays, stacks, host -/

/-- Step 8 on a half: the tests; at the end every cluster is unowned and so gated. -/
def bootClusters (h : Half) (rep : BootReport) (s : State) : State :=
  let t := match h with
    | .h0 => rep.tests0
    | .h1 => rep.tests1
  forEach (List.range 18) (fun j s => setDom h (2 + j) 2 s) (bootArrays h t s)

/-- A stack about which nothing is reported does not say who it is. -/
def deadStack : TrainReport :=
  { ident := none, failed := none, lanes := [], ppr := [], badSpares := [] }

/-- Steps 9 and 11 on a half: the stacks train. -/
def bootStacks (h : Half) (rep : BootReport) (s : State) : State :=
  forEach (List.range 8) (fun j s =>
    let k := 8 * h.num + j
    let i := s.ident
    let s := match List.find? (fun (p : Fin 16 × BitVec 64) => decide (p.1.val = k)) rep.serials with
      | some p => { s with ident := { i with serials := i.serials.insert k p.2 } }
      | none => s
    let rep1 := match List.find? (fun (p : Fin 16 × TrainReport) => decide (p.1.val = k)) rep.stackReps with
      | some p => p.2
      | none => deadStack
    let s := doStackTrain k rep1 (setDom h (20 + j) 1 s)
    setStack k { stackAt s k with lastTempT := s.clock, lastAccess := s.clock } s) s

/-- The excluded stacks of a half get the substitution of R462 (R461). -/
def bootSubs (h : Half) (s : State) : State :=
  forEach (List.range 8) (fun j s =>
    when (stackAt s (8 * h.num + j)).excluded (installSub (8 * h.num + j)) s) s

/-- Domains that end a boot on a half: the optical ports and guest sites gated, HOST of H0 on. -/
def bootPorts (h : Half) (s : State) : State :=
  let s := forEach [29, 30, 33, 34] (fun i s => setDom h i 2 s) s
  when (decide (h = .h0)) (setDom .h0 31 1) s

/-! ### Step 12: F0 (R34) -/

/-- F0's reserved segments of a half, in their partition, and the ring of its collector. -/
def f0Pair (h : Half) (s : State) : State :=
  let g := f0Seg s h
  let p := if s.part = .mb1 then 63 else 62 + h.num
  let v (i : Nat) : Nat := 2044 + 2 * i + 2 * 2 ^ 11 + h.num * 2 ^ 13 + p * 2 ^ 16
  let s := rput .partCfg p 0x30 (rput .segMap (g + 1) (v 1) (rput .segMap g (v 0) s))
  let a := dringBase s h
  rput .dringHi h.num (a / 2 ^ 32 + 14 * 2 ^ 16) (rput .dringLo h.num (a % 2 ^ 32) s)

/-- The halves in service. -/
def liveHalves (s : State) : List Half := (halves s).filter (fun h => decide (h = .h0) || !farGone s)

/-- The boot state that step 12 sets (R425). -/
def bootResult (s : State) : Nat :=
  if s.ident.refused then 2
  else if farGone s ∨ (List.range 16).any (fun k => (stackAt s k).excluded) then 3
  else 1

/-- Step 12. -/
def bootLast (s : State) : State :=
  let s := if s.ident.refused then s else forEach (liveHalves s) f0Pair s
  let c := s.cad
  let s := { s with cad := { c with funcs := c.funcs.insert 0 { FuncSt.init with st := 1 } } }
  let s := measureSettings (applySettings (chooseRecord s))
  let i := s.ident
  let s := forEach i.mlog.zipIdx (fun e s => measStore e.2 e.1 s) s
  let st := bootResult s
  let i := s.ident
  let p := s.pwr
  let s := { s with ident := { i with bootState := st }, pwr := { p with readyT := s.clock } }
  announce (event .h0 0x0003 (if st = 3 then 3 else 0) none 0 0 425 s)

/-- Steps 6 to 12. With no image that verifies, H0's processor halts, and no step from 7 onward runs (R425). -/
def bootBack (rep : BootReport) (s : State) : State :=
  let s := noteImages rep s
  match romSlot s with
  | none => setDom .h0 31 2 (modMp .h0 (fun x => { x with st := 2 }) s)
  | some (n, m) =>
    let s := bootH1 rep.helloH1 0 (loadImage n m s)
    let s := forEach (liveHalves s) (fun h s => bootPorts h (bootStacks h rep (bootClusters h rep s))) s
    let s := if s.ident.refused then refuseBase s else forEach (liveHalves s) bootSubs s
    bootLast s

/-! ### The commands -/

/-- The base may boot: in reset with its supplies, its reference and H0 cool (R419, R423). -/
def bootable (s : State) : Bool := s.pwr.down && s.pins.pwrGood && !s.pwr.refLost && !s.pwr.tripHot

/-- COLD_BOOT (R423, R424): after `DEVICE_RESET` the base first goes down, 10 ms after the completion. -/
def doColdBoot (rep : BootReport) (s : State) : State :=
  let s := match s.pwr.resetDueT with
    | some t => if s.pwr.down then s else takeDown 2 0 0 (atTime t s)
    | none => s
  if !bootable s then s
  else
    let s := bootFront rep s
    if s.pwr.down then s
    else if s.pins.straps.getLsbD 4 then
      let p := s.pwr
      { s with pwr := { p with held := true } }
    else bootBack rep s

/-- BOOT_HOLD_RELEASE (R475): the ball reads 0, and the boot continues from step 6. -/
def doHoldRelease (rep : BootReport) (s : State) : State :=
  let pins := { s.pins with bootHoldBall := false }
  let s := { s with pins := pins }
  if s.pwr.held ∧ !s.pwr.down then
    let p := s.pwr
    bootBack rep { s with pwr := { p with held := false } }
  else s

/-- FLOOR_RAISE (R442). -/
def doFloorRaise (s : State) : State :=
  let i := s.ident
  let run := b2n i.runSlot
  if s.cad.mp0.st = 1 ∧ (i.bootState = 1 ∨ i.bootState = 3) ∧ s.clock ≤ s.pwr.readyT + ms 10000 ∧ !i.floorChecked ∧
      raiseFlag s ∧ preferSlot s = run ∧ i.die0.floor < i.svn then
    let s := { s with ident := { i with floorChecked := true, die0 := { i.die0 with floor := i.svn } } }
    let s := writeCtl run false s
    measure 1 5 none (shake 64 (natLe 1 s.ident.svn)) (natLe 1 s.ident.svn) s
  else s

/-- The return of H1 (R360, R426): steps 2 to 5, 7 and 9 to 11 on H1 only, and its mirror of the NVM is brought up (R441). False
when H1 does not come back. -/
def rejoinH1 (rep : BootReport) (s : State) : Bool × State :=
  let z := s.zor
  let s := { s with zor := { z with halves := 0, h1Reset := false } }
  let s := bootZoram rep (bootHalfOn .h1 (bootSidebands s))
  let s := bootH1 rep.helloH1 1 s
  if farGone s then (false, s)
  else
    let s := forEach (List.range 18) (fun j s => setDom .h1 (2 + j) 2 s) s
    let s := bootPorts .h1 (bootStacks .h1 rep s)
    if s.ident.refused then (false, fenceH1 3 s)
    else
      let s := f0Pair .h1 (bootSubs .h1 s)
      let i := s.ident
      let s := { s with ident := { i with nvm1 := i.nvm0 } }
      let st := bootResult s
      let i := s.ident
      let s := if st = i.bootState then s else announce (event .h0 0x0003 0 none 0 0 466 { s with ident := { i with bootState := st } })
      (true, readmit s)

/-- COLD_BOOT (R424). -/
def execColdBoot (rep : BootReport) (s : State) : Outcome := .next (doColdBoot rep s)
/-- BOOT_HOLD_RELEASE (R475). -/
def execBootHoldRelease (rep : BootReport) (s : State) : Outcome := .next (doHoldRelease rep s)
/-- BOOT_GO (R434). -/
def execBootGo (digest : BitVec 512) (len : BitVec 32) (s : State) : Outcome :=
  onHalf s .h1 (.next (bootGoAt digest 0 (sideGot (.half .h1 0) 0x1A (bytesOf 64 digest ++ natLe 4 len.toNat) s)))
/-- FLOOR_RAISE (R442). -/
def execFloorRaise (s : State) : Outcome := .next (doFloorRaise s)

end Sys2Proof.Machine
end

