-- ==== Sys2Proof/Machine/View.lean ====
section
/-! DEFINITION. What a read of a configuration field returns (R7, R10, R18, R447, and the field tables of every chapter): the
value in force or pending of a plain field, with the bits that reflect state beside it. -/

namespace Sys2Proof.Machine

open Sys2Proof

/-! ### Pieces -/

/-- A byte in two's complement. -/
def byteOf (t : Int) : Nat := (t % 256).toNat

/-- The half and the position within it of instance `i` of a field. -/
def hOf (r : Reg) (i : Nat) : Half := halfOf (regCount r) i

/-- How many instances of an ownership field (FUNC in [3:0], VALID in [4]) name a function. -/
def ownedCount (s : State) (r : Reg) (f : Nat) : Nat :=
  (s.regs.val.filter (fun kv => decide (kv.1 % 256 = regNum r) && decide (ownerField s r (kv.1 / 256) = some f))).length

/-- A segment whose memory is gone stays held, with the stack or half that is gone (R400). -/
def segOutOfService (s : State) (g : Nat) : Bool :=
  rbit s .segMap g 14 && (halves s).any (fun h => segOnHalf s g h &&
    ((decide (h = .h1) && farGone s) || (List.range 8).any (fun j => stackOut s (8 * h.num + j))))

/-- The segments of a function in service (R400). -/
def funcSegs (s : State) (f : Nat) : Nat :=
  ((listedSegs s).filter (fun g => decide (segMode s g ≠ 0) && decide (segFunc s g = some f) && !segOutOfService s g)).length

/-- The logical arrays of a function that are available (R82). -/
def funcAvail (s : State) (f : Nat) : Nat :=
  ((halves s).map (fun h => ((List.range 64).filter (fun i =>
    decide (arrayFunc s h i = some f) && (larr s h i).phys.isSome)).length)).sum

/-- The clusters that a function owns on a half, as a mask. -/
def clusterMask (s : State) (h : Half) (f : Nat) : Nat :=
  ((List.range 18).filter (fun j => decide (clusterFunc s h j = some f))).foldl (fun a j => a + 2 ^ j) 0

/-- The buffer mode of a partition on a half (R114): 0 NONE, 1 CACHE, 2 SCRATCHPAD, 3 SPLIT. -/
def bufMode (s : State) (p : Nat) (h : Half) : Nat :=
  let has (scratch : Bool) : Bool := (List.range 16).any (fun w =>
    let v := rget s .wayMap (16 * h.num + w)
    natBit 6 v && decide (natBits 5 0 v = p) && (natBit 7 v == scratch))
  let away : Bool := match partNear s p with
    | some n => decide (n ≠ h)
    | none => false
  b2n (has false && !away) + 2 * b2n (has true)

/-- The directory entry as its 144 bits (R201); the precise slots are filled from slot 0 (DESIGN CHOICE, log entry 18). -/
def dirBits (e : DirEnt) : Nat :=
  let st := match e.st with
    | .s => 1
    | .e => 2
    | .a => 3
  let slots := e.members.zipIdx.foldl (fun a m => a + m.1.1 % 4096 * 2 ^ (12 * m.2)) 0
  e.tag % 2 ^ 16 + st * 2 ^ 16 + e.locals % 32 * 2 ^ 18 + b2n e.coarse * 2 ^ 23 +
    (if e.coarse then 0 else e.members.length % 16) * 2 ^ 24 + e.redop % 16 * 2 ^ 28 +
    (if e.coarse then e.vec.toNat else slots) * 2 ^ 32 + e.leaseEnd / 640 % 2 ^ 16 * 2 ^ 128

/-- Granules of a function's Slate not yet DONE on a half (R235). -/
def granulesLeft (s : State) (f : Nat) (h : Half) : Nat :=
  let x := slateAt s f
  let segs := x.parts.flatMap (partSegs s)
  let all := (segs.map (fun g =>
    if s.part = .mb1 then 2 ^ 19
    else if segMode s g = 1 then 2 ^ 18
    else if segOnHalf s g h then 2 ^ 19 else 0)).sum
  let done := (x.grans.filter (fun e => decide (e.2 = 2) && decide (halfOf 128 (hashSlice s e.1) = h))).length
  if x.st = .complete then 0 else all - done

/-- Commands in progress (R389). -/
def cmdsActive (s : State) : Nat := (s.host.sessions.map (fun e => (e.2.cmds.filter (fun c => c.started)).length)).sum

/-- The word at a place of a map of 528 lanes. -/
def laneWord (m : BitVec 528) (j : Nat) : Nat := m.toNat / 2 ^ (32 * j) % 2 ^ 32

/-- The fields of a bundle's end. -/
def bundleStatus (x : BundleSt) : Nat :=
  x.st + (528 - (badLanes x.bad).length) * 2 ^ 4 + b2n x.clockFail * 2 ^ 14 + b2n x.union * 2 ^ 15

/-- The fields of a sideband lane. -/
def sbStatusWord (x : SbSt) : Nat :=
  min 5 x.stage + b2n x.los * 2 ^ 3 + b2n x.lol * 2 ^ 4 + x.tapPre * 2 ^ 8 + x.tapPost * 2 ^ 16 + x.restarts * 2 ^ 24

/-- The result of an eye scan. -/
def eyeWord (x : SbSt) : Nat := min (2 ^ 31 - 1) x.eyeErrors + b2n x.eyeRun * 2 ^ 31

/-- The take of an identifier in a field. -/
def takeNow (s : State) (k : Nat) : Nat := (takeSt s k).take % 256

/-- The `PENDING` bit of a group of a half (R18). -/
def pend (s : State) (h : Half) (g : GroupRef) : Nat := b2n (groupPending s h g)

/-- The LINK code of a neighbour port's state (R313). -/
def lstateCode : LState → Nat
  | .down => 0
  | .training => 1
  | .upFull => 2
  | .upHalf => 3
  | .failed => 4

/-- The code of a queue's state (R241). -/
def qstateCode : QState → Nat
  | .disabled => 0
  | .idle => 1
  | .running => 2
  | .waiting => 3
  | .recfull => 4
  | .stopping => 5
  | .stopped => 6
  | .error => 7

/-- The code of a context's state (R72). -/
def ctxCode : CtxState → Nat
  | .empty => 0
  | .loading => 1
  | .ready => 2
  | .running => 3
  | .waiting => 4
  | .done => 5
  | .faulted => 6
  | .stale => 7

/-- The code of a Slate's state (R235). -/
def slateCode : SlateState → Nat
  | .idle => 0
  | .armed => 1
  | .pointed => 2
  | .streaming => 3
  | .complete => 4
  | .failed => 5

/-! ### The identity block (R447) -/

/-- The fuses of a half's die. -/
def fusesOf (s : State) (h : Half) : DieFuses :=
  match h with
  | .h0 => s.ident.die0
  | .h1 => s.ident.die1

/-- A field of the identity block. -/
def viewIdent (s : State) (r : Reg) (i : Nat) : Nat :=
  let d := s.ident
  let h := hOf r i
  let f := fusesOf s h
  let mask (p : Nat → Bool) : Nat :=
    ((List.range 8).filter (fun j => p (8 * h.num + j))).foldl (fun a j => a + 2 ^ (8 * h.num + j)) 0
  match r with
  | .dieLotLo => f.lot.toNat % 2 ^ 32
  | .dieLotHi => f.lot.toNat / 2 ^ 32
  | .diePos => f.wafer % 32 + f.x.toNat * 2 ^ 8 + f.y.toNat * 2 ^ 16 + h.num * 2 ^ 24 + f.rev % 16 * 2 ^ 28
  | .partInfo => partCode s + b2n d.orientConflict * 2 ^ 2 + (s.pins.straps.toNat % 32 / 2 * 2 + h.num) * 2 ^ 8
  | .devId => d.devId.toNat + b2n d.idValid * 2 ^ 16
  | .refusal => d.bootState % 4 + b2n d.refused * 2 ^ 2 + d.refStack % 16 * 2 ^ 4 + d.refDies % 32 * 2 ^ 8 + d.refDensity % 8 * 2 ^ 13
  | .stackMask => mask (fun k => (stackAt s k).excluded) + mask (fun k => (stackAt s k).lost) * 2 ^ 16
  | .pkgSerial => d.serial.toNat / 2 ^ (32 * (i % 4)) % 2 ^ 32
  | .stackSerialLo => (d.serials.getD i 0).toNat % 2 ^ 32
  | .stackSerialHi => (d.serials.getD i 0).toNat / 2 ^ 32
  | .fwInfo => d.fwVersion.toNat
  | .fwState => b2n d.runSlot + b2n d.fallback * 2 + d.svn % 64 * 2 ^ 2 + d.die0.floor % 128 * 2 ^ 8
  | .settingsSeq => d.setSeq
  | .settingsState => d.setSource % 4 + b2n (ownerKey s).isSome * 2 ^ 2 + b2n (openMode s) * 2 ^ 3
  | .storeCount => d.storeCount
  | _ => 0

/-! ### Function table and management processors (R407) -/

/-- A field of block class 1. -/
def viewFunc (s : State) (r : Reg) (i : Nat) : Nat :=
  let x := funcAt s i
  match r with
  | .fnState => x.st + x.lastCause % 16 * 2 ^ 4 + min 65535 x.cutCount * 2 ^ 16
  | .fnClustersH0 => clusterMask s .h0 i
  | .fnClustersH1 => if s.part = .mb1 ∨ farGone s then 0 else clusterMask s .h1 i
  | .fnMem =>
    let parts := ((List.range 64).filter (fun p => decide (partFunc s p = some i))).length
    funcSegs s i % 2 ^ 12 + funcAvail s i * 2 ^ 12 + parts * 2 ^ 20
  | .fnCounts => (funcCues s i).length + ownedCount s .dqOwner i * 2 ^ 14
  | .fnCounts2 => ownedCount s .regOwner i + ownedCount s .qpOwner i * 2 ^ 9
  | .mpStatus =>
    let h := hOf r i
    let m := mpAt s h
    let c := match h with
      | .h0 => s.pwr.rec0.cause
      | .h1 => s.pwr.rec1.cause
    m.st + b2n m.fwSlot * 2 ^ 2 + c % 16 * 2 ^ 3 + (if h = .h0 then min 16 (cmdsActive s) else 0) * 2 ^ 8 + m.beat % 2 ^ 16 * 2 ^ 16
  | _ => 0

/-! ### Arrays and cues (R80, R108) -/

/-- A field of block class 2 that reflects state. -/
def viewFabric (s : State) (r : Reg) (i : Nat) : Nat :=
  match r with
  | .arrayStatus =>
    let h := halfOf 72 i
    let p := physAt s i
    let a := if p.role = 0 then activeCtx s h p.logical else none
    p.role + b2n a.isSome * 2 ^ 2 + a.getD 0 * 2 ^ 3 + (if p.role = 0 then p.logical else 0) * 2 ^ 8 + p.mapOut.length * 2 ^ 16
  | .cellStatus =>
    let x := cellSt s i
    b2n x.nv + b2n x.of * 2 + b2n x.iw * 2 ^ 2 + b2n x.lsCe * 2 ^ 3 + b2n x.lsUe * 2 ^ 4 + b2n x.swPar * 2 ^ 5 +
      b2n x.resFail * 2 ^ 6 + b2n ((physAt s (i / 256)).mapOut.contains (i % 256)) * 2 ^ 7 + x.ceCount * 2 ^ 16
  | .ctxStatus =>
    let h := halfOf 256 i
    let x := s.fab.ctxs.getD i Ctx.init
    ctxCode x.st + pend s h (.ctxImage (Fin.ofNat 64 (i / 4)) (Fin.ofNat 4 i)) * 2 ^ 3 + x.lastResult % 16 * 2 ^ 4 +
      x.fault % 8 * 2 ^ 8 + x.step % 1024 * 2 ^ 16
  | .lmap =>
    let l := larr s (halfOf 64 i) (i % 64)
    l.phys.getD 0 + b2n l.phys.isSome * 2 ^ 7 + b2n l.spared * 2 ^ 8
  | .clusterOwner => b2n (hasLogical s (halfOf 18 i) (i % 18)) * 2 ^ 5
  | .cueValue => (cueAt s i).value + takeNow s i * 2 ^ 24
  | _ => 0

/-! ### Shared buffer and Continuity (R152, R235) -/

/-- A field of block classes 3 and 4 that reflects state. -/
def viewBuffer (s : State) (r : Reg) (i : Nat) : Nat :=
  match r with
  | .wayMap => b2n (wayEmpty s i) * 2 ^ 16
  | .partCfg => bufMode s i .h0 * 2 ^ 8 + (if s.part = .mb1 then 0 else bufMode s i .h1) * 2 ^ 10
  | .maintStatus =>
    let h := halfOf 16 i
    let x := maintAt s h (i % 16)
    pend s h (.maint (Fin.ofNat 16 i)) + x.queue.length * 2 + b2n x.run.isSome * 2 ^ 5 + b2n x.recFailed * 2 ^ 6
  | .slateStatus =>
    let x := slateAt s (i % 16)
    slateCode x.st + b2n x.epoch * 2 ^ 3 + x.cause % 16 * 2 ^ 4
  | .dirUsed => (s.coh.dir.filter (fun e => decide (e.1 / 16384 = i))).length
  | .coarseEntries => (s.coh.dir.filter (fun e => decide (e.1 / 16384 = i) && e.2.coarse)).length
  | .dirRecovery => (s.coh.recovery.filter (fun n => decide (n / 1024 = i))).length * 2 ^ 16
  | .peekData => (s.coh.peek.getD i 0).toNat + (if i % 5 = 4 then pend s (halfOf 5 i) .dirPeek else 0) * 2 ^ 31
  | _ => 0

/-! ### Stacks and channels (R181) -/

/-- A redirect entry as its field. -/
def redirWord : Option Redir → Nat
  | some e => e.row + e.bank * 2 ^ 15 + e.spare * 2 ^ 21 + 2 ^ 31
  | none => 0

/-- A field of block class 5 that reflects state. -/
def viewMem (s : State) (r : Reg) (i : Nat) : Nat :=
  match r with
  | .stackStatus =>
    let x := stackAt s i
    x.band % 8 + b2n (decide (x.fence ≠ 0)) * 2 ^ 3 + x.fence % 4 * 2 ^ 4 + b2n x.selfRefresh * 2 ^ 6 + b2n x.excluded * 2 ^ 7 + b2n x.lost * 2 ^ 8
  | .stackTemp =>
    let x := stackAt s i
    byteOf x.temp + byteOf x.tempMax * 2 ^ 8
  | .stackInfo =>
    let x := stackAt s i
    x.dies % 32 + x.density % 8 * 2 ^ 5 + x.laneRepairs % 256 * 2 ^ 8 + min 255 (x.ppr.map Prod.snd).sum * 2 ^ 16
  | .chStatus =>
    let x := chanAt s i
    let f := (stackAt s (stackOfChan i)).fence
    let used := x.redir.map (fun e => e.2.spare)
    let gone := (used ++ x.spareRetired).dedup.length
    b2n x.inService + b2n (decide (f = 1) || decide (f = 2)) * 2 + x.redir.length * 2 ^ 10 + (1024 - gone) * 2 ^ 21
  | .laneMap => (chanAt s i).laneMap.toNat
  | .spareRetired =>
    ((chanAt s (i / 32)).spareRetired.filter (fun k => decide (k / 32 = i % 32))).dedup.foldl (fun a k => a + 2 ^ (k % 32)) 0
  | .redirect => redirWord ((chanAt s (i / 1024)).redir.find? (i % 1024))
  | .tgStatus =>
    let t := (chanAt s i).tg
    b2n t.run + b2n t.done * 2 + t.pass % 2 ^ 16 * 2 ^ 16
  | .tgErrCount => min (2 ^ 32 - 1) (chanAt s i).tg.errCount
  | .tgErrAddr => (chanAt s i).tg.errAddr
  | .tgLaneLo => (chanAt s i).tg.laneLo.toNat
  | .tgLaneHi => (chanAt s i).tg.laneHi.toNat
  | _ => 0

/-! ### Dolly and regulators (R272, R332) -/

/-- A field of block classes 6 and 7 that reflects state. -/
def viewMove (s : State) (r : Reg) (i : Nat) : Nat :=
  match r with
  | .dqStatus =>
    let x := queueAt s i
    qstateCode x.st + pend s (halfOf 256 i) (.dqRing (Fin.ofNat 256 i)) * 2 ^ 3 + takeNow s (queueTake i) * 2 ^ 8 + x.head.toNat % 2 ^ 16 * 2 ^ 16
  | .dqHead => (queueAt s i).head.toNat
  | .dqRecTail => (queueAt s i).recTail.toNat
  | .dqErr => (queueAt s i).errIndex % 2 ^ 16 + (queueAt s i).errStatus % 256 * 2 ^ 16
  | .engStatus =>
    let mine := s.dolly.queues.filter (fun e => decide (e.1 / 256 = i / 16) && decide (rbits s .dqCtl e.1 11 8 = i % 16))
    let runs := mine.flatMap (fun e => e.2.active)
    min 16 (runs.filter (fun d => decide (d.phase ≠ .waiting))).length + min 512 (runs.filter (fun d => d.rtag.isSome && decide (d.piece.length < if d.d.opcode = opAdd then 32 else 1))).length * 2 ^ 8
  | .reelId => takeNow s (0x5400 + i) * 2 ^ 16
  | .reelStatus =>
    let x := reelAt s i
    x.st + x.credits % 16 * 2 ^ 4 + pend s (halfOf 64 i) (.reel (Fin.ofNat 64 i)) * 2 ^ 8 + x.sent % 2 ^ 16 * 2 ^ 16
  | .regStatus =>
    let x := regulAt s i
    pend s (halfOf 128 i) (.reg (Fin.ofNat 128 i)) + b2n x.admitted * 2 + b2n x.unadmitted * 2 ^ 2 + b2n (regulCapped s i) * 2 ^ 3 +
      b2n x.demanding * 2 ^ 4
  | .regDeliv => (regulAt s i).deliv
  | .regMiss =>
    let x := regulAt s i
    b2n x.miss + x.missCause % 4 * 2 + b2n x.missLate * 2 ^ 3 + x.missCount % 2 ^ 16 * 2 ^ 16
  | .stackLoad => stackLoadVal s i
  | .zoramLoad => zoramLoadVal s
  | _ => 0

/-! ### Links and Zoram (R313, R365) -/

/-- A field of block classes 8 and 9 that reflects state. -/
def viewLink (s : State) (r : Reg) (i : Nat) : Nat :=
  match r with
  | .portStatus =>
    let x := portAt s i
    lstateCode x.st + b2n x.txSpare * 2 ^ 3 + b2n x.rxSpare * 2 ^ 4 + b2n x.halfGroup * 2 ^ 5 +
      pend s (halfOf 8 i) (.vcBuf (Fin.ofNat 8 i)) * 2 ^ 6 + x.badLambda.toNat * 2 ^ 16
  | .portPeer =>
    let x := portAt s i
    x.peerDev.toNat + x.peerPort % 16 * 2 ^ 16 + b2n x.peerValid * 2 ^ 20
  | .collId => takeNow s (collTakeKey i) * 2 ^ 16
  | .collStatus =>
    let x := collAt s i
    x.st + x.lastStatus % 4 * 2 ^ 2 + pend s (halfOf 128 i) (.coll (Fin.ofNat 128 i)) * 2 ^ 4 + x.round % 2 ^ 16 * 2 ^ 16
  | .collExcl => (collAt s i).firstExcl.toNat + (collAt s i).exclCount % 2 ^ 16 * 2 ^ 16
  | .collTiming => min 65535 (collAt s i).lastContrib + min 65535 (collAt s i).lastDelay * 2 ^ 16
  | .zbStatus => bundleStatus (bundleAt s i)
  | .zbBad => laneWord (bundleAt s (i / 17)).bad (i % 17)
  | .zoramStatus =>
    let h := hOf r i
    (bundlesUp s h).length + s.zor.halves % 4 * 2 ^ 5 + h.num * 2 ^ 7 + s.zor.mismatches.getD i 0 % 256 * 2 ^ 8
  | .sbStatus => sbStatusWord (sbAt s i)
  | .eyeResult => eyeWord (sbAt s i)
  | .gsStatus =>
    let x := siteAt s i
    x.st + x.cause % 8 * 2 ^ 2 + b2n x.coherent * 2 ^ 5 + x.fwClass % 4 * 2 ^ 6 + siteUp s i * 2 ^ 8 + x.rate % 8 * 2 ^ 11 + x.tags % 2 ^ 13 * 2 ^ 16
  | .gsPeer => (siteAt s i).vendor.toNat + (siteAt s i).product.toNat * 2 ^ 16
  | .gsSbStatus => sbStatusWord (sbAt s (8 + i))
  | .gsEyeResult => eyeWord (sbAt s (8 + i))
  | .gzbStatus => bundleStatus (bundleAt s (64 + i))
  | .gzbBad => laneWord (bundleAt s (64 + i / 17)).bad (i % 17)
  | _ => 0

/-! ### Host port, power, Dailies (R386, R427, R467) -/

/-- A field of block class 0x0A that reflects state. A module that is present answers on its bus (R478). -/
def viewHost (s : State) (r : Reg) (i : Nat) : Nat :=
  let ses := sesAt s i
  match r with
  | .hpStatus => s.host.link % 4 + b2n (!s.pins.modPresentN) * 2 ^ 2 + s.host.laneLock.toNat * 2 ^ 3 + s.host.paused.toNat * 2 ^ 16 +
      pend s .h0 .net * 2 ^ 24
  | .qpOwner => takeNow s (qpTakeKey i) * 2 ^ 8
  | .qpState => (qpAt s i).st + (qpAt s i).cause % 16 * 2 ^ 4
  | .mkCtl => takeNow s (mkTakeKey i) * 2 ^ 8
  | .sesStatus => ses.st + ses.func % 16 * 2 ^ 2 + b2n ses.isLocal * 2 ^ 6 + takeNow s (sesTakeKey i) * 2 ^ 8
  | .sesRetx => min 65535 ses.retx
  | _ => 0

/-- A field of block classes 0x0B and 0x0C that reflects state. -/
def viewPower (s : State) (r : Reg) (i : Nat) : Nat :=
  let h := hOf r i
  match r with
  | .cellConflict => (cellSt s i).conflict.toNat
  | .domStatus =>
    let d := domAt s i
    d.st + d.cause % 8 * 2 ^ 3 + d.wakes % 2 ^ 16 * 2 ^ 16
  | .gafferStatus =>
    let g := gafAt s h
    min 8191 g.power + g.throttle % 16 * 2 ^ 16 + b2n g.vinLow * 2 ^ 20 + b2n g.tempHold * 2 ^ 21 + b2n g.fallback * 2 ^ 22 +
      (if h = .h0 then pend s .h0 .pkg else 0) * 2 ^ 23
  | .gafferGrant => min 8191 (gafAt s h).grant + (gafAt s h).exchange % 2 ^ 16 * 2 ^ 13
  | .dieTemp =>
    let t := s.pwr.die.getD i (0, 0)
    byteOf t.1 + byteOf t.2 * 2 ^ 8
  | .clkStatus =>
    b2n (!s.pwr.refLost) + ((List.range 8).filter (fun j => !s.pwr.pllLost.getD (8 * i + j) false)).foldl (fun a j => a + 2 ^ (j + 1)) 0
  | .timeLo => timeUs s h % 2 ^ 32
  | .timeHi => timeUs s h / 2 ^ 32 % 2 ^ 32
  | .resetInfo => resetInfo (match h with
    | .h0 => s.pwr.rec0
    | .h1 => s.pwr.rec1)
  | .dailiesCtl => pend s h .dring * 2 ^ 17
  | .dailiesStatus => (collector s h).seq
  | .degraded => degradedWord s h
  | _ => 0

/-! ### The whole field -/

/-- Bits of a field that read as zero: they only trigger an action (WO). -/
def woMask (r : Reg) : Nat :=
  match r with
  | .ctxCtrl | .ctxCommit | .maintCommit | .peekCommit | .dqCommit | .reelCommit | .regCommit | .vcBufCommit | .collCommit
  | .netCommit | .pkgCommit | .dringCommit | .tgGo => allBits
  | .eyeCtl | .gsEyeCtl => 2 ^ 31
  | .dqCtl => 0xC
  | _ => 0

/-- The bits that reflect state beside the plain value of a field. -/
def viewReg (s : State) (r : Reg) (i : Nat) : Nat :=
  match (regRow r).cls with
  | 0 => viewIdent s r i
  | 1 => viewFunc s r i
  | 2 => viewFabric s r i
  | 3 => viewBuffer s r i
  | 4 => viewBuffer s r i
  | 5 => viewMem s r i
  | 6 => viewMove s r i
  | 7 => viewMove s r i
  | 8 => viewLink s r i
  | 9 => viewLink s r i
  | 0xA => viewHost s r i
  | _ => viewPower s r i

/-- The plain value, with bits that only trigger cleared; the state of a queue pair is not a plain value, and what waits in
the input queue counts as dropped already. -/
def plainReg (s : State) (r : Reg) (i : Nat) : Nat :=
  match r with
  | .qpState => 0
  | .droppedTotal => min (2 ^ 32 - 1) (seenReg s r i + (collector s (hOf r i)).dropped)
  | _ => maskedNat (woMask r) 0 (seenReg s r i)

/-- Fields that show what the manual leaves to the hardware and no command brings: the sensors of the bucks, the codewords that
the host link's FEC and the crossbars correct (log entry 1). -/
def freeReg (r : Reg) : Bool :=
  match r with
  | .domTelem | .fecCorr | .fecUncorr | .xbarCe => true
  | _ => false

/-- What a read of a field returns. `TIME_LO` latches `TIME_HI`, and the next read of `TIME_HI` returns it (R10). How
`GRANULES_LEFT` rounds to units of 64 is open (log entry 1). -/
def readReg (r : Reg) (i : Nat) (s : State) : Nat × State :=
  if freeReg r then freeNat 32 s
  else
    let v := (viewReg s r i ||| plainReg s r i) % 2 ^ 32
    let k := regKey .timeHi i
    match r with
    | .timeLo =>
      let f := s.regs
      (v, { s with regs := { f with latch := f.latch.insert k (BitVec.ofNat 32 (viewReg s .timeHi i)) } })
    | .timeHi =>
      match s.regs.latch.find? k with
      | some x =>
        let f := s.regs
        (x.toNat, { s with regs := { f with latch := f.latch.erase k } })
      | none => (v, s)
    | .slateStatus =>
      let left := granulesLeft s (i % 16) (halfOf 16 i)
      let b := if left % 64 = 0 then (false, s) else freeBool s
      (v + min (2 ^ 24 - 1) (left / 64 + b2n b.1) * 2 ^ 8, b.2)
    | _ => (v, s)

end Sys2Proof.Machine
end

