-- ==== Sys2Proof/Machine/Cfg.lean ====
section
/-! DEFINITION. Access to configuration space (R5, R6, R25, R27, R28, R487, R488): what an address names, reads, and writes of
any field, which act as the field's block does. Stores of agents of the base, of Zoram's class CFG, and the commit groups. -/

namespace Sys2Proof.Machine

open Sys2Proof

/-! ### What a write of each field does -/

/-- `CELL_STATUS`: sticky bits written 1 are cleared. -/
def cellStatusAct (i v : Nat) (s : State) : State :=
  let clear (b : Nat) (x : Bool) : Bool := x && !natBit b v
  modCell i (fun x => { x with
    nv := clear 0 x.nv, of := clear 1 x.of, iw := clear 2 x.iw, lsCe := clear 3 x.lsCe, lsUe := clear 4 x.lsUe
    swPar := clear 5 x.swPar }) s

/-- `PEEK_COMMIT` (R235): the entry that `PEEK_SEL` selects is shown. A commit with nothing pending has no effect (R17). -/
def peekAct (h : Half) (new : Nat) (s : State) : State :=
  if !natBit 0 new || !groupPending s h .dirPeek then s
  else
    let s := groupApply h .dirPeek s
    let sel := rget s .peekSel h.num
    let sl := 128 * h.num + natBits 6 0 sel
    let e := s.coh.dir.find? (16384 * sl + 16 * natBits 16 7 sel + natBits 20 17 sel)
    let v := (e.map dirBits).getD 0
    let c := s.coh
    let peek := (List.range 5).foldl (fun m k => NMap.insert m (5 * h.num + k) (BitVec.ofNat 32 (v / 2 ^ (32 * k)))) c.peek
    { s with coh := { c with peek := peek } }

/-- `NET_COMMIT` (R369): new addresses apply, and pass duplicate address detection before they are used. -/
def netAct (new : Nat) (s : State) : State :=
  if !natBit 0 new then s
  else
    let a := v6Local s
    let b := v6Cfg s
    let s := groupApply .h0 .net s
    let a1 := decide (v6Local s = a)
    let b1 := decide (v6Cfg s = b)
    modHost (fun x => { x with
      v6LocalOk := x.v6LocalOk && a1, v6LocalBad := x.v6LocalBad && a1
      v6CfgOk := x.v6CfgOk && b1, v6CfgBad := x.v6CfgBad && b1 }) s

/-- `GS_CTL` (R365, R410): `OPEN` wakes the site's domain first. -/
def gsWriteAct (g new : Nat) (s : State) : State :=
  let n := 35 * (halfOf 2 g).num + 33 + g % 2
  let s := when (natBit 0 new && decide ((domAt s n).st = 2)) (modDom n (fun d => { d with st := 1, wakes := (d.wakes + 1) % 2 ^ 16 })) s
  gsCtlAct g new s

/-- A commit of a group whose committed set the block takes at a named event (R17). -/
def commitAct (h : Half) (g : GroupRef) (new : Nat) (s : State) : State :=
  if natBit 0 new then groupApply h g s else s

/-- The effect of a write to field `i` of a name: `v` as written, `new` the value that R8, R12–R14 and R487 leave. -/
def storeWord (r : Reg) (i v new : Nat) (s : State) : State :=
  let h := hOf r i
  match r with
  | .segMap => segMapAct i new s
  | .wayMap => wayMapAct i new s
  | .partCfg => partCfgAct i new s
  | .maintCommit => maintCommitAct h (i % 16) (Nat.mod_lt _ (by decide)) new s
  | .cueValue => doCueValue i new s
  | .cueOwner => doCueOwner i new s
  | .ctxCtrl => ctxCtrlAct h (i / 4 % 64) (i % 4) new s
  | .ctxCommit => commitAct h (.ctxImage (Fin.ofNat 64 (i / 4)) (Fin.ofNat 4 i)) new s
  | .clusterOwner => clusterOwnerAct i new s
  | .cellStatus => cellStatusAct i v s
  | .tgGo => tgGoAct i new s
  | .peekCommit => peekAct h new s
  | .dqCtl => dqCtlAct i new s
  | .dqTail => dqTailAct i new s
  | .dqRecHead => dqRecHeadAct i new s
  | .dqOwner => dqOwnerAct i new s
  | .dqCommit => commitAct h (.dqRing (Fin.ofNat 256 i)) new s
  | .reelId => reelIdAct i new s
  | .reelCommit => commitAct h (.reel (Fin.ofNat 64 i)) new s
  | .regOwner => regOwnerAct i new s
  | .regCommit =>
    if natBit 0 new && groupPending s h (.reg (Fin.ofNat 128 i)) then regCommitAct i (groupApply h (.reg (Fin.ofNat 128 i)) s) else s
  | .regMiss => if natBit 0 v then modRegul i (fun x => { x with miss := false }) s else s
  | .arrReg0 => bindAct .arrReg0 i new s
  | .arrReg1 => bindAct .arrReg1 i new s
  | .guestReg => bindAct .guestReg i new s
  | .hostReg => bindAct .hostReg i new s
  | .remoteReg => bindAct .remoteReg i new s
  | .portCtl => portCtlAct i new s
  | .vcBufCommit => commitAct h (.vcBuf (Fin.ofNat 8 i)) new s
  | .collId => collIdAct i new s
  | .collCommit => commitAct h (.coll (Fin.ofNat 128 i)) new s
  | .eyeCtl => eyeAct .eyeCtl i i new s
  | .gsEyeCtl => eyeAct .gsEyeCtl i (8 + i) new s
  | .gsCtl => gsWriteAct i new s
  | .netCommit => netAct new s
  | .qpOwner => qpOwnerAct i new s
  | .qpState => qpMove i new s
  | .mkCtl => mkCtlAct i new s
  | .sesCmdDb => sesCmdDbAct i new s
  | .sesCplHead => sesCplHeadAct i new s
  | .domCtl => domCtlAct i new s
  | .pkgCommit => pkgCommitAct new s
  | .dringCommit => dringCommitAct h new s
  | r => putField r i new s

/-! ### What an address names -/

/-- What an address names for a writer or reader. -/
inductive CfgSpot where
  /-- not configuration space, or a class that R27 does not list -/
  | outside
  /-- H1's space while H1 is absent or fenced, H1's host port block, or a field of the joint that MB1 does not have (R5,
  R365, R386) -/
  | gone
  /-- no field (R27) -/
  | reserved
  /-- a physical view, for another than F0 and the management processors (R108) -/
  | hidden
  /-- a read-only copy on H1 (R488) -/
  | copy (r : Reg) (i : Nat)
  | field (h : Half) (r : Reg) (i : Nat)
  deriving DecidableEq, Repr

/-- The spot that an address of configuration space names. On MB1 an offset with bit [32] set in a class that R27 does not list
is outside (R27 says both that it is unmapped and that R5 governs it: DESIGN CHOICE, log entry 21). -/
def cfgSpot (s : State) (w : Writer) (addr : Nat) : CfgSpot :=
  if addr < 0x7F0000000000 ∨ 0x7F0200000000 ≤ addr then .outside
  else
    let off := addr - 0x7F0000000000
    let h := Half.ofBit (off / 2 ^ 32)
    let cls := off / 2 ^ 24 % 256
    let o := off % 2 ^ 24
    let plain := decide (w = .mp) || decide (w = .func 0)
    if 12 < cls then .outside
    else if cfgGone s h then .gone
    else if cls = 2 ∧ o < 0x480000 ∧ !plain then .hidden
    else
      match cfgAt (lphys s) h cls o with
      | .field r i c => if absentField s r then .gone else if c then .copy r i else .field h r i
      | .physCtx h p r j =>
        match servedBy s (72 * h.num + p) with
        | some n => .field h r (4 * n + j % 4)
        | none => .reserved
      | .reserved => .reserved
      | .h1Host => .gone
      | .unmapped => .outside

/-- Why an access of 32 bits is refused with an error response, as the rule (R25, R28): none if it is performed. -/
def cfgDenied (s : State) (w : Writer) : CfgSpot → Option Nat
  | .outside => some 25
  | .hidden => some 28
  | .copy r i => if mayReach s w r i then none else some 28
  | .field _ r i => if mayReach s w r i then none else some 28
  | _ => none

/-- A store that is performed: what it records, and its effect. -/
def cfgApply (w : Writer) (ag : Agent) (addr v : Nat) (sp : CfgSpot) (s : State) : State :=
  match sp with
  | .gone => cfgEvent ag addr 5 s
  | .copy _ _ => cfgEvent ag addr 488 s
  | .field _ r i =>
    let p := planWrite s w r i v
    let s := when (p.denied || p.refused) (cfgEvent ag addr (if p.refused then 14 else 487)) s
    if writesAny s w r i then storeWord r i (v &&& writeMask s w r i) p.new s else s
  | _ => s

/-- The value that a read of a spot returns. -/
def cfgFetch (sp : CfgSpot) (s : State) : Nat × State :=
  match sp with
  | .copy r i => readReg r i s
  | .field _ r i => readReg r i s
  | _ => (0, s)

/-! ### In-band stores -/

/-- CONFIG_STORE: an in-band store to a configuration address (R5, R6, R25, R28). -/
def doConfigStore (ag : Agent) (addr size v : Nat) (s : State) : State :=
  match writerOf s ag with
  | none => cfgRefuse ag addr 28 s
  | some w =>
    if size ≠ 4 ∨ addr % 4 ≠ 0 then cfgRefuse ag addr 6 s
    else
      let sp := cfgSpot s w addr
      match cfgDenied s w sp with
      | some rule => cfgRefuse ag addr rule s
      | none => emit (.cfgDone ag addr) (cfgApply w ag addr v sp s)

/-- COMMIT: 1 is written to the COMMIT field of a group (R17). -/
def doCommit (ag : Agent) (h : Half) (g : GroupRef) (s : State) : State :=
  let c := groupCommit h g
  regStore ag (groupHalf h g) c.1 c.2 1 (storeWord c.1 c.2 1) s

/-! ### Accesses over Zoram (R346, R361) -/

/-- Who asks over Zoram: the agent that names it, and its rights. A guest of class MEMORY has none. -/
def zWriter (s : State) (src : ZSrc) (func : Fin 16) : Agent × Option Writer :=
  match src with
  | .site g => (.guest g func, if (siteAt s g).fwClass = 2 ∧ siteFunc s g = func.val then some (.func func.val) else none)
  | .half h => (.mp h, some (.func func.val))

/-- The half that answers a configuration access of a side of Zoram. -/
def zCfgAnswer (src : ZSrc) (tag : Nat) (v : Nat) (refused : Bool) (s : State) : State :=
  let f := match src with
    | .half _ => 0
    | .site g => siteFunc s g
  zSend src 3 (.zCfg src (zHead s src f tag) (BitVec.ofNat 32 v) refused) s

/-- A guest whose site is not ACTIVE is not heard. -/
def zHeard (s : State) (src : ZSrc) : Bool :=
  match src with
  | .site g => decide ((siteAt s g).st = 2)
  | .half _ => decide (s.zor.halves = 1)

/-- CFG_RD and CFG_WR: `v` none for a read. -/
def doZCfg (src : ZSrc) (func : Fin 16) (tag addr size : Nat) (v : Option Nat) (s : State) : State :=
  if !zHeard s src then s
  else
    match zWriter s src func with
    | (ag, none) => zCfgAnswer src tag 0 true (cfgEvent ag addr 28 s)
    | (ag, some w) =>
      if size ≠ 4 ∨ addr % 4 ≠ 0 then zCfgAnswer src tag 0 true (cfgEvent ag addr 6 s)
      else
        let sp := cfgSpot s w addr
        match cfgDenied s w sp with
        | some rule => zCfgAnswer src tag 0 true (cfgEvent ag addr rule s)
        | none =>
          match v with
          | some x => zCfgAnswer src tag 0 false (cfgApply w ag addr x sp s)
          | none =>
            let r := cfgFetch sp s
            zCfgAnswer src tag r.1 false r.2

/-! ### The commands -/

/-- CONFIG_STORE (R12). -/
def execConfigStore (ag : Agent) (addr : BitVec 48) (size : Nat) (v : BitVec 32) (s : State) : Outcome :=
  onAgent s ag (.next (doConfigStore ag addr.toNat size v.toNat s))
/-- COMMIT (R17). -/
def execCommit (ag : Agent) (h : Half) (g : GroupRef) (s : State) : Outcome := onAgent s ag (.next (doCommit ag h g s))
/-- CFG_RD (R346). -/
def execCfgRd (src : ZSrc) (func : Fin 16) (tag : BitVec 12) (addr : BitVec 48) (size : Nat) (s : State) : Outcome :=
  onSide s src (.next (doZCfg src func tag.toNat addr.toNat size none s))
/-- CFG_WR (R346). -/
def execCfgWr (src : ZSrc) (func : Fin 16) (tag : BitVec 12) (addr : BitVec 48) (size : Nat) (v : BitVec 32) (s : State) : Outcome :=
  onSide s src (.next (doZCfg src func tag.toNat addr.toNat size (some v.toNat) s))
/-- GS_OPEN_WRITE (R365). -/
def execGsOpenWrite (ag : Agent) (g : Fin 4) (v : BitVec 32) (s : State) : Outcome :=
  onAgent s ag (.next (regStore ag (halfOf 2 g) .gsCtl g.val v.toNat (gsWriteAct g.val) s))

end Sys2Proof.Machine
end

