-- ==== Sys2Proof/Machine/Cadun.lean ====
section
/-! DEFINITION. How Cadun takes a command (R387–R393, R402): its turn, its rights, its arguments, its completion; TAKE_ADVANCE. -/

namespace Sys2Proof.Machine

open Sys2Proof

/-! ### Status codes (R391) -/

def csOk : Nat := 0
def csBadArg : Nat := 2
def csNoResource : Nat := 3
def csOvercommit : Nat := 4
def csDenied : Nat := 5
def csBusy : Nat := 6
def csTimeout : Nat := 7
def csFenced : Nat := 8
def csFailed : Nat := 9

/-! ### A command in hand -/

/-- A command that Cadun works on: its session, index, the function that it acts for, its entry, its point of acceptance, and
whether this is its start. -/
structure CmdIn where
  ses : Nat
  idx : W32
  f : Nat
  e : ReelEntry
  t : Nat
  first : Bool
  deriving DecidableEq, Repr

/-- What Cadun's work on a command came to: a status with its result; OK once takes have advanced (R393); or more work, for
which the command comes again. -/
inductive CmdEnd where
  | answer (status : Nat) (res : List Byte)
  | after (keys : List Nat) (res : List Byte)
  | again
  deriving DecidableEq, Repr

/-- Argument byte `i` of a command, and its `n` bytes from `i` on (R392). -/
def CmdIn.b (c : CmdIn) (i : Nat) : Nat := argB c.e i
/-- Several bytes. -/
def CmdIn.n (c : CmdIn) (i n : Nat) : Nat := argN c.e i n

/-- End with a status and nothing changed. -/
def endWith (st : Nat) (s : State) : CmdEnd × State := (.answer st [], s)
/-- End well. -/
def endOk (res : List Byte) (s : State) : CmdEnd × State := (.answer csOk res, s)

/-- The check of a half that a command names: 2 the part has none, 8 fenced, 0 good. -/
def halfCheck (s : State) (h : Nat) : Nat :=
  if 2 ≤ h ∨ !hasHalf s (Half.ofBit h) then csBadArg else if cfgGone s (Half.ofBit h) then csFenced else csOk

/-- Continue when a check is good. -/
def orElse (st : Nat) (s : State) (go : State → CmdEnd × State) : CmdEnd × State := if st = csOk then go s else endWith st s

/-! ### What a command names (R389) -/

/-- A run of resources of a kind: kinds 0 function, 1 partition, 2 cluster, 3 way, 4 cue, 5 queue, 6 regulator, 7 queue pair,
8 key, 9 stack, 10 guest site, 11 half, 12 the flash and the NVM (R437). -/
structure ResRun where
  kind : Nat
  lo : Nat
  hi : Nat
  deriving DecidableEq, Repr

/-- Two runs have a resource in common. -/
def ResRun.meets (a b : ResRun) : Bool := decide (a.kind = b.kind) && decide (a.lo ≤ b.hi) && decide (b.lo ≤ a.hi)

/-- One resource. -/
def one (k n : Nat) : ResRun := ⟨k, n, n⟩
/-- A run of a length. -/
def runOf (k a n : Nat) : ResRun := ⟨k, a, a + n - 1⟩

/-- The owner of a resource as a function named. -/
def ownerRun (o : Option Nat) : List ResRun := (o.map (one 0)).toList

/-- The set bits of a mask below `n`. -/
def maskList (n m : Nat) : List Nat := (List.range n).filter (fun j => natBit j m)

/-- The owner of a queue pair, a regulator, a key. -/
def keyOwner (s : State) (k : Nat) : Option Nat := ownerField s .mkCtl k

/-- The resources that a command's entry names. -/
def cmdRuns (s : State) (e : ReelEntry) : List ResRun :=
  let b := argB e
  let n := argN e
  let part (p : Nat) : List ResRun := one 1 p :: ownerRun (partFunc s p)
  match entOp e with
  | 0x10 | 0x11 | 0x12 | 0x13 | 0x50 | 0x53 | 0x58 | 0x71 => [one 0 (b 0)]
  | 0x20 | 0x21 => one 0 (b 0) :: one 11 (b 1) :: (maskList 18 (n 4 4)).map (fun j => one 2 (18 * b 1 + j))
  | 0x30 => [one 0 (b 0)] ++ (if b 1 = 2 then [one 11 (b 2)] else [])
  | 0x31 | 0x32 | 0x34 => part (b 0)
  | 0x33 => part (b 0) ++ one 11 (b 1) :: (maskList 16 (n 2 2 ||| n 4 2)).map (fun w => one 3 (16 * b 1 + w))
  | 0x40 | 0x42 | 0x44 => [one 0 (b 0), one 11 (b 1)]
  | 0x41 => runOf 4 (n 0 2) (n 2 2) :: ownerRun (cueFunc s (n 0 2))
  | 0x43 => runOf 5 (n 0 2) (n 2 2) :: ownerRun (queueFunc s (n 0 2))
  | 0x45 => one 6 (b 0) :: ownerRun (regulFunc s (b 0))
  | 0x46 => one 6 (b 0) :: one 1 (b 3) :: ownerRun (regulFunc s (b 0))
  | 0x51 => one 7 (n 0 2) :: ownerRun (qpFunc s (n 0 2))
  | 0x52 => runOf 7 (n 0 2) (n 2 2) :: ownerRun (qpFunc s (n 0 2))
  | 0x54 => one 8 (n 0 4 % 1024) :: ownerRun (keyOwner s (n 0 4 % 1024))
  | 0x70 => one 0 (b 0) :: (b 4 :: maskList 64 (n 8 8)).flatMap part
  | 0x80 => [one 10 (b 0), one 0 (b 1)]
  | 0x81 => [one 10 (b 0)]
  | 0x82 | 0x83 => [one 11 1]
  | 0x84 => [one 9 (b 0)]
  | 0xA0 | 0xA1 | 0xA2 => [one 12 0]
  | _ => []

/-- The functions that a command names, itself or through what it names. -/
def cmdFuncs (s : State) (e : ReelEntry) : List Nat :=
  ((cmdRuns s e).filter (fun r => decide (r.kind = 0))).map (fun r => r.lo)

/-- A `CUT` and the Cut of a `FUNC_DESTROY` wait for no other command, and hold none back: R402 says what those meet. -/
def cutsAtOnce (op : Nat) : Bool := decide (op = 0x11) || decide (op = 0x12) || decide (op = 0x13)

/-! ### Rights and arguments (R391, R392) -/

/-- The commands that a session of any function may issue. -/
def anyCodes : List Nat := [0x01, 0x13, 0x51, 0x53, 0x54, 0x70, 0x71, 0x90, 0x91, 0x92, 0xA3, 0xA4]

/-- The bytes of the arguments that a command uses, as offsets and lengths. -/
def argUsed (e : ReelEntry) : List (Nat × Nat) :=
  match entOp e with
  | 0x02 => [(0, 2)]
  | 0x10 | 0x11 | 0x12 | 0x13 | 0x32 | 0x45 | 0x59 | 0x71 | 0x81 => [(0, 1)]
  | 0x20 | 0x21 => [(0, 2), (4, 4)]
  | 0x30 => [(0, 3), (4, 4)]
  | 0x31 => [(0, 1), (4, 4)]
  | 0x33 => [(0, 6)]
  | 0x34 | 0x44 | 0x84 | 0xA2 => [(0, 2)]
  | 0x40 | 0x41 | 0x42 | 0x43 | 0x52 | 0x54 => [(0, 4)]
  | 0x46 => [(0, 6), (8, 8)]
  | 0x50 => [(0, 1), (2, 2)]
  | 0x51 => [(0, 3), (4, 10), (16, 28)]
  | 0x53 => [(0, 2), (8, 16)]
  | 0x58 => [(0, 3), (4, 4)]
  | 0x60 => [(0, 4), (8, 8)]
  | 0x61 => [(8, 8)]
  | 0x70 => [(0, 1), (2, 3), (6, 12), (24, 8)]
  | 0x80 => [(0, 5)]
  | 0x85 => [(0, 4), (8, 12)]
  | 0x90 => [(0, 9)]
  | 0x91 | 0x92 => [(0, 1), (4, 12 * min 9 (argB e 0))]
  | 0xA0 => [(8, 12)]
  | 0xA1 => [(0, 1), (4, 16)]
  | 0xA3 => [(0, 41), (44, 8)]
  | 0xA4 => [(0, 1), (8, 8)]
  | _ => []

/-- A reserved or unused argument byte is not zero. -/
def argDirty (e : ReelEntry) : Bool :=
  ((entArgs e).zipIdx).any (fun x => decide (x.1 ≠ 0) && !(argUsed e).any (fun u => decide (u.1 ≤ x.2) && decide (x.2 < u.1 + u.2)))

/-- The checks before a command's own: rights, unused bytes, the functions that it names. A function exists from its creation
to its destruction, so naming one that is FREE is a bad argument (DEDUCED). The order of the checks is the model's (DESIGN
CHOICE, log entry 19). -/
def preCheck (s : State) (f : Nat) (e : ReelEntry) : Nat :=
  let op := entOp e
  let fs := cmdFuncs s e
  if f ≠ 0 ∧ (!anyCodes.contains op || fs.any (fun g => decide (g ≠ f))) then csDenied
  else if argDirty e ∨ fs.any (fun g => decide (15 < g)) then csBadArg
  else if (op = 0x10 ∨ op = 0x11 ∨ op = 0x12) ∧ fs.contains 0 then csDenied
  else if op = 0x10 ∨ op = 0x13 then csOk
  else if fs.any (fun g => decide ((funcAt s g).st = 0)) then csBadArg
  else if op ≠ 0x12 ∧ fs.any (fun g => decide ((funcAt s g).st ≠ 1)) then csBusy
  else csOk

/-! ### The turn of a command (R389) -/

/-- A command of a session that was accepted and has no final completion, with its session. -/
def liveCmds (s : State) : List (Nat × CmdSt) := s.host.sessions.flatMap (fun e => e.2.cmds.map (fun c => (e.1, c)))

/-- A command is held back by another: one in progress, or accepted earlier, that names a resource of it. -/
def holdsBack (s : State) (n : Nat) (c : CmdSt) (m : Nat) (d : CmdSt) : Bool :=
  (d.started || decide (d.t < c.t)) && !(decide (m = n) && decide (d.index = c.index)) && !cutsAtOnce (entOp d.entry) &&
  (cmdRuns s d.entry).any (fun r => (cmdRuns s c.entry).any (fun q => r.meets q))

/-- A command may start: it is the first of its session that has not, fewer than 16 are in progress, and nothing holds it
back. -/
def mayStart (s : State) (n : Nat) (c : CmdSt) : Bool :=
  decide (((sesAt s n).cmds.find? (fun d => !d.started)).map (fun d => d.index) = some c.index) &&
  decide (((liveCmds s).filter (fun d => d.2.started)).length < 16) &&
  (cutsAtOnce (entOp c.entry) || !(liveCmds s).any (fun d => holdsBack s n c d.1 d.2))

/-- A command starts. -/
def startCmd (n : Nat) (idx : W32) (s : State) : State :=
  modSes n (fun x => { x with cmds := x.cmds.map (fun c => if c.index = idx then { c with started := true } else c) }) s

/-- Unknown commands whose turn has come are answered. -/
def settleAll (s : State) : State :=
  forEach s.host.sessions (fun e s => settleUnknown e.1 ((sesAt s e.1).cmds.length + 1) s) s

/-- The final completion of a command; the events that it caused come first (R406). -/
def finishCmd (n : Nat) (idx : W32) (st : Nat) (res : List Byte) (s : State) : State :=
  settleAll (complete n idx st res true false (flushEvents s))

/-- What work on a command came to is noted or answered. -/
def endCmd (c : CmdIn) (r : CmdEnd) (s : State) : State :=
  match r with
  | .answer st res => finishCmd c.ses c.idx st res s
  | .after keys res =>
    if dueKeys s keys = [] then finishCmd c.ses c.idx csOk res s
    else modSes c.ses (fun x => { x with
      cmds := x.cmds.map (fun d => if d.index = c.idx then { d with due := some (0, res, keys) } else d) }) s
  | .again => settleAll s

/-- Cadun works on a command of a session: nothing happens when the session has no such command with this code, when its turn
has not come, when its completion is decided, or while H0's processor does not run the firmware. -/
def runCmd (op : Nat) (r : CmdRef) (work : CmdIn → State → CmdEnd × State) (s : State) : State :=
  let n := r.ses.val
  match (sesAt s n).cmds.find? (fun c => decide (c.index = r.index)) with
  | none => s
  | some c =>
    if entOp c.entry ≠ op ∨ c.due.isSome ∨ s.cad.mp0.st ≠ 1 ∨ (!c.started ∧ !mayStart s n c) then s
    else
      let i : CmdIn := ⟨n, r.index, (sesAt s n).func, c.entry, c.t, !c.started⟩
      let st := if c.started then csOk else preCheck s i.f c.entry
      let s := startCmd n r.index s
      if st ≠ csOk then finishCmd n r.index st [] s
      else
        let w := work i s
        endCmd i w.1 w.2

/-- A DPA argument and its extent lie in memory of the session's function (R392, R489). -/
def dpaOk (s : State) (c : CmdIn) (a len : Nat) : Bool := extentIn s c.f a (max 1 len)

/-- Cadun writes bytes at a DPA argument, then ends. -/
def putThen (a : Nat) (bytes : List Byte) (res : List Byte) (s : State) : CmdEnd × State :=
  match engPut (.mp .h0) a bytes false s with
  | (false, s) => (.again, s)
  | (true, s) => endOk res s

/-- Cadun reads bytes at a DPA argument, then goes on; poison is a failed check of the firmware. -/
def getThen (a n : Nat) (s : State) (go : List Byte → State → CmdEnd × State) : CmdEnd × State :=
  match engBytes (.mp .h0) a n s with
  | (none, s) => (.again, s)
  | (some (_, true), s) => endWith csFailed s
  | (some (b, false), s) => go b s

/-! ### Takes that advance later (R222, R393, R401) -/

/-- Completions and Cuts that waited for a take are made. -/
def settleCadun (s : State) : State :=
  let s := forEach (List.range 16) settleCut s
  let s := forEach (liveCmds s) (fun d s =>
    match d.2.due with
    | some (st, res, keys) => if dueKeys s keys = [] then finishCmd d.1 d.2.index st res s else s
    | none => s) s
  settleAll s

/-- TAKE_ADVANCE (R222). -/
def execTakeAdvance (id : TakeId) (s : State) : Outcome :=
  let there : Bool := match id with
    | .cue n => cueThere s n
    | .queue n => hasHalf s (halfOf 256 n)
    | .coll h _ => hasHalf s h
    | .reel h _ => hasHalf s h
    | .siteTag g => hasHalf s (halfOf 2 g)
    | _ => true
  onPart there (.next (settleCadun (doTakeAdvance (takeKey id) s)))

end Sys2Proof.Machine
end

