-- ==== Sys2Proof/Machine/CadunDev.lean ====
section
/-! DEFINITION. Cadun's commands over the device, over fields (R404, R405), and over settings, firmware and identity (R435–R446). -/

namespace Sys2Proof.Machine

open Sys2Proof

/-! ### The device (R30, R391, R423) -/

/-- DEV_INFO. -/
def cmdDevInfo (_c : CmdIn) (s : State) : CmdEnd × State :=
  let i := s.ident
  endOk (natLe 1 (partCode s) ++ natLe 1 (halvesByte s) ++ natLe 1 i.bootState ++ natLe 1 s.pwr.rec0.cause ++ natLe 2 i.devId.toNat ++
    natLe 1 (b2n i.idValid) ++ zeros 1 ++ natLe 4 i.fwVersion.toNat ++ zeros 4 ++ serialBytes s) s

/-- DEVICE_ID_SET. -/
def cmdDeviceIdSet (c : CmdIn) (s : State) : CmdEnd × State :=
  if groupOpen s then endWith csBusy s
  else endOk [] { s with ident := { s.ident with devId := BitVec.ofNat 16 (c.n 0 2), idValid := true } }

/-- DEVICE_RESET: the cold boot begins 10 ms after the completion. -/
def cmdDeviceReset (_c : CmdIn) (s : State) : CmdEnd × State :=
  endOk [] { s with pwr := { s.pwr with resetDueT := some (s.clock + ms 10) } }

/-! ### Fields (R404, R405) -/

/-- The check of an address that a field command names: 2 it names no block class, 5 out of reach, 8 gone. `wr`: the value of a
write. -/
def fieldCheck (s : State) (f a : Nat) (wr : Option Nat) : Nat :=
  if a % 4 ≠ 0 then csBadArg
  else
    let w : Writer := .func f
    match cfgSpot s w a with
    | .outside => csBadArg
    | .gone => csFenced
    | .reserved => csOk
    | .hidden => csDenied
    | .copy r i => if wr.isNone && mayReach s w r i then csOk else csDenied
    | .field _ r i =>
      match wr with
      | none => if mayReach s w r i then csOk else csDenied
      | some v =>
        if !mayReach s w r i ∨ !writesAny s w r i ∨ (planWrite s w r i v).denied then
          csDenied
        else csOk

/-- The first of the checks of R404 that fails in a list: bad addresses, then rights, then what is gone. -/
def fieldChecks (l : List Nat) : Nat :=
  if l.contains csBadArg then csBadArg
  else if l.contains csDenied then csDenied
  else if l.contains csFenced then csFenced
  else csOk

/-- Read fields in order. -/
def fieldsRead (f : Nat) : List Nat → State → List Byte × State
  | [], s => ([], s)
  | a :: l, s =>
    let r := cfgFetch (cfgSpot s (.func f) a) s
    let t := fieldsRead f l r.2
    (natLe 4 r.1 ++ t.1, t.2)

/-- FIELD_READ. -/
def cmdFieldRead (c : CmdIn) (s : State) : CmdEnd × State :=
  let n := c.b 8
  let l := (List.range n).map (fun k => c.n 0 8 + 4 * k)
  if n = 0 ∨ 26 < n then endWith csBadArg s
  else orElse (fieldChecks (l.map (fun a => fieldCheck s c.f a none))) s (fun s =>
    let r := fieldsRead c.f l s
    endOk (natLe 4 n ++ r.1) r.2)

/-- The pairs of a field write. -/
def fieldPairs (c : CmdIn) : List (Nat × Nat) := (List.range (c.b 0)).map (fun k => (c.n (4 + 12 * k) 8, c.n (12 + 12 * k) 4))

/-- Write pairs in order; a refusal under class S stops the list at its pair. -/
def fieldsWrite (f done : Nat) : List (Nat × Nat) → State → CmdEnd × State
  | [], s => endOk (natLe 1 done) s
  | p :: l, s =>
    let w : Writer := .func f
    let sp := cfgSpot s w p.1
    let refused : Bool := match sp with
      | .field _ r i => (planWrite s w r i p.2).refused
      | _ => false
    let s := cfgApply w (.host (Fin.ofNat 16 f)) p.1 p.2 sp s
    if refused then (.answer csBusy (natLe 1 done), s) else fieldsWrite f (done + 1) l s

/-- The checks of a write command. -/
def writeChecks (c : CmdIn) (s : State) : Nat :=
  if c.b 0 = 0 ∨ 9 < c.b 0 then csBadArg else fieldChecks ((fieldPairs c).map (fun p => fieldCheck s c.f p.1 (some p.2)))

/-- FIELD_WRITE. -/
def cmdFieldWrite (c : CmdIn) (s : State) : CmdEnd × State :=
  orElse (writeChecks c s) s (fun s => fieldsWrite c.f 0 (fieldPairs c) s)

/-- The commit group of a `COMMIT` field. -/
def groupOfCommit (r : Reg) (i : Nat) : Option GroupRef :=
  match r with
  | .ctxCommit => some (.ctxImage (Fin.ofNat 64 (i / 4)) (Fin.ofNat 4 i))
  | .maintCommit => some (.maint (Fin.ofNat 16 i))
  | .peekCommit => some .dirPeek
  | .dqCommit => some (.dqRing (Fin.ofNat 256 i))
  | .reelCommit => some (.reel (Fin.ofNat 64 i))
  | .vcBufCommit => some (.vcBuf (Fin.ofNat 8 i))
  | .collCommit => some (.coll (Fin.ofNat 128 i))
  | .regCommit => some (.reg (Fin.ofNat 128 i))
  | .netCommit => some .net
  | .pkgCommit => some .pkg
  | .dringCommit => some .dring
  | _ => none

/-- Every pair names a field of one group, the last its `COMMIT`. -/
def oneGroup (s : State) (f : Nat) (l : List (Nat × Nat)) : Bool :=
  match l.getLast? with
  | none => false
  | some p =>
    match cfgSpot s (.func f) p.1 with
    | .field h r i =>
      match groupOfCommit r i with
      | none => false
      | some g => l.dropLast.all (fun q => match cfgSpot s (.func f) q.1 with
        | .field _ r j => (groupFields h g).contains (r, j)
        | _ => false)
    | _ => false

/-- FIELD_WRITE_GROUP. -/
def cmdFieldWriteGroup (c : CmdIn) (s : State) : CmdEnd × State :=
  let st := writeChecks c s
  if st ≠ csBadArg ∧ st ≠ csFenced ∧ !oneGroup s c.f (fieldPairs c) then endWith csBadArg s
  else orElse st s (fun s => fieldsWrite c.f 0 (fieldPairs c) s)

/-! ### Settings (R441) -/

/-- The bytes of a settings record that are reserved. -/
def recGaps (b : List Byte) : Bool :=
  let zero (off n : Nat) : Bool := (slice off n b).all (fun x => decide (x = 0))
  zero 0xC 4 && zero 0x16 2 && zero 0x43 5 && zero 0x8A 6 && zero 0x290 108 && decide (fieldAt b 6 2 < 2) &&
  decide (natBits 14 12 (fieldAt b 0x1E 2) = 0) && decide (fieldAt b 0x41 1 < 2)

/-- Check 1 of R441. -/
def recForm (len : Nat) (b : List Byte) : Bool :=
  decide (len = if natBit 0 (fieldAt b 6 2) then recSigned else recLen) && decide (word4 b 0 = 0x54534E4D) &&
  decide (fieldAt b 4 2 = 1) && decide (word4 b 0x2FC = crc32 (b.take 0x2FC)) && recGaps b

/-- Check 3 of R441. -/
def recSignedOk (s : State) (b : List Byte) : Bool :=
  match ownerKey s with
  | none => true
  | some k => natBit 0 (fieldAt b 6 2) && Config.slhVerify k (b.take recLen) (b.drop recLen)

/-- The area of H0 that does not hold the active record; with factory settings, area A. -/
def spareArea (s : State) : Nat := if s.ident.setSource = 0 then 0 else if s.ident.activeB then 0 else 1

/-- An accepted record becomes active and is mirrored (steps 1 to 3). -/
def storeRecord (b : List Byte) (s : State) : State :=
  let a := spareArea s
  let s := areaPut .h0 a b s
  let i := s.ident
  let s := { s with
    ident := { i with
      active := b, activeB := decide (a = 1), setSource := a + 1, setSeq := word4 b 8, storeCount := i.storeCount + 1 }
    cad := { s.cad with lastStoreT := some s.clock } }
  let s := measureSettings s
  if s.part = .mb1 ∨ farGone s then s else areaPut .h1 a b s

/-- SETTINGS_STORE. -/
def cmdSettingsStore (c : CmdIn) (s : State) : CmdEnd × State :=
  let a := c.n 8 8
  let len := c.n 16 4
  if (len ≠ recLen ∧ len ≠ recSigned) ∨ !dpaOk s c a len then endWith csBadArg s
  else getThen a len s (fun b s =>
    let soon : Bool := match s.cad.lastStoreT with
      | some t => decide (s.clock < t + ms 10000)
      | none => false
    if !recForm len b ∨ word4 b 8 ≤ s.ident.setSeq then endWith csBadArg s
    else if !recSignedOk s b then endWith csDenied s
    else if soon then endWith csBusy s
    else if 1900000 ≤ s.ident.storeCount then endWith csNoResource s
    else endOk (natLe 4 (word4 b 8)) (storeRecord b s))

/-! ### Firmware (R435, R436) -/

/-- FW_WRITE. With a read-back that differs it fails and, under R390, leaves slot and slot control as they were. -/
def cmdFwWrite (readBackOk : Bool) (c : CmdIn) (s : State) : CmdEnd × State :=
  let n := c.b 0
  let off := c.n 4 4
  let a := c.n 8 8
  let len := c.n 16 4
  if 2 ≤ n ∨ off % 4096 ≠ 0 ∨ len = 0 ∨ 262144 < len ∨ slotSize < off + len ∨ !dpaOk s c a len then endWith csBadArg s
  else if n = b2n s.ident.runSlot then endWith csBusy s
  else getThen a len s (fun b s =>
    if !readBackOk then endWith csFailed s
    else
      let s := if preferSlot s = n then writeCtl (b2n s.ident.runSlot) false s else s
      let i := s.ident
      let s := { s with ident := { i with
        slotsWritten := if i.slotsWritten.contains n then i.slotsWritten else i.slotsWritten ++ [n] } }
      endOk [] (flashPut (slotBase n + off) b s))

/-- FW_ACTIVATE. -/
def cmdFwActivate (c : CmdIn) (s : State) : CmdEnd × State :=
  let n := c.b 0
  if 2 ≤ n ∨ 2 ≤ c.b 1 then endWith csBadArg s
  else
    match slotImage s n, imageFault s (slotImage s n) with
    | some m, 0 =>
      endOk [] (measure 1 4 none (bytesOf 64 m.digest) (natLe 1 n ++ natLe 1 (c.b 1)) (writeCtl n (decide (c.b 1 = 1)) s))
    | _, k => (.answer csFailed (natLe 1 k), s)

/-! ### Quotes and identity (R429, R445) -/

/-- ATTEST_QUOTE. -/
def cmdAttestQuote (c : CmdIn) (s : State) : CmdEnd × State :=
  let a := c.n 32 8
  let log := s.ident.mlog
  let more := if natBit 0 (c.b 40) then (log.drop (c.n 44 4)).take (c.n 48 4) else []
  let q := quoteBytes s c.f (slice 0 32 (entArgs c.e)) ++ more.flatten
  if 2 ≤ c.b 40 ∨ !dpaOk s c a q.length then endWith csBadArg s
  else putThen a q (natLe 4 q.length ++ natLe 4 log.length) s

/-- IDENTITY_READ. -/
def cmdIdentityRead (c : CmdIn) (s : State) : CmdEnd × State :=
  let b := match c.b 0 with
    | 0 => idRecord s
    | 1 => deviceCert s
    | _ => aliasCert s
  if 3 ≤ c.b 0 ∨ !dpaOk s c (c.n 8 8) b.length then endWith csBadArg s
  else putThen (c.n 8 8) b (natLe 4 b.length) s

/-! ### The commands -/

/-- DEV_INFO (R391). -/
def execDevInfo (c : CmdRef) (s : State) : Outcome := .next (runCmd 0x01 c cmdDevInfo s)
/-- DEVICE_ID_SET (R30). -/
def execDeviceIdSet (c : CmdRef) (s : State) : Outcome := .next (runCmd 0x02 c cmdDeviceIdSet s)
/-- DEVICE_RESET (R423). -/
def execDeviceReset (c : CmdRef) (s : State) : Outcome := .next (runCmd 0x03 c cmdDeviceReset s)
/-- FIELD_READ (R404). -/
def execFieldRead (c : CmdRef) (s : State) : Outcome := .next (runCmd 0x90 c cmdFieldRead s)
/-- FIELD_WRITE (R404). -/
def execFieldWrite (c : CmdRef) (s : State) : Outcome := .next (runCmd 0x91 c cmdFieldWrite s)
/-- FIELD_WRITE_GROUP (R405). -/
def execFieldWriteGroup (c : CmdRef) (s : State) : Outcome := .next (runCmd 0x92 c cmdFieldWriteGroup s)
/-- SETTINGS_STORE (R441). -/
def execSettingsStore (c : CmdRef) (s : State) : Outcome := .next (runCmd 0xA0 c cmdSettingsStore s)
/-- FW_WRITE (R435). -/
def execFwWrite (c : CmdRef) (readBackOk : Bool) (s : State) : Outcome := .next (runCmd 0xA1 c (cmdFwWrite readBackOk) s)
/-- FW_ACTIVATE (R436). -/
def execFwActivate (c : CmdRef) (s : State) : Outcome := .next (runCmd 0xA2 c cmdFwActivate s)
/-- ATTEST_QUOTE (R445). -/
def execAttestQuote (c : CmdRef) (s : State) : Outcome := .next (runCmd 0xA3 c cmdAttestQuote s)
/-- IDENTITY_READ (R429). -/
def execIdentityRead (c : CmdRef) (s : State) : Outcome := .next (runCmd 0xA4 c cmdIdentityRead s)

end Sys2Proof.Machine
end

