-- ==== Sys2Proof/Machine/CadunFunc.lean ====
section
/-! DEFINITION. Cadun's commands over functions, clusters, partitions, ways and exports (R395–R403). -/

namespace Sys2Proof.Machine

open Sys2Proof

/-! ### Functions and Cuts -/

/-- FUNC_CREATE (R395). -/
def cmdFuncCreate (c : CmdIn) (s : State) : CmdEnd × State :=
  let f := c.b 0
  if s.ident.refused then endWith csFailed s
  else if (funcAt s f).st ≠ 0 then endWith csBusy s
  else endOk [] (event .h0 0x0101 0 (some f) f 0 395 (modFunc f (fun x => { x with st := 1 }) s))

/-- CUT (R401, R402): it is answered when the Cut is complete; on a function that is CUTTING it joins. -/
def cmdCut (c : CmdIn) (s : State) : CmdEnd × State :=
  let f := c.b 0
  let join (s : State) : State := modFunc f (fun x => { x with cutWaits := x.cutWaits ++ [(c.ses, c.idx)] }) s
  if !c.first then (.again, s)
  else if (funcAt s f).st = 3 then endWith csBusy s
  else if (funcAt s f).st = 2 then (.again, join s)
  else (.again, cutFunc f 1 false (join s))

/-- FUNC_QUERY (R407): the function's entry of the function table. -/
def cmdFuncQuery (c : CmdIn) (s : State) : CmdEnd × State :=
  let f := c.b 0
  let w (r : Reg) : List Byte := natLe 4 (readReg r f s).1
  endOk ([Reg.fnState, .fnClustersH0, .fnClustersH1, .fnMem, .fnCounts, .fnCounts2].flatMap w ++ zeros 8) s

/-! ### Clusters (R395) -/

/-- The clusters of a mask. -/
def clusterList (h mask : Nat) : List Nat := (maskList 18 mask).map (fun j => 18 * h + j)

/-- The arguments of a cluster command. -/
def clusterArgs (c : CmdIn) (s : State) : Nat :=
  if 2 ^ 18 ≤ c.n 4 4 then csBadArg else halfCheck s (c.b 1)

/-- CLUSTER_ASSIGN. -/
def cmdClusterAssign (c : CmdIn) (s : State) : CmdEnd × State :=
  orElse (clusterArgs c s) s (fun s =>
    let f := c.b 0
    let l := clusterList (c.b 1) (c.n 4 4)
    let mine (n : Nat) : Bool := match clusterFunc s (halfOf 18 n) (n % 18) with
      | some g => decide (g = f)
      | none => true
    if !l.all (fun n => mine n && hasLogical s (halfOf 18 n) (n % 18)) then endWith csNoResource s
    else if !l.all (fun n => regStopped s .clusterOwner n) then endWith csBusy s
    else endOk [] (forEach l (fun n s => rput .clusterOwner n (f + 16) s) s))

/-- CLUSTER_RELEASE. -/
def cmdClusterRelease (c : CmdIn) (s : State) : CmdEnd × State :=
  orElse (clusterArgs c s) s (fun s =>
    let l := clusterList (c.b 1) (c.n 4 4)
    if !l.all (fun n => decide (clusterFunc s (halfOf 18 n) (n % 18) = some (c.b 0))) then endWith csNoResource s
    else if !l.all (fun n => regStopped s .clusterOwner n) then endWith csBusy s
    else endOk [] (forEach l (fun n s => rput .clusterOwner n 0 s) s))

/-! ### Partitions (R396, R397, R400) -/

/-- How many segments the part has. -/
def segCount (s : State) : Nat := if s.part = .mb1 then 1024 else 2048

/-- The halves on which a segment of a mode lies: 1 uniform, 2 near. -/
def spreadHalves (s : State) (mode : Nat) (near : Half) : List Half := if mode = 1 then halves s else [near]

/-- Cadun creates segments with memory on a half: it is in service, not closed, and no stack of it is out but under the
substitution of a loss (R179, R400, R463). -/
def halfOpen (s : State) (h : Half) : Bool :=
  let d := deg s h
  !cfgGone s h && !d.subClosed && !d.subMaint &&
  (List.range 8).all (fun j => !stackOut s (8 * h.num + j) || (d.subValid && decide (d.subStack = j)))

/-- The slots that R34 keeps for F0, partner slots with them. -/
def keptSlot (n : Nat) : Bool := (decide (1020 ≤ n) && decide (n < 1024)) || decide (2044 ≤ n)

/-- A retired granule lies in a slot of a slice that a segment would use. -/
def slotRetired (s : State) (h : Half) (slot n : Nat) : Bool :=
  s.mem.retired.any (fun r => decide (halfOf 128 r.sl = h) && decide (slot ≤ r.granule / 2048) && decide (r.granule / 2048 < slot + n))

/-- The partner slots of a segment are free on the substitute slices of a half (R396, R463). -/
def partnerFree (s : State) (h : Half) (slot n : Nat) : Bool :=
  if (deg s h).subValid then
    let sp : Nat × Nat × Nat × Nat := (Nat.xor slot 0x400, n, 128 * h.num, 128)
    (listedSegs s).all (fun g => decide (segMode s g = 0) || !spansMeet sp (segSpan s (rget s .segMap g))) &&
      !slotRetired s h (Nat.xor slot 0x400) n
  else true

/-- The map value of a new segment. -/
def segValue (slot mode : Nat) (near : Half) (p : Nat) : Nat :=
  slot + mode * 2 ^ 11 + (if mode = 2 then near.num else 0) * 2 ^ 13 + p * 2 ^ 16

/-- A slot meets the conditions of R396 for a segment. -/
def slotOk (s : State) (seg mode : Nat) (near : Half) (slot : Nat) : Bool :=
  let v := segValue slot mode near 0
  let n := (segSpan s v).2.1
  decide (slot + n ≤ 2048) && segValueOk s seg v && (List.range n).all (fun k => !keptSlot (slot + k)) &&
  (spreadHalves s mode near).all (fun h => partnerFree s h slot n && !slotRetired s h slot n)

/-- A segment is free. The slots that it may take hold no retired granule (R175): `slotRetired`. -/
def segFree (s : State) (g : Nat) : Bool :=
  decide (g < segCount s) && decide (rget s .segMap g = 0) && decide (g ≠ f0Seg s .h0) && decide (g ≠ f0Seg s .h0 + 1) &&
  (decide (s.part = .mb1) || (decide (g ≠ f0Seg s .h1) && decide (g ≠ f0Seg s .h1 + 1)))

/-- The lowest slot a segment may take. -/
def slotFor (s : State) (g mode : Nat) (near : Half) : Option Nat := (List.range 2048).find? (slotOk s g mode near)

/-- Map one segment at the lowest slot that fits; none when there is none. -/
def mapSeg (mode : Nat) (near : Half) (p : Nat) (s : State) (g : Nat) : Option State :=
  (slotFor s g mode near).map (fun slot => rput .segMap g (segValue slot mode near p) s)

/-- Map segments in order, each at the lowest slot that fits; none when one finds no slot. -/
def mapSegs (mode : Nat) (near : Half) (p : Nat) (l : List Nat) (s : State) : Option State :=
  l.foldl (fun o g => o.bind (fun s => mapSeg mode near p s g)) (some s)

/-- The lowest run of free segments. -/
def freeRun (s : State) (n : Nat) : Option Nat :=
  (List.range (segCount s + 1 - n)).find? (fun a => (List.range n).all (fun k => segFree s (a + k)))

/-- The lowest free partition below those of F0. -/
def freePart (s : State) : Option Nat :=
  (List.range (if s.part = .mb1 then 63 else 62)).find? (fun p => !rbit s .partCfg p 4)

/-- PART_CREATE. -/
def cmdPartCreate (c : CmdIn) (s : State) : CmdEnd × State :=
  let mode := c.b 1
  let n := c.n 4 4
  if (mode ≠ 1 ∧ mode ≠ 2) ∨ (mode = 1 ∧ c.b 2 ≠ 0) ∨ n = 0 ∨ segCount s < n then endWith csBadArg s
  else orElse (if mode = 2 then halfCheck s (c.b 2) else csOk) s (fun s =>
    let near := Half.ofBit (c.b 2)
    if s.ident.refused then endWith csFailed s
    else if !(spreadHalves s mode near).all (halfOpen s) then endWith csNoResource s
    else
      match freeRun s n, freePart s with
      | some a, some p =>
        match mapSegs mode near p ((List.range n).map (fun k => a + k)) s with
        | none => endWith csNoResource s
        | some s => endOk (natLe 4 p ++ natLe 2 a) (rput .partCfg p (c.b 0 + 0x30) s)
      | _, _ => endWith csNoResource s)

/-- The check of a partition that a command names: it must exist. -/
def partCheck (s : State) (p : Nat) : Nat :=
  if 64 ≤ p then csBadArg else if (partFunc s p).isNone then csNoResource else csOk

/-- The partitions of F0's reserved segments are nobody's to change (R34). -/
def keptPart (s : State) (p : Nat) : Bool := decide (p = 63) || (decide (s.part = .mb2) && decide (p = 62))

/-- PART_RESIZE. A shrink whose copies are still being recalled comes again. -/
def cmdPartResize (c : CmdIn) (s : State) : CmdEnd × State :=
  let p := c.b 0
  let n := c.n 4 4
  if n = 0 ∨ segCount s < n then endWith csBadArg s
  else orElse (partCheck s p) s (fun s =>
    let l := partSegs s p
    let first := natLe 4 0 ++ natLe 2 (l.headD 0)
    if keptPart s p then endWith csDenied s
    else if n < l.length then
      match releaseSegs (l.drop n) s with
      | (false, s) => (.again, s)
      | (true, s) => endOk first s
    else
      let v := rget s .segMap (l.headD 0)
      let mode := natBits 12 11 v
      let near := Half.ofBit (natBits 13 13 v)
      let more := (List.range (n - l.length)).map (fun k => l.getLastD 0 + 1 + k)
      if n = l.length then endOk first s
      else if !(spreadHalves s mode near).all (halfOpen s) ∨ !more.all (segFree s) then endWith csNoResource s
      else
        match mapSegs mode near p more s with
        | none => endWith csNoResource s
        | some s => endOk first s)

/-- PART_DESTROY. -/
def cmdPartDestroy (c : CmdIn) (s : State) : CmdEnd × State :=
  orElse (partCheck s (c.b 0)) s (fun s =>
    if keptPart s (c.b 0) then endWith csDenied s
    else
      match releasePartition (c.b 0) s with
      | (false, s) => (.again, s)
      | (true, s) => endOk [] s)

/-! ### Ways (R398) -/

/-- The map value that `WAYS_SET` gives a way: `LOCKED` is left to the function. -/
def wayValue (s : State) (c : CmdIn) (n : Nat) : Nat :=
  let cache := natBit (n % 16) (c.n 2 2)
  let scr := natBit (n % 16) (c.n 4 2)
  (rget s .wayMap n &&& 0x100) + (if cache || scr then c.b 0 + 2 ^ 6 + b2n scr * 2 ^ 7 else 0)

/-- The ways that the command concerns: those of its masks and those of the partition. -/
def waysNamed (s : State) (c : CmdIn) : List Nat :=
  ((List.range 16).map (fun w => 16 * c.b 1 + w)).filter (fun n =>
    natBit (n % 16) (c.n 2 2 ||| c.n 4 2) || (rbit s .wayMap n 6 && decide (rbits s .wayMap n 5 0 = c.b 0)))

/-- The ways whose role changes. -/
def waysChanged (s : State) (c : CmdIn) : List Nat :=
  (waysNamed s c).filter (fun n => decide (natBits 7 0 (rget s .wayMap n) ≠ natBits 7 0 (wayValue s c n)))

/-- The operation that empties ways: `FLUSH_INV` over ways, locked ones with them. -/
def flushWays (mask : Nat) : MaintOp :=
  { addr := mask, len := 0, ctl := 5 + 2 ^ 5, recAddr := 0, cue := 0, started := true, pos := 0, result := 0, refused := false
    present := 0, affected := 0, written := 0, locked := 0, discarded := 0, failed := 0, unreached := false, waitFor := []
    noRec := true, blockedT := none }

/-- Empty the ways of a mask: false while a line must be tried again. -/
def emptyWays (h : Half) (mask : Nat) (s : State) : Bool × State :=
  (linesInWays s h mask).foldl (fun r p =>
    match opCoherent p.1 p.2 5 r.2 with
    | (false, s) => (false, s)
    | (true, s) =>
      match opLine p.1 p.2 (flushWays mask) s with
      | none => (false, s)
      | some (_, s) => (r.1, s)) (true, s)

/-- WAYS_SET: the ways are held and emptied, then the map is written and the holds go. -/
def cmdWaysSet (c : CmdIn) (s : State) : CmdEnd × State :=
  let p := c.b 0
  orElse (partCheck s p) s (fun s => orElse (halfCheck s (c.b 1)) s (fun s =>
    let h := Half.ofBit (c.b 1)
    let away : Bool := match partNear s p with
      | some g => decide (g ≠ h)
      | none => false
    if c.n 2 2 &&& c.n 4 2 ≠ 0 ∨ (c.n 2 2 ≠ 0 ∧ away) then endWith csBadArg s
    else if !(waysNamed s c).all (fun n => !rbit s .wayMap n 6 || decide (rbits s .wayMap n 5 0 = p)) then endWith csNoResource s
    else
      let l := waysChanged s c
      let s := when c.first (noteHolds (cmdKey c.ses c.idx) (l.filter (fun n => !rbit s .wayMap n 9))) s
      let s := forEach l (fun n s => holdWay n true s) s
      match emptyWays h (l.foldl (fun m n => m + 2 ^ (n % 16)) 0) s with
      | (false, s) => (.again, s)
      | (true, s) => endOk [] (dropHolds (cmdKey c.ses c.idx) (forEach l (fun n s => wayMapAct n (wayValue s c n) s) s))))

/-! ### Exports (R399) -/

/-- Copies of a segment's lines are recalled or collected: false while some are outstanding. -/
def recallSeg (seg : Nat) (s : State) : Bool × State :=
  (segDirLines s seg).foldl (fun r p =>
    match opCoherent p.1 p.2 5 r.2 with
    | (ok, s) => (r.1 && ok, s)) (true, s)

/-- PART_EXPORT: each segment is held while its settings change, with copies recalled where a permission goes. -/
def cmdPartExport (c : CmdIn) (s : State) : CmdEnd × State :=
  let p := c.b 0
  let v := c.b 1
  if 4 ≤ v then endWith csBadArg s
  else orElse (partCheck s p) s (fun s =>
    let l := partSegs s p
    let st := (slateAt s ((partFunc s p).getD 0)).st
    if l.any (segOutOfService s) then endWith csFenced s
    else if st = .armed ∨ st = .pointed ∨ st = .streaming then endWith csBusy s
    else
      let key := cmdKey c.ses c.idx
      let s := when c.first (noteHolds key (l.filter (fun g => !rbit s .segMap g 14))) s
      let s := forEach l (fun g s => holdSeg g true s) s
      let less := l.filter (fun g => decide (rget s .segExport g &&& (3 - v) ≠ 0))
      let r := less.foldl (fun (r : Bool × State) g =>
        match recallSeg g r.2 with
        | (ok, s) => (r.1 && ok, s)) (true, s)
      if r.1 then
        let s := forEach l (fun g s => rput .segExport g v s) r.2
        endOk [] (dropHolds key (forEach (cmdHolds s key) (fun g s => holdSeg g false s) s))
      else (.again, r.2))

/-! ### FUNC_DESTROY (R403) -/

/-- Members of a range that an ownership field gives to a function. -/
def ownedBy (s : State) (r : Reg) (n f : Nat) : List Nat := (List.range n).filter (fun k => decide (ownerField s r k = some f))

/-- Release every resource of a function but its partitions. -/
def releaseRest (f : Nat) (s : State) : State :=
  let nh := numHalves s
  let s := forEach ((List.range (18 * nh)).filter (fun n => decide (clusterFunc s (halfOf 18 n) (n % 18) = some f)))
    (fun n s => rput .clusterOwner n 0 s) s
  let s := forEach (funcCues s f) (fun n s => doCueOwner n 0 s) s
  let s := forEach (ownedBy s .dqOwner (256 * nh) f) (fun n s => dqOwnerAct n 0 s) s
  let s := forEach (ownedBy s .regOwner (128 * nh) f) (fun n s => regOwnerAct n 0 s) s
  let s := forEach (ownedBy s .qpOwner 4096 f) (fun n s => qpOwnerAct n 0 (qpMove n 0 s)) s
  let s := forEach (ownedBy s .mkCtl 1024 f) (fun k s => mkCtlAct k 0 s) s
  let s := forEach (List.range 64) (fun n s =>
    if (sesAt s n).st ≠ 0 ∧ (sesAt s n).func = f then closeSes n s else s) s
  let s := forEach ((List.range (128 * nh)).filter (fun k => rbit s .collId k 31 && decide (collFunc s k = f)))
    (fun k s => collIdAct k 0 s) s
  let s := forEach ((List.range (64 * nh)).filter (fun k => rbit s .reelId k 31 && decide (reelFunc s k = f)))
    (fun k s => reelIdAct k 0 s) s
  forEach ((List.range (2 * nh)).filter (fun g => decide (siteFunc s g = f))) (fun g s =>
    rputBits .gsCtl g 4 1 0 (fenceSite g 4 s)) s

/-- Release the partitions of a function: false while one is still being released. -/
def releaseParts (f : Nat) (s : State) : Bool × State :=
  ((List.range 64).filter (fun p => decide (partFunc s p = some f))).foldl (fun r p =>
    match releasePartition p r.2 with
    | (ok, s) => (r.1 && ok, s)) (true, s)

/-- FUNC_DESTROY: a Cut, then the release of everything; it comes again while a take or a segment is waited for. -/
def cmdFuncDestroy (c : CmdIn) (s : State) : CmdEnd × State :=
  let f := c.b 0
  let s := if c.first then cutFunc f 3 true s else s
  if (funcAt s f).st ≠ 3 then (.again, s)
  else
    match releaseParts f s with
    | (false, s) => (.again, s)
    | (true, s) =>
      endOk [] (event .h0 0x0101 0 (some f) f 0 403 (modFunc f (fun x => { x with st := 0, destroy := false }) (releaseRest f s)))

/-! ### The commands -/

/-- FUNC_CREATE (R395). -/
def execFuncCreate (c : CmdRef) (s : State) : Outcome := .next (runCmd 0x10 c cmdFuncCreate s)
/-- FUNC_DESTROY (R403). -/
def execFuncDestroy (c : CmdRef) (s : State) : Outcome := .next (runCmd 0x11 c cmdFuncDestroy s)
/-- CUT (R401). -/
def execCut (c : CmdRef) (s : State) : Outcome := .next (runCmd 0x12 c cmdCut s)
/-- FUNC_QUERY (R407). -/
def execFuncQuery (c : CmdRef) (s : State) : Outcome := .next (runCmd 0x13 c cmdFuncQuery s)
/-- CLUSTER_ASSIGN (R395). -/
def execClusterAssign (c : CmdRef) (s : State) : Outcome := .next (runCmd 0x20 c cmdClusterAssign s)
/-- CLUSTER_RELEASE (R395). -/
def execClusterRelease (c : CmdRef) (s : State) : Outcome := .next (runCmd 0x21 c cmdClusterRelease s)
/-- PART_CREATE (R396). -/
def execPartCreate (c : CmdRef) (s : State) : Outcome := .next (runCmd 0x30 c cmdPartCreate s)
/-- PART_RESIZE (R397). -/
def execPartResize (c : CmdRef) (s : State) : Outcome := .next (runCmd 0x31 c cmdPartResize s)
/-- PART_DESTROY (R397). -/
def execPartDestroy (c : CmdRef) (s : State) : Outcome := .next (runCmd 0x32 c cmdPartDestroy s)
/-- WAYS_SET (R398). -/
def execWaysSet (c : CmdRef) (s : State) : Outcome := .next (runCmd 0x33 c cmdWaysSet s)
/-- PART_EXPORT (R399). -/
def execPartExport (c : CmdRef) (s : State) : Outcome := .next (runCmd 0x34 c cmdPartExport s)

end Sys2Proof.Machine
end

