-- ==== Sys2Proof/Machine/CadunRes.lean ====
section
/-! DEFINITION. Cadun's commands over cues, queues, regulators, queue pairs, keys, sessions, the coherence group, routes,
Slates, guest sites, H1 and stacks (R391–R394 and the rules that the commands name). -/

namespace Sys2Proof.Machine

open Sys2Proof

/-! ### Runs of resources (R393) -/

/-- The lowest run of `n` numbers in [base, base + size) that are all free. -/
def lowestRun (free : Nat → Bool) (base size n : Nat) : Option Nat :=
  ((List.range (size + 1 - n)).find? (fun a => (List.range n).all (fun k => free (base + a + k)))).map (fun a => base + a)

/-- A run of numbers. -/
def runList (a n : Nat) : List Nat := (List.range n).map (fun k => a + k)

/-- Allocate a run: each number is given to the function, and the completion waits for the takes. -/
def allocRun (free : Nat → Bool) (base size n : Nat) (key : Nat → Nat) (give : Nat → State → State) (s : State) : CmdEnd × State :=
  if n = 0 ∨ size < n then endWith csBadArg s
  else
    match lowestRun free base size n with
    | none => endWith csNoResource s
    | some a => (.after ((runList a n).map key) (natLe 2 a), forEach (runList a n) give s)

/-- The check of a run to be freed: on the part, in service, and all of one function. -/
def freeCheck (s : State) (a n total per : Nat) (owner : Nat → Option Nat) : Nat :=
  if n = 0 ∨ total < a + n then csBadArg
  else if (runList a n).any (fun k => cfgGone s (halfOf per k)) then csFenced
  else if (owner a).isNone ∨ !(runList a n).all (fun k => decide (owner k = owner a)) then csNoResource
  else csOk

/-- CUE_ALLOC. -/
def cmdCueAlloc (c : CmdIn) (s : State) : CmdEnd × State :=
  orElse (halfCheck s (c.b 1)) s (fun s =>
    allocRun (fun n => (cueFunc s n).isNone) (4096 * c.b 1) 4096 (c.n 2 2)
      (fun n => takeKey (.cue (Fin.ofNat 8192 n))) (fun n s => doCueOwner n (c.b 0 + 16) s) s)

/-- CUE_FREE. -/
def cmdCueFree (c : CmdIn) (s : State) : CmdEnd × State :=
  orElse (freeCheck s (c.n 0 2) (c.n 2 2) (4096 * numHalves s) 4096 (cueFunc s)) s (fun s =>
    endOk [] (forEach (runList (c.n 0 2) (c.n 2 2)) (fun n s => doCueOwner n 0 s) s))

/-- DQ_ALLOC. -/
def cmdDqAlloc (c : CmdIn) (s : State) : CmdEnd × State :=
  orElse (halfCheck s (c.b 1)) s (fun s =>
    allocRun (fun n => (queueFunc s n).isNone) (256 * c.b 1) 256 (c.n 2 2) queueTake (fun n s => dqOwnerAct n (c.b 0 + 16) s) s)

/-- DQ_FREE. -/
def cmdDqFree (c : CmdIn) (s : State) : CmdEnd × State :=
  orElse (freeCheck s (c.n 0 2) (c.n 2 2) (256 * numHalves s) 256 (queueFunc s)) s (fun s =>
    let l := runList (c.n 0 2) (c.n 2 2)
    if !l.all (fun n => regStopped s .dqOwner n) then endWith csBusy s
    else endOk [] (forEach l (fun n s => dqOwnerAct n 0 s) s))

/-- REG_ALLOC. -/
def cmdRegAlloc (c : CmdIn) (s : State) : CmdEnd × State :=
  orElse (halfCheck s (c.b 1)) s (fun s =>
    match lowestRun (fun q => (regulFunc s q).isNone) (128 * c.b 1) 128 1 with
    | none => endWith csNoResource s
    | some q => endOk (natLe 1 q) (regOwnerAct q (c.b 0 + 16) s))

/-- The check of a regulator that a command names. -/
def regulCheck (s : State) (q : Nat) : Nat := freeCheck s q 1 (128 * numHalves s) 128 (regulFunc s)

/-- REG_FREE. -/
def cmdRegFree (c : CmdIn) (s : State) : CmdEnd × State :=
  orElse (regulCheck s (c.b 0)) s (fun s => endOk [] (regOwnerAct (c.b 0) 0 s))

/-- REG_SET (R325): a guarantee names a partition of the regulator's function whose memory is in service. -/
def cmdRegSet (c : CmdIn) (s : State) : CmdEnd × State :=
  let q := c.b 0
  let g : Guarantee := ⟨c.b 1, c.b 2, c.b 15, c.b 3, c.n 8 4, min 1000 (max 1 (c.n 4 2))⟩
  if 4 ≤ g.cls ∨ 8 ≤ g.acls ∨ 64 ≤ g.part ∨ 1024 ≤ c.n 4 2 ∨ 1024 ≤ c.n 12 2 ∨ 2 ≤ g.dir ∨
      (g.dir = 1 ∧ g.acls ≠ 2 ∧ g.acls ≠ 3) then endWith csBadArg s
  else orElse (regulCheck s q) s (fun s =>
    if g.cls ≠ 0 ∧ partFunc s g.part ≠ regulFunc s q then endWith csNoResource s
    else if g.cls ≠ 0 ∧ (partSegs s g.part).any (segOutOfService s) then endWith csFenced s
    else
      match setGuarantee q g (c.n 12 2) (c.b 14) s with
      | none => endWith csOvercommit s
      | some s => endOk (natLe 2 (worstLoad s)) s)

/-! ### Queue pairs and keys (R371–R374, R393, R394) -/

/-- QP_ALLOC. -/
def cmdQpAlloc (c : CmdIn) (s : State) : CmdEnd × State :=
  allocRun (fun n => (qpFunc s n).isNone) 0 4096 (c.n 2 2) qpTakeKey (fun n s => qpOwnerAct n (c.b 0 + 16) s) s

/-- QP_FREE. -/
def cmdQpFree (c : CmdIn) (s : State) : CmdEnd × State :=
  orElse (freeCheck s (c.n 0 2) (c.n 2 2) 4096 4096 (qpFunc s)) s (fun s =>
    let l := runList (c.n 0 2) (c.n 2 2)
    if !l.all (fun n => decide ((qpAt s n).st = 0)) then endWith csBusy s
    else endOk [] (forEach l (fun n s => qpOwnerAct n 0 s) s))

/-- The transitions of R394. -/
def qpMoveOk (old new : Nat) : Bool := decide (new = 0) || decide (new = 4) || (decide (new ≤ 3) && decide (new = old + 1))

/-- The context arguments of `QP_MODIFY` in range: each fits its field, and a path MTU that will be used is one of the five. -/
def qpArgsOk (c : CmdIn) (old : Nat) : Bool :=
  decide (c.n 4 4 < 2 ^ 24) && decide (c.b 32 < 8) && decide (c.b 33 < 8) && decide (c.b 34 < 8) && decide (c.b 35 < 32) &&
  decide (c.n 36 4 < 2 ^ 24) && decide (c.n 40 4 < 2 ^ 24) &&
  (decide (2 ≤ old) || decide (c.b 2 = 0) || decide (c.b 2 = 4) || (decide (1 ≤ c.b 32) && decide (c.b 32 ≤ 5)))

/-- Write the context of a queue pair. The addresses stand in the entry as on the wire (DESIGN CHOICE, log entry 14). -/
def qpWrite (q : Nat) (c : CmdIn) (s : State) : State :=
  let a := entArgs c.e
  let s := rput .qpDest q (c.n 4 4) s
  let s := rput .qpMacHi q (c.n 8 2) (rput .qpMacLo q (c.n 10 4) s)
  let s := forEach (List.range 4) (fun k s => rput .qpIp (4 * q + k) (beNat (slice (16 + 4 * k) 4 a)) s) s
  let s := rput .qpPath q (c.b 32 + 2 ^ 3 * c.b 33 + 2 ^ 6 * c.b 34 + 2 ^ 9 * c.b 35) s
  rput .qpRqPsn q (c.n 40 4) (rput .qpSqPsn q (c.n 36 4) s)

/-- QP_MODIFY (R394). -/
def cmdQpModify (c : CmdIn) (s : State) : CmdEnd × State :=
  let q := c.n 0 2
  let old := (qpAt s q).st
  if 4096 ≤ q ∨ 5 ≤ c.b 2 ∨ !qpArgsOk c old then endWith csBadArg s
  else if (qpFunc s q).isNone then endWith csNoResource s
  else if !qpMoveOk old (c.b 2) then endWith csBadArg s
  else endOk [] (qpMove q (c.b 2) (when (decide (old ≤ 1)) (qpWrite q c) s))

/-- The take of an identifier once every advance that is due has taken place. -/
def dueTake (s : State) (k : Nat) : Nat := ((takeSt s k).take + b2n (takeSt s k).due) % 256

/-- MK_CREATE (R394): the R_Key of R374. -/
def cmdMkCreate (c : CmdIn) (s : State) : CmdEnd × State :=
  let a := c.n 8 8
  let len := c.n 16 8
  if 8 ≤ c.b 1 ∨ len = 0 ∨ !dpaOk s c a len then endWith csBadArg s
  else
    match lowestRun (fun k => (keyOwner s k).isNone) 0 1024 1 with
    | none => endWith csNoResource s
    | some k =>
      let r := freeNat 14 s
      let s := rput .mkBaseHi k (a / 2 ^ 32) (rput .mkBaseLo k (a % 2 ^ 32) r.2)
      let s := rput .mkLenHi k (len / 2 ^ 32) (rput .mkLenLo k (len % 2 ^ 32) s)
      let s := mkCtlAct k (c.b 0 + 2 ^ 4 + 2 ^ 5 * c.b 1 + 2 ^ 16 * r.1) s
      (.after [mkTakeKey k] (natLe 4 (k + 2 ^ 10 * dueTake s (mkTakeKey k) + 2 ^ 18 * r.1)), s)

/-- MK_DESTROY. -/
def cmdMkDestroy (c : CmdIn) (s : State) : CmdEnd × State :=
  let v := c.n 0 4
  let k := v % 1024
  if (keyOwner s k).isNone ∨ curTake s (mkTakeKey k) ≠ some (natBits 17 10 v) ∨ rbits s .mkCtl k 29 16 ≠ natBits 31 18 v then
    endWith csNoResource s
  else endOk [] (mkCtlAct k (setBits 4 4 0 (rget s .mkCtl k)) s)

/-! ### Sessions (R383) -/

/-- SESSION_LOCAL: the session and the DPAs of its reels. -/
def cmdSessionLocal (c : CmdIn) (s : State) : CmdEnd × State :=
  let f := c.b 0
  let h := BitVec.ofNat 32 (c.n 4 4)
  if c.b 1 < 4 ∨ 10 < c.b 1 ∨ c.b 2 < 6 ∨ 12 < c.b 2 ∨ (h ≠ 0 ∧ !handleCurrent s h) then endWith csBadArg s
  else if h ≠ 0 ∧ cueFunc s (cueNum h) ≠ some f then endWith csNoResource s
  else
    match freeSession s f with
    | none => endWith csNoResource s
    | some n =>
      let s := rput .sesCue n h.toNat (rput .sesCplHead n 0 (rput .sesCmdDb n 0 s))
      let s := openSes n f true none (c.b 1) (c.b 2) s
      endOk (natLe 8 n ++ [0, 1, 2].flatMap (fun k => natLe 8 (reelBase s n k))) s

/-- SESSION_CLOSE. -/
def cmdSessionClose (c : CmdIn) (s : State) : CmdEnd × State :=
  if 64 ≤ c.b 0 then endWith csBadArg s
  else if (sesAt s (c.b 0)).st = 0 then endWith csNoResource s
  else endOk [] (closeSes (c.b 0) s)

/-! ### The coherence group and the routes (R186, R291) -/

/-- GROUP_SET. -/
def cmdGroupSet (c : CmdIn) (s : State) : CmdEnd × State :=
  let size := c.n 2 2
  if 4096 ≤ c.n 0 2 ∨ 4096 < size ∨ !dpaOk s c (c.n 8 8) (2 * size) then endWith csBadArg s
  else if groupOpen s then endWith csBusy s
  else getThen (c.n 8 8) (2 * size) s (fun b s =>
    let s := rputBits .groupCfg 0 24 0 (c.n 0 2 + 2 ^ 12 * size) s
    endOk [] (forEach (List.range 4096) (fun m s =>
      rput .member m (if m < size then fieldAt b (2 * m) 2 + 2 ^ 16 else 0) s) s))

/-- ROUTE_LOAD. -/
def cmdRouteLoad (c : CmdIn) (s : State) : CmdEnd × State :=
  if !dpaOk s c (c.n 8 8) (4 * 65536) then endWith csBadArg s
  else getThen (c.n 8 8) (4 * 65536) s (fun b s =>
    endOk [] (forEach (chunks 4 65536 b).zipIdx (fun x s => rput .routeEntry x.2 (leNat x.1 % 2 ^ 11) s) s))

/-! ### Slates (R224, R310) -/

/-- The tree that Cadun chooses for a Slate's collective: the participants in the order of the list, each the parent of the
eight that follow in breadth (DESIGN CHOICE, log entry 20). -/
def slateTree (devs : List Nat) (p : Nat) : Nat × Nat × List Nat :=
  (devs.getD 0 0, devs.getD ((p - 1) / 8) 0, (devs.drop (8 * p + 1)).take 8)

/-- The entry for a Slate's identifier: the one it has from an earlier Slate of the function, or the lowest that is closed. -/
def slateEntry (s : State) (f id : Nat) : Option Nat :=
  let all := List.range (128 * (if farGone s then 1 else numHalves s))
  match all.find? (fun k => rbit s .collId k 31 && decide (collName s k = id)) with
  | some k => if collFunc s k = f ∧ (slateAt s f).id = id ∧ (slateAt s f).st ≠ .idle then some k else none
  | none => all.find? (fun k => !rbit s .collId k 31)

/-- Open the entry of a Slate's collective. -/
def openSlateColl (k f id p : Nat) (devs : List Nat) (s : State) : State :=
  let t := slateTree devs p
  let s := if rbit s .collId k 31 then collIdAct k 0 s else s
  let s := rput .collTree k (t.1 + 2 ^ 16 * (if p = 0 then 0 else t.2.1)) s
  let s := forEach (List.range 4) (fun j s =>
    rput .collChild (4 * k + j) (t.2.2.getD (2 * j) 0 + 2 ^ 16 * t.2.2.getD (2 * j + 1) 0) s) s
  let s := rput .collCfg k (setBits 5 0 (t.2.2.length + 2 ^ 4 * b2n (decide (p = 0))) (regReset s.part .collCfg k)) s
  collIdAct k (id + 2 ^ 24 * f + 2 ^ 31) s

/-- The devices to which a segment of partitions is exported: every member of the group. -/
def exportedTo (s : State) (parts : List Nat) : List Nat :=
  if parts.any (fun p => (partSegs s p).any (fun g => rbit s .segExport g 0)) then
    (listedMembers s).map (fun m => (memberDev s m).toNat)
  else []

/-- What `SLATE_ARM` checks of its partitions: they and the preserve partition are the function's, and in service. -/
def slateParts (s : State) (f pres : Nat) (parts : List Nat) : Nat :=
  if 64 ≤ pres ∨ parts = [] ∨ parts.contains pres then csBadArg
  else if (pres :: parts).any (fun p => decide (partFunc s p ≠ some f)) then csNoResource
  else if (partSegs s pres).any (fun g => decide (segMode s g ≠ 1)) then csBadArg
  else if (pres :: parts).any (fun p => (partSegs s p).any (segOutOfService s)) then csFenced
  else csOk

/-- SLATE_ARM (R224). -/
def cmdSlateArm (c : CmdIn) (s : State) : CmdEnd × State :=
  let f := c.b 0
  let id := c.n 2 2
  let count := c.n 16 2
  let parts := maskList 64 (c.n 8 8)
  let x := slateAt s f
  let barrier : Bool := match collNamed s (c.n 6 2) with
    | some k => decide (collFunc s k = f)
    | none => false
  if count = 0 ∨ 4096 < count ∨ !barrier ∨ !dpaOk s c (c.n 24 8) (2 * count) then endWith csBadArg s
  else orElse (slateParts s f (c.b 4) parts) s (fun s =>
    if x.st = .armed ∨ x.st = .pointed ∨ x.st = .streaming then endWith csBusy s
    else getThen (c.n 24 8) (2 * count) s (fun b s =>
      let devs := (chunks 2 count b).map leNat
      match devs.findIdx? (fun d => decide (d = (ownDev s).toNat)), slateEntry s f id with
      | none, _ => endWith csBadArg s
      | some p, e =>
        if !(exportedTo s parts).all (fun d => devs.contains d) then endWith csBadArg s
        else
          match e with
          | none => endWith (if (List.range 256).any (fun k => rbit s .collId k 31 && decide (collName s k = id)) then csBusy
              else csNoResource) s
          | some k =>
            let s := setSlate f { SlateSt.init with
              st := .armed, epoch := x.epoch, id := id, preserve := c.b 4, barrier := c.n 6 2, parts := parts
              devices := devs.map (BitVec.ofNat 16) } s
            let s := forEach [f, 16 + f] (fun i s => rput .slateHeld i 0 (rput .slatePreserved i 0 s)) s
            endOk [] (openSlateColl k f id p devs s)))

/-- SLATE_ABORT (R234). -/
def cmdSlateAbort (c : CmdIn) (s : State) : CmdEnd × State :=
  let st := (slateAt s (c.b 0)).st
  if st = .armed ∨ st = .pointed ∨ st = .streaming then endOk [] (failSlate (c.b 0) 4 s) else endWith csBusy s

/-! ### Guest sites (R363) -/

/-- The check of a guest site that a command names. -/
def siteHalfCheck (s : State) (g : Nat) : Nat :=
  if 4 ≤ g then csBadArg else halfCheck s (g / 2)

/-- GUEST_OPEN: the site is bound and opened; the command ends when it is ACTIVE. -/
def cmdGuestOpen (c : CmdIn) (s : State) : CmdEnd × State :=
  let g := c.b 0
  let x := siteAt s g
  if 4 ≤ c.b 2 ∨ 2 ≤ c.b 3 ∨ 8 ≤ c.b 4 then endWith csBadArg s
  else orElse (siteHalfCheck s g) s (fun s =>
    if c.first then
      if x.st = 1 ∨ x.st = 2 then endWith csBusy s
      else
        let v := setBits 10 0 (1 + 2 * c.b 1 + 2 ^ 5 * c.b 2 + 2 ^ 7 * c.b 3 + 2 ^ 8 * c.b 4) (rget s .gsCtl g)
        (.again, gsWriteAct g v s)
    else if x.st = 2 then endOk (natLe 1 x.st ++ natLe 1 x.fwClass ++ natLe 1 (b2n x.coherent)) s
    else if x.st ≠ 1 then endWith csFenced s
    else if c.t + ms 10 ≤ s.clock then endWith csTimeout (undoCmd (cmdKey c.ses c.idx) c.e s)
    else (.again, s))

/-- GUEST_FENCE. -/
def cmdGuestFence (c : CmdIn) (s : State) : CmdEnd × State :=
  orElse (siteHalfCheck s (c.b 0)) s (fun s => endOk [] (fenceSite (c.b 0) 4 s))

/-! ### H1 (R359, R360, R426) -/

/-- H1_FENCE: it ends once the Cuts of step 6 are complete. -/
def cmdH1Fence (c : CmdIn) (s : State) : CmdEnd × State :=
  if s.part = .mb1 then endWith csBadArg s
  else if c.first ∧ farGone s then endWith csFenced s
  else
    let s := if c.first then fenceH1 3 s else s
    if (List.range 16).any (fun f => decide ((funcAt s f).st = 2)) then (.again, s) else endOk [] s

/-- H1_REJOIN. -/
def cmdH1Rejoin (rep : BootReport) (_c : CmdIn) (s : State) : CmdEnd × State :=
  if s.part = .mb1 then endWith csBadArg s
  else if s.zor.halves ≠ 2 then endWith csBusy s
  else
    match rejoinH1 rep s with
    | (true, s) => endOk (natLe 1 (bundlesUp s .h0).length) s
    | (false, s) => endWith (if s.ident.refused then csFailed else csTimeout) s

/-! ### Stacks (R175, R179) -/

/-- STACK_MAINT. -/
def cmdStackMaint (rep : TrainReport) (c : CmdIn) (s : State) : CmdEnd × State :=
  let k := c.b 0
  if 16 ≤ k ∨ 2 ≤ c.b 1 then endWith csBadArg s
  else orElse (halfCheck s (k / 8)) s (fun s =>
    if stackOut s k then endWith csFenced s
    else if c.b 1 = 1 then
      let used := (List.range 64).any (fun p => (partFunc s p).isSome && decide (partFunc s p ≠ some 0) && partOnStack s p k)
      if used ∨ (deg s (halfOfStack k)).subValid then endWith csBusy s
      else
        match maintFence k s with
        | (false, s) => (.again, s)
        | (true, s) => endOk [] s
    else if (stackAt s k).fence ≠ 2 ∨ (List.range 64).any (fun i => (chanAt s (64 * k + i)).tg.run) then endWith csBusy s
    else
      match maintReturn k rep s with
      | (false, s) => (.again, s)
      | (true, s) => if stackOut s k then endWith csFenced s else endOk [] s)

/-- An entry of the retired-granule list as `RETIRED_LIST` writes it. The manual does not lay it out: DPA in 8 bytes, slice in
2, function in 1, zeros (DESIGN CHOICE, log entry 15). -/
def retiredEntry (s : State) (r : RetGranule) : List Byte :=
  let own := sectorOwner s r.sl (r.granule * 16) 0
  natLe 8 own.1 ++ natLe 2 r.sl ++ natLe 1 (own.2.getD 0) ++ zeros 5

/-- RETIRED_LIST. -/
def cmdRetiredList (c : CmdIn) (s : State) : CmdEnd × State :=
  let l := s.mem.retired
  let w := (l.drop (c.n 0 4)).take (c.n 16 4)
  if !dpaOk s c (c.n 8 8) (16 * w.length) then endWith csBadArg s
  else putThen (c.n 8 8) (w.flatMap (retiredEntry s)) (natLe 4 w.length ++ natLe 4 l.length) s

/-! ### The commands -/

/-- CUE_ALLOC (R393). -/
def execCueAlloc (c : CmdRef) (s : State) : Outcome := .next (runCmd 0x40 c cmdCueAlloc s)
/-- CUE_FREE (R393). -/
def execCueFree (c : CmdRef) (s : State) : Outcome := .next (runCmd 0x41 c cmdCueFree s)
/-- DQ_ALLOC (R393). -/
def execDqAlloc (c : CmdRef) (s : State) : Outcome := .next (runCmd 0x42 c cmdDqAlloc s)
/-- DQ_FREE (R393). -/
def execDqFree (c : CmdRef) (s : State) : Outcome := .next (runCmd 0x43 c cmdDqFree s)
/-- REG_ALLOC (R393). -/
def execRegAlloc (c : CmdRef) (s : State) : Outcome := .next (runCmd 0x44 c cmdRegAlloc s)
/-- REG_FREE (R393). -/
def execRegFree (c : CmdRef) (s : State) : Outcome := .next (runCmd 0x45 c cmdRegFree s)
/-- REG_SET (R325). -/
def execRegSet (c : CmdRef) (s : State) : Outcome := .next (runCmd 0x46 c cmdRegSet s)
/-- QP_ALLOC (R393). -/
def execQpAlloc (c : CmdRef) (s : State) : Outcome := .next (runCmd 0x50 c cmdQpAlloc s)
/-- QP_MODIFY (R394). -/
def execQpModify (c : CmdRef) (s : State) : Outcome := .next (runCmd 0x51 c cmdQpModify s)
/-- QP_FREE (R393). -/
def execQpFree (c : CmdRef) (s : State) : Outcome := .next (runCmd 0x52 c cmdQpFree s)
/-- MK_CREATE (R394). -/
def execMkCreate (c : CmdRef) (s : State) : Outcome := .next (runCmd 0x53 c cmdMkCreate s)
/-- MK_DESTROY (R374). -/
def execMkDestroy (c : CmdRef) (s : State) : Outcome := .next (runCmd 0x54 c cmdMkDestroy s)
/-- SESSION_LOCAL (R383). -/
def execSessionLocal (c : CmdRef) (s : State) : Outcome := .next (runCmd 0x58 c cmdSessionLocal s)
/-- SESSION_CLOSE (R391). -/
def execSessionClose (c : CmdRef) (s : State) : Outcome := .next (runCmd 0x59 c cmdSessionClose s)
/-- GROUP_SET (R186). -/
def execGroupSet (c : CmdRef) (s : State) : Outcome := .next (runCmd 0x60 c cmdGroupSet s)
/-- ROUTE_LOAD (R291). -/
def execRouteLoad (c : CmdRef) (s : State) : Outcome := .next (runCmd 0x61 c cmdRouteLoad s)
/-- SLATE_ARM (R224). -/
def execSlateArm (c : CmdRef) (s : State) : Outcome := .next (runCmd 0x70 c cmdSlateArm s)
/-- SLATE_ABORT (R234). -/
def execSlateAbort (c : CmdRef) (s : State) : Outcome := .next (runCmd 0x71 c cmdSlateAbort s)
/-- GUEST_OPEN (R363). -/
def execGuestOpen (c : CmdRef) (s : State) : Outcome := .next (runCmd 0x80 c cmdGuestOpen s)
/-- GUEST_FENCE (R363). -/
def execGuestFence (c : CmdRef) (s : State) : Outcome := .next (runCmd 0x81 c cmdGuestFence s)
/-- H1_FENCE (R359). -/
def execH1Fence (c : CmdRef) (s : State) : Outcome := .next (runCmd 0x82 c cmdH1Fence s)
/-- H1_REJOIN (R426). -/
def execH1Rejoin (c : CmdRef) (rep : BootReport) (s : State) : Outcome := .next (runCmd 0x83 c (cmdH1Rejoin rep) s)
/-- STACK_MAINT (R179). -/
def execStackMaint (c : CmdRef) (rep : TrainReport) (s : State) : Outcome := .next (runCmd 0x84 c (cmdStackMaint rep) s)
/-- RETIRED_LIST (R175). -/
def execRetiredList (c : CmdRef) (s : State) : Outcome := .next (runCmd 0x85 c cmdRetiredList s)

end Sys2Proof.Machine
end

