-- ==== Sys2Proof/Machine/Pins.lean ====
section
/-! DEFINITION. The pins that hold state (R476–R478): the I3C targets, the test access port, the module's presence. -/

namespace Sys2Proof.Machine

open Sys2Proof

/-- Change the pins' state. -/
def modPins (f : PinSt → PinSt) (s : State) : State := { s with pins := f s.pins }

/-! ### I3C (R476) -/

/-- The read pointer of a half's target. -/
def i3cPtr (s : State) (h : Half) : W32 := if h = .h0 then s.pins.ptr0 else s.pins.ptr1

/-- Set it. -/
def setI3cPtr (h : Half) (v : W32) (s : State) : State :=
  modPins (fun p => match h with
    | .h0 => { p with ptr0 := v }
    | .h1 => { p with ptr1 := v }) s

/-- The class and offset of a pointer: the class in byte 3. -/
def i3cSpot (s : State) (h : Half) (v : W32) : CfgAt := cfgAt (lphys s) h (v.toNat / 2 ^ 24) (v.toNat % 2 ^ 24)

/-- A pointer is readable: class 0x00, and four fields of class 0x0B. -/
def i3cReadable (s : State) (h : Half) (v : W32) : Bool :=
  decide (v.toNat / 2 ^ 24 = 0) ||
  (decide (v.toNat / 2 ^ 24 = 0xB) && match i3cSpot s h v with
    | .field .gafferStatus _ _ => true
    | .field .dieTemp _ _ => true
    | .field .clkStatus _ _ => true
    | .field .resetInfo _ _ => true
    | _ => false)

/-- I3C_POINTER_WRITE: another class or offset is not acknowledged. Without PWR_GOOD the AON domain does not run (R474). -/
def doI3cPointer (h : Half) (v : W32) (s : State) : State :=
  if !s.pins.pwrGood then s
  else if i3cReadable s h v then emit (.i3cAck h) (setI3cPtr h v s)
  else emit (.i3cNack h) s

/-- I3C_READ. What a read gives once the pointer has left the readable offsets is open (log entry 1). -/
def doI3cRead (h : Half) (s : State) : State :=
  if !s.pins.pwrGood then s
  else
    let v := i3cPtr s h
    let r := if i3cReadable s h v then (match i3cSpot s h v with
        | .field r i _ => readReg r i s
        | _ => (0, s))
      else freeNat 32 s
    setI3cPtr h (v + 4) (emit (.i3cData h (BitVec.ofNat 32 r.1)) r.2)

/-- DYNAMIC_ADDRESS_ASSIGNMENT. -/
def doDaa (h : Half) (a : BitVec 7) (s : State) : State :=
  if !s.pins.pwrGood then s
  else modPins (fun p => match h with
    | .h0 => { p with dyn0 := some a }
    | .h1 => { p with dyn1 := some a }) s

/-! ### The test access port (R477) -/

/-- An instruction takes effect on a die: its code, the values that the boundary drives, what its data register shifts out. -/
def jtagSet (h : Half) (ir : Nat) (drive : Option W32) (dr : Nat) (s : State) : State :=
  emit (.jtag h ir dr) (modPins (fun p => match h with
    | .h0 => { p with ir0 := ir, boundary0 := drive }
    | .h1 => { p with ir1 := ir, boundary1 := drive }) s)

/-- BYPASS: one bit, 0 when captured. -/
def doBypass (h : Half) (s : State) : State := jtagSet h 0 none 0 s

/-- The IDCODE register. -/
def idcodeWord (s : State) (h : Half) : Nat :=
  (fusesOf s h).rev % 2 ^ 4 * 2 ^ 28 + 0x0B41 * 2 ^ 12 + Config.jep106.toNat * 2 + 1

/-- IDCODE. -/
def doIdcode (h : Half) (s : State) : State := jtagSet h 1 none (idcodeWord s h) s

/-- SAMPLE/PRELOAD: while RESET_N is high it acts as BYPASS. The order of the boundary cells is not given, so what was sampled is
open (log entry 1). -/
def doSamplePreload (h : Half) (v : W32) (s : State) : State :=
  if s.pins.resetN then doBypass h s
  else
    let r := freeNat 32 s
    jtagSet h 2 none r.1 (modPins (fun p => match h with
      | .h0 => { p with bsr0 := v }
      | .h1 => { p with bsr1 := v }) r.2)

/-- EXTEST: the boundary drives what was preloaded; while RESET_N is high it acts as BYPASS. -/
def doExtest (h : Half) (s : State) : State :=
  if s.pins.resetN then doBypass h s
  else
    let r := freeNat 32 s
    jtagSet h 3 (some (if h = .h0 then s.pins.bsr0 else s.pins.bsr1)) r.1 r.2

/-! ### The host module (R478) -/

/-- MOD_PRESENT_CHANGE: without a module the host lanes carry nothing, and MOD_RESET_N is low. -/
def doModPresent (high : Bool) (s : State) : State :=
  let s := modPins (fun p => { p with modPresentN := high, modResetN := !high }) s
  if high then doHostDown s else s

/-! ### The commands -/

/-- I3C_POINTER_WRITE (R476). -/
def execI3cPointerWrite (h : Half) (v : BitVec 32) (s : State) : Outcome := onHalf s h (.next (doI3cPointer h v s))
/-- I3C_READ (R476). -/
def execI3cRead (h : Half) (s : State) : Outcome := onHalf s h (.next (doI3cRead h s))
/-- BYPASS (R477). -/
def execBypass (h : Half) (s : State) : Outcome := onHalf s h (.next (doBypass h s))
/-- IDCODE (R477). -/
def execIdcode (h : Half) (s : State) : Outcome := onHalf s h (.next (doIdcode h s))
/-- SAMPLE/PRELOAD (R477). -/
def execSamplePreload (h : Half) (preload : BitVec 32) (s : State) : Outcome := onHalf s h (.next (doSamplePreload h preload s))
/-- EXTEST (R477). -/
def execExtest (h : Half) (s : State) : Outcome := onHalf s h (.next (doExtest h s))
/-- MOD_PRESENT_CHANGE (R478). -/
def execModPresentChange (high : Bool) (s : State) : Outcome := .next (doModPresent high s)
/-- DYNAMIC_ADDRESS_ASSIGNMENT (R476): both ways of assignment give the address. -/
def execDynamicAddressAssignment (h : Half) (_k : DaaKind) (addr : BitVec 7) (s : State) : Outcome :=
  onHalf s h (.next (doDaa h addr s))

end Sys2Proof.Machine
end

