-- ==== Sys2Proof/Machine/ZRecv.lean ====
section
/-! DEFINITION. Zoram frames as they arrive (R337–R346), the messages that they carry, the hub firewall for the messages of
guest dies (R361), and the commands of an attachment whose effect reaches the halves: training, retraining, negotiation. -/

namespace Sys2Proof.Machine

open Sys2Proof

/-! ### Header flits (R345) -/

/-- The header flit of a message. -/
def headerOf (f : BitVec 512) : ZMsg :=
  let n := f.toNat
  let w0 := natBits 31 0 n
  let w1 := natBits 63 32 n
  { cls := natBits 3 0 w0, op := natBits 11 4 w0, tag := natBits 23 12 w0, take := BitVec.ofNat 8 (natBits 31 24 w0)
    func := natBits 3 0 w1, scope := natBits 5 4 w1, ord := natBits 7 6 w1, epoch := natBit 8 w1, sect := natBits 12 9 w1
    auxf := natBits 16 13 w1, nc := natBit 17 w1, kp := natBit 18 w1, ga := natBit 19 w1, state := natBits 21 20 w1
    addr := BitVec.ofNat 64 (n / 2 ^ 64)
    masks := (List.range 4).map (fun i => BitVec.ofNat 32 (n / 2 ^ (128 + 32 * i)))
    inl := BitVec.ofNat 256 (n / 2 ^ 256), data := [], flits := 1 }

/-- The message that a `DATA` response without a header begins (R345): tag, take and state from its descriptor. -/
def dataHead (grant : BitVec 2) (tag : BitVec 12) (take : BitVec 8) : ZMsg :=
  { headerOf 0 with
    cls := 1, op := 0x30, tag := tag.toNat, take := take, sect := 15, nc := decide (grant = 0), state := grant.toNat, flits := 0 }

/-- The sectors of a data flit join its message: those of the pair that the message names; of a link packet, both. -/
def addFlit (m : ZMsg) (poison : BitVec 2) (pair : Bool) (f : BitVec 512) : ZMsg :=
  let sec (j : Nat) : Nat := 2 * b2n pair + j
  let take (j : Nat) : LinePart :=
    if m.cls = 5 || natBit (sec j) m.sect then
      [(Fin.ofNat 4 (sec j), BitVec.ofNat 256 (f.toNat / 2 ^ (256 * j)), natBit j poison.toNat)]
    else []
  { m with data := m.data ++ take 0 ++ take 1, flits := m.flits + 1 }

/-! ### What a message means -/

/-- The sector writes of a message: its data under its byte masks. -/
def msgWrites (m : ZMsg) : List (Fin 4 × SecWr) :=
  m.data.map (fun e => (e.1, (⟨e.2.1, m.masks.getD e.1.val 0, e.2.2⟩ : SecWr)))

/-- A Continuity request in a message (codes 0x01–0x0C): none for a code or an operand that names no request. -/
def msgKind (m : ZMsg) : Option HKind :=
  match m.op with
  | 0x01 => some .rdS
  | 0x02 => some .rdX
  | 0x03 => some .upgrade
  | 0x04 => some (.rdNc m.sect)
  | 0x05 => some (.wrNc (msgWrites m))
  | 0x06 => (redopOf m.auxf).map (fun ro => .addNc ro m.data)
  | 0x07 => (redopOf m.auxf).map .joinA
  | 0x08 => (atomicOf m.inl).map (fun a => .atomic a.1 a.2.val)
  | 0x09 => some (.wb m.kp m.data)
  | 0x0A => (redopOf m.auxf).map (fun ro => .mergeA ro m.data)
  | 0x0B => some .evictE
  | 0x0C => some .renew
  | _ => none

/-- The fields of a message that its request carries to a home. -/
def msgHdr (m : ZMsg) (src : Holder) : CohHdr :=
  { src := src, tag := Fin.ofNat 4096 m.tag, take := m.take, addr := m.addr, func := Fin.ofNat 16 m.func
    epoch := m.epoch, scope := scopeOf m.scope, ord := ordOf m.ord }

/-- The GA of a line that a message between the halves names: a DPA names a line of the base itself (R197). -/
def msgGa (s : State) (m : ZMsg) : W64 :=
  if m.ga then m.addr else (BitVec.ofNat 64 ((ownDev s).toNat * 2 ^ 48)) ||| BitVec.ofNat 64 (m.addr.toNat % 2 ^ 48)

/-- A message whose class the half does not know, or whose operation its class has not: discarded and counted (R345). -/
def badMsg (h : Half) (s : State) : State := bumpSat .zbadMsg h.num 31 0 1 s

/-- A Continuity message with an unknown code: discarded and counted (R197, R235). -/
def badCoh (h : Half) (s : State) : State := bumpSat .badMsg h.num 31 0 1 s

/-- The slice of a home on this half that an answer over Zoram names by its line. -/
def answerSlice (s : State) (m : ZMsg) : Option Nat := (homeOf s (m.addr.toNat % 2 ^ 48 / 128 * 128)).map (fun p => p.1)

/-- The answer of a holder to a snoop (0x35, 0x36), at its home. -/
def answerMsg (h : Half) (m : ZMsg) (src : Holder) (s : State) : State :=
  match answerSlice s m with
  | none => badMsg h s
  | some sl =>
    if m.op = 0x35 then doSnoopAck sl m.tag m.take src m.kp (Fin.ofNat 16 m.func) m.epoch s
    else doSnoopData sl m.tag m.take src (redopOf m.auxf) m.data (Fin.ofNat 16 m.func) m.epoch s

/-- A Continuity message of the other half, received by half `h`. -/
def cohMsgOf (h : Half) (m : ZMsg) (s : State) : State :=
  let ga := msgGa s m
  let sl : Fin 256 := Fin.ofNat 256 ((answerSlice s m).getD 0)
  let sn : SnoopRef := ⟨none, sl, Fin.ofNat 4096 m.tag, m.take⟩
  match m.op with
  | 0x20 => doInv h ga sn s
  | 0x21 => doRecall h ga sn s
  | 0x22 => doDowngrade h ga sn s
  | 0x23 => doCollect h ga sn s
  | 0x30 => doData h m.tag m.take (if m.state = 0 then .nc else if m.state = 2 then .e else .s) m.data 0 s
  | 0x31 => doGrant h m.tag m.take m.nc 0 s
  | 0x32 => doAckLocal h m.tag m.take s
  | 0x33 => doAckGlobal h m.tag m.take s
  | 0x34 => doAtomicResult h m.tag m.take (BitVec.ofNat 64 m.inl.toNat) s
  | 0x35 => answerMsg h m .xFar s
  | 0x36 => answerMsg h m .xFar s
  | 0x37 => doAck h m.tag m.take s
  | 0x38 => doNack h m.tag m.take s
  | 0x39 => doRetry h m.tag m.take s
  | 0x3A => doError h m.tag m.take m.auxf s
  | _ =>
    match msgKind m with
    | some k => fromHolder (msgHdr m .xFar) k s
    | none => badCoh h s

/-- The cue handle, the value beside it and the `consume` bit in a CUE message (R346). -/
def msgCue (m : ZMsg) : W32 := BitVec.ofNat 32 m.inl.toNat
def msgInc (m : ZMsg) : Nat := natBits 39 32 m.inl.toNat
def msgThr (m : ZMsg) : Nat := natBits 63 48 m.inl.toNat
def msgConsume (m : ZMsg) : Bool := natBit 64 m.inl.toNat

/-- The neighbour-link packet in a LINK message (R346): header, mask extension, data. -/
def msgPkt (m : ZMsg) : Packet :=
  let head := bytesOf 24 m.inl
  let p := pktOf head
  let n := natBits 28 24 (leNat ((head.drop 4).take 4))
  { p with
    masks := if p.xmask then m.masks else []
    data := (m.data.take n).map (fun e => e.2.1) }

/-- A message of the other half is used at once where it arrives (R346). `CFG_DONE`, `CUE_REFUSED` and `FENCE_DONE` answer
requests that the halves' agents perform within one step, so they find nothing that waits for them (DESIGN CHOICE). -/
def halfMsg (h : Half) (m : ZMsg) (s : State) : State :=
  let src : ZSrc := .half h.other
  let f : Fin 16 := Fin.ofNat 16 m.func
  let tag : BitVec 12 := BitVec.ofNat 12 m.tag
  match m.cls, m.op with
  | 1, _ => cohMsgOf h m s
  | 3, 1 => doSignal src f (msgCue m) (Fin.ofNat 256 (msgInc m)) s
  | 3, 2 => doWait src f tag (msgCue m) (BitVec.ofNat 16 (msgThr m)) (msgConsume m) s
  | 3, 3 => doWaitDone h tag s
  | 3, 4 => s
  | 4, 1 => doZCfg src f m.tag m.addr.toNat 4 none s
  | 4, 2 => doZCfg src f m.tag m.addr.toNat 4 (some (natBits 31 0 m.inl.toNat)) s
  | 4, 3 => s
  | 5, 1 => routePacket (msgPkt m) s
  | 6, 1 => s
  | 6, 2 => s
  | 6, 3 => doBand h (natBits 7 0 m.inl.toNat % 16) (natBits 15 8 m.inl.toNat) s
  | _, _ => badMsg h s

/-! ### Frames (R337–R339, R345) -/

/-- A LINK flit of the receiver falls due: the last frame accepted, and the flits freed since the last (R338). -/
def sendZLink (b : BundleRef) (nak : Bool) (s : State) : State :=
  let k := bundleKey b
  let x := bundleAt s k
  let l : ZLink :=
    { ackSeq := x.rxNext - 1, ackValid := true, nak := nak
      credits := (List.finRange 5).filterMap (fun c =>
        let n := NMap.getD x.freed c.val 0
        if n = 0 then none else some (c, n)) }
  zPump k (bundleHalf b) (setBundle k { x with freed := [], framesSinceAck := 0, linkDue := x.linkDue ++ [l] } s)

/-- Flits of a channel's receive buffer are free. -/
def freeFlits (k zc n : Nat) (s : State) : State :=
  modBundle k (fun x => { x with freed := NMap.setD x.freed zc 0 (NMap.getD x.freed zc 0 + n) }) s

/-- A message is complete: one of an unknown class is discarded and counted, one between the halves is used and its flits are
free, a guest's waits for the hub firewall. -/
def msgDone (b : BundleRef) (zc : Nat) (m : ZMsg) (s : State) : State :=
  let k := bundleKey b
  if !([1, 3, 4, 5, 6] : List Nat).contains m.cls then badMsg (bundleHalf b) (freeFlits k zc m.flits s)
  else
    match b with
    | .z h _ => halfMsg h m (freeFlits k zc m.flits s)
    | .site _ _ => modBundle k (fun x => { x with rxq := x.rxq.insert zc (x.rxq.getD zc [] ++ [(m, s.clock)]) }) s

/-- A message goes on, or is complete with its last flit. -/
def msgFlit (b : BundleRef) (zc : Nat) (last : Bool) (m : ZMsg) (s : State) : State :=
  let k := bundleKey b
  if last then msgDone b zc m (modBundle k (fun x => { x with part := x.part.erase zc }) s)
  else modBundle k (fun x => { x with part := x.part.insert zc m }) s

/-- One slot of an accepted frame (R337). A data flit for which no message is open begins a `DATA` response on ZC3, and is
counted as a bad message on any other channel. -/
def useSlot (b : BundleRef) (sl : ZSlot) (s : State) : State :=
  match sl with
  | .empty => s
  | .link l => doLinkFlit b l s
  | .header zc last f => if zc.val < 5 then msgFlit b zc.val last (headerOf f) s else badMsg (bundleHalf b) s
  | .data zc last poison pair grant tag take f =>
    match (bundleAt s (bundleKey b)).part.find? zc.val with
    | some m => msgFlit b zc.val last (addFlit m poison pair f) s
    | none =>
      if zc.val = 3 then msgFlit b 3 last (addFlit (dataHead grant tag take) poison pair f) s
      else badMsg (bundleHalf b) (freeFlits (bundleKey b) zc.val 1 s)

/-- FRAME_RECEIVE (R339): a frame that is intact and the next one is accepted, and acknowledged at the latest with every
sixteenth; any other is discarded, counted, and asked for again once. -/
def doFrame (b : BundleRef) (f : ZFrame) (s : State) : State :=
  let k := bundleKey b
  let x := bundleAt s k
  if !bundleUp x then s
  else if !f.intact || decide (f.num ≠ x.rxNext) then
    let s := countBundle b false s
    if x.rxNak then s else sendZLink b true (modBundle k (fun x => { x with rxNak := true }) s)
  else
    let n := x.framesSinceAck + 1
    let s := setBundle k { x with rxNext := x.rxNext + 1, rxNak := false, framesSinceAck := n } s
    let s := forEach f.slots (useSlot b) s
    if 16 ≤ n then sendZLink b false s else s

/-! ### The hub firewall (R361) -/

/-- A violation (R361): discarded, answered with `ERROR`, counted; the sixteenth within 1 ms fences the site. The cause in
the answer is not given: a free value (log entry 1). -/
def violate (g : Fin 4) (m : ZMsg) (s : State) : State :=
  let s := bumpSat .gsViolations g.val 31 0 1 s
  let (cause, s) := freeNat 4 s
  let s := sendCoh (.site g.val) { blankCoh with
    code := 0x3A, tag := m.tag % 4096, take := m.take, addr := m.addr, cause := cause } s
  let x := siteAt s g.val
  let times := (x.violTimes.filter (fun t => decide (s.clock < t + ms 1))) ++ [s.clock]
  let s := setSite g.val { x with violTimes := times } s
  if 16 ≤ times.length then fenceSite g.val 3 s else s

/-- The class and operation are allowed for a guest; requests for copies only from a coherent agent. -/
def guestMay (coherent : Bool) (m : ZMsg) : Bool :=
  match m.cls with
  | 1 =>
    let op := m.op
    ((decide (1 ≤ op) && decide (op ≤ 0x0C)) || decide (op = 0x35) || decide (op = 0x36)) &&
      (coherent || !([0x01, 0x02, 0x03, 0x07].contains op))
  | 3 => decide (m.op = 1) || decide (m.op = 2)
  | 4 => decide (m.op = 1) || decide (m.op = 2)
  | 6 => decide (m.op = 1)
  | _ => false

/-- A message that names a request tag of the guest: the answers to snoops name the home's tag instead. -/
def namesTag (m : ZMsg) : Bool := !(decide (m.cls = 1) && decide (0x20 ≤ m.op))

/-- The checks whose failure is a violation (R361). -/
def firewallOk (s : State) (g : Nat) (m : ZMsg) : Bool :=
  let x := siteAt s g
  decide (m.func = siteFunc s g) && guestMay x.coherent m &&
    (!namesTag m || (decide (m.tag < x.tags) && decide (curTake s (siteTagKey g) = some m.take.toNat)))

/-- A guest's access that is refused: `ERROR` with cause `ADDRESS`, and a record (R25). -/
def guestError (g : Fin 4) (m : ZMsg) (s : State) : State :=
  sendCoh (.site g.val) { blankCoh with
    code := 0x3A, tag := m.tag, take := m.take, addr := m.addr, cause := 3 }
    (cfgEvent (.guest g (Fin.ofNat 16 m.func)) m.addr.toNat 25 s)

/-- A guest's access to remote memory goes through the far cache (R184); a request for a copy has no place there. A GA with the
base's own identifier is an access to its DPA (R29). -/
def guestRemote (g : Fin 4) (m : ZMsg) (s : State) : State :=
  let ag : Agent := .guest g (Fin.ofNat 16 m.func)
  match msgKind m with
  | some (.rdNc n) => doFarCacheAccess ag m.addr (.read (Fin.ofNat 16 n)) m.tag .none s
  | some (.wrNc l) => doFarCacheAccess ag m.addr (.write l) m.tag .none s
  | some (.addNc ro l) => doFarCacheAccess ag m.addr (.add ro l) m.tag .none s
  | some (.atomic a off) =>
    doFarCacheAccess ag m.addr (.atomic a (Fin.ofNat 128 off) (scopeOf m.scope) (ordOf m.ord)) m.tag .none s
  | _ => guestError g m s

/-- A guest's access to scratchpad ways of its function (R115, R361): reads, writes and adds. -/
def guestScratch (g : Fin 4) (m : ZMsg) (s : State) : State :=
  let ag : Agent := .guest g (Fin.ofNat 16 m.func)
  let a := m.addr.toNat % 2 ^ 48 / 128 * 128
  let ok := mayScratch s ag a
  let reply (c : CohMsg) (s : State) : State :=
    sendCoh (.site g.val) { c with tag := m.tag, take := m.take, addr := m.addr } s
  if !ok then guestError g m s
  else
    match msgKind m with
    | some (.rdNc n) =>
      reply { blankCoh with code := 0x30, secs := scratchSecs s a n, sect := n, nc := true } s
    | some (.wrNc l) =>
      reply { blankCoh with code := 0x32 } (forEach l (fun e s => scratchSector (a + 32 * e.1.val) e.2 s) s)
    | some (.addNc ro l) =>
      reply { blankCoh with code := 0x32 } (scratchAdd a ro l s)
    | _ => guestError g m s

/-- A message that the firewall passed on (R346, R361). -/
def guestPass (g : Fin 4) (m : ZMsg) (s : State) : State :=
  let f : Fin 16 := Fin.ofNat 16 m.func
  let tag : BitVec 12 := BitVec.ofNat 12 m.tag
  let x := siteAt s g.val
  let wide := decide (x.fwClass = 2)
  match m.cls, m.op with
  | 3, 1 => if wide then doSignal (.site g) f (msgCue m) (Fin.ofNat 256 (msgInc m)) s
    else sendCue (.site g) 4 m.func m.tag (msgCue m) (msgInc m) 0 false s
  | 3, _ => if wide then doWait (.site g) f tag (msgCue m) (BitVec.ofNat 16 (msgThr m)) (msgConsume m) s
    else sendCue (.site g) 4 m.func m.tag (msgCue m) 0 (msgThr m) (msgConsume m) s
  | 4, 1 => doZCfg (.site g) f m.tag m.addr.toNat 4 none s
  | 4, _ => doZCfg (.site g) f m.tag m.addr.toNat 4 (some (natBits 31 0 m.inl.toNat)) s
  | 6, _ => doGuestFence g.val m.tag (scopeOf m.scope) s
  | _, _ =>
    if m.op = 0x35 ∨ m.op = 0x36 then answerMsg (halfOf 2 g.val) m (.site g) s
    else if m.ga && (!wide || !idOk s) then guestError g m s
    else if m.ga && !gaOwn s m.addr then guestRemote g m s
    else if region s (m.addr.toNat % 2 ^ 48) = .scratch then if wide then guestScratch g m s else guestError g m s
    else
      match msgKind m with
      | some k => fromHolder (msgHdr m (.site g)) k s
      | none => badCoh (halfOf 2 g.val) s

/-- A guest's fence must wait for its earlier writes, and a request for what its order names (R191): it stays at the front of its
channel. -/
def mustWait (s : State) (g : Nat) (m : ZMsg) : Bool :=
  (decide (m.cls = 6) && !guestDone s g (scopeOf m.scope)) ||
  (decide (m.cls = 1) && match msgKind m with
    | some k => !isRelease k && orderWaits s (siteAgent s g) (ordOf m.ord) (scopeOf m.scope)
    | none => false)

/-- GUEST_MESSAGE (R361): the message at the front of a channel's receive queue passes the hub firewall or is a violation.
A site that is not ACTIVE is not heard. -/
def doGuestMessage (g b : Fin 4) (zc : Nat) (s : State) : State :=
  let k := 64 + 4 * g.val + b.val
  if (siteAt s g.val).st ≠ 2 then s
  else
    match (bundleAt s k).rxq.getD zc [] with
    | [] => s
    | (m, _) :: _ =>
      if !firewallOk s g.val m then violate g m (popMsg k zc s)
      else if mustWait s g.val m then s
      else guestPass g m (popMsg k zc s)

/-! ### Cue messages on their own (R346, R361) -/

/-- A cue message of a side: from a guest, its site must be ACTIVE, its function the bound one and its class FUNCTION. -/
def cueFrom (src : ZSrc) (func : Fin 16) (cls : ZMsg) (refuse : State → State) (go : State → State) (s : State) : State :=
  match src with
  | .half _ => if zHeard s src then go s else s
  | .site g =>
    if !zHeard s src then s
    else if func.val ≠ siteFunc s g.val then violate g cls s
    else if (siteAt s g.val).fwClass ≠ 2 then refuse s
    else go s

/-! ### Training and retraining (R356–R359) -/

/-- Fewer than 12 bundles are up: H0 fences H1 (R358, R359). -/
def bundlesCheck (s : State) : State :=
  if s.part = .mb2 ∧ (bundlesUp s .h0).length < 12 then fenceH1 3 s else s

/-! ### Commands -/

/-- FRAME_RECEIVE (R339). -/
def execFrameReceive (b : BundleRef) (f : ZFrame) (s : State) : Outcome := onBundle s b (.next (doFrame b f s))
/-- BUNDLE_RETRAIN (R339, R356, R358). -/
def execBundleRetrain (b : BundleRef) (rx tx : DirTraining) (s : State) : Outcome :=
  onBundle s b (.next (match b with
    | .z _ _ => if farGone s then s else bundlesCheck (retrainCore b rx tx s)
    | .site _ _ => retrainCore b rx tx s))
/-- ZORAM_TRAINING (R356–R358): both halves are out of reset. -/
def execZoramTraining (dirs : List (DirTraining × DirTraining)) (s : State) : Outcome :=
  onPart (decide (s.part = .mb2)) (.next (if farGone s then s else bundlesCheck (trainAll dirs s)))
/-- CAP (R352, R353). -/
def execCap (s0 : SbRef) (c : CapRec) (s : State) : Outcome := 
  onSb s s0 (.next (doCap s0 c (sideGot s0 0x05 (capBytes c) s)))
/-- GUEST_MESSAGE (R361). -/
def execGuestMessage (g b : Fin 4) (zc : Fin 5) (s : State) : Outcome :=
  onHalf s (halfOf 2 g) (.next (doGuestMessage g b zc.val s))
/-- SIGNAL (R95, R346, R361). -/
def execSignal (src : ZSrc) (func : Fin 16) (cue : BitVec 32) (inc : Fin 256) (s : State) : Outcome :=
  onSide s src (.next (cueFrom src func { headerOf 0 with cls := 3, op := 1, func := func.val }
    (sendCue src 4 func 0 cue inc.val 0 false) (doSignal src func cue inc) s))
/-- WAIT (R95, R346, R361). -/
def execWait (src : ZSrc) (func : Fin 16) (tag : BitVec 12) (cue : BitVec 32) (threshold : BitVec 16) (consume : Bool)
    (s : State) : Outcome :=
  onSide s src (.next (cueFrom src func { headerOf 0 with cls := 3, op := 2, func := func.val, tag := tag.toNat }
    (sendCue src 4 func tag.toNat cue 0 threshold.toNat consume) (doWait src func tag cue threshold consume) s))

end Sys2Proof.Machine
end

