-- ==== Sys2Proof/Machine/Dispatch.lean ====
section
/-! DEFINITION. Dispatch: one arm per command, each one direct call of that command's meaning. -/

namespace Sys2Proof.Machine

open Sys2Proof

/-- The effect of a command on everything but the queue of waiting commands. -/
def exec (i : Instr) (s : State) : Host.Outcome State Fault Refusal :=
  match i with
  | .configStore ag addr size v => Sys2Proof.Machine.execConfigStore ag addr size v s
  | .commit ag h g => Sys2Proof.Machine.execCommit ag h g s
  | .macIssue c sl => Sys2Proof.Machine.execMacIssue c sl s
  | .residueFault c dp => Sys2Proof.Machine.execResidueFault c dp s
  | .vectorInstruction c op mask residueFail lsErrs => Sys2Proof.Machine.execVectorInstruction c op mask residueFail lsErrs s
  | .lsWriteback c word => Sys2Proof.Machine.execLsWriteback c word s
  | .switchWord c mv parityErr lsErrs => Sys2Proof.Machine.execSwitchWord c mv parityErr lsErrs s
  | .phaseEnd h ix cell => Sys2Proof.Machine.execPhaseEnd h ix cell s
  | .stallWatchdog h ix => Sys2Proof.Machine.execStallWatchdog h ix s
  | .load ag h ix k => Sys2Proof.Machine.execLoad ag h ix k s
  | .loadComplete h ix k => Sys2Proof.Machine.execLoadComplete h ix k s
  | .start ag h ix k => Sys2Proof.Machine.execStart ag h ix k s
  | .stop ag h ix k => Sys2Proof.Machine.execStop ag h ix k s
  | .stopTakesEffect h ix => Sys2Proof.Machine.execStopTakesEffect h ix s
  | .drop ag h ix k => Sys2Proof.Machine.execDrop ag h ix k s
  | .stepEnd h ix => Sys2Proof.Machine.execStepEnd h ix s
  | .phase h ix => Sys2Proof.Machine.execPhase h ix s
  | .streamStart h ix => Sys2Proof.Machine.execStreamStart h ix s
  | .streamWait h ix => Sys2Proof.Machine.execStreamWait h ix s
  | .streamReadData h ix port => Sys2Proof.Machine.execStreamReadData h ix port s
  | .cueWait h ix => Sys2Proof.Machine.execCueWait h ix s
  | .cueSignal h ix => Sys2Proof.Machine.execCueSignal h ix s
  | .loop h ix => Sys2Proof.Machine.execLoop h ix s
  | .delay h ix => Sys2Proof.Machine.execDelay h ix s
  | .delayExpire h ix => Sys2Proof.Machine.execDelayExpire h ix s
  | .cueValueWrite ag n v => Sys2Proof.Machine.execCueValueWrite ag n v s
  | .cueOwnerWrite ag n v => Sys2Proof.Machine.execCueOwnerWrite ag n v s
  | .takeAdvance id => Sys2Proof.Machine.execTakeAdvance id s
  | .sliceRead ag addr mask tag err => Sys2Proof.Machine.execSliceRead ag addr mask tag err s
  | .sliceWrite ag addr secs tag err => Sys2Proof.Machine.execSliceWrite ag addr secs tag err s
  | .addToLine ag addr ro secs tag err => Sys2Proof.Machine.execAddToLine ag addr ro secs tag err s
  | .fillData sl n => Sys2Proof.Machine.execFillData sl n s
  | .ebufHandover sl n => Sys2Proof.Machine.execEbufHandover sl n s
  | .scratchpadAccess ag addr acc tag => Sys2Proof.Machine.execScratchpadAccess ag addr acc tag s
  | .segMapWrite ag h seg v => Sys2Proof.Machine.execSegMapWrite ag h seg v s
  | .wayMapWrite ag h w v => Sys2Proof.Machine.execWayMapWrite ag h w v s
  | .wayZeroDone h w => Sys2Proof.Machine.execWayZeroDone h w s
  | .maintCommit ag h f => Sys2Proof.Machine.execMaintCommit ag h f s
  | .prefetch h f count => Sys2Proof.Machine.execPrefetch h f count s
  | .prefetchLock h f count => Sys2Proof.Machine.execPrefetchLock h f count s
  | .flush h f count => Sys2Proof.Machine.execFlush h f count s
  | .invalidate h f count => Sys2Proof.Machine.execInvalidate h f count s
  | .flushInv h f count => Sys2Proof.Machine.execFlushInv h f count s
  | .markDead h f count => Sys2Proof.Machine.execMarkDead h f count s
  | .maintRecord h f => Sys2Proof.Machine.execMaintRecord h f s
  | .maintFailTimeout h f => Sys2Proof.Machine.execMaintFailTimeout h f s
  | .memorySectorRead c n err => Sys2Proof.Machine.execMemorySectorRead c n err s
  | .memorySectorWrite c n err => Sys2Proof.Machine.execMemorySectorWrite c n err s
  | .wcbAgeExpire c n err => Sys2Proof.Machine.execWcbAgeExpire c n err s
  | .memorySideAdd c n err => Sys2Proof.Machine.execMemorySideAdd c n err s
  | .tempReading st t => Sys2Proof.Machine.execTempReading st t s
  | .thermalReturn st => Sys2Proof.Machine.execThermalReturn st s
  | .holdExpire c => Sys2Proof.Machine.execHoldExpire c s
  | .recalibration c ok => Sys2Proof.Machine.execRecalibration c ok s
  | .scrubRead c err => Sys2Proof.Machine.execScrubRead c err s
  | .stackLost st => Sys2Proof.Machine.execStackLost st s
  | .stackTempReadFail st => Sys2Proof.Machine.execStackTempReadFail st s
  | .catastrophicTemp st => Sys2Proof.Machine.execCatastrophicTemp st s
  | .stackTrain st rep => Sys2Proof.Machine.execStackTrain st rep s
  | .tgStart ag c => Sys2Proof.Machine.execTgStart ag c s
  | .tgStop ag c => Sys2Proof.Machine.execTgStop ag c s
  | .tgPassesDone c f => Sys2Proof.Machine.execTgPassesDone c f s
  | .rdS hd => Sys2Proof.Machine.execRdS hd s
  | .rdX hd => Sys2Proof.Machine.execRdX hd s
  | .upgrade hd => Sys2Proof.Machine.execUpgrade hd s
  | .rdNc hd mask => Sys2Proof.Machine.execRdNc hd mask s
  | .wrNc hd secs => Sys2Proof.Machine.execWrNc hd secs s
  | .addNc hd ro secs => Sys2Proof.Machine.execAddNc hd ro secs s
  | .joinA hd ro => Sys2Proof.Machine.execJoinA hd ro s
  | .atomic hd a off => Sys2Proof.Machine.execAtomic hd a off s
  | .wb hd keep secs => Sys2Proof.Machine.execWb hd keep secs s
  | .mergeA hd ro secs => Sys2Proof.Machine.execMergeA hd ro secs s
  | .evictE hd => Sys2Proof.Machine.execEvictE hd s
  | .renew hd => Sys2Proof.Machine.execRenew hd s
  | .inv h addr snoop => Sys2Proof.Machine.execInv h addr snoop s
  | .recall h addr snoop => Sys2Proof.Machine.execRecall h addr snoop s
  | .downgrade h addr snoop => Sys2Proof.Machine.execDowngrade h addr snoop s
  | .collect h addr snoop => Sys2Proof.Machine.execCollect h addr snoop s
  | .data h tag take g secs lease => Sys2Proof.Machine.execData h tag take g secs lease s
  | .grant h tag take nc lease => Sys2Proof.Machine.execGrant h tag take nc lease s
  | .ackLocal h tag take => Sys2Proof.Machine.execAckLocal h tag take s
  | .ackGlobal h tag take => Sys2Proof.Machine.execAckGlobal h tag take s
  | .atomicResult h tag take old => Sys2Proof.Machine.execAtomicResult h tag take old s
  | .snoopAck sl tag take src pend => Sys2Proof.Machine.execSnoopAck sl tag take src pend s
  | .snoopData sl tag take src ro secs => Sys2Proof.Machine.execSnoopData sl tag take src ro secs s
  | .ack h tag take => Sys2Proof.Machine.execAck h tag take s
  | .nack h tag take => Sys2Proof.Machine.execNack h tag take s
  | .retry h tag take => Sys2Proof.Machine.execRetry h tag take s
  | .retryResend h tag => Sys2Proof.Machine.execRetryResend h tag s
  | .error h tag take cause => Sys2Proof.Machine.execError h tag take cause s
  | .farCacheAccess ag addr op rtag err => Sys2Proof.Machine.execFarCacheAccess ag addr op rtag err s
  | .leaseGiveUp h set way => Sys2Proof.Machine.execLeaseGiveUp h set way s
  | .leaseDeadline sl line m => Sys2Proof.Machine.execLeaseDeadline sl line m s
  | .reqTimeout h tag => Sys2Proof.Machine.execReqTimeout h tag s
  | .rpCollectTimeout sl line => Sys2Proof.Machine.execRpCollectTimeout sl line s
  | .slatePoint f cause => Sys2Proof.Machine.execSlatePoint f cause s
  | .slateStreamStart f => Sys2Proof.Machine.execSlateStreamStart f s
  | .slateComplete f => Sys2Proof.Machine.execSlateComplete f s
  | .dqEnable ag h q v => Sys2Proof.Machine.execDqEnable ag h q v s
  | .dqDisable ag h q => Sys2Proof.Machine.execDqDisable ag h q s
  | .dqStop ag h q => Sys2Proof.Machine.execDqStop ag h q s
  | .dqResume ag h q => Sys2Proof.Machine.execDqResume ag h q s
  | .doorbell ag h q tail => Sys2Proof.Machine.execDoorbell ag h q tail s
  | .dqRecHeadWrite ag h q v => Sys2Proof.Machine.execDqRecHeadWrite ag h q v s
  | .descriptorRead h q => Sys2Proof.Machine.execDescriptorRead h q s
  | .nop h q n => Sys2Proof.Machine.execNop h q n s
  | .copy h q n => Sys2Proof.Machine.execCopy h q n s
  | .add h q n => Sys2Proof.Machine.execAdd h q n s
  | .fill h q n => Sys2Proof.Machine.execFill h q n s
  | .gather h q n => Sys2Proof.Machine.execGather h q n s
  | .scatter h q n => Sys2Proof.Machine.execScatter h q n s
  | .mcast h q n => Sys2Proof.Machine.execMcast h q n s
  | .mcastBranchTimeout h q n d => Sys2Proof.Machine.execMcastBranchTimeout h q n d s
  | .rdmaWrite h q n => Sys2Proof.Machine.execRdmaWrite h q n s
  | .rdmaRead h q n => Sys2Proof.Machine.execRdmaRead h q n s
  | .reel h q n => Sys2Proof.Machine.execReel h q n s
  | .rsignal h q n => Sys2Proof.Machine.execRsignal h q n s
  | .descriptorComplete h q n => Sys2Proof.Machine.execDescriptorComplete h q n s
  | .rsignalReceive r => Sys2Proof.Machine.execRsignalReceive r s
  | .rsigAck queue n => Sys2Proof.Machine.execRsigAck queue n s
  | .rsigRefused queue n => Sys2Proof.Machine.execRsigRefused queue n s
  | .reelValidWrite ag h k v => Sys2Proof.Machine.execReelValidWrite ag h k v s
  | .block blk => Sys2Proof.Machine.execBlock blk s
  | .arrival coll take dev sendNo => Sys2Proof.Machine.execArrival coll take dev sendNo s
  | .arrivalAck coll take dev sendNo => Sys2Proof.Machine.execArrivalAck coll take dev sendNo s
  | .reelFree h k => Sys2Proof.Machine.execReelFree h k s
  | .credit coll take dev => Sys2Proof.Machine.execCredit coll take dev s
  | .portEnable ag p v => Sys2Proof.Machine.execPortEnable ag p v s
  | .portTrainingTimeout p => Sys2Proof.Machine.execPortTrainingTimeout p s
  | .portUp p tr => Sys2Proof.Machine.execPortUp p tr s
  | .dataFlit p f => Sys2Proof.Machine.execDataFlit p f s
  | .ctrlFlit p f => Sys2Proof.Machine.execCtrlFlit p f s
  | .nakTimer p => Sys2Proof.Machine.execNakTimer p s
  | .ackTimer p => Sys2Proof.Machine.execAckTimer p s
  | .ackStallTimeout p => Sys2Proof.Machine.execAckStallTimeout p s
  | .lossOfSignal p otherWay => Sys2Proof.Machine.execLossOfSignal p otherWay s
  | .linkInfo p dev peerPort valid => Sys2Proof.Machine.execLinkInfo p dev peerPort valid s
  | .packetDeliver p vc dl => Sys2Proof.Machine.execPacketDeliver p vc dl s
  | .packetForward p vc dl us => Sys2Proof.Machine.execPacketForward p vc dl us s
  | .mcPacket p vc dl us => Sys2Proof.Machine.execMcPacket p vc dl us s
  | .mcHoldExpire n b => Sys2Proof.Machine.execMcHoldExpire n b s
  | .mcAck src tag take b info => Sys2Proof.Machine.execMcAck src tag take b info s
  | .collValidWrite ag h k v => Sys2Proof.Machine.execCollValidWrite ag h k v s
  | .localArrival h k => Sys2Proof.Machine.execLocalArrival h k s
  | .arrive m => Sys2Proof.Machine.execArrive m s
  | .depart m => Sys2Proof.Machine.execDepart m s
  | .childWaitTimeout h k => Sys2Proof.Machine.execChildWaitTimeout h k s
  | .departWaitTimeout h k => Sys2Proof.Machine.execDepartWaitTimeout h k s
  | .bandNotice h k => Sys2Proof.Machine.execBandNotice h k s
  | .delayNotice m => Sys2Proof.Machine.execDelayNotice m s
  | .extend m => Sys2Proof.Machine.execExtend m s
  | .windowBoundary h q => Sys2Proof.Machine.execWindowBoundary h q s
  | .frameReceive b f => Sys2Proof.Machine.execFrameReceive b f s
  | .linkFlit b l => Sys2Proof.Machine.execLinkFlit b l s
  | .bundleRetrain b rx tx => Sys2Proof.Machine.execBundleRetrain b rx tx s
  | .bundleListChange src => Sys2Proof.Machine.execBundleListChange src s
  | .zoramAgeDiscard b zc => Sys2Proof.Machine.execZoramAgeDiscard b zc s
  | .zoramTraining dirs => Sys2Proof.Machine.execZoramTraining dirs s
  | .sbAck sb ty crc => Sys2Proof.Machine.execSbAck sb ty crc s
  | .sidebandResend sb => Sys2Proof.Machine.execSidebandResend sb s
  | .sidebandStageTimeout sb => Sys2Proof.Machine.execSidebandStageTimeout sb s
  | .ts1 sb lane stage orient locked => Sys2Proof.Machine.execTs1 sb lane stage orient locked s
  | .tapReq sb pre post main => Sys2Proof.Machine.execTapReq sb pre post main s
  | .tapAck sb pre post limits => Sys2Proof.Machine.execTapAck sb pre post limits s
  | .sbLaneLoss sb why => Sys2Proof.Machine.execSbLaneLoss sb why s
  | .eyeGo ag sb v => Sys2Proof.Machine.execEyeGo ag sb v s
  | .eyeScanDone sb errors => Sys2Proof.Machine.execEyeScanDone sb errors s
  | .cap sb c => Sys2Proof.Machine.execCap sb c s
  | .capGrant sb c => Sys2Proof.Machine.execCapGrant sb c s
  | .splice b rxDir view crc => Sys2Proof.Machine.execSplice b rxDir view crc s
  | .bundleState b st lastRx lastTx => Sys2Proof.Machine.execBundleState b st lastRx lastTx s
  | .resetNotice h => Sys2Proof.Machine.execResetNotice h s
  | .fenceH1 why => Sys2Proof.Machine.execFenceH1 why s
  | .h0LossAtH1 => Sys2Proof.Machine.execH0LossAtH1 s
  | .guestMessage g b zc => Sys2Proof.Machine.execGuestMessage g b zc s
  | .snoopLimitExpire g => Sys2Proof.Machine.execSnoopLimitExpire g s
  | .guestSiteFence g cause => Sys2Proof.Machine.execGuestSiteFence g cause s
  | .fence g tag scope => Sys2Proof.Machine.execFence g tag scope s
  | .gsOpenWrite ag g v => Sys2Proof.Machine.execGsOpenWrite ag g v s
  | .signal src func cue inc => Sys2Proof.Machine.execSignal src func cue inc s
  | .wait src func tag cue threshold consume => Sys2Proof.Machine.execWait src func tag cue threshold consume s
  | .waitDone h tag => Sys2Proof.Machine.execWaitDone h tag s
  | .cfgRd src func tag addr size => Sys2Proof.Machine.execCfgRd src func tag addr size s
  | .cfgWr src func tag addr size v => Sys2Proof.Machine.execCfgWr src func tag addr size v s
  | .band h st b => Sys2Proof.Machine.execBand h st b s
  | .ethFrameReceive f => Sys2Proof.Machine.execEthFrameReceive f s
  | .hostLinkDown => Sys2Proof.Machine.execHostLinkDown s
  | .hostLinkUp => Sys2Proof.Machine.execHostLinkUp s
  | .announceTimer => Sys2Proof.Machine.execAnnounceTimer s
  | .discover sender => Sys2Proof.Machine.execDiscover sender s
  | .rdmaWriteRequest b va rkey bytes => Sys2Proof.Machine.execRdmaWriteRequest b va rkey bytes s
  | .rdmaReadRequest b va rkey len => Sys2Proof.Machine.execRdmaReadRequest b va rkey len s
  | .fetchAdd b va rkey operand => Sys2Proof.Machine.execFetchAdd b va rkey operand s
  | .cmpSwap b va rkey compare operand => Sys2Proof.Machine.execCmpSwap b va rkey compare operand s
  | .roceResponse dqpn r => Sys2Proof.Machine.execRoceResponse dqpn r s
  | .roceAckTimeout qp => Sys2Proof.Machine.execRoceAckTimeout qp s
  | .pfcFrame enable pause => Sys2Proof.Machine.execPfcFrame enable pause s
  | .congestionNotification dqpn => Sys2Proof.Machine.execCongestionNotification dqpn s
  | .rateRecovery qp => Sys2Proof.Machine.execRateRecovery qp s
  | .ctOpen o => Sys2Proof.Machine.execCtOpen o s
  | .ctClose g => Sys2Proof.Machine.execCtClose g s
  | .entries g => Sys2Proof.Machine.execEntries g s
  | .ctAck g => Sys2Proof.Machine.execCtAck g s
  | .ctResend ses => Sys2Proof.Machine.execCtResend ses s
  | .sessionLostTimeout ses => Sys2Proof.Machine.execSessionLostTimeout ses s
  | .autoPending c => Sys2Proof.Machine.execAutoPending c s
  | .sesCmdDb ag ses v => Sys2Proof.Machine.execSesCmdDb ag ses v s
  | .sesCplHead ag ses v => Sys2Proof.Machine.execSesCplHead ag ses v s
  | .devInfo c => Sys2Proof.Machine.execDevInfo c s
  | .deviceIdSet c => Sys2Proof.Machine.execDeviceIdSet c s
  | .deviceReset c => Sys2Proof.Machine.execDeviceReset c s
  | .funcCreate c => Sys2Proof.Machine.execFuncCreate c s
  | .funcDestroy c => Sys2Proof.Machine.execFuncDestroy c s
  | .cut c => Sys2Proof.Machine.execCut c s
  | .funcQuery c => Sys2Proof.Machine.execFuncQuery c s
  | .clusterAssign c => Sys2Proof.Machine.execClusterAssign c s
  | .clusterRelease c => Sys2Proof.Machine.execClusterRelease c s
  | .partCreate c => Sys2Proof.Machine.execPartCreate c s
  | .partResize c => Sys2Proof.Machine.execPartResize c s
  | .partDestroy c => Sys2Proof.Machine.execPartDestroy c s
  | .waysSet c => Sys2Proof.Machine.execWaysSet c s
  | .partExport c => Sys2Proof.Machine.execPartExport c s
  | .cueAlloc c => Sys2Proof.Machine.execCueAlloc c s
  | .cueFree c => Sys2Proof.Machine.execCueFree c s
  | .dqAlloc c => Sys2Proof.Machine.execDqAlloc c s
  | .dqFree c => Sys2Proof.Machine.execDqFree c s
  | .regAlloc c => Sys2Proof.Machine.execRegAlloc c s
  | .regFree c => Sys2Proof.Machine.execRegFree c s
  | .regSet c => Sys2Proof.Machine.execRegSet c s
  | .qpAlloc c => Sys2Proof.Machine.execQpAlloc c s
  | .qpModify c => Sys2Proof.Machine.execQpModify c s
  | .qpFree c => Sys2Proof.Machine.execQpFree c s
  | .mkCreate c => Sys2Proof.Machine.execMkCreate c s
  | .mkDestroy c => Sys2Proof.Machine.execMkDestroy c s
  | .sessionLocal c => Sys2Proof.Machine.execSessionLocal c s
  | .sessionClose c => Sys2Proof.Machine.execSessionClose c s
  | .groupSet c => Sys2Proof.Machine.execGroupSet c s
  | .routeLoad c => Sys2Proof.Machine.execRouteLoad c s
  | .slateArm c => Sys2Proof.Machine.execSlateArm c s
  | .slateAbort c => Sys2Proof.Machine.execSlateAbort c s
  | .guestOpen c => Sys2Proof.Machine.execGuestOpen c s
  | .guestFence c => Sys2Proof.Machine.execGuestFence c s
  | .h1Fence c => Sys2Proof.Machine.execH1Fence c s
  | .h1Rejoin c rep => Sys2Proof.Machine.execH1Rejoin c rep s
  | .stackMaint c rep => Sys2Proof.Machine.execStackMaint c rep s
  | .retiredList c => Sys2Proof.Machine.execRetiredList c s
  | .fieldRead c => Sys2Proof.Machine.execFieldRead c s
  | .fieldWrite c => Sys2Proof.Machine.execFieldWrite c s
  | .fieldWriteGroup c => Sys2Proof.Machine.execFieldWriteGroup c s
  | .settingsStore c => Sys2Proof.Machine.execSettingsStore c s
  | .fwWrite c readBackOk => Sys2Proof.Machine.execFwWrite c readBackOk s
  | .fwActivate c => Sys2Proof.Machine.execFwActivate c s
  | .attestQuote c => Sys2Proof.Machine.execAttestQuote c s
  | .identityRead c => Sys2Proof.Machine.execIdentityRead c s
  | .mpHello h fw slot => Sys2Proof.Machine.execMpHello h fw slot s
  | .mpWork item opcode args => Sys2Proof.Machine.execMpWork item opcode args s
  | .mpDone item status result => Sys2Proof.Machine.execMpDone item status result s
  | .mpBeat sender => Sys2Proof.Machine.execMpBeat sender s
  | .mpBeatLoss => Sys2Proof.Machine.execMpBeatLoss s
  | .watchdogExpire h => Sys2Proof.Machine.execWatchdogExpire h s
  | .domainGate h ix => Sys2Proof.Machine.execDomainGate h ix s
  | .domainWake h ix => Sys2Proof.Machine.execDomainWake h ix s
  | .buckFault h ix k => Sys2Proof.Machine.execBuckFault h ix k s
  | .vinFastThreshold => Sys2Proof.Machine.execVinFastThreshold s
  | .vinTrip aonKept => Sys2Proof.Machine.execVinTrip aonKept s
  | .gfReport demand power level hot => Sys2Proof.Machine.execGfReport demand power level hot s
  | .gfGrant grant exchange => Sys2Proof.Machine.execGfGrant grant exchange s
  | .grantAckTimeout => Sys2Proof.Machine.execGrantAckTimeout s
  | .gafferFallback h => Sys2Proof.Machine.execGafferFallback h s
  | .throttleAdjust h power cluster => Sys2Proof.Machine.execThrottleAdjust h power cluster s
  | .dieSensorRead h temps => Sys2Proof.Machine.execDieSensorRead h temps s
  | .clockLoss h k => Sys2Proof.Machine.execClockLoss h k s
  | .timeSet t => Sys2Proof.Machine.execTimeSet t s
  | .tripNotice h cause => Sys2Proof.Machine.execTripNotice h cause s
  | .coldBoot rep => Sys2Proof.Machine.execColdBoot rep s
  | .bootHoldRelease rep => Sys2Proof.Machine.execBootHoldRelease rep s
  | .bootGo digest len => Sys2Proof.Machine.execBootGo digest len s
  | .h1Reset => Sys2Proof.Machine.execH1Reset s
  | .floorRaise => Sys2Proof.Machine.execFloorRaise s
  | .dailiesRecord h => Sys2Proof.Machine.execDailiesRecord h s
  | .dailiesRead h => Sys2Proof.Machine.execDailiesRead h s
  | .sample h => Sys2Proof.Machine.execSample h s
  | .i3cPointerWrite h v => Sys2Proof.Machine.execI3cPointerWrite h v s
  | .i3cRead h => Sys2Proof.Machine.execI3cRead h s
  | .bypass h => Sys2Proof.Machine.execBypass h s
  | .idcode h => Sys2Proof.Machine.execIdcode h s
  | .samplePreload h preload => Sys2Proof.Machine.execSamplePreload h preload s
  | .extest h => Sys2Proof.Machine.execExtest h s
  | .modPresentChange high => Sys2Proof.Machine.execModPresentChange high s
  | .commandBusParityError c => Sys2Proof.Machine.execCommandBusParityError c s
  | .leaseEnd h set way => Sys2Proof.Machine.execLeaseEnd h set way s
  | .refreshManagementRequest c => Sys2Proof.Machine.execRefreshManagementRequest c s
  | .perBankRefresh c => Sys2Proof.Machine.execPerBankRefresh c s
  | .resetNAssert => Sys2Proof.Machine.execResetNAssert s
  | .pwrGoodHigh => Sys2Proof.Machine.execPwrGoodHigh s
  | .vinMainRestored => Sys2Proof.Machine.execVinMainRestored s
  | .refclkAonReturn => Sys2Proof.Machine.execRefclkAonReturn s
  | .dynamicAddressAssignment h kind addr => Sys2Proof.Machine.execDynamicAddressAssignment h kind addr s
  | .duplicateAddressDetectionEnd w => Sys2Proof.Machine.execDuplicateAddressDetectionEnd w s

end Sys2Proof.Machine
end

