-- ==== Sys2Proof/Machine/Step.lean ====
section
/-! DEFINITION. One step of the base: the waiting command that came first takes its effect; with no command
waiting, time passes. -/

namespace Sys2Proof.Machine

open Sys2Proof

/-- One step. With a command waiting, its effect on the state with the rest of the queue; with none, one tick of
the model's clock (DESIGN CHOICE, log entry 3). -/
def step (s : State) : Host.Outcome State Fault Refusal :=
  match s.pending with
  | [] => .next (Sys2Proof.Machine.tick s)
  | c :: rest => Sys2Proof.Machine.exec c { s with pending := rest }

/-- `s` with the command that a word spells put at the front of its queue; unchanged where the word spells
none. -/
def State.withFetchWord (s : State) (nbits w : Nat) : State :=
  match decodeTableWord nbits w with
  | some c => { s with pending := c :: s.pending }
  | none => s

end Sys2Proof.Machine
end

