-- ==== Sys2Proof/Safety.lean ====
section
/-! DEFINITION. What counts as a safe run, in the terms in which claims speak: how a step may end, and what every state of
the base keeps. -/

namespace Sys2Proof.Machine

open Sys2Proof

/-- A step goes on: it neither faults nor refuses. -/
def goesOn (s : State) : Prop := ∃ t, step s = .next t

/-- The command completes in a state: `exec` answers a next state. -/
def completes (c : Instr) (s : State) : Prop := ∃ t, exec c s = .next t

/-- A run: states that follow one another by steps, with commands given in between. -/
inductive Reaches : State → State → Prop where
  | refl (s : State) : Reaches s s
  | step (s t u : State) (h : Reaches s t) (hs : Machine.step t = .next u) : Reaches s u
  | given (s t : State) (c : Instr) (h : Reaches s t) : Reaches s { t with pending := t.pending ++ [c] }

/-- The memory of the stacks and the scratchpads keep their canonical form. -/
def memOk (s : State) : Prop := MemSt.wf s.mem = true ∧ s.buf.padWf = true

/-- A store of `v` to field `i` of a name is performed and leaves `new` there: the agent is on the part and has rights, the
block answers, and no bit of the store is denied or refused (R5, R12–R14, R28, R487). -/
def storeOk (ag : Agent) (h : Half) (r : Reg) (i v new : Nat) (s : State) : Prop :=
  agentThere s ag = true ∧ fieldGone s h r = false ∧ (h = .h1 → (regRow r).h1 ≠ .copy) ∧
    ∃ w, writerOf s ag = some w ∧ mayReach s w r i = true ∧ writesAny s w r i = true ∧
      planWrite s w r i v = ⟨new, false, false⟩

/-- The state after a store that was performed: the store is answered. -/
def stored (ag : Agent) (h : Half) (r : Reg) (i : Nat) (s : State) : State :=
  emit (.cfgDone ag (cfgAddr h (regRow r).cls (rowOffset (regRow r) (regPos r i)))) s

/-- The part has the bundle (R333). -/
def bundleThere (s : State) : BundleRef → Prop
  | .z _ _ => s.part = .mb2
  | .site g _ => hasHalf s (halfOf 2 g) = true

/-- The part has the sideband lane (R347). -/
def sbThere (s : State) : SbRef → Prop
  | .half _ _ => s.part = .mb2
  | .site g => hasHalf s (halfOf 2 g) = true

/-- The part has the far end of a Zoram attachment (R346). -/
def sideThere (s : State) : ZSrc → Prop
  | .half _ => s.part = .mb2
  | .site g => hasHalf s (halfOf 2 g) = true

/-- Cadun works on the command `r` of code `op`, and reads it as `c`: it is accepted and not decided, H0's processor runs the
firmware, and either it is in progress or it may start and passes the checks that come before its own. `t`: the state with the
command in progress (R389–R392). -/
def cmdTaken (op : Nat) (r : CmdRef) (c : CmdIn) (s t : State) : Prop :=
  ∃ d, (sesAt s r.ses.val).cmds.find? (fun x => decide (x.index = r.index)) = some d ∧ entOp d.entry = op ∧ d.due = none ∧
    s.cad.mp0.st = 1 ∧ c = ⟨r.ses.val, r.index, (sesAt s r.ses.val).func, d.entry, d.t, !d.started⟩ ∧
    (d.started = true ∨ (mayStart s r.ses.val d = true ∧ preCheck s c.f d.entry = csOk)) ∧ t = startCmd r.ses.val r.index s

/-- The final completion OK of a command with a result (R381, R406). -/
def cmdOk (c : CmdIn) (res : List Byte) (s : State) : Host.Outcome State Fault Refusal :=
  .next (finishCmd c.ses c.idx csOk res s)

/-- The final completion of a command with a status and no result. -/
def cmdBad (c : CmdIn) (st : Nat) (s : State) : Host.Outcome State Fault Refusal := .next (finishCmd c.ses c.idx st [] s)

end Sys2Proof.Machine
end

