-- ==== Sys2Proof/WellFormed.lean ====
section
/-! DEFINITION. When an operand of a command is one that the outside can bring: lists no longer than the message or report
that carries them, each sector of a line named once, numbers within their fields. A command that fails the check still has
the meaning that `exec` gives it. -/

namespace Sys2Proof

/-- Sectors are named in ascending order, each once. -/
def wfPart (l : LinePart) : Bool := decide ((l.map (fun e => e.1.val)).Pairwise (· < ·))
/-- Sector writes name sectors in ascending order, each once. -/
def wfSecs (l : List (Fin 4 × SecWr)) : Bool := decide ((l.map (fun e => e.1.val)).Pairwise (· < ·))
/-- MAC operands: 8 rows and 8 columns of one depth, at most 64, with no scales or one for each row and column (R44). -/
def wfMacSlice (m : MacSlice) : Bool :=
  decide (m.a.length = m.b.length) && decide (m.a.length % 8 = 0) && decide (m.a.length ≤ 512) &&
    (decide (m.scaleA.length = 8) || decide (m.scaleA.length = 0)) &&
    (decide (m.scaleB.length = 8) || decide (m.scaleB.length = 0))
/-- A scratchpad write stores 1 to 128 bytes (R115). -/
def wfSpAccess : SpAccess → Bool
  | .read len => decide (0 < len.val)
  | .write bytes => decide (0 < bytes.length) && decide (bytes.length ≤ 128)
  | .add _ _ _ _ => true
/-- Each erroneous word of a sector is named once (R163). -/
def wfReadErr (e : ReadErr) : Bool := decide e.single.Nodup && decide e.rowBad.Nodup
/-- A training report names each channel's lane map, each bank group and each spare once (R157). -/
def wfTrain (r : TrainReport) : Bool :=
  decide ((r.lanes.map Prod.fst).Nodup) && decide ((r.ppr.map (fun p => (p.1, p.2.1))).Nodup) && decide r.badSpares.Nodup
/-- The sectors of a far cache access (R184). -/
def wfFarOp : FarOp → Bool
  | .read _ => true
  | .write l => wfSecs l
  | .add _ l => wfPart l
  | .atomic _ _ _ _ => true
/-- A Clapper value has 24 bits (R302). -/
def wfClap (m : ClapMsg) : Bool := decide (m.value < 2 ^ 24)
/-- A direction of a bundle: the first attempt and at most three repeats (R357). -/
def wfDir (d : DirTraining) : Bool := decide (d.fails.length ≤ 4)
/-- The training of the 16 bundles between the halves (R356). -/
def wfZoram (l : List (DirTraining × DirTraining)) : Bool :=
  decide (l.length = 16) && l.all (fun d => wfDir d.1 && wfDir d.2)
/-- A capability record's numbers fit its bytes (R352). -/
def wfCap (c : CapRec) : Bool := decide (c.bundles < 256) && decide (c.fwClass < 256) && decide (c.maxTags < 65536)
/-- The data of a response is one packet's worth (R373). -/
def wfResp : RoceResp → Bool
  | .readData _ bytes => decide (bytes.length ≤ 4096)
  | _ => true
/-- A datagram fits a frame (R366, R377). -/
def wfGram (g : CtGram) : Bool := decide (g.payload.length ≤ 4352)
/-- What a cold boot meets: each stack reports and gives its serial at most once, each physical array and cell fails once. -/
def wfBoot (b : BootReport) : Bool :=
  decide ((b.stackReps.map Prod.fst).Nodup) && decide ((b.serials.map Prod.fst).Nodup) &&
    decide b.tests0.bad.Nodup && decide b.tests1.bad.Nodup && b.stackReps.all (fun r => wfTrain r.2)
/-- Each die sensor is read once (R419). -/
def wfTemps : Option (List (Fin 22 × Int)) → Bool
  | none => true
  | some l => decide ((l.map Prod.fst).Nodup)

/-- The command's operands are such as the outside can bring. -/
def Instr.wf : Instr → Bool
  | .configStore _ _ _ _ => true
  | .commit _ _ _ => true
  | .macIssue _ sl => wfMacSlice sl
  | .residueFault _ _ => true
  | .vectorInstruction _ _ _ _ _ => true
  | .lsWriteback _ _ => true
  | .switchWord _ _ _ _ => true
  | .phaseEnd _ _ _ => true
  | .stallWatchdog _ _ => true
  | .load _ _ _ _ => true
  | .loadComplete _ _ _ => true
  | .start _ _ _ _ => true
  | .stop _ _ _ _ => true
  | .stopTakesEffect _ _ => true
  | .drop _ _ _ _ => true
  | .stepEnd _ _ => true
  | .phase _ i => decide i.residueFail.Nodup
  | .streamStart _ _ => true
  | .streamWait _ _ => true
  | .streamReadData _ _ _ => true
  | .cueWait _ _ => true
  | .cueSignal _ _ => true
  | .loop _ _ => true
  | .delay _ _ => true
  | .delayExpire _ _ => true
  | .cueValueWrite _ _ _ => true
  | .cueOwnerWrite _ _ _ => true
  | .takeAdvance _ => true
  | .sliceRead _ _ _ _ _ => true
  | .sliceWrite _ _ secs _ _ => wfSecs secs
  | .addToLine _ _ _ secs _ _ => wfPart secs
  | .fillData _ _ => true
  | .ebufHandover _ _ => true
  | .scratchpadAccess _ _ acc _ => wfSpAccess acc.acc
  | .segMapWrite _ _ _ _ => true
  | .wayMapWrite _ _ _ _ => true
  | .wayZeroDone _ _ => true
  | .maintCommit _ _ _ => true
  | .prefetch _ _ _ => true
  | .prefetchLock _ _ _ => true
  | .flush _ _ _ => true
  | .invalidate _ _ _ => true
  | .flushInv _ _ _ => true
  | .markDead _ _ _ => true
  | .maintRecord _ _ => true
  | .maintFailTimeout _ _ => true
  | .memorySectorRead _ _ err => wfReadErr err
  | .memorySectorWrite _ _ err => wfReadErr err
  | .wcbAgeExpire _ _ err => wfReadErr err
  | .memorySideAdd _ _ err => wfReadErr err
  | .tempReading _ _ => true
  | .thermalReturn _ => true
  | .holdExpire _ => true
  | .recalibration _ _ => true
  | .scrubRead _ err => wfReadErr err
  | .stackLost _ => true
  | .stackTempReadFail _ => true
  | .catastrophicTemp _ => true
  | .stackTrain _ rep => wfTrain rep
  | .tgStart _ _ => true
  | .tgStop _ _ => true
  | .tgPassesDone _ f => f.reads.all (fun r => wfReadErr r.2)
  | .rdS _ => true
  | .rdX _ => true
  | .upgrade _ => true
  | .rdNc _ _ => true
  | .wrNc _ secs => wfSecs secs
  | .addNc _ _ secs => wfPart secs
  | .joinA _ _ => true
  | .atomic _ _ _ => true
  | .wb _ _ secs => wfPart secs
  | .mergeA _ _ secs => wfPart secs
  | .evictE _ => true
  | .renew _ => true
  | .inv _ _ _ => true
  | .recall _ _ _ => true
  | .downgrade _ _ _ => true
  | .collect _ _ _ => true
  | .data _ _ _ _ secs lease => wfPart secs && decide (lease < 256)
  | .grant _ _ _ _ lease => decide (lease < 256)
  | .ackLocal _ _ _ => true
  | .ackGlobal _ _ _ => true
  | .atomicResult _ _ _ _ => true
  | .snoopAck _ _ _ _ _ => true
  | .snoopData _ _ _ _ _ secs => wfPart secs
  | .ack _ _ _ => true
  | .nack _ _ _ => true
  | .retry _ _ _ => true
  | .retryResend _ _ => true
  | .error _ _ _ _ => true
  | .farCacheAccess _ _ op _ _ => wfFarOp op
  | .leaseGiveUp _ _ _ => true
  | .leaseDeadline _ _ _ => true
  | .reqTimeout _ _ => true
  | .rpCollectTimeout _ _ => true
  | .slatePoint _ _ => true
  | .slateStreamStart _ => true
  | .slateComplete _ => true
  | .dqEnable _ _ _ _ => true
  | .dqDisable _ _ _ => true
  | .dqStop _ _ _ => true
  | .dqResume _ _ _ => true
  | .doorbell _ _ _ _ => true
  | .dqRecHeadWrite _ _ _ _ => true
  | .descriptorRead _ _ => true
  | .nop _ _ _ => true
  | .copy _ _ _ => true
  | .add _ _ _ => true
  | .fill _ _ _ => true
  | .gather _ _ _ => true
  | .scatter _ _ _ => true
  | .mcast _ _ _ => true
  | .mcastBranchTimeout _ _ _ _ => true
  | .rdmaWrite _ _ _ => true
  | .rdmaRead _ _ _ => true
  | .reel _ _ _ => true
  | .rsignal _ _ _ => true
  | .descriptorComplete _ _ _ => true
  | .rsignalReceive _ => true
  | .rsigAck _ _ => true
  | .rsigRefused _ _ => true
  | .reelValidWrite _ _ _ _ => true
  | .block blk => decide (blk.secs.length ≤ 16)
  | .arrival _ _ _ _ => true
  | .arrivalAck _ _ _ _ => true
  | .reelFree _ _ => true
  | .credit _ _ _ => true
  | .portEnable _ _ _ => true
  | .portTrainingTimeout _ => true
  | .portUp _ tr => decide ((tr.credits.map (fun c => (c.1, c.2.1))).Nodup)
  | .dataFlit _ f => decide (f.payload.length ≤ 56)
  | .ctrlFlit _ f => decide ((f.credits.map (fun c => (c.1, c.2.1))).Nodup)
  | .nakTimer _ => true
  | .ackTimer _ => true
  | .ackStallTimeout _ => true
  | .lossOfSignal _ _ => true
  | .linkInfo _ _ _ _ => true
  | .packetDeliver _ _ _ => true
  | .packetForward _ _ _ _ => true
  | .mcPacket _ _ _ _ => true
  | .mcHoldExpire _ _ => true
  | .mcAck _ _ _ _ info => decide (info.fails.length ≤ 8) && decide (info.okCount < 65536) && decide (info.failCount < 65536)
  | .collValidWrite _ _ _ _ => true
  | .localArrival _ _ => true
  | .arrive m => wfClap m
  | .depart m => wfClap m
  | .childWaitTimeout _ _ => true
  | .departWaitTimeout _ _ => true
  | .bandNotice _ _ => true
  | .delayNotice m => wfClap m
  | .extend m => wfClap m
  | .windowBoundary _ _ => true
  | .frameReceive _ f => decide (f.slots.length = 15)
  | .linkFlit _ l => decide ((l.credits.map Prod.fst).Nodup)
  | .bundleRetrain _ rx tx => wfDir rx && wfDir tx
  | .bundleListChange _ => true
  | .zoramAgeDiscard _ _ => true
  | .zoramTraining dirs => wfZoram dirs
  | .sbAck _ _ _ => true
  | .sidebandResend _ => true
  | .sidebandStageTimeout _ => true
  | .ts1 _ _ _ _ _ => true
  | .tapReq _ _ _ _ => true
  | .tapAck _ _ _ _ => true
  | .sbLaneLoss _ _ => true
  | .eyeGo _ _ _ => true
  | .eyeScanDone _ _ => true
  | .cap _ c => wfCap c
  | .capGrant _ c => wfCap c
  | .splice _ _ _ _ => true
  | .bundleState _ _ _ _ => true
  | .resetNotice _ => true
  | .fenceH1 _ => true
  | .h0LossAtH1 => true
  | .guestMessage _ _ _ => true
  | .snoopLimitExpire _ => true
  | .guestSiteFence _ _ => true
  | .fence _ _ _ => true
  | .gsOpenWrite _ _ _ => true
  | .signal _ _ _ _ => true
  | .wait _ _ _ _ _ _ => true
  | .waitDone _ _ => true
  | .cfgRd _ _ _ _ _ => true
  | .cfgWr _ _ _ _ _ _ => true
  | .band _ _ _ => true
  | .ethFrameReceive _ => true
  | .hostLinkDown => true
  | .hostLinkUp => true
  | .announceTimer => true
  | .discover _ => true
  | .rdmaWriteRequest _ _ _ bytes => decide (bytes.length ≤ 4096)
  | .rdmaReadRequest _ _ _ _ => true
  | .fetchAdd _ _ _ _ => true
  | .cmpSwap _ _ _ _ _ => true
  | .roceResponse _ r => wfResp r
  | .roceAckTimeout _ => true
  | .pfcFrame _ _ => true
  | .congestionNotification _ => true
  | .rateRecovery _ => true
  | .ctOpen o => decide (o.c < 2 ^ 16) && decide (o.e < 2 ^ 16)
  | .ctClose g => wfGram g
  | .entries g => wfGram g
  | .ctAck g => wfGram g
  | .ctResend _ => true
  | .sessionLostTimeout _ => true
  | .autoPending _ => true
  | .sesCmdDb _ _ _ => true
  | .sesCplHead _ _ _ => true
  | .devInfo _ => true
  | .deviceIdSet _ => true
  | .deviceReset _ => true
  | .funcCreate _ => true
  | .funcDestroy _ => true
  | .cut _ => true
  | .funcQuery _ => true
  | .clusterAssign _ => true
  | .clusterRelease _ => true
  | .partCreate _ => true
  | .partResize _ => true
  | .partDestroy _ => true
  | .waysSet _ => true
  | .partExport _ => true
  | .cueAlloc _ => true
  | .cueFree _ => true
  | .dqAlloc _ => true
  | .dqFree _ => true
  | .regAlloc _ => true
  | .regFree _ => true
  | .regSet _ => true
  | .qpAlloc _ => true
  | .qpModify _ => true
  | .qpFree _ => true
  | .mkCreate _ => true
  | .mkDestroy _ => true
  | .sessionLocal _ => true
  | .sessionClose _ => true
  | .groupSet _ => true
  | .routeLoad _ => true
  | .slateArm _ => true
  | .slateAbort _ => true
  | .guestOpen _ => true
  | .guestFence _ => true
  | .h1Fence _ => true
  | .h1Rejoin _ rep => wfBoot rep
  | .stackMaint _ rep => wfTrain rep
  | .retiredList _ => true
  | .fieldRead _ => true
  | .fieldWrite _ => true
  | .fieldWriteGroup _ => true
  | .settingsStore _ => true
  | .fwWrite _ _ => true
  | .fwActivate _ => true
  | .attestQuote _ => true
  | .identityRead _ => true
  | .mpHello _ _ _ => true
  | .mpWork _ _ args => decide (args.length ≤ 200)
  | .mpDone _ _ result => decide (result.length ≤ 200)
  | .mpBeat _ => true
  | .mpBeatLoss => true
  | .watchdogExpire _ => true
  | .domainGate _ _ => true
  | .domainWake _ _ => true
  | .buckFault _ _ _ => true
  | .vinFastThreshold => true
  | .vinTrip _ => true
  | .gfReport _ _ _ _ => true
  | .gfGrant _ _ => true
  | .grantAckTimeout => true
  | .gafferFallback _ => true
  | .throttleAdjust _ _ _ => true
  | .dieSensorRead _ temps => wfTemps temps
  | .clockLoss _ _ => true
  | .timeSet _ => true
  | .tripNotice _ _ => true
  | .coldBoot rep => wfBoot rep
  | .bootHoldRelease rep => wfBoot rep
  | .bootGo _ _ => true
  | .h1Reset => true
  | .floorRaise => true
  | .dailiesRecord _ => true
  | .dailiesRead _ => true
  | .sample _ => true
  | .i3cPointerWrite _ _ => true
  | .i3cRead _ => true
  | .bypass _ => true
  | .idcode _ => true
  | .samplePreload _ _ => true
  | .extest _ => true
  | .modPresentChange _ => true
  | .commandBusParityError _ => true
  | .leaseEnd _ _ _ => true
  | .refreshManagementRequest _ => true
  | .perBankRefresh _ => true
  | .resetNAssert => true
  | .pwrGoodHigh => true
  | .vinMainRestored => true
  | .refclkAonReturn => true
  | .dynamicAddressAssignment _ _ _ => true
  | .duplicateAddressDetectionEnd _ => true

end Sys2Proof
end

