-- ==== Sys2Proof/Certificates/Slice0/Obligations.lean ====
section
/-! DEFINITION. The statements for the provers, chapter by chapter. -/

open Sys2Proof Sys2Proof.Machine

/-- A MAC issue and a vector instruction act for the running context (R44, R57). A MAC issue on a cell of the running
context, whose MAC block is configured, whose next word is a MAC issue naming the bank that accumulates and whose
operand sources hold their words, leaves the accumulators of the cell as the arithmetic gives them on the operands
read from those sources; a vector instruction that can issue leaves the vector registers as its operation gives them.
A residue check that fails in the issue poisons its results. Memory, the directory and the configuration fields keep
their values, whatever check bits show. -/
def Obligations.CellArithmeticRuns : Prop :=
  (∀ (c : CellRef) (sl : MacSlice) (s : State) (i k : Nat) (r : CellRec) (w : W64) (srcA srcB : MacSrc) (x : CellSt),
    hasHalf s c.half = true → runningOn s c.half c.phys.val = some (i, k) →
    cellRec (ctxAt s c.half i k) c.cell.val = some r → nextWord (ctxAt s c.half i k) c.cell.val = some w →
    r.fmtA ≠ 0 → wordOp w = opMac → natBit 0 w.toNat = sl.bank →
    sl.bank = (cellSt s (cellKey c.half c.phys c.cell)).bank →
    macSource (cellSt s (cellKey c.half c.phys c.cell)) r.route 4 = some srcA →
    macSource (cellSt s (cellKey c.half c.phys c.cell)) r.route 5 = some srcB →
    x = cellSt (when sl.residueFail (residueFail (cellKey c.half c.phys c.cell) i k) s) (cellKey c.half c.phys c.cell) →
    ∃ t, exec (.macIssue c sl) s = .next t ∧
      (cellSt t (cellKey c.half c.phys c.cell)).accs =
        (macSlice (macFmt r.fmtA) (macFmt r.fmtB) (macRead x (macFmt r.fmtA) (macFmt r.fmtB) srcA srcB sl) sl.last x).1.accs ∧
      t.mem = s.mem ∧ t.coh = s.coh ∧ t.regs = s.regs ∧ t.cues = s.cues) ∧
  (∀ (c : CellRef) (op : VOp) (mask : Option (Fin 8)) (resid : Bool) (errs : List LsErr) (s : State) (i k : Nat)
    (r : CellRec) (w : W64) (res : VecRes), hasHalf s c.half = true → runningOn s c.half c.phys.val = some (i, k) →
    cellRec (ctxAt s c.half i k) c.cell.val = some r → nextWord (ctxAt s c.half i k) c.cell.val = some w →
    wordFits w op = true →
    vecOp op (match mask with
        | some j => ⟨mreg (vecAt s (cellKey c.half c.phys c.cell) k) j, mregP (vecAt s (cellKey c.half c.phys c.cell) k) j⟩
        | none => .of 0xFFFFFFFF#32) (natBit 0 (rget s .arithMode (ctxKey c.half i k)))
      (natBit 1 (rget s .arithMode (ctxKey c.half i k))) errs r.route (vecAt s (cellKey c.half c.phys c.cell) k)
      (cellSt (when (resid && residueChecked op) (residueFail (cellKey c.half c.phys c.cell) i k) s)
        (cellKey c.half c.phys c.cell)) = some res →
    ∃ t, exec (.vectorInstruction c op mask resid errs) s = .next t ∧
      vecAt t (cellKey c.half c.phys c.cell) k = res.v ∧
      t.mem = s.mem ∧ t.coh = s.coh ∧ t.regs = s.regs ∧ t.cues = s.cues)

/-- Errors of a cell, and words through the switch (R68, R69, R71, R78). A write-back of a corrected word takes the word
off the cell's list and changes nothing else. The fault that follows a failed residue check of a cell of the running
context faults that context with reason RESIDUE (1) and leaves memory as it was; without a failed check nothing
changes. A word at the head of a switch buffer whose route includes the local store is stored in the row named; a word
for a neighbour that has room leaves the cell and enters the neighbour's buffer on the side it came from, poisoned
when it arrives with a parity error. Memory keeps its content. -/
def Obligations.CellErrorsAndSwitchWords : Prop :=
  ((∀ (c : CellRef) (w : Fin 4096) (s : State), hasHalf s c.half = true →
    exec (.lsWriteback c w) s = .next (setCell (cellKey c.half c.phys c.cell)
      { cellSt s (cellKey c.half c.phys c.cell) with
        fixes := (cellSt s (cellKey c.half c.phys c.cell)).fixes.filter (fun v => v ≠ w) } s)) ∧
  (∀ (c : CellRef) (dp : Datapath) (s : State) (i k : Nat), hasHalf s c.half = true →
    runningOn s c.half c.phys.val = some (i, k) → (cellSt s (cellKey c.half c.phys c.cell)).failed = some (i, k) → k < 4 →
    ∃ t, exec (.residueFault c dp) s = .next t ∧ (ctxAt t c.half i k).st = .faulted ∧ (ctxAt t c.half i k).fault = 1 ∧
      t.mem = s.mem) ∧
  (∀ (c : CellRef) (dp : Datapath) (s : State), hasHalf s c.half = true →
    (cellSt s (cellKey c.half c.phys c.cell)).failed = none → exec (.residueFault c dp) s = .next s)) ∧
  ((∀ (c : CellRef) (d : Dir) (row : Fin 256) (s : State) (i k : Nat) (r : CellRec) (w : SwWord),
    hasHalf s c.half = true → runningOn s c.half c.phys.val = some (i, k) →
    cellRec (ctxAt s c.half i k) c.cell.val = some r →
    (bufOf (cellSt s (cellKey c.half c.phys c.cell)) d).head? = some w → natBit (16 + dirNum d) r.route = true →
    (takOf (cellSt s (cellKey c.half c.phys c.cell)) d).ls = false →
    exec (.switchWord c (.intoLs d row) false []) s =
      .next (noteProgress c.half i (setCell (cellKey c.half c.phys c.cell)
        (lsPutRow row w (takeHead r.route d (fun t => { t with ls := true }) (cellSt s (cellKey c.half c.phys c.cell)))) s))) ∧
  (∀ (c : CellRef) (o : Dir) (row : Fin 256) (s : State) (i k c' : Nat) (r : CellRec) (w : SwWord) (par : Bool),
    hasHalf s c.half = true → runningOn s c.half c.phys.val = some (i, k) →
    cellRec (ctxAt s c.half i k) c.cell.val = some r →
    outWord (cellSt s (cellKey c.half c.phys c.cell)) r.route o row = some w → neighbour c.cell.val o = some c' →
    hasSpace (cellSt s (cellKey c.half c.phys c')) (opposite o) = true →
    ∃ t, exec (.switchWord c (.out o row) par []) s = .next t ∧ t.mem = s.mem ∧
      (par = false → t = noteProgress c.half i (modCell (cellKey c.half c.phys c') (pushWord (opposite o) w)
        (setCell (cellKey c.half c.phys c.cell) (outTaken r.route o (cellSt s (cellKey c.half c.phys c.cell))) s)))))

/-- LOAD, START, STOP and DROP are actions of CTX_CTRL (R89, R100). A store of the action code that is performed acts on
the context: LOAD as the load stages give it, START on a READY or DONE context of an array with no active context
starts it and clears its last result, STOP makes a stop pending on an active context, DROP empties an inactive one.
START of a context that may not start leaves result 1, and 2 beside an active context. -/
def Obligations.ContextActions : Prop :=
  (∀ (ag : Agent) (h : Half) (i : Fin 64) (k : Fin 4) (s : State), storeOk ag h .ctxCtrl (ctxKey h i k) 1 1 s →
    exec (.load ag h i k) s = .next (stored ag h .ctxCtrl (ctxKey h i k) (doLoad h i k s))) ∧
  (∀ (ag : Agent) (h : Half) (i : Fin 64) (k : Fin 4) (s : State), storeOk ag h .ctxCtrl (ctxKey h i k) 2 2 s →
    (larr s h i).phys ≠ none → ((ctxAt s h i k).st = .ready ∨ (ctxAt s h i k).st = .done) → activeCtx s h i = none →
    exec (.start ag h i k) s = .next (stored ag h .ctxCtrl (ctxKey h i k) (startCtx h i k (ctxResult h i k 0 s)))) ∧
  (∀ (ag : Agent) (h : Half) (i : Fin 64) (k : Fin 4) (s : State), storeOk ag h .ctxCtrl (ctxKey h i k) 2 2 s →
    (larr s h i).phys ≠ none → ¬((ctxAt s h i k).st = .ready ∨ (ctxAt s h i k).st = .done) →
    exec (.start ag h i k) s = .next (stored ag h .ctxCtrl (ctxKey h i k) (ctxResult h i k 1 s))) ∧
  (∀ (ag : Agent) (h : Half) (i : Fin 64) (k : Fin 4) (s : State), storeOk ag h .ctxCtrl (ctxKey h i k) 3 3 s →
    (larr s h i).phys ≠ none → ctxActive (ctxAt s h i k) = true →
    exec (.stop ag h i k) s = .next (stored ag h .ctxCtrl (ctxKey h i k)
      (setCtx h i k { ctxAt s h i k with lastResult := 0, stopPend := true } s))) ∧
  (∀ (ag : Agent) (h : Half) (i : Fin 64) (k : Fin 4) (s : State), storeOk ag h .ctxCtrl (ctxKey h i k) 4 4 s →
    (larr s h i).phys ≠ none → ctxActive (ctxAt s h i k) = false →
    exec (.drop ag h i k) s = .next (stored ag h .ctxCtrl (ctxKey h i k)
      (setCtx h i k { Ctx.init with lastResult := 0 } (setCtx h i k { Ctx.init with lastResult := (ctxAt s h i k).lastResult } s))))

/-- The sequencer performs the step that may issue (R93, R95, R96, R97, R98, R101). A context that may issue a step
performs it: END makes it DONE once its streams are complete, PHASE starts the cells that have the phase, STREAM_START
queues the stream at its port, STREAM_WAIT and CUE_SIGNAL go on when their streams are complete, CUE_WAIT waits at the
cue, LOOP counts down and goes back, DELAY waits. A cue handle whose take has moved on faults the context with reason
STALE_CUE (6). -/
def Obligations.SequencerSteps : Prop :=
  (∀ (h : Half) (i : Fin 64) (s : State) (k : Nat) (x : Ctx), hasHalf s h = true →
    issuable s h i = some (k, x, .stEnd) → streamsDone s h i = true → (x.img.bind fun m => m.nextCtx) = none →
    exec (.stepEnd h i) s = .next (noteProgress h i (setCtx h i k { x with
      st := .done, stopPend := false, running := [], phaseWait := none, held := false } s))) ∧
  (∀ (h : Half) (i : Fin 64) (s : State) (k p : Nat) (x : Ctx) (w : Bool) (m : Image) (resid : List (Fin 256)), hasHalf s h = true →
    issuable s h i = some (k, x, .stPhase p w) → x.img = some m →
    ∃ t, exec (.phase h ⟨i, resid⟩) s = .next t ∧ t.mem = s.mem ∧ (ctxAt t h i k).step = x.step + 1 ∧
      (ctxAt t h i k).phaseWait = (if w then some p else none) ∧
      (ctxAt t h i k).running = x.running ++ (m.cells.filter (fun r => decide (p < r.phases))).map (fun r => (r.cell, p))) ∧
  (∀ (h : Half) (i : Fin 64) (s : State) (k j : Nat) (x : Ctx) (r : StreamRec), hasHalf s h = true →
    issuable s h i = some (k, x, .stStream j) → (x.img.bind fun m => m.streams[j]?) = some r →
    exec (.streamStart h i) s = .next (stepOn h i k (setPortQ h i r.port (portQAt s h i r.port ++ [j]) (setCtx h i k
      { x with streams := if portQAt s h i r.port = [] then x.streams.insert j StreamSt.init else x.streams } s)))) ∧
  (∀ (h : Half) (i : Fin 64) (s : State) (k j : Nat) (x : Ctx) (r : StreamRec), hasHalf s h = true →
    issuable s h i = some (k, x, .stStreamWait j) → (x.img.bind fun m => m.streams[j]?) = some r →
    exec (.streamWait h i) s = .next (if (portQAt s h i r.port).contains j then s else stepOn h i k s)) ∧
  (∀ (h : Half) (i : Fin 64) (s : State) (k j t : Nat) (x : Ctx) (c : Bool), hasHalf s h = true →
    issuable s h i = some (k, x, .stCueWait j t c) → handleCurrent s (imgCue x j) = true →
    exec (.cueWait h i) s = .next (waitFrom h (imgCue x j) ⟨.ctx h i k, t, c⟩
      (setCtx h i k { x with st := .waiting, issued := true } s))) ∧
  (∀ (h : Half) (i : Fin 64) (s : State) (k j t : Nat) (x : Ctx) (c : Bool), hasHalf s h = true →
    issuable s h i = some (k, x, .stCueWait j t c) → handleCurrent s (imgCue x j) = false →
    exec (.cueWait h i) s = .next (faultCtx h i k 6 j s)) ∧
  (∀ (h : Half) (i : Fin 64) (s : State) (k j inc : Nat) (x : Ctx), hasHalf s h = true →
    issuable s h i = some (k, x, .stCueSignal j inc) → handleCurrent s (imgCue x j) = true → streamsDone s h i = true →
    exec (.cueSignal h i) s = .next (signalFrom h (imgCue x j) inc (stepOn h i k s))) ∧
  (∀ (h : Half) (i : Fin 64) (s : State) (k target count j : Nat) (x : Ctx), hasHalf s h = true →
    issuable s h i = some (k, x, .stLoop target count j) → 1 < x.lc.getD j 0 →
    ∃ t, exec (.loop h i) s = .next t ∧ (ctxAt t h i k).step = target ∧ (ctxAt t h i k).lc = x.lc.set j (x.lc.getD j 0 - 1) ∧
      t.mem = s.mem ∧ t.regs = s.regs ∧ t.cues = s.cues) ∧
  (∀ (h : Half) (i : Fin 64) (s : State) (k n : Nat) (x : Ctx), hasHalf s h = true →
    issuable s h i = some (k, x, .stDelay n) →
    exec (.delay h i) s =
      .next (setCtx h i k { x with issued := true, delayUntil := some (s.clock + (n + 189) / 190) } s))

/-- Phase ends, delays, stops, stalls and stream reads (R75, R88, R93, R98, R100). The end of a cell's phase, once its
body has run REPEAT + 1 times, takes its entry off the running phases, and before that changes nothing; a delay that
expires goes on with the next step at its due time; a stop takes effect at a stop point whose streams are complete,
leaving the context READY and held; a running context that stalls faults with reason STALL (4); a stream of a read
port brings its next word into the edge cell, and a refused one stops. -/
def Obligations.ContextTimersAndEnds : Prop :=
  (∀ (h : Half) (i : Fin 64) (c : Fin 256) (resid : Bool) (s : State) (k n : Nat) (m : Image), hasHalf s h = true →
    activeCtx s h i = some k → (ctxAt s h i k).img = some m → nextWord (ctxAt s h i k) c.val = none →
    (ctxAt s h i k).running.findIdx? (fun r => decide (r.1 = c.val)) = some n →
    (((ctxAt s h i k).running.eraseIdx n).find? (fun r => decide (r.1 = c.val))) = none →
    exec (.phaseEnd h i ⟨c, resid⟩) s = .next (noteProgress h i
      (setCtx h i k { ctxAt s h i k with running := (ctxAt s h i k).running.eraseIdx n } s))) ∧
  (∀ (h : Half) (i : Fin 64) (c : Fin 256) (resid : Bool) (s : State) (k : Nat) (w : W64), hasHalf s h = true →
    activeCtx s h i = some k → nextWord (ctxAt s h i k) c.val = some w → exec (.phaseEnd h i ⟨c, resid⟩) s = .next s) ∧
  (∀ (h : Half) (i : Fin 64) (s : State) (k t : Nat), hasHalf s h = true → activeCtx s h i = some k →
    (ctxAt s h i k).delayUntil = some t → exec (.delayExpire h i) s = .next (stepOn h i k (atTime t s))) ∧
  (∀ (h : Half) (i : Fin 64) (s : State) (k : Nat) (op : StepOp), hasHalf s h = true → activeCtx s h i = some k →
    curStep (ctxAt s h i k) = some (op, true) → (ctxAt s h i k).stopPend = true → streamsDone s h i = true →
    phaseWaits (ctxAt s h i k) = false → (ctxAt s h i k).issued = false →
    exec (.stopTakesEffect h i) s = .next (setCtx h i k { ctxAt s h i k with
      st := .ready, held := true, stopPend := false, issued := false, running := [], phaseWait := none }
      (withdraw (.ctx h i k) s))) ∧
  (∀ (h : Half) (i : Fin 64) (s : State) (k : Nat), hasHalf s h = true → activeCtx s h i = some k →
    (ctxAt s h i k).st = .running →
    exec (.stallWatchdog h i) s =
      .next (faultCtx h i k 4 (ctxAt s h i k).step (atTime ((larr s h i).progress + 5519) s))) ∧
  (∀ (h : Half) (i : Fin 64) (port : Fin 4) (s t : State) (k j : Nat) (r : StreamRec) (st : StreamSt) (w : SwWord),
    hasHalf s h = true → activeStream s h i port = some (k, j, r, st) → st.stopped = false →
    hasSpace (cellSt s (cellKey h (((larr s h i).phys).getD 0) (portEdge r).1)) (portEdge r).2 = true →
    streamGet (arrayAgent h i) port (streamAddr r st.pos) s = .word w t →
    exec (.streamReadData h i port) s = .next (streamOn h i port k j r st
      (modCell (cellKey h (((larr s h i).phys).getD 0) (portEdge r).1) (pushWord (portEdge r).2 w) t))) ∧
  (∀ (h : Half) (i : Fin 64) (port : Fin 4) (s : State) (k j : Nat) (r : StreamRec) (st : StreamSt),
    hasHalf s h = true → activeStream s h i port = some (k, j, r, st) → st.stopped = false →
    hasSpace (cellSt s (cellKey h (((larr s h i).phys).getD 0) (portEdge r).1)) (portEdge r).2 = true →
    streamGet (arrayAgent h i) port (streamAddr r st.pos) s = .refused →
    exec (.streamReadData h i port) s = .next (streamStop h i k j st (streamAddr r st.pos) s))

/-- The write stage of a load ends (R89, R90). When the write stage of a loading context ends, an image whose bytes are
poisoned or whose CRC does not hold leaves the context EMPTY with result IMAGE (3); a good image that names no
mapped-out cell leaves it READY with that image; memory is as the reading of the image leaves it. A load whose image
has not been read yet goes on with its checks. -/
def Obligations.LoadCompletes : Prop :=
  (∀ (h : Half) (i : Fin 64) (k : Fin 4) (s t : State) (m : Image) (b : Section), hasHalf s h = true →
    (ctxAt s h i k).st = .loading → (ctxAt s h i k).loadImg = some m →
    readSection (arrayAgent h i) m.addr m.bytes s = (some b, t) →
    (b.poison = true ∨ imageCrc m b.bytes ≠ m.crc.toNat) →
    exec (.loadComplete h i k) s = .next (ctxResult h i k 3 (emptyCtx h i k t))) ∧
  (∀ (h : Half) (i : Fin 64) (k : Fin 4) (s t : State) (m : Image) (b : Section), hasHalf s h = true →
    (ctxAt s h i k).st = .loading → (ctxAt s h i k).loadImg = some m →
    readSection (arrayAgent h i) m.addr m.bytes s = (some b, t) → b.poison = false →
    imageCrc m b.bytes = m.crc.toNat → (ctxAt s h i k).staleAtEnd = false → (ctxAt s h i k).startWhenReady = false →
    namesOut m (physAt t (physKeyOf h (((larr t h i).phys).getD 0))).mapOut = false →
    ∃ u, exec (.loadComplete h i k) s = .next u ∧ (ctxAt u h i k).st = .ready ∧ (ctxAt u h i k).img = some m ∧
      u.mem = t.mem) ∧
  (∀ (h : Half) (i : Fin 64) (k : Fin 4) (s : State) (a : Nat), hasHalf s h = true → (ctxAt s h i k).st = .loading →
    (ctxAt s h i k).loadImg = none → (ctxAt s h i k).loadFrom = some a →
    exec (.loadComplete h i k) s = .next (loadChecks h i k a s))

/-- Writes of a cue's value and owner (R95, R96, R108). A store to CUE_VALUE that is performed sets the cue's 24-bit value
and checks its waiters; a store to CUE_OWNER that leaves the owner as it was changes nothing more, and one that names
another owner first releases the cue (value 0, waits dropped, take advanced) and then sets the owner. -/
def Obligations.CueWritesSetTheCue : Prop :=
  (∀ (ag : Agent) (n : Fin 8192) (v : BitVec 32) (new : Nat) (s : State),
    storeOk ag (cueHalf n) .cueValue n v.toNat new s →
    exec (.cueValueWrite ag n v) s = .next (stored ag (cueHalf n) .cueValue n (cueSet n (lowBits 24 new) s))) ∧
  (∀ (ag : Agent) (n : Fin 8192) (v : BitVec 32) (new : Nat) (s : State),
    storeOk ag (cueHalf n) .cueOwner n v.toNat new s → rget s .cueOwner n = lowBits 5 new →
    exec (.cueOwnerWrite ag n v) s = .next (stored ag (cueHalf n) .cueOwner n s)) ∧
  (∀ (ag : Agent) (n : Fin 8192) (v : BitVec 32) (new : Nat) (s : State),
    storeOk ag (cueHalf n) .cueOwner n v.toNat new s → rget s .cueOwner n ≠ lowBits 5 new →
    exec (.cueOwnerWrite ag n v) s =
      .next (stored ag (cueHalf n) .cueOwner n (rput .cueOwner n (lowBits 5 new) (cueRelease n false s))))

/-- The operations on a cue, and the check of its waiters (R95). A signal makes the value min(value + increment,
0xFF_FFFF), and one that saturates it is counted in CUE_OVF_COUNT (bits 31:16 of CUE_STATS) and recorded; a wait joins
the waiters behind those there are; either is one change of the state, after which the cue checks its waiters. The
check takes them in the order in which their waits arrived: each is satisfied if the value then meets its threshold, a
consuming one subtracts before the next is checked, and one that is not satisfied does not hold back a later one. What
the served waiters consumed and the value left are together the old value, and no waiter that is left would be
satisfied by the value left. -/
def Obligations.CueWaitersAreServedInOrder : Prop :=
  (∀ (hdl : BitVec 32) (inc : Nat) (s : State), handleCurrent s hdl = true → ∀ (n : Nat) (c : Cue), n = cueNum hdl →
    c = cueAt s n → cueSignal hdl inc s = cueCheck n (if 0xFFFFFF < c.value + inc then
        event (cueHalf n) 0x0204 0 (cueFunc s n) n 0 95
          (bumpSat .cueStats (cueHalf n).num 31 16 1 (setCue n { c with value := 0xFFFFFF } s))
      else setCue n { c with value := c.value + inc } s)) ∧
  (∀ (hdl : BitVec 32) (w : CueWaitSt) (s : State), handleCurrent s hdl = true → ∀ (n : Nat) (c : Cue), n = cueNum hdl →
    c = cueAt s n → cueWait hdl w s = cueCheck n (setCue n { c with waits := c.waits ++ [w] } s)) ∧
  (∀ (n : Nat) (s : State) (r : Nat × List CueWaitSt × List CueWaitSt),
    r = checkWaits (cueAt s n).value (cueAt s n).waits →
    cueCheck n s = forEach r.2.1 (wake (currentHandle s n)) (setCue n ⟨r.1, r.2.2⟩ s) ∧
    cueAt (cueCheck n s) n = ⟨r.1, r.2.2⟩) ∧
  (∀ v : Nat, checkWaits v [] = (v, [], [])) ∧
  (∀ (v : Nat) (w : CueWaitSt) (ws : List CueWaitSt), w.threshold ≤ v → ∀ u, u = (if w.consume then v - w.threshold else v) →
    checkWaits v (w :: ws) = ((checkWaits u ws).1, w :: (checkWaits u ws).2.1, (checkWaits u ws).2.2)) ∧
  (∀ (v : Nat) (w : CueWaitSt) (ws : List CueWaitSt), v < w.threshold →
    checkWaits v (w :: ws) = ((checkWaits v ws).1, (checkWaits v ws).2.1, w :: (checkWaits v ws).2.2)) ∧
  (∀ (v : Nat) (ws : List CueWaitSt),
    (checkWaits v ws).2.1.Sublist ws ∧ (checkWaits v ws).2.2.Sublist ws ∧
    ((checkWaits v ws).2.1 ++ (checkWaits v ws).2.2).Perm ws ∧
    (checkWaits v ws).1 + (((checkWaits v ws).2.1.filter (fun w => w.consume)).map (fun w => w.threshold)).sum = v ∧
    ∀ w ∈ (checkWaits v ws).2.2, (checkWaits v ws).1 < w.threshold)

/-- An advance of a take that fell due (R222). An advance that fell due takes place no sooner than 1 ms after the
identifier's last: the take rises by one modulo 256, is current again, and Cadun's commands that waited for it go on.
An identifier with no advance due keeps its take. -/
def Obligations.TakesAdvanceWhenDue : Prop :=
  (∀ (n : Fin 8192) (s : State), s.part = .mb2 → (takeSt s (takeKey (.cue n))).due = true →
    exec (.takeAdvance (.cue n)) s = .next (settleCadun (stepTake (takeKey (.cue n))
      (atTime (((takeSt s (takeKey (.cue n))).last.getD 0) + ms 1) s)))) ∧
  (∀ (id : TakeId) (s : State), s.part = .mb2 → (takeSt s (takeKey id)).due = true →
    ∃ t, exec (.takeAdvance id) s = .next t ∧ t = settleCadun (stepTake (takeKey id)
      (atTime (((takeSt s (takeKey id)).last.getD 0) + ms 1) s))) ∧
  (∀ (k : Nat) (s : State), curTake (stepTake k s) k = some (((takeSt s k).take + 1) % 256) ∧
    (takeSt (stepTake k s) k).last = some s.clock)

/-- An agent's access reaches its slice or is refused (R25, R29, R119, R132). A read, a write or an add of an agent that
may access the address goes to the line's home slice as one access of the named sectors; a refused one is answered
with an error response and recorded. An access to a scratchpad address is one of that scratchpad. While an acquire of
the agent is still out, none of these changes anything. -/
def Obligations.AccessesReachTheSlice : Prop :=
  (∀ (ag : Agent) (addr : MemAddr) (mask : Fin 16) (tag a : Nat) (err : SliceErr) (s : State), agentThere s ag = true →
    acquirePending s ag = false → targetOf s addr = .dpa a → region s a ≠ .scratch → mayAccess s ag a = true →
    exec (.sliceRead ag addr mask tag err) s =
      .next (lineAccess ag a tag ((maskSecs mask.val).map (fun i => (i.val, SecOp.read))) err s)) ∧
  (∀ (ag : Agent) (addr : MemAddr) (secs : List (Fin 4 × SecWr)) (tag a : Nat) (err : SliceErr) (s : State),
    agentThere s ag = true → acquirePending s ag = false → targetOf s addr = .dpa a → region s a ≠ .scratch →
    mayAccess s ag a = true →
    exec (.sliceWrite ag addr secs tag err) s =
      .next (lineAccess ag a tag (secs.map (fun x => (x.1.val, SecOp.write x.2))) err s)) ∧
  (∀ (ag : Agent) (addr : MemAddr) (ro : RedOp) (secs : LinePart) (tag a : Nat) (err : SliceErr) (s : State),
    agentThere s ag = true → acquirePending s ag = false → targetOf s addr = .dpa a → region s a ≠ .scratch →
    mayAccess s ag a = true →
    exec (.addToLine ag addr ro secs tag err) s =
      .next (if farCombines s ag a then farCombine ag a ro secs tag s
        else lineAccess ag a tag (secs.map (fun x => (x.1.val, SecOp.add ⟨ro, x.2.1, x.2.2⟩))) err s)) ∧
  (∀ (ag : Agent) (addr : MemAddr) (mask : Fin 16) (secs : List (Fin 4 × SecWr)) (ro : RedOp) (part : LinePart)
    (tag a : Nat) (err : SliceErr) (s : State), agentThere s ag = true → acquirePending s ag = false →
    targetOf s addr = .dpa a → region s a ≠ .scratch → mayAccess s ag a = false →
    exec (.sliceRead ag addr mask tag err) s = .next (refuseAccess ag a tag s) ∧
    exec (.sliceWrite ag addr secs tag err) s = .next (refuseAccess ag a tag s) ∧
    exec (.addToLine ag addr ro part tag err) s = .next (refuseAccess ag a tag s)) ∧
  (∀ (ag : Agent) (addr : MemAddr) (mask : Fin 16) (secs : List (Fin 4 × SecWr)) (ro : RedOp) (part : LinePart)
    (tag a : Nat) (err : SliceErr) (s : State), agentThere s ag = true → acquirePending s ag = false →
    targetOf s addr = .dpa a → region s a = .scratch →
    exec (.sliceRead ag addr mask tag err) s = .next (padAccess ag a tag (.read mask) err s) ∧
    exec (.sliceWrite ag addr secs tag err) s = .next (padAccess ag a tag (.write secs) err s) ∧
    exec (.addToLine ag addr ro part tag err) s = .next (padAccess ag a tag (.add ro part) err s)) ∧
  (∀ (ag : Agent) (addr : MemAddr) (mask : Fin 16) (secs : List (Fin 4 × SecWr)) (ro : RedOp) (part : LinePart)
    (tag : Nat) (err : SliceErr) (s : State), agentThere s ag = true → acquirePending s ag = true →
    exec (.sliceRead ag addr mask tag err) s = .next s ∧ exec (.sliceWrite ag addr secs tag err) s = .next s ∧
    exec (.addToLine ag addr ro part tag err) s = .next s)

/-- A fill's data and an eviction buffer entry (R119, R130). The n-th sector returned to a slice, without the
reduce-pending bit or failed, is taken from the list, enters the slice and lets what waited go on; a list without an
n-th sector changes nothing. The n-th entry of an eviction buffer whose channel no older entry needs is handed over. -/
def Obligations.SliceReturnsAndHandovers : Prop :=
  (∀ (sl : Fin 256) (n : Nat) (s t : State) (r : FillRet), hasHalf s (halfOf 128 sl) = true →
    takeRet sl n s = some (r, t) → (r.reducePending && !r.failed) = false →
    exec (.fillData sl n) s = .next (settleSlates (redriveSlice sl (retryStalled sl (fillArrive sl r t))))) ∧
  (∀ (sl : Fin 256) (n : Nat) (s : State), hasHalf s (halfOf 128 sl) = true → takeRet sl n s = none →
    exec (.fillData sl n) s = .next s) ∧
  (∀ (sl : Fin 256) (n : Nat) (s t : State) (e : EbEntry), hasHalf s (halfOf 128 sl) = true → (ebufAt s sl)[n]? = some e →
    ((ebufAt s sl).take n).any (fun x => decide (chanOf sl x.line = chanOf sl e.line)) = false →
    handOver sl n s = some t → exec (.ebufHandover sl n) s = .next (settleSlates (redriveSlice sl (retryStalled sl t))))

/-- Scratchpad accesses, and the maps of the buffer (R111, R115, R116, R142). An access to scratchpad bytes that the agent
may reach is performed at once: a read returns the bytes, a write stores them, an add combines in place; a refused
access is answered with an error response. A store to SEG_MAP whose value meets no other segment is put in force, and
one that would is ignored and recorded; a store to WAY_MAP is put in force, and an assignment to a new function starts
its zeroing, whose end leaves the way's scratch bytes zero; the commit of a maintenance port with pending values
submits them as an operation. -/
def Obligations.ScratchpadsAndMaps : Prop :=
  ((∀ (ag : Agent) (addr : BitVec 48) (n : Fin 129) (tag : Nat) (err : SliceErr) (s t : State), agentThere s ag = true →
    acquirePending s ag = false → 0 < n.val →
    mayScratch s ag addr.toNat = true → mayScratch s ag (addr.toNat + n.val - 1) = true →
    t = padErr addr.toNat n.val err s → (scratchGet t addr.toNat n.val).2 = false →
    exec (.scratchpadAccess ag addr ⟨.read n, err⟩ tag) s =
      .next (emit (.spData ag tag (scratchGet t addr.toNat n.val).1 false) t)) ∧
  (∀ (ag : Agent) (addr : BitVec 48) (bs : List (BitVec 8)) (tag : Nat) (err : SliceErr) (s : State), agentThere s ag = true →
    acquirePending s ag = false →
    0 < bs.length → mayScratch s ag addr.toNat = true → mayScratch s ag (addr.toNat + bs.length - 1) = true →
    exec (.scratchpadAccess ag addr ⟨.write bs, err⟩ tag) s =
      .next (emit (.done ag tag) (scratchPut addr.toNat bs false (padErr addr.toNat bs.length err s)))) ∧
  (∀ (ag : Agent) (addr : BitVec 48) (ty : AddTy) (op : AddOp) (mask : Fin 16) (d : BitVec 1024) (tag : Nat) (err : SliceErr)
    (s : State), agentThere s ag = true → acquirePending s ag = false → mayScratch s ag addr.toNat = true →
    mayScratch s ag (addr.toNat + (128 - addr.toNat % 128) - 1) = true →
    exec (.scratchpadAccess ag addr ⟨.add ty op mask d, err⟩ tag) s =
      .next (emit (.done ag tag) (scratchAdd addr.toNat ⟨ty, op⟩ ((maskSecs mask.val).map (fun i =>
        (i, BitVec.ofNat 256 (natBits (256 * i.val + 255) (256 * i.val) d.toNat), false)))
        (padErr addr.toNat (128 - addr.toNat % 128) err s)))) ∧
  (∀ (ag : Agent) (addr : BitVec 48) (acc : SpAccess) (tag : Nat) (err : SliceErr) (s : State), agentThere s ag = true →
    acquirePending s ag = false → mayScratch s ag addr.toNat = false →
    exec (.scratchpadAccess ag addr ⟨acc, err⟩ tag) s = .next (refuseAccess ag addr.toNat tag s))) ∧
  ((∀ (ag : Agent) (h : Half) (seg : Fin 2048) (v : BitVec 32) (new : Nat) (s : State),
    storeOk ag h .segMap seg v.toNat new s → segValueOk s seg new = true →
    exec (.segMapWrite ag h seg v) s = .next (stored ag h .segMap seg (rput .segMap seg new s))) ∧
  (∀ (ag : Agent) (h : Half) (seg : Fin 2048) (v : BitVec 32) (new : Nat) (s : State),
    storeOk ag h .segMap seg v.toNat new s → segValueOk s seg new = false →
    ∃ t, exec (.segMapWrite ag h seg v) s = .next t ∧ t.regs = s.regs ∧ t.mem = s.mem ∧ t.buf = s.buf) ∧
  (∀ (ag : Agent) (h : Half) (w : Fin 16) (v : BitVec 32) (new : Nat) (s : State),
    storeOk ag h .wayMap (16 * h.num + w) v.toNat new s →
    ∃ t, exec (.wayMapWrite ag h w v) s = .next t ∧ t.regs = (rput .wayMap (16 * h.num + w) new s).regs ∧
      t.mem = s.mem ∧ t.buf.frames = s.buf.frames ∧ t.buf.scratch = s.buf.scratch ∧
      (natBit 6 new = false → t.buf = s.buf)) ∧
  (∀ (h : Half) (w : Fin 16) (s : State) (t0 : Nat), hasHalf s h = true →
    s.buf.wayZero.find? (16 * h.num + w) = some t0 →
    ∃ t, exec (.wayZeroDone h w) s = .next t ∧ t.buf.wayZero = s.buf.wayZero.erase (16 * h.num + w) ∧ t.mem = s.mem ∧
      t.regs = s.regs ∧ (∀ e ∈ t.buf.scratch, ¬(e.1 / 2 ^ 28 = h.num ∧ e.1 / 2 ^ 17 % 16 = w.val)) ∧
      (∀ e ∈ s.buf.scratch, ¬(e.1 / 2 ^ 28 = h.num ∧ e.1 / 2 ^ 17 % 16 = w.val) → e ∈ t.buf.scratch)) ∧
  (∀ (ag : Agent) (h : Half) (f : Fin 16) (s : State), storeOk ag h .maintCommit (portKey h f.val) 1 1 s →
    groupPending s h (.maint f) = true →
    exec (.maintCommit ag h f) s = .next (stored ag h .maintCommit (portKey h f.val)
      (submitOp h f.val (groupApply h (.maint f) s)))))

/-- A maintenance port's operation acts line by line (R136, R140, R141, R144, R145, R148, R149). A step of the running
operation over one reachable line makes the line coherent, does what the operation's code does there, and goes to the
next line; where an entry it needs is not free it stays there and notes since when; a command for another code than
the operation's changes nothing. A finished operation writes its record, signals its cue and gives way to the next;
records of operations that found the queue full come before. -/
def Obligations.MaintenanceOperations : Prop :=
  (∀ (h : Half) (f : Fin 16) (code sl line pos : Nat) (cmd : Instr) (s s1 s2 : State) (o o2 : MaintOp), hasHalf s h = true →
    (code, cmd) ∈ ([(1, .prefetch h f 1), (2, .prefetchLock h f 1), (3, .flush h f 1), (4, .invalidate h f 1),
      (5, .flushInv h f 1), (6, .markDead h f 1)] : List (Nat × Instr)) →
    (maintAt s h f.val).run = some o → opCode o = code → opNext s h o = some (some (sl, line), pos) →
    (halfOf 128 sl = .h1 → farGone s = false) → opCoherent sl line code s = (true, s1) →
    (opLine sl line o s1 = some (o2, s2) →
      exec cmd s = .next (setMaint h f.val { maintAt s2 h f.val with
        run := some { o2 with pos := pos, blockedT := none } } s2)) ∧
    (opLine sl line o s1 = none →
      exec cmd s = .next (setMaint h f.val { maintAt s1 h f.val with
        run := some { o with blockedT := some (o.blockedT.getD s1.clock) } } s1))) ∧
  (∀ (h : Half) (f : Fin 16) (code n : Nat) (cmd : Instr) (s : State) (o : MaintOp), hasHalf s h = true →
    (code, cmd) ∈ ([(1, .prefetch h f n), (2, .prefetchLock h f n), (3, .flush h f n), (4, .invalidate h f n),
      (5, .flushInv h f n), (6, .markDead h f n)] : List (Nat × Instr)) →
    (maintAt s h f.val).run = some o → opCode o ≠ code → exec cmd s = .next s) ∧
  (∀ (h : Half) (f : Fin 16) (s t : State) (o : MaintOp), hasHalf s h = true → (maintAt s h f.val).late = [] →
    (maintAt s h f.val).run = some o → opNext s h o = none → opPending s o = [] → writeRecord h o s = (true, t) →
    exec (.maintRecord h f) s = .next (nextOp h f.val t)) ∧
  (∀ (h : Half) (f : Fin 16) (s : State) (o : MaintOp), hasHalf s h = true → (maintAt s h f.val).late = [] →
    (maintAt s h f.val).run = some o → opNext s h o = none → opPending s o = [] → o.noRec = true →
    exec (.maintRecord h f) s = .next (nextOp h f.val (maintCueSignal h o s))) ∧
  (∀ (h : Half) (f : Fin 16) (s : State), hasHalf s h = true → (maintAt s h f.val).late ≠ [] →
    exec (.maintRecord h f) s = .next (lateRecord h f.val s)) ∧
  (∀ (h : Half) (f : Fin 16) (s : State) (o : MaintOp), hasHalf s h = true → (maintAt s h f.val).run = some o →
    ((opPending s o).any (fun w => decide ((stackAt s (stackOfSlice w.sl)).fence ≠ 0))) = true →
    ∃ t, exec (.maintFailTimeout h f) s = .next t ∧ s.clock ≤ t.clock ∧ t.mem = s.mem ∧ t.regs = s.regs ∧ t.coh = s.coh ∧
      ∃ o', (maintAt t h f.val).run = some o' ∧ o.pos ≤ o'.pos ∧ (o.blockedT = none → o'.pos = o.pos) ∧ o.failed ≤ o'.failed ∧ o'.waitFor.Sublist o.waitFor)

/-- A channel performs the accesses of its queue (R163, R164, R165, R166, R168, R170). An open channel performs the n-th
access of its queue when its kind is the command's (a read, a write, or an add at the stack) and its arbitration
grants it, in order with the accesses of the same sector, and lets what waited at the slice go on; an access that is
not the one granted is not performed. A write-combining entry that reaches its age is flushed to the queue and written
when granted. A scrub read goes to the next sector of the channel. A channel that is closed performs nothing. -/
def Obligations.ChannelAccesses : Prop :=
  (∀ (c : Fin 1024) (n : Nat) (err : ReadErr) (s : State) (o : ChanOp) (d : Cand) (cmd : Instr) (kind : ChanKind → Bool),
    hasHalf s (chanHalf c) = true → (chanAt s c).q[n]? = some o → chanOpen s c = true → kind o.op = true →
    chanNext s c = some d →
    (cmd = .memorySectorRead c n err ∧ kind = isRead ∨ cmd = .memorySectorWrite c n err ∧ kind = isWrite ∨
      cmd = .memorySideAdd c n err ∧ kind = isAdd) →
    (d.idx = n → exec cmd s = .next (afterChan c (performNth c n err (setChan c { chanAt s c with
      arb := arbAfter (chanAt s c).arb (chanCands s c) d } s)))) ∧
    (d.idx ≠ n → exec cmd s = .next (afterChan c s))) ∧
  (∀ (c : Fin 1024) (n : Nat) (err : ReadErr) (s : State) (cmd : Instr), hasHalf s (chanHalf c) = true →
    chanOpen s c = false →
    (cmd = .memorySectorRead c n err ∨ cmd = .memorySectorWrite c n err ∨ cmd = .memorySideAdd c n err ∨
      cmd = .scrubRead c err) →
    exec cmd s = .next s) ∧
  (∀ (c : Fin 1024) (n : Nat) (err : ReadErr) (s : State) (w : WcbEnt), hasHalf s (chanHalf c) = true →
    (chanAt s c).wcb[n]? = some w →
    ∃ t, exec (.wcbAgeExpire c n err) s = .next t ∧ t = afterChan c (performGranted c
      ((chanAt (flushWcb c w.line w.sec (atTime (w.t + wcbAge s c) s)) c).q.length - 1) err
      (flushWcb c w.line w.sec (atTime (w.t + wcbAge s c) s)))) ∧
  (∀ (c : Fin 1024) (err : ReadErr) (s : State), hasHalf s (chanHalf c) = true → chanOpen s c = true →
    chanRoom s c 1 = true → (chanAt s c).scrubPos + 1 < 2 ^ 26 →
    let lc := lineOfIndex c (chanAt s c).scrubPos
    let t := enqueue c lc.1 lc.2 (.read .scrub)
      (flushWcb c lc.1 lc.2 (setChan c { chanAt s c with scrubPos := (chanAt s c).scrubPos + 1 } s))
    exec (.scrubRead c err) s = .next (performGranted c ((chanAt t c).q.length - 1) err t))

/-- Temperatures, refresh, the traffic test, holds and lost stacks (R153, R157, R158, R159, R160, R161, R162, R177, R178,
R180). A reading of a live stack is its temperature and may raise its highest; a reading above its band moves it to
the band of the reading, at 110 °C and above to thermal drain; two readings in a row of 108 °C or less let a drained
stack return 20 µs later, open again. A refresh moves on to the channel's next bank, a refresh management request is
counted; a stack whose dies report 16 dies of density 4 and no failed step comes into service; one that shows another
identity refuses the base and one that shows none is excluded; the traffic generator starts on an idle channel whose
range is not empty and stops when told. At a channel of a fenced stack with a read held the expiry of the hold answers
a state whose clock is no earlier. At a stack that is not fenced nothing changes. A trained stack that is not gone is
lost with the command that reports it lost, with a catastrophic temperature, 1 ms after its last reading when readings
fail, with the sixteenth command bus parity error in 1 ms, and with the third recalibration failure in a row; before
that the failures are counted. -/
def Obligations.StackHousekeepingAndLoss : Prop :=
  (((∀ (st : Fin 16) (t : TempC) (s : State), hasHalf s (stackHalf st) = true → stackLive s st = true →
    (stackAt s st).band ≠ 4 → (stackAt s st).band < bandOf t → bandOf t ≠ 4 →
    exec (.tempReading st t) s = .next (bandChange st (bandOf t) (setStack st { stackAt s st with
      temp := t, tempMax := max (stackAt s st).tempMax t, lastTempT := s.clock } s))) ∧
  (∀ (st : Fin 16) (t : TempC) (s : State), hasHalf s (stackHalf st) = true → stackLive s st = true →
    (stackAt s st).band ≠ 4 → (stackAt s st).band < bandOf t → bandOf t = 4 →
    exec (.tempReading st t) s = .next (thermalDrain st (setStack st { stackAt s st with
      temp := t, tempMax := max (stackAt s st).tempMax t, lastTempT := s.clock } s))) ∧
  (∀ (st : Fin 16) (s : State) (t : Int) (t1 : Nat), hasHalf s (stackHalf st) = true → (stackAt s st).ret = some (t, t1) →
    exec (.thermalReturn st) s = .next (resumeStack st (bandChange st (bandOf t) (setStack st { stackAt s st with
      ret := none, selfRefresh := false, fence := if (stackAt s st).fence = 1 then 0 else (stackAt s st).fence,
      holdFuncs := [] } (atTime (t1 + us 20) s))))) ∧
  (∀ (t : Int), bandOf t = if t ≤ 85 then 0 else if t ≤ 95 then 1 else if t ≤ 105 then 2 else if t < 110 then 3 else 4)) ∧
  ((∀ (c : Fin 1024) (s : State), hasHalf s (chanHalf c) = true → stackLive s (stackOfChan c) = true →
    (stackAt s (stackOfChan c)).selfRefresh = false →
    exec (.perBankRefresh c) s = .next (setChan c { chanAt s c with
      refBank := ((chanAt s c).refBank + 1) % 64, refreshes := (chanAt s c).refreshes + 1 } s)) ∧
  (∀ (c : Fin 1024) (s : State), hasHalf s (chanHalf c) = true → stackLive s (stackOfChan c) = true →
    exec (.refreshManagementRequest c) s = .next (bumpWrap .chRfm c 31 0 1 s)) ∧
  (∀ (st : Fin 16) (rep : TrainReport) (s : State), hasHalf s (stackHalf st) = true →
    (stackAt s st).trained = false → (stackAt s st).excluded = false → (stackAt s st).lost = false → s.ident.refused = false →
    rep.ident = some (16, 4) → rep.failed = none →
    ∃ t, exec (.stackTrain st rep) s = .next t ∧ (stackAt t st).trained = true ∧
      ∀ i < 64, (chanAt t (64 * st + i)).inService = true) ∧
  (∀ (st : Fin 16) (rep : TrainReport) (s : State), hasHalf s (stackHalf st) = true →
    (stackAt s st).trained = false → (stackAt s st).excluded = false → (stackAt s st).lost = false → s.ident.refused = false → rep.ident = none →
    ∃ t, exec (.stackTrain st rep) s = .next t ∧ (stackAt t st).excluded = true ∧ (stackAt t st).fence = 3) ∧
  (∀ (ag : Agent) (c : Fin 1024) (s : State), storeOk ag (chanHalf c) .tgGo c 1 1 s → (chanAt s c).tg.run = false →
    tgMode s c ≠ 0 → rget s .tgFirst c ≤ rget s .tgLast c →
    (tgMode s c = 1 → (stackAt s (stackOfChan c)).fence = 2) →
    exec (.tgStart ag c) s = .next (stored ag (chanHalf c) .tgGo c
      (setChan c { chanAt s c with tg := { TgSt.init with run := true } } s))) ∧
  (∀ (ag : Agent) (c : Fin 1024) (s : State), storeOk ag (chanHalf c) .tgGo c 2 2 s →
    ∃ t, exec (.tgStop ag c) s = .next (stored ag (chanHalf c) .tgGo c t) ∧ (chanAt t c).tg.run = false ∧
      ((chanAt s c).tg.run = false → t = s)) ∧
  (∀ (c : Fin 1024) (f : TgFindings) (s : State), hasHalf s (chanHalf c) = true → (chanAt s c).tg.run = true →
    rbits s .tgPasses c 15 0 ≠ 0 →
    ∃ t, exec (.tgPassesDone c f) s = .next t ∧ (chanAt t c).tg.run = false ∧ (chanAt t c).tg.done = true ∧
      (chanAt t c).tg.pass = rbits s .tgPasses c 15 0))) ∧
  (((∀ (c : Fin 1024) (s : State), hasHalf s (chanHalf c) = true → (stackAt s (stackOfChan c)).fence = 0 →
    exec (.holdExpire c) s = .next s) ∧
  (∀ (c : Fin 1024) (s : State) (o : ChanOp), hasHalf s (chanHalf c) = true →
    ((stackAt s (stackOfChan c)).fence = 1 ∨ (stackAt s (stackOfChan c)).fence = 2) → o ∈ (chanAt s c).q →
    isRead o.op = true →
    ∃ t, exec (.holdExpire c) s = .next t ∧ s.clock ≤ t.clock)) ∧
  ((∀ (st : Fin 16) (s : State), hasHalf s (halfOfStack st) = true →
    exec (.stackLost st) s = .next (degradeStack st.val 0 s) ∧
    exec (.catastrophicTemp st) s = .next (degradeStack st.val 4 s)) ∧
  (∀ (st : Fin 16) (s : State), hasHalf s (halfOfStack st) = true → (stackAt s st).fence ≠ 3 →
    (stackAt s st).trained = true →
    exec (.stackTempReadFail st) s = .next (degradeStack st.val 3 (atTime ((stackAt s st).lastTempT + ms 1) s))) ∧
  (∀ (c : Fin 1024) (ok : Bool) (s : State), hasHalf s (halfOf 512 c) = true → (chanAt s c).inService = true →
    (stackAt s (stackOfChan c)).fence ≠ 3 →
    exec (.recalibration c ok) s = .next (if ok || decide ((chanAt s c).recalFails < 2) then noteRecal c ok s
      else degradeStack (stackOfChan c) 1 (noteRecal c ok s))) ∧
  (∀ (c : Fin 1024) (s : State), hasHalf s (halfOf 512 c) = true → (chanAt s c).inService = true →
    (stackAt s (stackOfChan c)).fence ≠ 3 →
    ((chanAt s c).parTimes.filter (fun t => decide (s.clock < t + ms 1))).length < 15 →
    ∃ t, exec (.commandBusParityError c) s = .next t ∧ t.mem.dram = s.mem.dram ∧ t.coh = s.coh ∧
      (chanAt t c).parTimes = (chanAt s c).parTimes.filter (fun t => decide (s.clock < t + ms 1)) ++ [s.clock])))

/-- A request arrives at its home (R25, R28, R31, R183, R186, R187, R197). Each of the twelve requests of Continuity that
passes the checks is taken up by the home slice of its line, after the Slate point that it may bring. A member's
request gets ERROR with NOT_MEMBER (1) when the group is closed or the member is not listed, ADDRESS (3) when the GA
names another base, NOT_EXPORTED (2) when its segment is not open, and is recorded when it names the configuration
space. A guest's request for memory outside its function, or for a copy when its site is not attached as a coherent
agent, gets ADDRESS and is recorded; one that must wait for its earlier accesses changes nothing; its add to the other
half's memory may combine in a far cache. -/
def Obligations.HomeRequestsAreChecked : Prop :=
  ∀ (hd : CohHdr) (mask : Fin 16) (secs : List (Fin 4 × SecWr)) (ro : RedOp) (part : LinePart) (a : Atomic)
    (off : Fin 128) (keep : Bool) (kind : HKind) (cmd : Instr) (s : State),
    (kind, cmd) ∈ ([(.rdS, .rdS hd), (.rdX, .rdX hd), (.upgrade, .upgrade hd), (.rdNc mask.val, .rdNc hd mask),
      (.wrNc secs, .wrNc hd secs), (.addNc ro part, .addNc hd ro part), (.joinA ro, .joinA hd ro),
      (.atomic a off.val, .atomic hd a off), (.wb keep part, .wb hd keep part), (.mergeA ro part, .mergeA hd ro part),
      (.evictE, .evictE hd), (.renew, .renew hd)] : List (HKind × Instr)) →
    holderThere s hd.src = true →
    let dpa := gaDpa (gaLine hd.addr)
    let s1 := epochTrigger hd dpa s
    let refusal := fun (c : Nat) (t : State) => answerError (mkReq (some hd) none kind 0 0 t.clock false) c t
    (∀ (m : Fin 4096) (p : Nat × Nat), hd.src = .member m → groupOpen s = true → rbit s .member m.val 16 = true →
      idOk s = true → gaDev hd.addr = ownDev s → region s dpa = .memory → rbit s .segExport (dpa / 2 ^ 30) 0 = true →
      inMapped s dpa = true → homeOf s dpa ≠ none → homeOf s1 dpa = some p →
      exec cmd s = .next (settleSlates (homeArrive (holderReq hd kind p s1.clock false) s1))) ∧
    (∀ (m : Fin 4096), hd.src = .member m → (groupOpen s = false ∨ rbit s .member m.val 16 = false) →
      exec cmd s = .next (refusal 1 s)) ∧
    (∀ (m : Fin 4096), hd.src = .member m → groupOpen s = true → rbit s .member m.val 16 = true →
      (idOk s = false ∨ gaDev hd.addr ≠ ownDev s) → exec cmd s = .next (refusal 3 s)) ∧
    (∀ (m : Fin 4096), hd.src = .member m → groupOpen s = true → rbit s .member m.val 16 = true →
      idOk s = true → gaDev hd.addr = ownDev s →
      (region s dpa ≠ .memory ∨ rbit s .segExport (dpa / 2 ^ 30) 0 = false) →
      exec cmd s = .next (refusal 2
        (if region s dpa = .config then cfgEvent (.remote (memberDev s m.val)) dpa 25 s else s))) ∧
    (∀ (g : Fin 4) (p : Nat × Nat) (ag : Agent), hd.src = .site g → ag = .guest g hd.func →
      inFuncMem s (siteFunc s g.val) dpa = true → homeOf s dpa = some p →
      (wantsCopy kind = true → (s.zor.sites.getD g.val SiteSt.init).st = 2 ∧
        (s.zor.sites.getD g.val SiteSt.init).coherent = true) →
      (guestWaits s hd kind = true → exec cmd s = .next s) ∧
      (guestWaits s hd kind = false → (∀ ro l, kind = .addNc ro l → farCombines s ag dpa = false) →
        exec cmd s = .next (settleSlates (homeArrive (holderReq hd kind p s.clock false) s))) ∧
      (guestWaits s hd kind = false → ∀ ro l, kind = .addNc ro l → farCombines s ag dpa = true →
        exec cmd s = .next (settleSlates (farCombine ag dpa ro l hd.tag.val s)))) ∧
    (∀ (g : Fin 4), hd.src = .site g → (inFuncMem s (siteFunc s g.val) dpa = false ∨ wantsCopy kind = true ∧
        ((s.zor.sites.getD g.val SiteSt.init).st ≠ 2 ∨ (s.zor.sites.getD g.val SiteSt.init).coherent = false)) →
      exec cmd s = .next (refusal 3 (cfgEvent (.guest g hd.func) dpa 25 s))) ∧
    (∀ (p : Nat × Nat), hd.src = .xFar → inMapped s dpa = true → homeOf s dpa = some p →
      exec cmd s = .next (settleSlates (homeArrive (holderReq hd kind p s.clock false) s)))

/-- What a snoop does to a far cache line (R186, R197, R207, R212, R213, R215). INV drops a line in S and leaves any
other; RECALL drops the line and returns M data or a partial; DOWNGRADE leaves E and M as S, with the data of M;
COLLECT drops a line in A and returns its partial. Each is answered; a line that is not there, or whose lease has
ended, is answered without data. While a message of the line that its home has not acknowledged is out, the answer
says PENDING. A snoop from a device that is no member gets ERROR with NOT_MEMBER and acts on no line. -/
def Obligations.SnoopsAtAFarCache : Prop :=
  (∀ (h : Half) (ga : BitVec 64) (sn : SnoopRef) (s t : State), hasHalf s h = true →
    (∀ d, sn.dev = some d → groupOpen s = true ∧ (memberOf s d).isSome = true) → t = dropExpired h ga s →
    (∀ (k : Nat) (l : FarLine), farFind t h ga = some (k, l) → l.st = .s →
      exec (.inv h ga sn) s = .next (answerSnoop sn ga (some l) 0x35 [] 0 false (putFar k none t))) ∧
    (∀ (k : Nat) (l : FarLine), farFind t h ga = some (k, l) → l.st ≠ .s →
      exec (.inv h ga sn) s = .next (answerSnoop sn ga (some l) 0x35 [] 0 (releaseOut t h ga) t)) ∧
    (releaseOut t h ga = false →
      (∀ (k : Nat) (l : FarLine), farFind t h ga = some (k, l) → l.st = .m →
        exec (.recall h ga sn) s = .next (answerSnoop sn ga (some l) 0x36 (lineSecs l.data) 0 false (putFar k none t)) ∧
        exec (.downgrade h ga sn) s = .next (answerSnoop sn ga (some l) 0x36 (lineSecs l.data) 0 false
          (putFar k (some { l with st := .s, old := false }) t))) ∧
      (∀ (k : Nat) (l : FarLine), farFind t h ga = some (k, l) → l.st = .e →
        exec (.recall h ga sn) s = .next (answerSnoop sn ga (some l) 0x35 [] 0 false (putFar k none t)) ∧
        exec (.downgrade h ga sn) s =
          .next (answerSnoop sn ga (some l) 0x35 [] 0 false (putFar k (some { l with st := .s }) t))) ∧
      (∀ (k : Nat) (l : FarLine), farFind t h ga = some (k, l) → l.st = .s →
        exec (.recall h ga sn) s = .next (answerSnoop sn ga (some l) 0x35 [] 0 false (putFar k none t))) ∧
      (∀ (k : Nat) (l : FarLine) (ro : RedOp), farFind t h ga = some (k, l) → l.st = .a ro →
        exec (.collect h ga sn) s =
          .next (answerSnoop sn ga (some l) 0x36 (lineSecs l.data) (redopCode ro) false (putFar k none t)) ∧
        exec (.recall h ga sn) s =
          .next (answerSnoop sn ga (some l) 0x36 (lineSecs l.data) (redopCode ro) false (putFar k none t))) ∧
      (farFind t h ga = none →
        exec (.inv h ga sn) s = .next (answerSnoop sn ga none 0x35 [] 0 false t) ∧
        exec (.recall h ga sn) s = .next (answerSnoop sn ga none 0x35 [] 0 false t) ∧
        exec (.downgrade h ga sn) s = .next (answerSnoop sn ga none 0x35 [] 0 false t) ∧
        exec (.collect h ga sn) s = .next (answerSnoop sn ga none 0x35 [] 0 false t))) ∧
    (releaseOut t h ga = true → ∀ l, l = (farFind t h ga).map Prod.snd →
      exec (.recall h ga sn) s = .next (answerSnoop sn ga l 0x35 [] 0 true (match farFind t h ga with
        | some (k, _) => putFar k none t
        | none => t)) ∧
      exec (.downgrade h ga sn) s = .next (answerSnoop sn ga l 0x35 [] 0 true t) ∧
      exec (.collect h ga sn) s = .next (answerSnoop sn ga l 0x35 [] 0 true t))) ∧
  (∀ (h : Half) (ga : BitVec 64) (sn : SnoopRef) (d : BitVec 16) (cmd : Instr) (s : State), hasHalf s h = true →
    sn.dev = some d → (groupOpen s = false ∨ memberOf s d = none) →
    cmd ∈ ([.inv h ga sn, .recall h ga sn, .downgrade h ga sn, .collect h ga sn] : List Instr) →
    exec cmd s = .next (sendCoh (.dev d)
      { blankCoh with code := 0x3A, tag := sn.tag.val, take := sn.take, addr := ga, cause := 1 } s))

/-- An answer ends the request that it names (R190, R199, R205, R206, R211, R213, R222). An answer whose tag and take name
an outstanding request ends it or moves it on: DATA with a state installs the line, GRANT of an UPGRADE gives E to the
line held, GRANT of a JOIN_A a line in A, ACK_LOCAL and ACK_GLOBAL report how far a write is performed, ATOMIC_RESULT
brings the old value, ACK and NACK end a release or a renewal, RETRY resends in 1 µs, ERROR and a timeout fail it. -/
def Obligations.AnswersAtAFarCache : Prop :=
  (∀ (h : Half) (tag : Fin 4096) (take : BitVec 8) (secs : LinePart) (lease : Nat) (s : State) (r : FarReq),
    hasHalf s h = true → reqAt s h tag = some r → r.take = take →
    exec (.data h tag take .s secs lease) s =
      .next (farReplay h (farInstall h r .s (secsLine secs) lease (putReq h tag none s))) ∧
    exec (.data h tag take .e secs lease) s =
      .next (farReplay h (farInstall h r .e (secsLine secs) lease (putReq h tag none s)))) ∧
  (∀ (h : Half) (tag : Fin 4096) (take : BitVec 8) (lease k : Nat) (s : State) (r : FarReq) (l : FarLine),
    hasHalf s h = true → reqAt s h tag = some r → r.take = take → r.code = 0x03 →
    farFind (putReq h tag none s) h r.ga = some (k, l) →
    exec (.grant h tag take false lease) s =
      .next (farReplay h (farInstall h r .e l.data lease (putReq h tag none s)))) ∧
  (∀ (h : Half) (tag : Fin 4096) (take : BitVec 8) (lease : Nat) (s : State) (r : FarReq) (ag : Agent) (ro : RedOp)
    (ps : LinePart) (rtag : Nat), hasHalf s h = true → reqAt s h tag = some r → r.take = take → r.code = 0x07 →
    r.why = some (.access ag (.add ro ps) rtag) →
    exec (.grant h tag take false lease) s = .next (farReplay h
      (farInstall h r (.a ro) (Quad.all (identitySec ro, false)) lease (putReq h tag none s)))) ∧
  (∀ (h : Half) (tag : Fin 4096) (take : BitVec 8) (s u : State) (r : FarReq) (ag : Agent) (ws : List (Fin 4 × SecWr))
    (rtag : Nat), hasHalf s h = true → reqAt s h tag = some r → r.take = take →
    r.why = some (.access ag (.write ws) rtag) → u = farDone ag rtag s → gaOwn u r.ga = false →
    exec (.ackLocal h tag take) s = .next (putReq h tag (some { r with ackedLocal := true }) u)) ∧
  (∀ (h : Half) (tag : Fin 4096) (take : BitVec 8) (s : State) (r : FarReq) (key : Nat), hasHalf s h = true →
    reqAt s h tag = some r → r.take = take → r.why = some (.line key) → gaOwn s r.ga = false →
    exec (.ackLocal h tag take) s = .next (putReq h tag (some { r with ackedLocal := true }) s) ∧
    exec (.ackGlobal h tag take) s = .next (farReplay h (putReq h tag none s)) ∧
    exec (.nack h tag take) s = .next (farReplay h (putReq h tag none s)) ∧
    exec (.retry h tag take) s = .next (putReq h tag (some { r with retryAt := some (s.clock + us 1) }) s) ∧
    (r.code ≠ 0x0C → exec (.ack h tag take) s = .next (farReplay h (putReq h tag none s)))) ∧
  (∀ (h : Half) (tag : Fin 4096) (take : BitVec 8) (old : BitVec 64) (cause : BitVec 4) (s : State) (r : FarReq)
    (ag : Agent) (op : FarOp) (rtag : Nat), hasHalf s h = true → reqAt s h tag = some r → r.take = take →
    r.why = some (.access ag op rtag) →
    exec (.atomicResult h tag take old) s =
      .next (emit (.atomOld ag rtag old) (putReq h tag (some { r with result := true }) s)) ∧
    exec (.error h tag take cause) s = .next (reqFails h tag r cause.toNat s)) ∧
  (∀ (h : Half) (tag : Fin 4096) (s : State) (r : FarReq) (t : Nat), hasHalf s h = true → reqAt s h tag = some r →
    r.retryAt = some t →
    exec (.retryResend h tag) s = .next (sendCoh (farHome (atTime t s) r.ga) (fullMsg tag r)
      (putReq h tag (some { r with retryAt := none }) (atTime t s)))) ∧
  (∀ (h : Half) (tag : Fin 4096) (s : State) (r : FarReq), hasHalf s h = true → reqAt s h tag = some r →
    exec (.reqTimeout h tag) s = .next (reqFails h tag r 16 (atTime (r.sentT + reqTimeoutLen s h) s)))

/-- A message whose take is not current changes nothing but the count of stale messages (R222). An answer whose tag has no
outstanding request, or whose take differs from its request's, leaves the far cache, the requests, the directory,
memory, the cues and the queues as they were: it is counted, and the first in 1 ms recorded. The same holds of an
answer to a snoop whose tag or take names none. -/
def Obligations.StaleAnswersAreDiscarded : Prop :=
  (∀ (h : Half) (tag : Fin 4096) (take : BitVec 8) (g : Granted) (secs : LinePart) (lease : Nat) (nc : Bool)
    (old : BitVec 64) (cause : BitVec 4) (cmd : Instr) (s : State), hasHalf s h = true →
    cmd ∈ ([.data h tag take g secs lease, .grant h tag take nc lease, .ackLocal h tag take, .ackGlobal h tag take,
      .atomicResult h tag take old, .ack h tag take, .nack h tag take, .retry h tag take,
      .error h tag take cause] : List Instr) →
    (∀ r, reqAt s h tag = some r → r.take ≠ take) →
    ∃ t, exec cmd s = .next t ∧ t.coh.far = s.coh.far ∧ t.coh.reqs = s.coh.reqs ∧ t.coh.dir = s.coh.dir ∧
      t.coh.txs = s.coh.txs ∧ t.mem = s.mem ∧ t.cues = s.cues ∧ t.dolly = s.dolly ∧ t.fab = s.fab ∧ t.buf = s.buf ∧
      t.out = s.out ∧ rbits t .staleDiscards h.num 31 0 = min (2 ^ 32 - 1) (rbits s .staleDiscards h.num 31 0 + 1)) ∧
  (∀ (sl : Fin 256) (tag : Fin 4096) (take : BitVec 8) (src : Holder) (pend : Bool) (ro : Option RedOp)
    (secs : LinePart) (func : Fin 16) (epoch : Bool) (cmd : Instr) (s : State), hasHalf s (halfOf 128 sl) = true →
    (cmd = .snoopAck sl tag take ⟨src, func, epoch⟩ pend ∨ cmd = .snoopData sl tag take ⟨src, func, epoch⟩ ro secs) →
    (∀ sn, s.coh.snoops.find? (4096 * sl.val + tag.val) = some sn → sn.take ≠ take) →
    ∃ t, exec cmd s = .next t ∧ t.coh.far = s.coh.far ∧ t.coh.snoops = s.coh.snoops ∧ t.coh.dir = s.coh.dir ∧
      t.coh.txs = s.coh.txs ∧ t.mem = s.mem ∧ t.cues = s.cues ∧ t.dolly = s.dolly ∧ t.buf = s.buf ∧ t.out = s.out)

/-- Answers of holders, deadlines and collections at the home (R197, R208, R209, R210, R212, R213, R215, R216). An answer
of a holder that the line's transaction waits for takes the holder off it and drives the transaction on; one that says
PENDING leaves it waiting; M data is written and a partial merged first, unless a Slate holds the answer. A member's
deadline that passes loses its copy; the limit of a collection ends it. -/
def Obligations.SnoopAnswersAtTheHome : Prop :=
  (∀ (sl : Fin 256) (tag : Fin 4096) (take : BitVec 8) (src : Holder) (pend : Bool) (func : Fin 16) (epoch : Bool)
    (s s1 : State) (sn : SnoopOut), hasHalf s (halfOf 128 sl) = true → s1 = answerPoint sl tag take src func epoch s →
    s1.coh.snoops.find? (4096 * sl.val + tag.val) = some sn → sn.take = take → waitsFor s1 sl sn.line src = true →
    exec (.snoopAck sl tag take ⟨src, func, epoch⟩ pend) s =
      .next (settleSlates (if pend then s1 else advanceTx sl sn.line (holderDone sl sn.line src sn.code s1)))) ∧
  (∀ (sl : Fin 256) (tag : Fin 4096) (take : BitVec 8) (src : Holder) (ro : Option RedOp) (secs : LinePart) (func : Fin 16)
    (epoch : Bool) (s s1 s2 : State) (sn : SnoopOut) (t : HomeTx) (r : HReq), hasHalf s (halfOf 128 sl) = true →
    s1 = answerPoint sl tag take src func epoch s →
    s1.coh.snoops.find? (4096 * sl.val + tag.val) = some sn → sn.take = take → waitsFor s1 sl sn.line src = true →
    txAt s1 sl sn.line = some t → t.discard = false → t.why = .request →
    r = mkReq (some (answerHdr s1 sl sn.line tag take src func epoch)) none (.snoopData tag take ro secs) sl sn.line
      s1.clock false →
    pointHolds s1 r = none → slateGate r s1 = some s2 →
    exec (.snoopData sl tag take ⟨src, func, epoch⟩ ro secs) s =
      .next (settleSlates (advanceTx sl sn.line (holderDone sl sn.line src sn.code (performCopy r (match ro with
        | some ro => mergePart sl sn.line ro secs s2
        | none => mergeData sl sn.line secs s2)))))) ∧
  (∀ (sl : Fin 256) (line : Fin 67108864) (m : Fin 4096) (s : State) (t : HomeTx) (d : Nat),
    hasHalf s (halfOf 128 sl) = true → txAt s sl line = some t → answerHeld s sl line (.member m) = false →
    (List.find? (fun p : Holder × Nat => decide (p.1 = .member m)) t.waits) = some (.member m, d) →
    exec (.leaseDeadline sl line m) s = .next (settleSlates (holderLost sl line (.member m) m.val (atTime d s)))) ∧
  (∀ (sl : Fin 256) (line : Fin 67108864) (s : State) (t : HomeTx), hasHalf s (halfOf 128 sl) = true →
    txAt s sl line = some t → t.why = .rpCollect →
    exec (.rpCollectTimeout sl line) s = .next (settleSlates (advanceTx sl line (putTx sl line (some { t with waits := [] })
      (atTime (t.waits.foldl (fun m p => max m p.2) 0) s)))))

/-- A far cache gives up or loses a line, and takes an agent's access (R30, R184, R191, R207). At the end of its lease a
line of remote memory is dropped, and a loss of M data or of a partial is counted; before that, in time, the line is
given up. Lines of the other half have no lease. An access to remote memory goes to the far cache of its line; one
that its order makes wait changes nothing, and one without a valid identifier is refused. -/
def Obligations.LeasesOfAFarCache : Prop :=
  (∀ (h : Half) (set : Fin 4096) (way : Fin 16) (s : State) (l : FarLine), hasHalf s h = true →
    farAt s (farKey h set way) = some l → gaOwn s l.ga = false →
    exec (.leaseEnd h set way) s = .next (match l.st with
      | .m => bumpSat .leaseLosses h.num 31 0 1 (putFar (farKey h set way) none (atTime l.lease s))
      | .a _ => bumpSat .leaseLosses h.num 31 0 1 (putFar (farKey h set way) none (atTime l.lease s))
      | _ => putFar (farKey h set way) none (atTime l.lease s)) ∧
    exec (.leaseGiveUp h set way) s = .next (giveUp h (farKey h set way) l (atTime (l.lease - l.leaseLen * 160 + 1) s)).1) ∧
  (∀ (h : Half) (set : Fin 4096) (way : Fin 16) (s : State) (l : FarLine), hasHalf s h = true →
    farAt s (farKey h set way) = some l → gaOwn s l.ga = true →
    exec (.leaseEnd h set way) s = .next s ∧ exec (.leaseGiveUp h set way) s = .next s) ∧
  (∀ (ag : Agent) (ga : BitVec 64) (op : FarOp) (rtag : Nat) (s : State), agentThere s ag = true →
    orderWaits s ag (opOrder op).1 (opOrder op).2 = false → idOk s = true → gaOwn s ga = false → groupOpen s = true →
    exec (.farCacheAccess ag ga op rtag .none) s = .next (farCacheOp (farHalf s ga) ag ga op rtag s)) ∧
  (∀ (ag : Agent) (ga : BitVec 64) (op : FarOp) (rtag : Nat) (s : State), agentThere s ag = true →
    orderWaits s ag (opOrder op).1 (opOrder op).2 = false → idOk s = true → gaOwn s ga = false → groupOpen s = false →
    exec (.farCacheAccess ag ga op rtag .none) s = .next (farFail ag ((agentFunc s ag).getD 0) op rtag ga 0 s)) ∧
  (∀ (ag : Agent) (ga : BitVec 64) (op : FarOp) (rtag : Nat) (s : State), agentThere s ag = true →
    orderWaits s ag (opOrder op).1 (opOrder op).2 = false → idOk s = false →
    exec (.farCacheAccess ag ga op rtag .none) s = .next (farRefuse ag ga rtag s)) ∧
  (∀ (ag : Agent) (ga : BitVec 64) (op : FarOp) (rtag : Nat) (err : SliceErr) (s : State), agentThere s ag = true →
    orderWaits s ag (opOrder op).1 (opOrder op).2 = true → exec (.farCacheAccess ag ga op rtag err) s = .next s)

/-- The steps of a Slate (R225, R226, R231, R232). An armed Slate reaches its point at the barrier's departure or with the
first message of a participant from the other epoch: partials of the other half are merged, lines in M and A homed on
participants marked OLD and the guest dies' copies snooped, and the epoch flips as soon as no guest die holds a line
of the Slate in E, M or A; 0.5 ms after the flushed notices are in it streams; when every granule is done and the
collective has departed twice it is COMPLETE. A Slate that is not armed reaches no point. -/
def Obligations.SlateSteps : Prop :=
  (∀ (f : Fin 16) (m : Fin 4096) (s : State), (slateAt s f).st = .armed → (slateAt s f).devices.contains (memberDev s m.val) = true →
    exec (.slatePoint f .barrier) s = .next (reachPoint f s) ∧ exec (.slatePoint f (.message m)) s = .next (reachPoint f s)) ∧
  (∀ (f : Nat) (s u : State), (slateAt s f).st = .armed → (slateAt s f).pointing = false →
    u = markOld f (mergeXPartials f s) →
    reachPoint f s = tryFlip f (setSlate f { slateAt u f with pointing := true } u)) ∧
  (∀ (f : Nat) (s : State), (slateAt s f).pointing = true → tryFlip f s =
    if slateGuestLines (snoopSlateGuests f s) f = [] then flipEpoch f (snoopSlateGuests f s) else snoopSlateGuests f s) ∧
  (∀ (f : Fin 16) (s : State), (slateAt s f).st ≠ .armed → exec (.slatePoint f .barrier) s = .next s) ∧
  (∀ (f : Fin 16) (s : State) (t : Nat), (slateAt s f).st = .pointed → (slateAt s f).flushedAt = some t →
    exec (.slateStreamStart f) s = .next (setSlate f { slateAt s f with st := .streaming } (atTime (t + 5000) s))) ∧
  (∀ (f : Fin 16) (s : State), (slateAt s f).st = .streaming → slateAllDone s f = true → 2 ≤ (slateAt s f).round →
    exec (.slateComplete f) s = .next (setSlate f { slateAt s f with st := .complete, grans := [], copies := [] } s)) ∧
  (∀ (f : Fin 16) (s : State), (slateAt s f).st ≠ .streaming → exec (.slateComplete f) s = .next s)

/-- Enable, disable, stop, resume and the doorbell (R239, R241, R242). A store to DQ_CTL that is performed enables a
disabled queue, disables, stops or resumes an enabled one, as its bits say. A doorbell sets TAIL; when it offers more
descriptors than the ring holds the queue enters ERROR with BAD_DESC (4) in ERR_STATUS and HEAD as it was, and memory
is as before. A store to DQ_REC_HEAD frees records, and a queue in RECFULL with room goes on. -/
def Obligations.QueueRegisterWrites : Prop :=
  (∀ (ag : Agent) (h : Half) (q : Fin 256) (v : BitVec 32) (new : Nat) (s : State),
    storeOk ag h .dqCtl (queueNum h q) (v.toNat ||| 1) new s → natBit 0 new = true → natBit 2 new = false →
    natBit 3 new = false → (queueAt s (queueNum h q)).st = .disabled →
    exec (.dqEnable ag h q v) s = .next (stored ag h .dqCtl (queueNum h q)
      (enableQueue (queueNum h q) (rput .dqCtl (queueNum h q) (setBits 3 2 0 new) s)))) ∧
  (∀ (ag : Agent) (h : Half) (q : Fin 256) (new : Nat) (s : State),
    storeOk ag h .dqCtl (queueNum h q)
      ((rget s .dqCtl (queueNum h q) ||| 0) - (rget s .dqCtl (queueNum h q) &&& 1)) new s → natBit 0 new = false →
    natBit 2 new = false → natBit 3 new = false → (queueAt s (queueNum h q)).st ≠ .disabled →
    exec (.dqDisable ag h q) s = .next (stored ag h .dqCtl (queueNum h q)
      (disableQueue (queueNum h q) (rput .dqCtl (queueNum h q) (setBits 3 2 0 new) s)))) ∧
  (∀ (ag : Agent) (h : Half) (q : Fin 256) (new : Nat) (s : State),
    storeOk ag h .dqCtl (queueNum h q)
      ((rget s .dqCtl (queueNum h q) ||| 4) - (rget s .dqCtl (queueNum h q) &&& 0)) new s → natBit 0 new = true →
    natBit 2 new = true → natBit 3 new = false → (queueAt s (queueNum h q)).st ≠ .disabled →
    exec (.dqStop ag h q) s = .next (stored ag h .dqCtl (queueNum h q)
      (stopQueue (queueNum h q) (rput .dqCtl (queueNum h q) (setBits 3 2 0 new) s)))) ∧
  (∀ (ag : Agent) (h : Half) (q : Fin 256) (new : Nat) (s : State),
    storeOk ag h .dqCtl (queueNum h q)
      ((rget s .dqCtl (queueNum h q) ||| 8) - (rget s .dqCtl (queueNum h q) &&& 0)) new s → natBit 0 new = true →
    natBit 2 new = false → natBit 3 new = true → (queueAt s (queueNum h q)).st ≠ .disabled →
    exec (.dqResume ag h q) s = .next (stored ag h .dqCtl (queueNum h q)
      (resumeQueue (queueNum h q) (rput .dqCtl (queueNum h q) (setBits 3 2 0 new) s)))) ∧
  (∀ (ag : Agent) (h : Half) (q : Fin 256) (tail : BitVec 32) (new : Nat) (s : State),
    storeOk ag h .dqTail (queueNum h q) tail.toNat new s → (queueAt s (queueNum h q)).st ≠ .disabled →
    ringOverrun { queueAt s (queueNum h q) with tail := BitVec.ofNat 32 new } = false →
    exec (.doorbell ag h q tail) s = .next (stored ag h .dqTail (queueNum h q) (settleQueue (queueNum h q)
      (setQueue (queueNum h q) { queueAt s (queueNum h q) with tail := BitVec.ofNat 32 new }
        (rput .dqTail (queueNum h q) new s))))) ∧
  (∀ (ag : Agent) (h : Half) (q : Fin 256) (tail : BitVec 32) (new : Nat) (s : State),
    storeOk ag h .dqTail (queueNum h q) tail.toNat new s → (queueAt s (queueNum h q)).st ≠ .disabled →
    ringOverrun { queueAt s (queueNum h q) with tail := BitVec.ofNat 32 new } = true →
    ∃ t, exec (.doorbell ag h q tail) s = .next t ∧ (queueAt t (queueNum h q)).st = .error ∧
      (queueAt t (queueNum h q)).errStatus = 4 ∧
      (queueAt t (queueNum h q)).errIndex = (queueAt s (queueNum h q)).head.toNat % 2 ^ 16 ∧
      (queueAt t (queueNum h q)).head = (queueAt s (queueNum h q)).head ∧ t.mem = s.mem ∧ t.coh = s.coh) ∧
  (∀ (ag : Agent) (h : Half) (q : Fin 256) (v : BitVec 32) (new : Nat) (s : State),
    storeOk ag h .dqRecHead (queueNum h q) v.toNat new s → (queueAt s (queueNum h q)).st ≠ .recfull →
    exec (.dqRecHeadWrite ag h q v) s = .next (stored ag h .dqRecHead (queueNum h q)
      (setQueue (queueNum h q) { queueAt s (queueNum h q) with recHead := BitVec.ofNat 32 new }
        (rput .dqRecHead (queueNum h q) new s))))

/-- The read of a descriptor from its slot (R239, R240, R243, R256). A queue that runs, has no descriptor that waits to
start and has one offered reads it from slot HEAD mod 2^RING_LOG2: a good one is put behind the active ones and starts
when it may; one whose fields are not allowed ends with BAD_DESC, one whose cue is not the function's with the cue
status; a read outside the function's memory ends with ADDRESS. A queue with none offered, or four active, changes
nothing. -/
def Obligations.DescriptorsAreRead : Prop :=
  (∀ (h : Half) (q : Fin 256) (s t : State) (f : Nat) (b : List Byte) (x : QueueSt), hasHalf s h = true →
    x = queueAt s (queueNum h q) → queueRuns x = true → x.head ≠ x.tail → x.active = [] →
    engineActive s (queueNum h q) < 16 → queueFunc s (queueNum h q) = some f →
    extentIn s f (x.ring + 64 * (x.head.toNat % 2 ^ x.ringLog)) 64 = true →
    engFenced s (queueAgent (queueNum h q)) (x.ring + 64 * (x.head.toNat % 2 ^ x.ringLog)) = false →
    engFenced s (queueAgent (queueNum h q)) (x.ring + 64 * (x.head.toNat % 2 ^ x.ringLog) + 32) = false →
    govWaits s (queueAgent (queueNum h q)) 0 (x.ring + 64 * (x.head.toNat % 2 ^ x.ringLog)) = false →
    engBytes (queueAgent (queueNum h q)) (x.ring + 64 * (x.head.toNat % 2 ^ x.ringLog)) 64 s = (some (b, false), t) →
    let u := govEngine (queueAgent (queueNum h q)) 0 (x.ring + 64 * (x.head.toNat % 2 ^ x.ringLog)) 64 true t
    let g := issueEngTag (queueNum h q) u
    let v := modQueue (queueNum h q) (fun y => { y with active := y.active ++ [newRun y.head (descOf b) g.1] }) g.2
    exec (.descriptorRead h q) s = .next
      (if descOk v b (descOf b) = false then failDesc (queueNum h q) x.head 4 v
        else if descCuesOk v f (descOf b) = false then failDesc (queueNum h q) x.head stCue v
        else tryStart (queueNum h q) v)) ∧
  (∀ (h : Half) (q : Fin 256) (s : State) (f : Nat) (x : QueueSt), hasHalf s h = true →
    x = queueAt s (queueNum h q) → queueRuns x = true → x.head ≠ x.tail → x.active = [] →
    engineActive s (queueNum h q) < 16 → queueFunc s (queueNum h q) = some f →
    extentIn s f (x.ring + 64 * (x.head.toNat % 2 ^ x.ringLog)) 64 = false →
    ∃ t, exec (.descriptorRead h q) s = .next t ∧ (queueAt t (queueNum h q)).st = .error ∧
      (queueAt t (queueNum h q)).errStatus = dsAddress ∧ t.mem = s.mem ∧ t.coh = s.coh ∧ t.cues = s.cues) ∧
  (∀ (h : Half) (q : Fin 256) (s : State), hasHalf s h = true →
    (queueRuns (queueAt s (queueNum h q)) = false ∨
      (queueAt s (queueNum h q)).head = (queueAt s (queueNum h q)).tail ∨
      4 ≤ (queueAt s (queueNum h q)).active.length ∨ 16 ≤ engineActive s (queueNum h q)) →
    exec (.descriptorRead h q) s = .next s)

/-- An active descriptor does its work (R236, R249, R250, R251, R252, R261, R263, R264, R266). A descriptor that has
begun, of the opcode its command names, does the next of its work when its engine serves it: NOP completes, COPY and
ADD move their shape (ADD combining with the REDOP of ARG), FILL writes its word, GATHER and SCATTER move the pieces
that their list names, MCAST delivers to its branches, RDMA_WRITE and RDMA_READ go on at their QP, REEL sends from its
source with the credit it took. A descriptor that its engine does not serve now, or that is not there, changes
nothing. -/
def Obligations.DescriptorsRun : Prop :=
  (∀ (h : Half) (q : Fin 256) (n : BitVec 32) (s : State) (r : DescRun) (op : Nat) (cmd : Instr) (errs e : List ArrErr)
    (body : State → State),
    hasHalf s h = true → runAt s (queueNum h q) n = some r → r.phase = .running → r.begun = true → r.d.opcode = op →
    (op, cmd, e, body) ∈ ([(0, .nop h q n, [], completeDesc (queueNum h q) n),
      (1, .copy h q ⟨n, errs⟩, errs,
        moveOr (queueNum h q) r (moveShape (queueNum h q) n none (2 * moveFuel r.d))),
      (2, .add h q ⟨n, errs⟩, errs, moveShape (queueNum h q) n (redopOf r.d.arg) (2 * moveFuel r.d)),
      (3, .fill h q n, [], moveFill (queueNum h q) n (moveFuel r.d)),
      (4, .gather h q ⟨n, errs⟩, errs,
        moveOr (queueNum h q) r (moveIndexed (queueNum h q) n (srcSide r.d) (2 * moveFuel r.d))),
      (5, .scatter h q ⟨n, errs⟩, errs,
        moveOr (queueNum h q) r (moveIndexed (queueNum h q) n (dstSide r.d) (2 * moveFuel r.d)))] :
        List (Nat × Instr × List ArrErr × (State → State))) →
    (engineServes s (queueNum h q) n = true → exec cmd s = .next (engineTurn (queueNum h q) n e body s)) ∧
    (engineServes s (queueNum h q) n = false → exec cmd s = .next s)) ∧
  (∀ (h : Half) (q : Fin 256) (n : BitVec 32) (errs : List ArrErr) (s : State) (r : DescRun), hasHalf s h = true →
    runAt s (queueNum h q) n = some r → r.phase = .running → r.begun = true → r.d.opcode = 6 → r.branches ≠ [] →
    (engineServes s (queueNum h q) n = true → exec (.mcast h q ⟨n, errs⟩) s =
      .next (mcDeliverLocal (engineTurn (queueNum h q) n errs (mcastGo (queueNum h q) n (20 * moveFuel r.d)) s))) ∧
    (∀ (d : Fin 16) (b : BranchSt), r.branches[d.val]? = some b → branchLive b = true → (b.held ≠ [] ∨ b.rtag ≠ none) →
      exec (.mcastBranchTimeout h q n d) s =
        .next (doMcast h q n [] (failBranch (queueNum h q) n d (atTime (b.lastT + mcHold s) s))))) ∧
  (∀ (h : Half) (q : Fin 256) (n : BitVec 32) (s : State) (r : DescRun), hasHalf s h = true →
    runAt s (queueNum h q) n = some r → r.phase = .running → r.begun = true → r.posted = true →
    engineServes s (queueNum h q) n = true →
    (r.d.opcode = 7 → exec (.rdmaWrite h q n) s =
      .next (engineTurn (queueNum h q) n [] (writeGo (descQp r.d) (queueNum h q) n (2 * moveFuel r.d)) s)) ∧
    (r.d.opcode = 8 → exec (.rdmaRead h q n) s =
      .next (engineTurn (queueNum h q) n [] (readGo (descQp r.d) (queueNum h q) n (moveFuel r.d)) s))) ∧
  (∀ (h : Half) (q : Fin 256) (n : BitVec 32) (s : State) (r : DescRun) (st : Nat), hasHalf s h = true →
    runAt s (queueNum h q) n = some r → r.phase = .running → r.begun = true → r.posted = false →
    engineServes s (queueNum h q) n = true → rdmaStatus s (queueNum h q) r.d = st → st ≠ 0 →
    (r.d.opcode = 7 → exec (.rdmaWrite h q n) s =
      .next (engineTurn (queueNum h q) n [] (failDesc (queueNum h q) n st) s)) ∧
    (r.d.opcode = 8 → exec (.rdmaRead h q n) s =
      .next (engineTurn (queueNum h q) n [] (failDesc (queueNum h q) n st) s))) ∧
  (∀ (h : Half) (q : Fin 256) (n : BitVec 32) (s : State) (r : DescRun), hasHalf s h = true →
    runAt s (queueNum h q) n = some r → r.phase = .running → r.begun = true → r.d.opcode = 9 → r.posted = false →
    engineServes s (queueNum h q) n = true →
    some (reelFunc s r.d.arg) = queueFunc s (queueNum h q) →
    descTotal r.d ≤ 2 ^ (reelAt s r.d.arg).slotLog → reelHalf r.d.arg = halfOf 256 (queueNum h q) →
    (reelAt s r.d.arg).st = 1 → (curTake s (reelTakeKey r.d.arg)).isSome = true → r.asked ≠ 0 → r.slot ≠ 0 →
    exec (.reel h q n) s =
      .next (engineTurn (queueNum h q) n [] (reelGo (queueNum h q) n r.d.arg (2 * moveFuel r.d)) s)) ∧
  (∀ (h : Half) (q : Fin 256) (n : BitVec 32) (errs : List ArrErr) (s : State), hasHalf s h = true →
    runAt s (queueNum h q) n = none →
    ∀ cmd ∈ ([.nop h q n, .copy h q ⟨n, errs⟩, .add h q ⟨n, errs⟩, .fill h q n, .gather h q ⟨n, errs⟩, .scatter h q ⟨n, errs⟩,
      .rdmaWrite h q n, .rdmaRead h q n, .reel h q n, .rsignal h q n, .descriptorComplete h q n] : List Instr),
      exec cmd s = .next s)

/-- Completion of a descriptor, and RSIGNAL (R254, R255, R256, R257). A complete descriptor that owes no signal and no
record leaves the active ones of its queue. One that signals does so after every earlier one, and its record goes
before the signal. An RSIGNAL to another device is sent once the function's group writes are acknowledged; its
acknowledgement completes it, its refusal ends it with REMOTE; an answer whose queue handle is stale is discarded as a
stale message. An arriving RSIGNAL of a member adds to a cue that lets in remote signals, and is refused and counted
otherwise. -/
def Obligations.DescriptorsComplete : Prop :=
  (∀ (h : Half) (q : Fin 256) (n : BitVec 32) (s : State) (r : DescRun), hasHalf s h = true →
    runAt s (queueNum h q) n = some r → r.phase = .complete → r.d.sigEn = false → r.status = 0 → r.d.recOk = false →
    exec (.descriptorComplete h q n) s = .next (settleQueue (queueNum h q) (modQueue (queueNum h q)
      (fun q => { q with active := q.active.filter (fun d => decide (d.index ≠ n)) }) s))) ∧
  (∀ (h : Half) (q : Fin 256) (n : BitVec 32) (s t : State) (r : DescRun), hasHalf s h = true →
    runAt s (queueNum h q) n = some r → r.phase = .complete → r.d.sigEn = true → r.ended = false →
    r.d.opcode ≠ 10 → (queueAt s (queueNum h q)).active.takeWhile (fun d => decide (d.index ≠ n)) = [] →
    r.d.sigScope = false → writeDescRec (queueNum h q) r s = (true, t) →
    exec (.descriptorComplete h q n) s = .next (settleQueue (queueNum h q) (modQueue (queueNum h q)
      (fun q => { q with active := q.active.filter (fun d => decide (d.index ≠ n)) })
      (signalFrom h r.d.sigCue r.d.sigInc t)))) ∧
  (∀ (h : Half) (q : Fin 256) (n : BitVec 32) (s : State) (r : DescRun), hasHalf s h = true →
    runAt s (queueNum h q) n = some r → r.phase ≠ .complete → exec (.descriptorComplete h q n) s = .next s) ∧
  (∀ (h : Half) (q : Fin 256) (n : BitVec 32) (s : State) (r : DescRun), hasHalf s h = true →
    runAt s (queueNum h q) n = some r → r.phase = .running → r.begun = true → r.d.opcode = 10 → r.posted = false →
    engineServes s (queueNum h q) n = true → groupDone s (queueNum h q) = false →
    exec (.rsignal h q n) s = .next (engineTurn (queueNum h q) n [] (fun u => u) s)) ∧
  (∀ (h : Half) (q : Fin 256) (n : BitVec 32) (s : State) (r : DescRun), hasHalf s h = true →
    runAt s (queueNum h q) n = some r → r.phase = .running → r.begun = true → r.d.opcode = 10 → r.posted = false →
    engineServes s (queueNum h q) n = true → groupDone s (queueNum h q) = true →
    BitVec.ofNat 16 (r.d.dst.toNat / 2 ^ 48) ≠ ownDev s →
    exec (.rsignal h q n) s = .next (engineTurn (queueNum h q) n [] (fun s =>
      let u := modRun (queueNum h q) n (fun r => { r with posted := true, sentT := s.clock }) s
      let p := openPacket (BitVec.ofNat 16 (r.d.dst.toNat / 2 ^ 48)) 1
        (emit (.rsignal (BitVec.ofNat 16 (r.d.dst.toNat / 2 ^ 48)) r.d.sigCue r.d.sigInc
          (queueHandle u (queueNum h q)) n) u)
      sendPacket p.1 p.2) s)) ∧
  (∀ (queue n : BitVec 32) (s : State) (k : Nat) (r : DescRun), handleQueue s queue = some k → runAt s k n = some r →
    r.d.opcode = 10 → r.posted = true → r.phase = .running →
    exec (.rsigAck queue n) s = .next (completeDesc k n s) ∧
    exec (.rsigRefused queue n) s = .next (failDesc k n dsRemote s)) ∧
  (∀ (queue n : BitVec 32) (s : State), handleQueue s queue = none →
    ∃ h, exec (.rsigAck queue n) s = .next (staleMsg h s) ∧ exec (.rsigRefused queue n) s = .next (staleMsg h s)) ∧
  (∀ (r : RSig) (s : State), handleCurrent s r.cue = true → (memberOf s r.dev).isSome = true →
    rbit s .cueRemote (cueNum r.cue / 32) (cueNum r.cue % 32) = true →
    exec (.rsignalReceive r) s = .next (
      let p := openPacket r.dev 2 (emit (.rsigAnswer r.dev true r.tag) (cueSignal r.cue r.inc.val s))
      sendPacket p.1 p.2)) ∧
  (∀ (r : RSig) (s : State), (handleCurrent s r.cue = false ∨ (memberOf s r.dev).isSome = false) →
    exec (.rsignalReceive r) s = .next (
      let p := openPacket r.dev 3 (emit (.rsigAnswer r.dev false r.tag) (takeRsig r s).2)
      sendPacket p.1 p.2) ∧
    (takeRsig r s).2.cues = s.cues ∧ (takeRsig r s).2.mem = s.mem ∧ (takeRsig r s).2.coh = s.coh)

/-- The messages and the state of Reel streams (R265, R266, R267, R311). VALID written 1 opens a closed stream, with its
credits at SLOTS, and 0 closes it. An ARRIVAL of the predecessor is counted, signals ARRIVE_CUE by 1 and is
acknowledged; an acknowledgement of the successor completes the REEL that sent it; a CREDIT of the successor gives a
credit back, up to SLOTS; a slot freed returns a credit to the predecessor. A message whose stream is not open, or
whose take is not current, or that comes from another device, changes nothing but COLL_STALE. -/
def Obligations.ReelStreams : Prop :=
  (∀ (ag : Agent) (h : Half) (k : Fin 64) (v : BitVec 32) (new : Nat) (s : State),
    storeOk ag h .reelId (reelNum h k) v.toNat new s → rbit s .reelId (reelNum h k) 31 = false →
    natBit 31 new = true → exec (.reelValidWrite ag h k v) s = .next (stored ag h .reelId (reelNum h k)
      (openReel (reelNum h k) (rput .reelId (reelNum h k) new s)))) ∧
  (∀ (ag : Agent) (h : Half) (k : Fin 64) (v : BitVec 32) (new : Nat) (s : State),
    storeOk ag h .reelId (reelNum h k) v.toNat new s → rbit s .reelId (reelNum h k) 31 = true →
    natBit 31 new = false → exec (.reelValidWrite ag h k v) s = .next (stored ag h .reelId (reelNum h k)
      (closeReel (reelNum h k) (rput .reelId (reelNum h k) new s)))) ∧
  (∀ (coll : BitVec 16) (take : BitVec 8) (dev sendNo : BitVec 16) (b : BlockPkt) (s : State),
    (reelEntry s coll take = none → b.coll = coll → b.take = take →
      exec (.arrival coll take dev sendNo) s = .next (countLink .collStale s) ∧
      exec (.arrivalAck coll take dev sendNo) s = .next (countLink .collStale s) ∧
      exec (.credit coll take dev) s = .next (countLink .collStale s) ∧
      exec (.block b) s = .next (countLink .collStale s)) ∧
    (∀ k, reelEntry s coll take = some k → dev ≠ (reelAt s k).prev →
      exec (.arrival coll take dev sendNo) s = .next (countLink .collStale s)) ∧
    (∀ k, reelEntry s coll take = some k → dev ≠ (reelAt s k).next →
      exec (.arrivalAck coll take dev sendNo) s = .next (countLink .collStale s) ∧
      exec (.credit coll take dev) s = .next (countLink .collStale s)) ∧
    (∀ k, reelEntry s coll take = some k → dev = (reelAt s k).prev →
      exec (.arrival coll take dev sendNo) s =
        .next (sendReel k dev 3 sendNo.toNat (sendNo.toNat % (reelAt s k).slots) []
          (signalNum (reelHalf k) (reelAt s k).arriveCue 1
            (setReel k { reelAt s k with recv := ((reelAt s k).recv + 1) % 2 ^ 16 } s)))) ∧
    (∀ k n d, reelEntry s coll take = some k → dev = (reelAt s k).next → reelSender s k sendNo.toNat = some (n, d) →
      exec (.arrivalAck coll take dev sendNo) s = .next (completeDesc n d.index s)) ∧
    (∀ k, reelEntry s coll take = some k → dev = (reelAt s k).next →
      exec (.credit coll take dev) s = .next (setReel k { reelAt s k with
        credits := min (reelAt s k).slots ((reelAt s k).credits + 1) } s))) ∧
  (∀ (b : BlockPkt) (s : State) (k : Nat), reelEntry s b.coll b.take = some k → b.dev = (reelAt s k).prev →
    (reelAt s k).base ≤ b.addr.toNat →
    b.addr.toNat + 32 * b.secs.length ≤ (reelAt s k).base + (reelAt s k).slots * 2 ^ (reelAt s k).slotLog →
    b.addr.toNat % 32 = 0 → b.secs.length ≤ 16 → extentIn s (reelFunc s k) b.addr.toNat (32 * b.secs.length) = true →
    ∃ t, exec (.block b) s = .next t ∧
      (∀ x p, b.secs = [(x, p)] →
        t = if (engWrite (.mp (reelHalf k)) b.addr.toNat ⟨x, fullMask, p⟩ s).1 then
          (engWrite (.mp (reelHalf k)) b.addr.toNat ⟨x, fullMask, p⟩ s).2 else s)) ∧
  (∀ (h : Half) (k : Fin 64) (s : State), hasHalf s h = true → (reelAt s (reelNum h k)).st = 1 →
    0 < (reelAt s (reelNum h k)).freeDue → (curTake s (reelTakeKey (reelNum h k))).isSome = true →
    exec (.reelFree h k) s = .next (armFree (reelNum h k) (sendReel (reelNum h k) (reelAt s (reelNum h k)).prev 4 0 0 []
      (setReel (reelNum h k) { reelAt s (reelNum h k) with freeDue := (reelAt s (reelNum h k)).freeDue - 1 } s))))

/-- Ports are enabled, train and retrain (R276, R277, R281, R290). ENABLE written 1 starts training, written 0 takes the
port down. A training that times out, its first step after 1 ms and its second after 3 ms, is tried again from the
second step, and the third failure leaves the port FAILED. A training that ends with every wavelength good and the
skew within its bound brings the port up full with empty sequence numbers and sends LINK_INFO; one with bad
wavelengths where half width is not allowed, or with more skew, counts as a failure. Loss of signal and a stalled
acknowledgement retrain a port that is up; LINK_INFO sets the peer. -/
def Obligations.PortsTrain : Prop :=
  (∀ (ag : Agent) (p : Fin 16) (v : BitVec 32) (new : Nat) (s : State), storeOk ag (portHalf p) .portCtl p v.toNat new s →
    natBit 0 new = true → rbit s .portCtl p 0 = false →
    exec (.portEnable ag p v) s = .next (stored ag (portHalf p) .portCtl p
      (setPort p { portAt s p with st := .training, trainFails := 0, trainT := s.clock, trainStep2 := false } (rput .portCtl p new s)))) ∧
  (∀ (ag : Agent) (p : Fin 16) (v : BitVec 32) (new : Nat) (s : State), storeOk ag (portHalf p) .portCtl p v.toNat new s →
    natBit 0 new = false → rbit s .portCtl p 0 = true →
    exec (.portEnable ag p v) s = .next (stored ag (portHalf p) .portCtl p (portDown p .down (rput .portCtl p new s)))) ∧
  (∀ (p : Fin 16) (s : State), hasHalf s (portHalf p) = true → (portAt s p).st = .training → (portAt s p).trainFails < 2 →
    ∃ t, exec (.portTrainingTimeout p) s = .next t ∧ (portAt t p).st = .training ∧
      t.clock = max s.clock ((portAt s p).trainT + ms (if (portAt s p).trainStep2 then 3 else 1)) ∧
      (portAt t p).trainT = t.clock ∧ (portAt t p).trainStep2 = true ∧
      (portAt t p).trainFails = (portAt s p).trainFails + 1 ∧ t.mem = s.mem ∧ t.regs = s.regs ∧ t.coh = s.coh) ∧
  (∀ (p : Fin 16) (s : State), hasHalf s (portHalf p) = true → (portAt s p).st = .training → 2 ≤ (portAt s p).trainFails →
    ∃ t, exec (.portTrainingTimeout p) s = .next t ∧ (portAt t p).st = .failed ∧ t.mem = s.mem ∧ t.regs = s.regs ∧
      t.coh = s.coh) ∧
  (∀ (p : Fin 16) (tr : PortTraining) (s : State), hasHalf s (portHalf p) = true → (portAt s p).st = .training →
    tr.badLambda ≠ 0 → rbit s .portCtl p 1 = false → (portAt s p).trainFails < 2 →
    ∃ t, exec (.portUp p tr) s = .next t ∧ (portAt t p).st = .training ∧ (portAt t p).badLambda = tr.badLambda ∧
      (portAt t p).trainFails = (portAt s p).trainFails + 1 ∧ t.mem = s.mem) ∧
  (∀ (p : Fin 16) (tr : PortTraining) (s : State), hasHalf s (portHalf p) = true → (portAt s p).st = .training →
    maxSkew < tr.skew → (portAt s p).trainFails < 2 →
    ∃ t, exec (.portUp p tr) s = .next t ∧ (portAt t p).st = .training ∧ (portAt t p).trainStep2 = true ∧
      (portAt t p).trainFails = (portAt s p).trainFails + 1 ∧ t.mem = s.mem) ∧
  (∀ (p : Fin 16) (tr : PortTraining) (s : State), hasHalf s (portHalf p) = true → (portAt s p).st = .training →
    tr.badLambda = 0 → tr.skew ≤ maxSkew →
    exec (.portUp p tr) s = .next (
      let u := applyVcBuf p (atTime ((portAt s p).trainT + us 2100) s)
      let v := meetPeer p tr.peerDev tr.peerPort.toNat tr.peerValid (modPort p (fun x => { x with
        st := .upFull, txSpare := tr.txSpare, rxSpare := tr.rxSpare, halfGroup := false, badLambda := 0
        trainFails := 0, txSeq := 0, rxSeq := 0, replay := [], unacked := []
        credits := tr.credits.foldl (fun m c => NMap.insert m (classKey c.1.val c.2.1) c.2.2) []
        rxNak := false, ackDue := false, nakTimes := [], rxBytes := [], rxFlits := [], freed := []
        lastAdvance := u.clock, txWave := 0, txBlocks := [], txWords := [] }) u)
      mcDrain p (pumpAll p (emit (.linkInfo p (ownDev v) (idOk v)) v)))) ∧
  (∀ (p : Fin 16) (s : State), hasHalf s (portHalf p) = true → linkUp (portAt s p) = true →
    exec (.lossOfSignal p false) s = .next (retrain p s) ∧
    ((portAt s p).replay ≠ [] →
      exec (.ackStallTimeout p) s = .next (retrain p (atTime ((portAt s p).lastAdvance + us 100) s))) ∧
    (∀ (dev : BitVec 16) (pp : BitVec 4) (valid : Bool),
      exec (.linkInfo p dev pp valid) s = .next (setPeer p dev pp.toNat valid s))) ∧
  (∀ (p : Fin 16) (s : State), hasHalf s (portHalf p) = true → linkUp (portAt s p) = false →
    exec (.lossOfSignal p false) s = .next s ∧ exec (.ackStallTimeout p) s = .next s ∧ exec (.nakTimer p) s = .next s ∧
    exec (.ackTimer p) s = .next s)

/-- Flits at a port that is up (R278, R279, R280). A data flit in order whose class is known is taken: the next expected
sequence number rises by one, its bytes join the packets of its class and an acknowledgement is due. A flit out of
order is not taken and NAK is sent once; one with a bad CRC is counted besides. A control flit drops the acknowledged
flits from the replay buffer and adds its credits; a NAK sends the rest again. -/
def Obligations.FlitsAreTakenInOrder : Prop :=
  (∀ (p : Fin 16) (f : DataFlit) (s : State), hasHalf s (portHalf p) = true → linkUp (portAt s p) = true → f.intact = true →
    f.ftype = 1 → f.seq = (portAt s p).rxSeq → f.vc.val ≠ 7 →
    ∃ t, exec (.dataFlit p f) s = .next t ∧ (portAt t p).rxSeq = (portAt s p).rxSeq + 1 ∧ (portAt t p).ackDue = true ∧
      (portAt t p).rxNak = false ∧ (portAt t p).replay = (portAt s p).replay ∧ t.mem = s.mem ∧ t.regs = s.regs ∧
      (
        let r := splitPkts ((NMap.getD (portAt s p).rxBytes (classKey f.vc.val f.dl) [] ++ f.payload).length / 24 + 1)
          (NMap.getD (portAt s p).rxBytes (classKey f.vc.val f.dl) [] ++ f.payload)
        NMap.getD (portAt t p).rxPkts (classKey f.vc.val f.dl) [] =
          NMap.getD (portAt s p).rxPkts (classKey f.vc.val f.dl) [] ++ r.1 ∧
        NMap.getD (portAt t p).rxBytes (classKey f.vc.val f.dl) [] = r.2)) ∧
  (∀ (p : Fin 16) (f : DataFlit) (s : State), hasHalf s (portHalf p) = true → linkUp (portAt s p) = true → f.intact = true →
    f.ftype = 1 → f.seq ≠ (portAt s p).rxSeq →
    ∃ t, exec (.dataFlit p f) s = .next t ∧ (portAt t p).rxSeq = (portAt s p).rxSeq ∧ (portAt t p).rxNak = true ∧
      (portAt t p).rxPkts = (portAt s p).rxPkts ∧ t.mem = s.mem ∧ t.regs = s.regs) ∧
  (∀ (p : Fin 16) (f : DataFlit) (s : State), hasHalf s (portHalf p) = true → linkUp (portAt s p) = true → f.intact = false →
    exec (.dataFlit p f) s = .next (startNak p (bumpSat .crcErr p 31 0 1 s))) ∧
  (∀ (p : Fin 16) (f : CtrlFlit) (s : State), hasHalf s (portHalf p) = true → linkUp (portAt s p) = true → f.intact = false →
    exec (.ctrlFlit p f) s = .next (bumpSat .crcErr p 31 0 1 s)) ∧
  (∀ (p : Fin 16) (f : CtrlFlit) (s : State), hasHalf s (portHalf p) = true → linkUp (portAt s p) = true → f.intact = true →
    f.ackValid = true → f.nak = false → f.credits = [] → 0 < ackCount (portAt s p) f.ackSeq →
    exec (.ctrlFlit p f) s = .next (mcDrain p (pumpAll p (setPort p { portAt s p with
      replay := (portAt s p).replay.drop (ackCount (portAt s p) f.ackSeq)
      unacked := (portAt s p).unacked.filter (fun e =>
        !(((portAt s p).replay.take (ackCount (portAt s p) f.ackSeq)).map (fun g => g.seq)).contains e.2.2)
      lastAdvance := s.clock } s)))) ∧
  (∀ (p : Fin 16) (s : State), hasHalf s (portHalf p) = true → linkUp (portAt s p) = true →
    ((portAt s p).rxNak = true → exec (.nakTimer p) s = .next (sendCtrl p true
      (setPort p { portAt s p with lastNak := max s.clock ((portAt s p).lastNak + us 1) }
        (atTime ((portAt s p).lastNak + us 1) s)))) ∧
    ((portAt s p).ackDue = true → exec (.ackTimer p) s = .next (sendCtrl p false s)))

/-- A packet is delivered, forwarded or discarded (R282, R289, R290, R291, R292, R293, R295, R296, R297, R298). The packet
at the front of a class that is for this device is handed to its unit and leaves the buffer; one for another device
leaves it for the port of its route with its time in the base added to its age, crossing to a dateline class where the
route does; a port of the other half is reached over Zoram. A packet whose age reaches 500 is discarded and counted;
one with no route is discarded and counted, and a request is answered ERROR with NO_ROUTE (6). An empty class changes
nothing. -/
def Obligations.PacketsAreRouted : Prop :=
  (∀ (p : Fin 16) (vc : Fin 8) (dl : Bool) (x : Nat) (s : State), hasHalf s (portHalf p) = true → frontPkt s p vc dl = none →
    exec (.packetDeliver p vc dl) s = .next s ∧ exec (.packetForward p vc dl x) s = .next s ∧
    exec (.mcPacket p vc dl x) s = .next s) ∧
  (∀ (p : Fin 16) (vc : Fin 8) (dl : Bool) (s t : State) (k : Packet), hasHalf s (portHalf p) = true →
    frontPkt s p vc dl = some k → k.mc = false → idOk s = true → k.dest = ownDev s → arrivedAge s p k < 500 →
    vcOf k.kind.toNat k.op.toNat = some vc.val → pktRuleOk k = true → handlePacket p k s = (true, t) →
    exec (.packetDeliver p vc dl) s = .next (mcDeliverLocal (consumePkt p vc dl t))) ∧
  (∀ (p : Fin 16) (vc : Fin 8) (dl : Bool) (s : State) (k : Packet), hasHalf s (portHalf p) = true →
    frontPkt s p vc dl = some k → k.mc = false → idOk s = true → k.dest = ownDev s → 500 ≤ arrivedAge s p k →
    exec (.packetDeliver p vc dl) s = .next (consumePkt p vc dl (countLink .aged s))) ∧
  (∀ (p : Fin 16) (vc : Fin 8) (dl : Bool) (x q : Nat) (cross : Bool) (s : State) (k : Packet), hasHalf s (portHalf p) = true →
    frontPkt s p vc dl = some k → k.mc = false → idOk s = true → k.dest ≠ ownDev s →
    min 1023 (arrivedAge (consumePkt p vc dl s) p k + x) < 500 →
    routeOf (consumePkt p vc dl s) k.dest.toNat = some (q, cross) →
    (portHalf p = halfOf 8 q → exec (.packetForward p vc dl x) s = .next (queuePkt q vc
      { k with age := min 1023 (arrivedAge (consumePkt p vc dl s) p k + x), dl := k.dl || cross }
      (consumePkt p vc dl s))) ∧
    (portHalf p ≠ halfOf 8 q → exec (.packetForward p vc dl x) s = .next (zSend (.half (halfOf 8 q))
      (if vc.val = 0 then 0 else 4) (.zPacket (.half (halfOf 8 q)) p vc { k with age := min 1023 (arrivedAge (consumePkt p vc dl s) p k + x) })
      (consumePkt p vc dl s)))) ∧
  (∀ (p : Fin 16) (vc : Fin 8) (dl : Bool) (x : Nat) (s : State) (k : Packet), hasHalf s (portHalf p) = true →
    frontPkt s p vc dl = some k → k.mc = false → idOk s = true → k.dest ≠ ownDev s →
    500 ≤ min 1023 (arrivedAge (consumePkt p vc dl s) p k + x) →
    exec (.packetForward p vc dl x) s = .next (countLink .aged (consumePkt p vc dl s))) ∧
  (∀ (p : Fin 16) (vc : Fin 8) (dl : Bool) (x : Nat) (s : State) (k : Packet), hasHalf s (portHalf p) = true →
    frontPkt s p vc dl = some k → k.mc = false → idOk s = true → k.dest ≠ ownDev s →
    min 1023 (arrivedAge (consumePkt p vc dl s) p k + x) < 500 → routeOf (consumePkt p vc dl s) k.dest.toNat = none →
    k.kind = 1 → k.op.toNat < 0x20 → (routeOf (countLink .noRoute (consumePkt p vc dl s)) k.src.toNat).isSome = true →
    exec (.packetForward p vc dl x) s = .next (sendCoh (.dev k.src)
      { blankCoh with code := 0x3A, tag := k.tag.toNat, take := k.take, addr := k.addr, cause := 6 }
      (countLink .noRoute (consumePkt p vc dl s)))) ∧
  (∀ (p : Fin 16) (vc : Fin 8) (dl : Bool) (x : Nat) (s t : State) (k : Packet), hasHalf s (portHalf p) = true →
    frontPkt s p vc dl = some k → k.mc = true → idOk s = true → min 1023 (arrivedAge s p k + x) < 500 →
    vcOf k.kind.toNat k.op.toNat = some vc.val → pktRuleOk k = true → k.dest.toNat < 4096 →
    mcReplicate (some p) { k with age := min 1023 (arrivedAge s p k + x) } s = some t →
    exec (.mcPacket p vc dl x) s = .next (mcDeliverLocal (consumePkt p vc dl t))) ∧
  (∀ (n : Nat) (b : Fin 17) (s : State) (o : McOp) (x : McBranch), s.link.mcops[n]? = some o →
    o.branches.find? (fun y => decide (y.port = b.val)) = some x → x.failed = false → x.acked = false →
    exec (.mcHoldExpire n b) s = .next (mcDrops (mcSettle (modBranch (isMcOp o.src o.tag o.take) b
      (fun y => { y with failed := true, held := [] }) (atTime (x.lastT + mcHold s) s))))) ∧
  (∀ (src : BitVec 16) (tag : BitVec 12) (take : BitVec 8) (b : Fin 17) (info : McAckInfo) (s : State),
    exec (.mcAck src tag take b info) s = .next (mcDrops (mcSettle (modBranch (isMcOp src tag take) b
      (fun y => if y.failed then y else { y with acked := true, info := info }) s))))

/-- Arrivals and departures of a collective (R300, R301, R302, R303). VALID written 1 opens an entry with a new take, 0
closes it. A due local arrival is taken, and goes up when every child has arrived or is excluded. An ARRIVE of a child
that has not arrived yet in this round is taken; another of the same child changes nothing; a message with a stale
take, another round or another sender is discarded and counted. A DEPART of the parent for the present round ends it;
one for the round before changes nothing. -/
def Obligations.CollectivesRun : Prop :=
  (∀ (ag : Agent) (h : Half) (k : Fin 128) (v : BitVec 32) (new : Nat) (s : State),
    storeOk ag h .collId (collNum h k) v.toNat new s →
    (rbit s .collId (collNum h k) 31 = false → natBit 31 new = true → exec (.collValidWrite ag h k v) s =
      .next (stored ag h .collId (collNum h k) (openColl (collNum h k) (rput .collId (collNum h k) new s)))) ∧
    (rbit s .collId (collNum h k) 31 = true → natBit 31 new = false → exec (.collValidWrite ag h k v) s =
      .next (stored ag h .collId (collNum h k) (closeColl (collNum h k) (rput .collId (collNum h k) new s))))) ∧
  (∀ (h : Half) (k : Fin 128) (s : State), hasHalf s h = true → (collAt s (collNum h k)).st = 1 →
    slateTie s (collNum h k) = none →
    exec (.localArrival h k) s = .next (if (collAt s (collNum h k)).arrDue then
      tryUp (collNum h k) (readOwn (collNum h k) (arriveNow (collNum h k) s)) else s)) ∧
  (∀ (m : ClapMsg) (s : State) (n : Nat), clapEntry s m = some n →
    ((collAt s n).st = 1 ∨ (collAt s n).st = 2) → (collAt s n).round = m.round.toNat →
    m.src ∈ (collAt s n).cfg.children → m.src ∉ (collAt s n).gone → m.src ∉ (collAt s n).got →
    (collAt s n).cfg.isRed = false →
    exec (.arrive m) s = .next (tryUp n (setColl n { collAt s n with
      got := (collAt s n).got ++ [m.src], roundExcl := (collAt s n).roundExcl + m.value
      roundFirst := if (collAt s n).roundExcl = 0 then m.firstExcl else (collAt s n).roundFirst } s))) ∧
  (∀ (m : ClapMsg) (s : State) (n : Nat), clapEntry s m = some n →
    ((collAt s n).st = 1 ∨ (collAt s n).st = 2) → (collAt s n).round = m.round.toNat →
    m.src ∈ (collAt s n).cfg.children → m.src ∉ (collAt s n).gone → m.src ∈ (collAt s n).got →
    exec (.arrive m) s = .next s) ∧
  (∀ (m : ClapMsg) (s : State), clapEntry s m = none →
    exec (.arrive m) s = .next (countLink .collStale s) ∧ exec (.depart m) s = .next (countLink .collStale s) ∧
    exec (.delayNotice m) s = .next (countLink .collStale s) ∧ exec (.extend m) s = .next (countLink .collStale s)) ∧
  (∀ (m : ClapMsg) (s : State) (n : Nat), clapEntry s m = some n → (collAt s n).cfg.isRoot = false →
    m.src = (collAt s n).cfg.parent → ((collAt s n).st = 1 ∨ (collAt s n).st = 2) →
    ((collAt s n).round = m.round.toNat →
      exec (.depart m) s = .next (departColl n m.status.val m.value m.firstExcl s).2) ∧
    ((collAt s n).round = (m.round.toNat + 1) % 2 ^ 16 → (collAt s n).round ≠ m.round.toNat →
      exec (.depart m) s = .next s))

/-- The limits of a collective and the notices that move them (R304, R305, R306, R307, R308, R309). When the wait for
children ends, those missing are excluded, each with a record, and the arrival goes up without them. When the wait for
the departure ends the entry is BROKEN with a timeout, its fault cue is signalled where enabled, and memory is
unchanged. A delay notice at the root and an EXTEND at a child lengthen the limit; a notice of this base goes to the
root. -/
def Obligations.CollectiveTimers : Prop :=
  (∀ (h : Half) (k : Fin 128) (s : State) (t : Nat), hasHalf s h = true → (collAt s (collNum h k)).st = 2 →
    (collAt s (collNum h k)).arrT = some t → (collAt s (collNum h k)).sentT = none →
    let n := collNum h k
    let c := collAt s n
    let missing := c.cfg.children.filter (fun d => !(c.got.contains d || c.gone.contains d))
    missing ≠ [] →
    exec (.childWaitTimeout h k) s = .next (
      let u := forEach missing (fun d s =>
        eventD (collHalf n) 0x0802 2 (some (collFunc s n)) (n % 128) c.round 1 d.toNat s)
        (atTime (t + tenths (min (c.cfg.timeout + c.ext) (4 * c.cfg.timeout))) s)
      tryUp n (readOwn n (setColl n { c with
        gone := c.gone ++ missing, roundExcl := c.roundExcl + missing.length
        roundFirst := if c.roundExcl = 0 then missing.headD 0 else c.roundFirst } u)))) ∧
  (∀ (h : Half) (k : Fin 128) (s : State) (t : Nat), hasHalf s h = true → (collAt s (collNum h k)).st = 2 →
    (collAt s (collNum h k)).sentT = some t →
    exec (.departWaitTimeout h k) s = .next (departColl (collNum h k) 2 (collAt s (collNum h k)).roundExcl
      (collAt s (collNum h k)).roundFirst
      (atTime (t + tenths (4 * (collAt s (collNum h k)).cfg.timeout) + 20000) s)).2) ∧
  (∀ (m : ClapMsg) (s : State) (n : Nat), clapEntry s m = some n → ((collAt s n).st = 1 ∨ (collAt s n).st = 2) →
    (collAt s n).round = m.round.toNat →
    ((collAt s n).cfg.isRoot = true → exec (.delayNotice m) s = .next (rootDelay n m.src m.value s)) ∧
    ((collAt s n).cfg.isRoot = false → m.src = (collAt s n).cfg.parent → exec (.extend m) s =
      .next (sendKids n .extend 0 m.value 0 (setColl n { collAt s n with ext := max (collAt s n).ext m.value } s)))) ∧
  (∀ (h : Half) (k : Fin 128) (s : State), hasHalf s h = true → (collAt s (collNum h k)).st = 1 →
    (collAt s (collNum h k)).cfg.delayEn = true → funcStacks s (collFunc s (collNum h k)) ≠ [] →
    (collAt s (collNum h k)).cfg.timeout < 2 * delayOf s (collNum h k) → (collAt s (collNum h k)).notices = [] →
    (collAt s (collNum h k)).cfg.isRoot = false →
    exec (.bandNotice h k) s = .next (sendClap (collNum h k) (collAt s (collNum h k)).cfg.root .delay 0
      (delayOf s (collNum h k)) 0 none (modColl (collNum h k)
        (fun c => { c with notices := [(ownDev s, delayOf s (collNum h k))] })
        (setColl (collNum h k) { collAt s (collNum h k) with lastDelay := delayOf s (collNum h k) } s)))) ∧
  (∀ (h : Half) (k : Fin 128) (s : State), hasHalf s h = true → (collAt s (collNum h k)).st ≠ 1 →
    exec (.bandNotice h k) s = .next s)

/-- The boundary of a regulator's window (R316, R321, R329). At the boundary of its window an active regulator of best
effort takes its pending settings, keeps the count of 64-byte units delivered, starts a new window at that moment with
a zero count and lets held accesses go; memory is read and written only by those. A regulator that is not active
changes nothing. -/
def Obligations.WindowsOfARegulator : Prop :=
  (∀ (h : Half) (q : Fin 128) (s : State), hasHalf s h = true → (regulAt s (128 * h.num + q.val)).active = false →
    exec (.windowBoundary h q) s = .next s) ∧
  (∀ (h : Half) (q : Fin 128) (s : State) (n : Nat) (x0 : RegulSt), hasHalf s h = true → n = 128 * h.num + q.val →
    x0 = regulAt s n → x0.active = true → regulClass s n = 0 → x0.outstanding = 0 →
    exec (.windowBoundary h q) s = .next (
      let u := atTime (x0.winStart + us (regulWindow s n)) s
      let v := regulTake n (setRegul n { x0 with
        winStart := u.clock, count := 0, busyUs := 0, busyLast := 0, reads := 0, lates := 0, deliv := x0.count / 64
        demanding := decide (9 * regulWindow s n ≤ 10 * min (regulWindow s n) x0.busyUs) } u)
      releaseHeld n (modRegul n (fun x => { x with worst := partTrouble v (regulPart v n) (v.clock + 1) }) v)))

/-- Frames and link flits of a bundle (R337, R338, R339, R344). A frame in order is used slot by slot and the next number
is expected; a bad or misordered one is counted, nothing of it is used and NAK goes out once. A link flit adds credits
and takes off what is acknowledged; a NAK sends every frame kept again, and the sixteenth in 10 us retrains the
bundle. A message too old is discarded and counted. A bundle that is down takes neither. -/
def Obligations.ZoramFramesAndCredits : Prop :=
  (∀ (b : BundleRef) (f : ZFrame) (s : State), bundleThere s b → bundleUp (bundleAt s (bundleKey b)) = true →
    (f.intact = false ∨ f.num ≠ (bundleAt s (bundleKey b)).rxNext) →
    exec (.frameReceive b f) s = .next (if (bundleAt s (bundleKey b)).rxNak then countBundle b false s
      else sendZLink b true (setBundle (bundleKey b) { bundleAt s (bundleKey b) with rxNak := true }
        (countBundle b false s)))) ∧
  (∀ (b : BundleRef) (f : ZFrame) (s : State), bundleThere s b → bundleUp (bundleAt s (bundleKey b)) = true →
    f.intact = true → f.num = (bundleAt s (bundleKey b)).rxNext → (bundleAt s (bundleKey b)).framesSinceAck < 15 →
    exec (.frameReceive b f) s = .next (forEach f.slots (useSlot b) (setBundle (bundleKey b)
      { bundleAt s (bundleKey b) with
        rxNext := f.num + 1, rxNak := false
        framesSinceAck := (bundleAt s (bundleKey b)).framesSinceAck + 1 } s))) ∧
  (∀ (b : BundleRef) (l : ZLink) (s : State), bundleThere s b → bundleUp (bundleAt s (bundleKey b)) = true →
    l.nak = false → l.ackValid = true → l.ackSeq + 1 ≠ (bundleAt s (bundleKey b)).txAcked → l.credits = [] →
    exec (.linkFlit b l) s = .next (zPump (bundleKey b) (bundleHalf b) (setBundle (bundleKey b)
      { bundleAt s (bundleKey b) with
        txAcked := l.ackSeq + 1, lastAdvance := s.clock
        replay := (bundleAt s (bundleKey b)).replay.filter (fun e => !seqLe e.1 l.ackSeq) } s))) ∧
  (∀ (b : BundleRef) (l : ZLink) (s : State) (times : List Nat), bundleThere s b →
    bundleUp (bundleAt s (bundleKey b)) = true → l.nak = true → l.ackValid = false → l.credits = [] →
    times = (bundleAt s (bundleKey b)).nakTimes.filter (fun t => decide (s.clock < t + us 10)) → times.length < 15 →
    exec (.linkFlit b l) s = .next (zPump (bundleKey b) (bundleHalf b)
      (forEach (bundleAt s (bundleKey b)).replay (fun e => emitFrame (bundleKey b) e.1 e.2) (setBundle (bundleKey b)
        { bundleAt s (bundleKey b) with nakTimes := times ++ [s.clock] } s)))) ∧
  (∀ (b : BundleRef) (l : ZLink) (s : State), bundleThere s b → bundleUp (bundleAt s (bundleKey b)) = true →
    l.nak = true → 15 ≤ ((bundleAt s (bundleKey b)).nakTimes.filter (fun t => decide (s.clock < t + us 10))).length →
    ∃ t, exec (.linkFlit b l) s = .next t ∧ (bundleAt t (bundleKey b)).st = 1 ∧ t.mem = s.mem ∧ t.coh = s.coh) ∧
  (∀ (b : BundleRef) (zc : Fin 5) (m : ZMsg) (t : Nat) (rest : List (ZMsg × Nat)) (s : State), bundleThere s b →
    (bundleAt s (bundleKey b)).rxq.getD zc.val [] = (m, t) :: rest →
    exec (.zoramAgeDiscard b zc) s = .next (bumpSat .zaged (bundleHalf b).num 31 0 1
      (popMsg (bundleKey b) zc (atTime (t + zAge) s)))) ∧
  (∀ (b : BundleRef) (f : ZFrame) (l : ZLink) (s : State), bundleThere s b →
    bundleUp (bundleAt s (bundleKey b)) = false →
    exec (.frameReceive b f) s = .next s ∧ exec (.linkFlit b l) s = .next s) ∧
  (∀ (b : BundleRef) (st : Fin 5) (rx tx : BitVec 16) (s : State), bundleThere s b →
    exec (.bundleState b st rx tx) s = .next (setBundle (bundleKey b) { bundleAt s (bundleKey b) with
      peerRx := rx, txAcked := rx + 1
      replay := (bundleAt s (bundleKey b)).replay.filter (fun e => !seqLe e.1 rx)
      st := if bundleUp (bundleAt s (bundleKey b)) && decide (st.val ≠ 2 ∧ st.val ≠ 3) then st.val
        else (bundleAt s (bundleKey b)).st } (sideGot (bundleSb b) 0x08
      ([BitVec.ofNat 8 (bundleNum b), BitVec.ofNat 8 st.val] ++ natLe 2 rx.toNat ++ natLe 2 tx.toNat) s)))

/-- Bundles train, retrain and change the list in use (R335, R336, R343, R356, R357, R358, R359). A training of the halves
gives each bundle the width that both directions carry, and sets the list in use; the halves are joined when at least
12 of 16 bundles are up. A retrain of a bundle between the halves gives it a new width, and with fewer than 12 up H1
is fenced. A SPLICE with a good CRC sets the far view, one with a bad CRC is acknowledged only. Halves that are parted
change nothing. -/
def Obligations.ZoramTrains : Prop :=
  (∀ (dirs : List (DirTraining × DirTraining)) (s : State), s.part = .mb2 → farGone s = false →
    exec (.zoramTraining dirs) s = .next (bundlesCheck (trainAll dirs s))) ∧
  (∀ (dirs : List (DirTraining × DirTraining)) (h : Half) (n : Fin 16) (rx tx : DirTraining) (s : State),
    s.part = .mb2 → farGone s = true →
    exec (.zoramTraining dirs) s = .next s ∧ exec (.bundleRetrain (.z h n) rx tx) s = .next s) ∧
  (∀ (h : Half) (n : Fin 16) (rx tx : DirTraining) (s : State), s.part = .mb2 → farGone s = false →
    exec (.bundleRetrain (.z h n) rx tx) s = .next (bundlesCheck (retrainCore (.z h n) rx tx s))) ∧
  (∀ (g c : Fin 4) (rx tx : DirTraining) (s : State), hasHalf s (halfOf 2 g) = true →
    exec (.bundleRetrain (.site g c) rx tx) s = .next (retrainCore (.site g c) rx tx s)) ∧
  (∀ (h : Half) (s : State), s.part = .mb2 → bundlesUp s h = (if h = .h0 then s.zor.upList0 else s.zor.upList1) →
    exec (.bundleListChange (.half h)) s = .next (forEach (bundlesUp (applyList h s) h)
      (fun n => zPump (16 * h.num + n) h) (applyList h s))) ∧
  (∀ (g : Fin 4) (s : State), hasHalf s (halfOf 2 g) = true →
    (∀ b ∈ [0, 1, 2, 3], bundleUp (bundleAt (siteCheck g s) (64 + 4 * g.val + b)) = true) →
    exec (.bundleListChange (.site g)) s = .next (siteCheck g s)) ∧
  (∀ (b : BundleRef) (rxDir : Bool) (view : BitVec 528) (crc : BitVec 32) (s u : State), bundleThere s b →
    u = sideGot (bundleSb b) 0x07 ([BitVec.ofNat 8 (bundleNum b), BitVec.ofNat 8 (if rxDir then inDir b else 1 - inDir b)] ++
      bytesOf 66 view ++ natLe 4 crc.toNat) s →
    (crc32 (bytesOf 66 view) ≠ crc.toNat → exec (.splice b rxDir view crc) s = .next u) ∧
    (crc32 (bytesOf 66 view) = crc.toNat → rxDir = true → exec (.splice b rxDir view crc) s =
      .next (setBundle (bundleKey b) { bundleAt s (bundleKey b) with driverBad := view } u)))

/-- The sideband brings an attachment up (R347, R348, R349, R350, R351). Eight locked training sets in a row end a stage
and the own capabilities go out; a tap request moves each tap by one step within its range and reports the limits; a
message received is acknowledged; an acknowledgement takes the message off the resend list, a message that is not
acknowledged goes again after 10 us and the eighth time restarts the lane; a stage that lasts too long restarts it. A
lost lane is inactive, and restarts when no other is active. -/
def Obligations.SidebandMessages : Prop :=
  (∀ (b : SbRef) (ln : Fin 2) (sg : Fin 6) (o : Bool) (s : State), sbThere s b → 1 ≤ (sbAt s (sbKey b)).stage →
    (sbAt s (sbKey b)).stage < 4 → (∀ h l, b = .half h l → o ≠ decide (h = .h1)) →
    (∃ t, exec (.ts1 b ln sg o false) s = .next t ∧ (sbAt t (sbKey b)).stage = 2 ∧ (sbAt t (sbKey b)).ts1Count = 0 ∧
      (sbAt t (sbKey b)).peerOrient = some o ∧ t.mem = s.mem ∧ t.regs = s.regs) ∧
    ((sbAt s (sbKey b)).ts1Count < 7 → ∃ t, exec (.ts1 b ln sg o true) s = .next t ∧ (sbAt t (sbKey b)).stage = 3 ∧
      (sbAt t (sbKey b)).ts1Count = (sbAt s (sbKey b)).ts1Count + 1 ∧ t.mem = s.mem ∧ t.regs = s.regs) ∧
    (7 ≤ (sbAt s (sbKey b)).ts1Count → ∃ t, exec (.ts1 b ln sg o true) s = .next t ∧ (sbAt t (sbKey b)).stage = 4 ∧
      (sbAt t (sbKey b)).active = true ∧ t.mem = s.mem ∧ t.regs = s.regs)) ∧
  (∀ (b : SbRef) (pre post main : TapReq) (s : State), sbThere s b → 2 ≤ (sbAt s (sbKey b)).stage →
    ∃ t, exec (.tapReq b pre post main) s = .next t ∧
      (sbAt t (sbKey b)).txPre = (tapStep pre (sbAt s (sbKey b)).txPre 8).1 ∧
      (sbAt t (sbKey b)).txPost = (tapStep post (sbAt s (sbKey b)).txPost 16).1 ∧ t.mem = s.mem ∧ t.regs = s.regs) ∧
  (∀ (b : SbRef) (pre : Fin 9) (post : Fin 17) (lim : BitVec 3) (s : State), sbThere s b →
    2 ≤ (sbAt s (sbKey b)).stage →
    exec (.tapAck b pre post lim) s = .next (setSb (sbKey b) { sbAt s (sbKey b) with
      tapPre := pre.val, tapPost := post.val }
      (sideGot b 0x04 [BitVec.ofNat 8 pre.val, BitVec.ofNat 8 post.val, BitVec.ofNat 8 lim.toNat] s))) ∧
  (∀ (b : SbRef) (ty : BitVec 8) (crc : BitVec 16) (s : State), sbThere s b → ty ≠ 0x19 →
    exec (.sbAck b ty crc) s = .next (setSb (sbKey (sbAttach b)) { sbAt s (sbKey (sbAttach b)) with
      sent := (sbAt s (sbKey (sbAttach b))).sent.eraseP
        (fun e => decide (e.1.ty = ty) && decide (sbCrc e.1 = crc.toNat)) } s)) ∧
  (∀ (b : SbRef) (s : State) (m : SbMsg) (n t : Nat) (rest : List (SbMsg × Nat × Nat)), sbThere s b →
    (sbAt s (sbKey (sbAttach b))).sent = (m, n, t) :: rest → 8 ≤ n →
    exec (.sidebandResend b) s = .next (restartSb b (modSb (sbKey (sbAttach b)) (fun x => { x with sent := [] })
      (atTime (t + us 10) s)))) ∧
  (∀ (b : SbRef) (s : State), sbThere s b → 1 ≤ (sbAt s (sbKey b)).stage → (sbAt s (sbKey b)).stage ≤ 4 →
    exec (.sidebandStageTimeout b) s = .next (restartSb b
      (atTime ((sbAt s (sbKey b)).stageT + stageLimit (sbAt s (sbKey b)).stage) s))) ∧
  (∀ (g : Fin 4) (why : LaneLoss) (s : State), hasHalf s (halfOf 2 g) = true → (sbAt s (sbKey (.site g))).stage ≠ 0 →
    (siteAt s g).st ≠ 2 → ∃ t, exec (.sbLaneLoss (.site g) why) s = .next t ∧ (sbAt t (sbKey (.site g))).active = false ∧ t.mem = s.mem) ∧
  (∀ (b : SbRef) (n : Nat) (s : State), sbThere s b → (sbAt s (sbKey b)).eyeRun = true →
    exec (.eyeScanDone b n) s = .next (setSb (sbKey b) { sbAt s (sbKey b) with
      eyeRun := false, eyeErrors := min (2 ^ 31 - 1) n } s)) ∧
  (∀ (ag : Agent) (g : Fin 4) (v : BitVec 32) (new : Nat) (s : State),
    storeOk ag (halfOf 2 g) .gsEyeCtl g.val v.toNat new s → natBit 31 new = true →
    (sbAt s (sbKey (.site g))).eyeRun = false →
    exec (.eyeGo ag (.site g) v) s = .next (stored ag (halfOf 2 g) .gsEyeCtl g.val (setSb (sbKey (.site g))
      { sbAt s (sbKey (.site g)) with eyeRun := true } (rput .gsEyeCtl g.val (new % 2 ^ 31) s))))

/-- Capabilities, grants and the opening of a guest site (R348, R352, R353, R365). A capability record at stage 4 of the
lanes between the halves is granted Zoram 2 with sixteen bundles; one of a guest site in BRINGUP takes what both ends
allow, and no common value leaves the site as it was with a record. A grant ends stage 4. OPEN written 1 begins
BRINGUP of a site that is not ACTIVE, and written 0 fences an open one. -/
def Obligations.CapabilitiesAreGranted : Prop :=
  (∀ (h : Half) (l : Fin 2) (c : CapRec) (s : State), s.part = .mb2 → (sbAt s (sbKey (.half h l))).stage = 4 →
    ∃ t, exec (.cap (.half h l) c) s = .next t ∧ (sbAt t (sbKey (.half h l))).stage = 5 ∧ t.mem = s.mem ∧ t.regs = s.regs) ∧
  (∀ (g : Fin 4) (c : CapRec) (s : State), hasHalf s (halfOf 2 g) = true → (sbAt s (sbKey (.site g))).stage = 4 →
    (siteAt s g).st = 1 →
    siteOutcome (setSite g { siteAt s g with vendor := c.vendor, product := c.product, capRec := capBytes c } s) g c = none →
    ∃ t, exec (.cap (.site g) c) s = .next t ∧ (siteAt t g).st = 1 ∧ (siteAt t g).capRec = capBytes c ∧ t.mem = s.mem ∧
      t.regs = s.regs) ∧
  (∀ (b : SbRef) (c : CapRec) (s : State), sbThere s b → (sbAt s (sbKey b)).stage ≠ 4 →
    exec (.cap b c) s = .next (sideGot b 0x05 (capBytes c) s)) ∧
  (∀ (h : Half) (l : Fin 2) (c : CapRec) (s : State), s.part = .mb2 →
    exec (.capGrant (.half h l) c) s = .next (setSb (sbKey (.half h l))
      (if (sbAt s (sbKey (.half h l))).stage = 4 then { sbAt s (sbKey (.half h l)) with stage := 5 }
        else sbAt s (sbKey (.half h l))) (sideGot (.half h l) 0x06 (capBytes c) s))) ∧
  (∀ (ag : Agent) (g : Fin 4) (v : BitVec 32) (new : Nat) (s : State),
    storeOk ag (halfOf 2 g) .gsCtl g.val v.toNat new s →
    (domAt s (35 * (halfOf 2 g).num + 33 + g.val % 2)).st ≠ 2 →
    (natBit 0 new = true → rbit s .gsCtl g.val 0 = false → exec (.gsOpenWrite ag g v) s =
      .next (stored ag (halfOf 2 g) .gsCtl g.val (startSb (.site g) (setSite g { SiteSt.init with st := 1 }
        (rput .gsCtl g.val new s))))) ∧
    (natBit 0 new = rbit s .gsCtl g.val 0 → (siteAt s g).st ≠ 3 → (siteAt s g).st ≠ 0 → exec (.gsOpenWrite ag g v) s =
      .next (stored ag (halfOf 2 g) .gsCtl g.val (rput .gsCtl g.val new s))))

/-- What a guest or the other half may ask (R346, R359, R361, R362, R363). A guest's message that its function, its class
or its tag does not allow is a violation: it leaves the queue, is counted and answered ERROR; a good one is passed on.
A signal, a wait or a configuration access of the other half acts as one of its own (a wait that was withdrawn
meanwhile changes nothing); one of a guest acts only in the wide firewall class and for the function of its site. A
fence of a guest is answered when its accesses are done. H1's notice of its own reset or its fence parts the halves; a
snoop limit fences the site with cause 2. -/
def Obligations.GuestsAndHalvesAreServed : Prop :=
  (∀ (g b : Fin 4) (zc : Fin 5) (s : State) (m : ZMsg) (t : Nat) (rest : List (ZMsg × Nat)),
    hasHalf s (halfOf 2 g) = true → (siteAt s g).st = 2 →
    (bundleAt s (64 + 4 * g.val + b.val)).rxq.getD zc.val [] = (m, t) :: rest →
    exec (.guestMessage g b zc) s = .next (if firewallOk s g m = false then violate g m (popMsg (64 + 4 * g.val + b.val) zc s)
      else if mustWait s g m then s else guestPass g m (popMsg (64 + 4 * g.val + b.val) zc s))) ∧
  (∀ (g : Fin 4) (s : State), hasHalf s (halfOf 2 g) = true → (siteAt s g).st ≠ 2 →
    (∀ (b : Fin 4) (zc : Fin 5), exec (.guestMessage g b zc) s = .next s) ∧
    (∀ (tag : BitVec 12) (sc : Scope), exec (.fence g tag sc) s = .next s)) ∧
  (∀ (g : Fin 4) (tag : BitVec 12) (sc : Scope) (s : State), hasHalf s (halfOf 2 g) = true → (siteAt s g).st = 2 →
    guestDone s g sc = true → exec (.fence g tag sc) s = .next (zSend (.site g) 0
      (.zService (.site g) 2 (zHead s (.site g) (siteFunc s g) tag.toNat) 0 0) s)) ∧
  (∀ (g : Fin 4) (c : SiteCause) (n : Nat) (s : State), hasHalf s (halfOf 2 g) = true →
    (c, n) ∈ ([(.link, 1), (.snoop, 2), (.violation, 3), (.command, 4)] : List (SiteCause × Nat)) →
    exec (.guestSiteFence g c) s = .next (fenceSite g n s)) ∧
  (∀ (g : Fin 4) (s : State) (t : Nat) (rest : List Nat), hasHalf s (halfOf 2 g) = true → (siteAt s g).st = 2 →
    (s.coh.snoops.filter (fun e => decide (e.2.holder = .site (Fin.ofNat 4 g)))).map (fun e => e.2.t) = t :: rest →
    exec (.snoopLimitExpire g) s = .next (fenceSite g 2
      (atTime (rest.foldl min t + us (max 1 (rbits s .gsCtl g 23 16))) s))) ∧
  (∀ (h : Half) (f : Fin 16) (cue : BitVec 32) (inc : Fin 256) (tag : BitVec 12) (thr : BitVec 16) (c : Bool) (s : State),
    s.part = .mb2 → s.zor.halves = 1 →
    exec (.signal (.half h) f cue inc) s = .next (cueSignal cue inc s) ∧
    ((s.zor.xWaits.find? (4096 * h.num + tag.toNat)).isSome = true →
      exec (.wait (.half h) f tag cue thr c) s = .next (cueWait cue ⟨.half h tag.toNat, thr.toNat, c⟩ s)) ∧
    (s.zor.xWaits.find? (4096 * h.num + tag.toNat) = none → exec (.wait (.half h) f tag cue thr c) s = .next s)) ∧
  (∀ (g : Fin 4) (f : Fin 16) (cue : BitVec 32) (inc : Fin 256) (s : State), hasHalf s (halfOf 2 g) = true →
    (siteAt s g).st = 2 → f.val = siteFunc s g → (siteAt s g).fwClass = 2 → malformed cue = false →
    cueFunc s (cueNum cue) = some f.val → exec (.signal (.site g) f cue inc) s = .next (cueSignal cue inc s)) ∧
  (∀ (h : Half) (tag : BitVec 12) (s : State) (w : Waiter), hasHalf s h = true →
    s.zor.xWaits.find? (4096 * h.num + tag.toNat) = some w →
    exec (.waitDone h tag) s = .next (wake 0 ⟨w, 0, true⟩
      { s with zor := { s.zor with xWaits := s.zor.xWaits.erase (4096 * h.num + tag.toNat) } })) ∧
  (∀ (src : ZSrc) (f : Fin 16) (tag : BitVec 12) (addr : BitVec 48) (v : BitVec 32) (s : State) (ag : Agent) (w : Writer),
    sideThere s src → zHeard s src = true → zWriter s src f = (ag, some w) → addr.toNat % 4 = 0 →
    cfgDenied s w (cfgSpot s w addr.toNat) = none →
    exec (.cfgRd src f tag addr 4) s = .next (zCfgAnswer src tag.toNat (cfgFetch (cfgSpot s w addr.toNat) s).1 false
      (cfgFetch (cfgSpot s w addr.toNat) s).2) ∧
    exec (.cfgWr src f tag addr 4 v) s = .next (zCfgAnswer src tag.toNat 0 false
      (cfgApply w ag addr.toNat v.toNat (cfgSpot s w addr.toNat) s))) ∧
  (∀ (h : Half) (st : Fin 16) (b : Fin 5) (s : State), s.part = .mb2 → halfOf 8 st ≠ h →
    exec (.band h st b) s = .next (setStack st { stackAt s st with noticeBand := b } s)) ∧
  (∀ (why : FenceWhy) (s : State), hasHalf s .h1 = true →
    exec (.fenceH1 why) s = .next (fenceH1 3 s) ∧ exec (.resetNotice .h0) s = .next (fenceH1 3 (sideGot (.half .h0 0) 0x09 [] s)) ∧
    exec .h0LossAtH1 s = .next (h1Loses s) ∧ exec (.resetNotice .h1) s = .next (h1Loses (sideGot (.half .h1 0) 0x09 [] s)))

/-- The host link, its frames and its announcements (R367, R368, R370, R376). While the link is down no frame has an
effect. A frame with a bad check is counted in FCS_ERR and dropped; one with no VLAN tag while VLAN is enabled is
dropped; one for another address is counted in RX_DISCARDS. The link going down ends the pause of every priority; it
comes up with a module present and an announcement. A pause frame pauses the priorities it names, and resuming lets
held frames go in order. -/
def Obligations.HostLinkAndFrames : Prop :=
  (∀ (f : EthFrame) (en pa : BitVec 8) (d : BitVec 24) (r : RoceResp) (o : OpenReq) (s : State), s.host.link ≠ 1 →
    exec (.ethFrameReceive f) s = .next s ∧ exec (.pfcFrame en pa) s = .next s ∧ exec (.roceResponse d r) s = .next s ∧
    exec (.congestionNotification d) s = .next s ∧ exec (.ctOpen o) s = .next s) ∧
  (∀ (f : EthFrame) (s : State), s.host.link = 1 → f.fcsOk = false →
    exec (.ethFrameReceive f) s = .next (bumpSat .fcsErr 0 31 0 1 s)) ∧
  (∀ (f : EthFrame) (p : BitVec 16) (s : State), s.host.link = 1 → f.fcsOk = true → f.body = .udp p →
    (rbit s .hpNet 0 26 = true → f.tagged = false → exec (.ethFrameReceive f) s = .next s) ∧
    ((rbit s .hpNet 0 26 = false ∨ f.tagged = true) → takesMac s f.dest = false →
      exec (.ethFrameReceive f) s = .next (bumpSat .rxDiscards 0 31 0 1 s)) ∧
    ((rbit s .hpNet 0 26 = false ∨ f.tagged = true) → takesMac s f.dest = true → p.toNat ≠ 4791 → p.toNat ≠ 47210 →
      exec (.ethFrameReceive f) s = .next (bumpSat .rxDiscards 0 31 0 1 s))) ∧
  (∀ s : State, s.host.link ≠ 0 → ∃ t, exec .hostLinkDown s = .next t ∧ t.host.link = 0 ∧ t.host.paused = 0 ∧
    t.host.held = [] ∧ t.host.sessions = s.host.sessions ∧ t.host.qps = s.host.qps ∧ t.mem = s.mem ∧ t.regs = s.regs ∧
    t.coh = s.coh) ∧
  (∀ s : State, s.host.link = 0 → exec .hostLinkDown s = .next s) ∧
  (∀ s : State, s.host.link ≠ 1 → s.pins.modPresentN = false → (s.pwr.doms.getD 31 DomSt.init).st = 1 →
    ∃ t, exec .hostLinkUp s = .next t ∧ t.host.link = 1 ∧ t.host.laneLock = 0xFF ∧ t.host.lastAnnounce = s.clock ∧
      t.mem = s.mem ∧ t.regs = s.regs ∧ t.coh = s.coh) ∧
  (∀ s : State, f0Open s = false →
    exec .announceTimer s = .next (announce (atTime (s.host.lastAnnounce + 1 * 1000 * ms 1) s))) ∧
  (∀ (a : BitVec 128) (s : State), exec (.discover a) s = .next (hostEmit 0 (.announce a (announceBytes s)) s)) ∧
  (∀ (en pa : BitVec 8) (s : State), s.host.link = 1 → s.host.held = [] →
    ∃ t, exec (.pfcFrame en pa) s = .next t ∧ t.host.paused = (s.host.paused &&& ~~~en) ||| (en &&& pa) ∧ t.out = s.out ∧
      t.mem = s.mem ∧ t.regs = s.regs)

/-- The base as responder (R371, R374, R375). A write with a good key stores its bytes as an access of the QP's function,
is acknowledged, and the expected number rises by one. A request whose key does not allow it gets NAK code 2 and the
QP goes to ERR; where the key fits but the function may not reach the bytes, the refusal is recorded too. A request
with a bad ICRC is counted and dropped; one for no QP is stale; one ahead of the expected number gets NAK code 0; one
behind is answered again and changes no memory. -/
def Obligations.RdmaRequestsAreServed : Prop :=
  (∀ (b : Bth) (va : BitVec 64) (rkey : BitVec 32) (bytes : List (BitVec 8)) (s t : State) (n : Nat),
    s.host.link = 1 → b.icrcOk = true → qpNamed s b.dqpn = some n → ((qpAt s n).st = 2 ∨ (qpAt s n).st = 3) →
    psnFrom b.psn.toNat (rget (notice b n s) .qpRqPsn n) = 0 →
    keyOk (notice b n s) n rkey 6 va bytes.length = true →
    hostPut (.host (Fin.ofNat 16 ((qpFunc (notice b n s) n).getD 0))) (bytes.length / 32 + 2) va.toNat bytes
      (notice b n s) = (.ok, t) →
    exec (.rdmaWriteRequest b va rkey bytes) s = .next (qpEmit n (.roce n 0x11 b.psn.toNat 0 0 0 [])
      (rput .qpRqPsn n (psnAdd b.psn.toNat 1) t))) ∧
  (∀ (b : Bth) (va : BitVec 64) (rkey len : BitVec 32) (bytes : List (BitVec 8)) (op cmp : BitVec 64) (perm : Nat)
    (size : Nat) (cmd : Instr) (s : State) (n : Nat),
    (perm, size, cmd) ∈ ([(6, bytes.length, .rdmaWriteRequest b va rkey bytes),
      (5, len.toNat, .rdmaReadRequest b va rkey len), (7, 8, .fetchAdd b va rkey op),
      (7, 8, .cmpSwap b va rkey cmp op)] : List (Nat × Nat × Instr)) →
    s.host.link = 1 → b.icrcOk = true → qpNamed s b.dqpn = some n → ((qpAt s n).st = 2 ∨ (qpAt s n).st = 3) →
    psnFrom b.psn.toNat (rget (notice b n s) .qpRqPsn n) = 0 → keyOk (notice b n s) n rkey perm va size = false →
    (keyFits (notice b n s) n rkey perm va size = false →
      exec cmd s = .next (qpError n 3 (qpEmit n (.roceNak n 2 b.psn.toNat) (notice b n s)))) ∧
    (keyFits (notice b n s) n rkey perm va size = true →
      exec cmd s = .next (qpError n 3 (qpEmit n (.roceNak n 2 b.psn.toNat)
        (cfgEvent (.host (Fin.ofNat 16 ((qpFunc (notice b n s) n).getD 0))) va.toNat 25 (notice b n s)))))) ∧
  (∀ (b : Bth) (va : BitVec 64) (rkey len : BitVec 32) (bytes : List (BitVec 8)) (op cmp : BitVec 64)
    (cmd : Instr) (s : State),
    cmd ∈ ([.rdmaWriteRequest b va rkey bytes, .rdmaReadRequest b va rkey len, .fetchAdd b va rkey op,
      .cmpSwap b va rkey cmp op] : List Instr) → s.host.link = 1 →
    (b.icrcOk = false → exec cmd s = .next (bumpSat .icrcErr 0 31 0 1 s)) ∧
    (b.icrcOk = true → qpNamed s b.dqpn = none → exec cmd s = .next (staleMsg .h0 s)) ∧
    (∀ n, b.icrcOk = true → qpNamed s b.dqpn = some n → ((qpAt s n).st = 2 ∨ (qpAt s n).st = 3) →
      psnFrom b.psn.toNat (rget (notice b n s) .qpRqPsn n) ≠ 0 →
      psnFrom b.psn.toNat (rget (notice b n s) .qpRqPsn n) < 2 ^ 23 →
      exec cmd s = .next (qpEmit n (.roceNak n 0 (rget (notice b n s) .qpRqPsn n)) (notice b n s)))) ∧
  (∀ (b : Bth) (va : BitVec 64) (rkey len : BitVec 32) (s t : State) (n : Nat) (bs : List Byte),
    s.host.link = 1 → b.icrcOk = true → qpNamed s b.dqpn = some n → ((qpAt s n).st = 2 ∨ (qpAt s n).st = 3) →
    psnFrom b.psn.toNat (rget (notice b n s) .qpRqPsn n) = 0 → keyOk (notice b n s) n rkey 5 va len.toNat = true →
    hostGet (.host (Fin.ofNat 16 ((qpFunc (notice b n s) n).getD 0))) (va.toNat + len.toNat) (len.toNat / 32 + 2) va.toNat []
      (notice b n s) = (some (bs, false, false), t) →
    let span := max 1 ((len.toNat + qpMtu t n - 1) / qpMtu t n)
    exec (.rdmaReadRequest b va rkey len) s = .next (rput .qpRqPsn n (psnAdd b.psn.toNat span)
      (sendResponse n span b.psn.toNat bs t))) ∧
  (∀ (b : Bth) (va : BitVec 64) (rkey : BitVec 32) (op cmp : BitVec 64) (a : Atomic) (cmd : Instr) (s t u : State)
    (n : Nat) (l : Loc) (old : BitVec 64),
    (a, cmd) ∈ ([(⟨.fetchAdd, .int64, op, 0⟩, .fetchAdd b va rkey op), (⟨.cas, .b64, op, cmp⟩, .cmpSwap b va rkey cmp op)] :
      List (Atomic × Instr)) →
    s.host.link = 1 → b.icrcOk = true → qpNamed s b.dqpn = some n → ((qpAt s n).st = 2 ∨ (qpAt s n).st = 3) →
    psnFrom b.psn.toNat (rget (notice b n s) .qpRqPsn n) = 0 → keyOk (notice b n s) n rkey 7 va 8 = true →
    va.toNat % 8 = 0 →
    engFenced (notice b n s) (.host (Fin.ofNat 16 ((qpFunc (notice b n s) n).getD 0))) va.toNat = false →
    locOf (notice b n s) va.toNat = some l → ownReady (.host (Fin.ofNat 16 ((qpFunc (notice b n s) n).getD 0))) none .write l.sl l.line (notice b n s) = (true, t) →
    atomicAt l.sl l.line (.host (Fin.ofNat 16 ((qpFunc (notice b n s) n).getD 0))) ((qpFunc (notice b n s) n).getD 0) a
      (va.toNat % 128) t = some (some old, u) →
    ∃ v, exec cmd s = .next v ∧ v.mem = u.mem ∧ v.coh = u.coh ∧
      (qpAt v n).atoms = ((b.psn.toNat, old) :: (qpAt u n).atoms).take 16)

/-- The base as requester (R372, R373, R376). An acknowledgement takes the packets it covers off the queue pair, read data
brings the bytes of the oldest read; a sequence NAK sends again, at most RETRY times; a receiver-not-ready NAK sends
again, at most RNR times; another error puts the QP in ERR. A timeout counts as a retry. A congestion notification
halves the rate, and each 55 us without one gives back a sixteenth of the line rate. -/
def Obligations.RdmaResponsesMoveTheQueuePair : Prop :=
  (∀ (d : BitVec 24) (s : State) (n : Nat) (psn : BitVec 24) (bytes : List (BitVec 8)), s.host.link = 1 →
    qpNamed s d = some n → (qpAt s n).st = 3 →
    exec (.roceResponse d (.ack psn)) s = .next (qpAck n psn.toNat s) ∧
    exec (.roceResponse d (.readData psn bytes)) s = .next (qpReadData n psn.toNat bytes s) ∧
    ((qpAt (qpAck n (psnFrom psn.toNat 1) s) n).sent ≠ [] →
      exec (.roceResponse d (.seqNak psn)) s = .next (qpRetry n (qpAck n (psnFrom psn.toNat 1) s))) ∧
    ((qpAt (qpAck n (psnFrom psn.toNat 1) s) n).sent = [] →
      exec (.roceResponse d (.seqNak psn)) s = .next (qpAck n (psnFrom psn.toNat 1) s)) ∧
    (rbits (qpAck n (psnFrom psn.toNat 1) s) .qpPath n 8 6 ≤ (qpAt (qpAck n (psnFrom psn.toNat 1) s) n).rnrs + 1 →
      exec (.roceResponse d (.rnrNak psn)) s = .next (qpError n 1 (qpAck n (psnFrom psn.toNat 1) s)))) ∧
  (∀ (d : BitVec 24) (r : RoceResp) (s : State), s.host.link = 1 → qpNamed s d = none →
    exec (.roceResponse d r) s = .next (staleMsg .h0 s) ∧ exec (.congestionNotification d) s = .next (staleMsg .h0 s)) ∧
  (∀ (q : Fin 4096) (s : State), (qpAt s q).st = 3 → (qpAt s q).sent ≠ [] →
    exec (.roceAckTimeout q) s = .next (qpRetry q (atTime ((qpAt s q).lastT + qpTimeout s q) s))) ∧
  (∀ (q : Fin 4096) (s : State), ((qpAt s q).st ≠ 3 ∨ (qpAt s q).sent = []) → exec (.roceAckTimeout q) s = .next s) ∧
  (∀ (d : BitVec 24) (s : State) (n : Nat), s.host.link = 1 → qpNamed s d = some n →
    exec (.congestionNotification d) s = .next (setQp n { qpAt s n with
      rate := (qpAt s n).rate / 2, lastCnp := some s.clock, lastRec := s.clock } s)) ∧
  (∀ (q : Fin 4096) (s : State), (qpAt s q).rate < 65536 →
    exec (.rateRecovery q) s = .next (setQp q { qpAt s q with
      rate := min 65536 ((qpAt s q).rate + 4096)
      lastRec := max s.clock (max (qpAt s q).lastRec ((qpAt s q).lastCnp.getD 0) + us 55) }
      (atTime (max (qpAt s q).lastRec ((qpAt s q).lastCnp.getD 0) + us 55) s))) ∧
  (∀ (q : Fin 4096) (s : State), 65536 ≤ (qpAt s q).rate → exec (.rateRecovery q) s = .next s)

/-- Sessions, entries and their acknowledgements (R377, R378, R379, R380, R381, R383). OPEN with a good check and a free
session opens one with a new take; a bad check is refused with 2, no session left with 4. ENTRIES in order of at most
eight entries that have free slots are written to the reel and accepted; ones received before are only acknowledged;
ones with no slot are refused with 3. A datagram of a closed session is refused and changes no session. A resend that
was made eight times loses the session, and ten minutes later it closes. -/
def Obligations.SessionsCarryCommands : Prop :=
  (∀ (o : OpenReq) (s : State), s.host.link = 1 →
    openOk s o = false →
    exec (.ctOpen o) s = .next (ctRefuse 0 2 s)) ∧
  (∀ (o : OpenReq) (s : State), s.host.link = 1 →
    openOk s o = true →
    (freeSession s o.func.val = none → exec (.ctOpen o) s = .next (ctRefuse 0 4 s)) ∧
    (∀ n, freeSession s o.func.val = some n → o.func.val ≠ 0 → ∃ t, exec (.ctOpen o) s = .next t ∧ (sesAt t n).st = 1 ∧
      (sesAt t n).func = o.func.val ∧ (sesAt t n).c = clampTo 4 10 o.c ∧ (sesAt t n).e = clampTo 6 12 o.e ∧
      t.mem = s.mem ∧ t.regs = s.regs)) ∧
  (∀ (g : CtGram) (s t : State) (n : Nat), ctTake 0x10 g s = (some n, t) → g.seq ≠ (sesAt t n).rxSeq + 1 →
    exec (.entries g) s = .next (if ((sesAt t n).rxSeq.toNat + 2 ^ 32 - g.seq.toNat) % 2 ^ 32 < 2 ^ 31 then
      sendCt n 0x20 0 [] t else t)) ∧
  (∀ (g : CtGram) (s t : State) (n : Nat), ctTake 0x10 g s = (some n, t) → g.seq = (sesAt t n).rxSeq + 1 →
    let l := chunks 128 (g.payload.length / 128) g.payload
    g.payload.length % 128 = 0 → l.length ≠ 0 → l.length ≤ 8 → entriesOk (sesAt t n).nextIndex l = true →
    (freeSlots (sesAt t n) < l.length → exec (.entries g) s = .next (ctRefuse g.ses 3 t)) ∧
    (l.length ≤ freeSlots (sesAt t n) → exec (.entries g) s = .next (sendCt n 0x20 0 [] (acceptEntries n l
      (forEach l (fun e s => fwPut (reelBase s n 0 + 128 * (entIndex e % 2 ^ (sesAt t n).c)) e s)
        (sesHeard n (modSes n (fun x => { x with rxSeq := g.seq }) t))))))) ∧
  (∀ (g : CtGram) (s t : State), ctTake 0x10 g s = (none, t) → exec (.entries g) s = .next t) ∧
  (∀ (g : CtGram) (s t : State) (n : Nat), ctTake 0x20 g s = (some n, t) → exec (.ctAck g) s = .next (sesHeard n t)) ∧
  (∀ (g : CtGram) (s t : State) (n : Nat), ctTake 0x05 g s = (some n, t) → (sesAt t n).st ≠ 0 →
    exec (.ctClose g) s = .next (callAdvance (sesTakeKey n) (setSes n SesSt.init t))) ∧
  (∀ (n : Fin 64) (s : State), (sesAt s n).st = 1 → (sesAt s n).unacked ≠ [] →
    (8 ≤ (sesAt s n).resends → exec (.ctResend n) s = .next (setSes n { sesAt s n with
      st := 2, lostT := max s.clock ((sesAt s n).lastSend + ctRto s) } (atTime ((sesAt s n).lastSend + ctRto s) s))) ∧
    ((sesAt s n).resends < 8 → exec (.ctResend n) s = .next (resendAll n (setSes n { sesAt s n with
      resends := (sesAt s n).resends + 1 } (atTime ((sesAt s n).lastSend + ctRto s) s))))) ∧
  (∀ (n : Fin 64) (s : State), (sesAt s n).st = 2 →
    exec (.sessionLostTimeout n) s = .next (closeSes n (atTime ((sesAt s n).lostT + 600 * 1000 * ms 1) s))) ∧
  (∀ (c : CmdRef) (s : State) (x : CmdSt), (sesAt s c.ses.val).cmds.find? (fun y => decide (y.index = c.index)) = some x →
    x.pendSent = false →
    exec (.autoPending c) s = .next (complete c.ses.val c.index 1 [] false true (atTime (x.t + us 900) s))) ∧
  (∀ (ag : Agent) (n : Fin 64) (v : BitVec 32) (new : Nat) (s : State),
    (storeOk ag .h0 .sesCmdDb n.val v.toNat new s → ((sesAt s n).st = 0 ∨ (sesAt s n).isLocal = false) →
      exec (.sesCmdDb ag n v) s = .next (stored ag .h0 .sesCmdDb n.val s)) ∧
    (storeOk ag .h0 .sesCmdDb n.val v.toNat new s → (sesAt s n).st ≠ 0 → (sesAt s n).isLocal = true →
      (freeSlots (sesAt s n) < (new + 2 ^ 32 - (sesAt s n).nextIndex.toNat) % 2 ^ 32) →
      exec (.sesCmdDb ag n v) s = .next (stored ag .h0 .sesCmdDb n.val (rput .sesCmdDb n.val new s))) ∧
    (storeOk ag .h0 .sesCplHead n.val v.toNat new s → (sesAt s n).st ≠ 0 → (sesAt s n).isLocal = true →
      exec (.sesCplHead ag n v) s = .next (stored ag .h0 .sesCplHead n.val (setSes n { sesAt s n with
        cplHead := BitVec.ofNat 32 new
        cpls := (sesAt s n).cpls.filter (fun e => decide ((e.1.toNat + 2 ^ 32 - new) % 2 ^ 32 < 2 ^ 31)) }
        (rput .sesCplHead n.val new s)))))

/-- A command whose turn has not come, or whose first checks fail (R381, R389, R390, R391, R392). No command of Cadun has
an effect while H0's management processor does not run the firmware, or when its session has no such command, or when
its completion is decided, or before its turn: the state is as it was. One that starts and fails the checks before its
own is completed with that status, and nothing but that is done. -/
def Obligations.CadunTakesCommandsInTurn : Prop :=
  ∀ (r : CmdRef) (rep : BootReport) (tr : TrainReport) (rb : Bool) (op : Nat) (cmd : Instr) (s : State),
    (op, cmd) ∈ ([(0x01, .devInfo r), (0x02, .deviceIdSet r), (0x03, .deviceReset r), (0x10, .funcCreate r),
      (0x11, .funcDestroy r), (0x12, .cut r), (0x13, .funcQuery r), (0x20, .clusterAssign r), (0x21, .clusterRelease r),
      (0x30, .partCreate r), (0x31, .partResize r), (0x32, .partDestroy r), (0x33, .waysSet r), (0x34, .partExport r),
      (0x40, .cueAlloc r), (0x41, .cueFree r), (0x42, .dqAlloc r), (0x43, .dqFree r), (0x44, .regAlloc r), (0x45, .regFree r),
      (0x46, .regSet r), (0x50, .qpAlloc r), (0x51, .qpModify r), (0x52, .qpFree r), (0x53, .mkCreate r), (0x54, .mkDestroy r),
      (0x58, .sessionLocal r), (0x59, .sessionClose r), (0x60, .groupSet r), (0x61, .routeLoad r), (0x70, .slateArm r),
      (0x71, .slateAbort r), (0x80, .guestOpen r), (0x81, .guestFence r), (0x82, .h1Fence r), (0x83, .h1Rejoin r rep),
      (0x84, .stackMaint r tr), (0x85, .retiredList r), (0x90, .fieldRead r), (0x91, .fieldWrite r), (0x92, .fieldWriteGroup r),
      (0xA0, .settingsStore r), (0xA1, .fwWrite r rb), (0xA2, .fwActivate r), (0xA3, .attestQuote r),
      (0xA4, .identityRead r)] : List (Nat × Instr)) →
    (s.cad.mp0.st ≠ 1 → exec cmd s = .next s) ∧
    ((sesAt s r.ses.val).cmds.find? (fun x => decide (x.index = r.index)) = none → exec cmd s = .next s) ∧
    (∀ d, (sesAt s r.ses.val).cmds.find? (fun x => decide (x.index = r.index)) = some d →
      (entOp d.entry ≠ op ∨ d.due ≠ none ∨ (d.started = false ∧ mayStart s r.ses.val d = false)) →
      exec cmd s = .next s) ∧
    (∀ d, (sesAt s r.ses.val).cmds.find? (fun x => decide (x.index = r.index)) = some d → entOp d.entry = op →
      d.due = none → s.cad.mp0.st = 1 → d.started = false → mayStart s r.ses.val d = true →
      preCheck s (sesAt s r.ses.val).func d.entry ≠ csOk →
      exec cmd s = .next (finishCmd r.ses.val r.index (preCheck s (sesAt s r.ses.val).func d.entry) []
        (startCmd r.ses.val r.index s)))

/-- FUNC_CREATE, CUT, FUNC_DESTROY and FUNC_QUERY (R395, R401, R402, R403, R407, R222). FUNC_CREATE of a function that is
FREE makes it ACTIVE and records it; one that is not FREE is BUSY. CUT begins the Cut of an ACTIVE function and is
answered when the Cut is complete, joins one that runs, and is BUSY on a function being released. FUNC_DESTROY cuts it
and, once cut with its partitions released, leaves it FREE. FUNC_QUERY answers its entry. A take that is due advances. -/
def Obligations.FunctionCommands : Prop :=
  (∀ (r : CmdRef) (c : CmdIn) (s t : State), cmdTaken 0x10 r c s t → t.ident.refused = false →
    ((funcAt t (c.b 0)).st = 0 → exec (.funcCreate r) s = cmdOk c []
      (event .h0 0x0101 0 (some (c.b 0)) (c.b 0) 0 395 (setFunc (c.b 0) { funcAt t (c.b 0) with st := 1 } t))) ∧
    ((funcAt t (c.b 0)).st ≠ 0 → exec (.funcCreate r) s = cmdBad c csBusy t)) ∧
  (∀ (r : CmdRef) (c : CmdIn) (s t : State), cmdTaken 0x12 r c s t → c.first = true →
    ((funcAt t (c.b 0)).st = 1 → exec (.cut r) s = .next (settleAll (cutFunc (c.b 0) 1 false (setFunc (c.b 0)
      { funcAt t (c.b 0) with cutWaits := (funcAt t (c.b 0)).cutWaits ++ [(c.ses, c.idx)] } t)))) ∧
    ((funcAt t (c.b 0)).st = 2 → exec (.cut r) s = .next (settleAll (setFunc (c.b 0)
      { funcAt t (c.b 0) with cutWaits := (funcAt t (c.b 0)).cutWaits ++ [(c.ses, c.idx)] } t))) ∧
    ((funcAt t (c.b 0)).st = 3 → exec (.cut r) s = cmdBad c csBusy t)) ∧
  (∀ (r : CmdRef) (c : CmdIn) (s t u : State), cmdTaken 0x11 r c s t → c.first = false →
    ((funcAt t (c.b 0)).st ≠ 3 → exec (.funcDestroy r) s = .next (settleAll t)) ∧
    ((funcAt t (c.b 0)).st = 3 → releaseParts (c.b 0) t = (true, u) → exec (.funcDestroy r) s = cmdOk c []
      (event .h0 0x0101 0 (some (c.b 0)) (c.b 0) 0 403
        (modFunc (c.b 0) (fun x => { x with st := 0, destroy := false }) (releaseRest (c.b 0) u))))) ∧
  (∀ (r : CmdRef) (c : CmdIn) (s t : State), cmdTaken 0x13 r c s t →
    exec (.funcQuery r) s = cmdOk c ([Reg.fnState, .fnClustersH0, .fnClustersH1, .fnMem, .fnCounts, .fnCounts2].flatMap
      (fun x => natLe 4 (readReg x (c.b 0) t).1) ++ zeros 8) t) ∧
  (∀ (n : Fin 4096) (s : State), (takeSt s (takeKey (.qp n))).due = true →
    exec (.takeAdvance (.qp n)) s = .next (settleCadun (stepTake (takeKey (.qp n))
      (atTime ((takeSt s (takeKey (.qp n))).last.getD 0 + ms 1) s))))

/-- Clusters, partitions, ways and exports (R395, R396, R397, R398, R399, R400). CLUSTER_ASSIGN of free clusters of the
half gives each to the function, CLUSTER_RELEASE takes its own back; one of another owner is NO_RESOURCE. PART_CREATE
takes the lowest run of free segments and the lowest free partition; PART_RESIZE grows or shrinks it; PART_DESTROY
releases it. WAYS_SET writes the map of the ways whose role changes once they are empty; PART_EXPORT sets SEG_EXPORT
of its segments once lost permissions are recalled, and ends the holds that it set itself. -/
def Obligations.ClusterAndPartitionCommands : Prop :=
  (∀ (r : CmdRef) (c : CmdIn) (s t : State), cmdTaken 0x20 r c s t → clusterArgs c t = csOk →
    let l := clusterList (c.b 1) (c.n 4 4)
    ((∀ n ∈ l, hasLogical t (halfOf 18 n) (n % 18) = true ∧ regStopped t .clusterOwner n = true ∧
        (clusterFunc t (halfOf 18 n) (n % 18) = none ∨ clusterFunc t (halfOf 18 n) (n % 18) = some (c.b 0))) →
      exec (.clusterAssign r) s = cmdOk c [] (forEach l (fun n s => rput .clusterOwner n (c.b 0 + 16) s) t)) ∧
    ((∃ n ∈ l, ∃ g, clusterFunc t (halfOf 18 n) (n % 18) = some g ∧ g ≠ c.b 0) →
      exec (.clusterAssign r) s = cmdBad c csNoResource t)) ∧
  (∀ (r : CmdRef) (c : CmdIn) (s t : State), cmdTaken 0x21 r c s t → clusterArgs c t = csOk →
    let l := clusterList (c.b 1) (c.n 4 4)
    ((∀ n ∈ l, clusterFunc t (halfOf 18 n) (n % 18) = some (c.b 0) ∧ regStopped t .clusterOwner n = true) →
      exec (.clusterRelease r) s = cmdOk c [] (forEach l (fun n s => rput .clusterOwner n 0 s) t)) ∧
    ((∃ n ∈ l, clusterFunc t (halfOf 18 n) (n % 18) ≠ some (c.b 0)) →
      exec (.clusterRelease r) s = cmdBad c csNoResource t)) ∧
  (∀ (r : CmdRef) (c : CmdIn) (s t u : State) (a p : Nat), cmdTaken 0x30 r c s t → c.b 1 = 2 → 0 < c.n 4 4 →
    c.n 4 4 ≤ segCount t → halfCheck t (c.b 2) = csOk → t.ident.refused = false → halfOpen t (Half.ofBit (c.b 2)) = true →
    freeRun t (c.n 4 4) = some a → freePart t = some p →
    mapSegs 2 (Half.ofBit (c.b 2)) p ((List.range (c.n 4 4)).map (fun k => a + k)) t = some u →
    exec (.partCreate r) s = cmdOk c (natLe 4 p ++ natLe 2 a) (rput .partCfg p (c.b 0 + 0x30) u)) ∧
  (∀ (r : CmdRef) (c : CmdIn) (s t u : State), cmdTaken 0x31 r c s t → 0 < c.n 4 4 → c.n 4 4 < (partSegs t (c.b 0)).length →
    c.n 4 4 ≤ segCount t → partCheck t (c.b 0) = csOk → keptPart t (c.b 0) = false →
    releaseSegs ((partSegs t (c.b 0)).drop (c.n 4 4)) t = (true, u) →
    exec (.partResize r) s = cmdOk c (natLe 4 0 ++ natLe 2 ((partSegs t (c.b 0)).headD 0)) u) ∧
  (∀ (r : CmdRef) (c : CmdIn) (s t u : State), cmdTaken 0x32 r c s t → partCheck t (c.b 0) = csOk →
    (keptPart t (c.b 0) = true → exec (.partDestroy r) s = cmdBad c csDenied t) ∧
    (keptPart t (c.b 0) = false → releasePartition (c.b 0) t = (true, u) → exec (.partDestroy r) s = cmdOk c [] u)) ∧
  (∀ (r : CmdRef) (c : CmdIn) (s t u : State), cmdTaken 0x33 r c s t → partCheck t (c.b 0) = csOk →
    halfCheck t (c.b 1) = csOk → c.n 2 2 &&& c.n 4 2 = 0 → partNear t (c.b 0) = none →
    (∀ n ∈ waysNamed t c, rbit t .wayMap n 6 = false ∨ rbits t .wayMap n 5 0 = c.b 0) →
    emptyWays (Half.ofBit (c.b 1)) ((waysChanged t c).foldl (fun m n => m + 2 ^ (n % 16)) 0)
      (forEach (waysChanged t c) (fun n s => holdWay n true s) (when c.first (noteHolds (cmdKey c.ses c.idx)
        ((waysChanged t c).filter (fun n => !rbit t .wayMap n 9))) t)) = (true, u) →
    exec (.waysSet r) s = cmdOk c [] (dropHolds (cmdKey c.ses c.idx)
      (forEach (waysChanged t c) (fun n s => wayMapAct n (wayValue s c n) s) u))) ∧
  (∀ (r : CmdRef) (c : CmdIn) (s t u : State), cmdTaken 0x34 r c s t → c.b 1 < 4 → partCheck t (c.b 0) = csOk →
    (∀ g ∈ partSegs t (c.b 0), segOutOfService t g = false) →
    (slateAt t ((partFunc t (c.b 0)).getD 0)).st = .idle →
    let l := partSegs t (c.b 0)
    let held := forEach l (fun g s => holdSeg g true s) (when c.first (noteHolds (cmdKey c.ses c.idx)
      (l.filter (fun g => !rbit t .segMap g 14))) t)
    (l.filter (fun g => decide (rget held .segExport g &&& (3 - c.b 1) ≠ 0))).foldl (fun (r : Bool × State) g =>
      match recallSeg g r.2 with
      | (ok, s) => (r.1 && ok, s)) (true, held) = (true, u) →
    exec (.partExport r) s = cmdOk c [] (
      let v := forEach l (fun g s => rput .segExport g (c.b 1) s) u
      dropHolds (cmdKey c.ses c.idx) (forEach (cmdHolds v (cmdKey c.ses c.idx)) (fun g s => holdSeg g false s) v)))

/-- Cues, queues, regulators, queue pairs, keys and local sessions (R325, R374, R383, R393, R394). An allocation gives the
lowest free run of the length asked to the function, and is answered with its first number once the takes have
advanced; with no such run it is NO_RESOURCE. A release takes back a run that one function holds. QP_MODIFY makes a
transition that R394 allows, and writes the context before RTR. REG_SET that the checks refuse is OVERCOMMIT.
MK_DESTROY of a stale key is NO_RESOURCE. A local session has its reels answered. -/
def Obligations.AllocationCommands : Prop :=
  (∀ (r : CmdRef) (c : CmdIn) (s t : State), cmdTaken 0x40 r c s t → halfCheck t (c.b 1) = csOk →
    0 < c.n 2 2 → c.n 2 2 ≤ 4096 →
    (lowestRun (fun n => (cueFunc t n).isNone) (4096 * c.b 1) 4096 (c.n 2 2) = none →
      exec (.cueAlloc r) s = cmdBad c csNoResource t) ∧
    (∀ a, lowestRun (fun n => (cueFunc t n).isNone) (4096 * c.b 1) 4096 (c.n 2 2) = some a →
      exec (.cueAlloc r) s = .next (endCmd c (.after ((runList a (c.n 2 2)).map (fun n => takeKey (.cue (Fin.ofNat 8192 n)))) (natLe 2 a))
        (forEach (runList a (c.n 2 2)) (fun n s => doCueOwner n (c.b 0 + 16) s) t)))) ∧
  (∀ (r : CmdRef) (c : CmdIn) (s t : State), cmdTaken 0x42 r c s t → halfCheck t (c.b 1) = csOk →
    0 < c.n 2 2 → c.n 2 2 ≤ 256 →
    (lowestRun (fun n => (queueFunc t n).isNone) (256 * c.b 1) 256 (c.n 2 2) = none →
      exec (.dqAlloc r) s = cmdBad c csNoResource t) ∧
    (∀ a, lowestRun (fun n => (queueFunc t n).isNone) (256 * c.b 1) 256 (c.n 2 2) = some a →
      exec (.dqAlloc r) s = .next (endCmd c (.after ((runList a (c.n 2 2)).map queueTake) (natLe 2 a))
        (forEach (runList a (c.n 2 2)) (fun n s => dqOwnerAct n (c.b 0 + 16) s) t)))) ∧
  (∀ (r : CmdRef) (c : CmdIn) (s t : State), cmdTaken 0x50 r c s t → 0 < c.n 2 2 → c.n 2 2 ≤ 4096 →
    (lowestRun (fun n => (qpFunc t n).isNone) 0 4096 (c.n 2 2) = none →
      exec (.qpAlloc r) s = cmdBad c csNoResource t) ∧
    (∀ a, lowestRun (fun n => (qpFunc t n).isNone) 0 4096 (c.n 2 2) = some a →
      exec (.qpAlloc r) s = .next (endCmd c (.after ((runList a (c.n 2 2)).map qpTakeKey) (natLe 2 a))
        (forEach (runList a (c.n 2 2)) (fun n s => qpOwnerAct n (c.b 0 + 16) s) t)))) ∧
  (∀ (r : CmdRef) (c : CmdIn) (s t : State), cmdTaken 0x41 r c s t →
    freeCheck t (c.n 0 2) (c.n 2 2) (4096 * numHalves t) 4096 (cueFunc t) = csOk →
    exec (.cueFree r) s = cmdOk c [] (forEach (runList (c.n 0 2) (c.n 2 2)) (fun n s => doCueOwner n 0 s) t)) ∧
  (∀ (r : CmdRef) (c : CmdIn) (s t : State), cmdTaken 0x43 r c s t →
    freeCheck t (c.n 0 2) (c.n 2 2) (256 * numHalves t) 256 (queueFunc t) = csOk →
    (∀ n ∈ runList (c.n 0 2) (c.n 2 2), regStopped t .dqOwner n = true) →
    exec (.dqFree r) s = cmdOk c [] (forEach (runList (c.n 0 2) (c.n 2 2)) (fun n s => dqOwnerAct n 0 s) t)) ∧
  (∀ (r : CmdRef) (c : CmdIn) (s t : State), cmdTaken 0x52 r c s t →
    freeCheck t (c.n 0 2) (c.n 2 2) 4096 4096 (qpFunc t) = csOk →
    (∀ n ∈ runList (c.n 0 2) (c.n 2 2), (qpAt t n).st = 0) →
    exec (.qpFree r) s = cmdOk c [] (forEach (runList (c.n 0 2) (c.n 2 2)) (fun n s => qpOwnerAct n 0 s) t)) ∧
  (∀ (r : CmdRef) (c : CmdIn) (s t : State), cmdTaken 0x44 r c s t → halfCheck t (c.b 1) = csOk → ∀ q,
    lowestRun (fun q => (regulFunc t q).isNone) (128 * c.b 1) 128 1 = some q →
    exec (.regAlloc r) s = cmdOk c (natLe 1 q) (regOwnerAct q (c.b 0 + 16) t)) ∧
  (∀ (r : CmdRef) (c : CmdIn) (s t : State), cmdTaken 0x45 r c s t → regulCheck t (c.b 0) = csOk →
    exec (.regFree r) s = cmdOk c [] (regOwnerAct (c.b 0) 0 t)) ∧
  (∀ (r : CmdRef) (c : CmdIn) (s t : State), cmdTaken 0x46 r c s t → c.b 1 = 0 → c.b 2 < 8 → c.b 2 ≠ 2 → c.b 2 ≠ 3 →
    c.b 3 < 64 → c.n 4 2 < 1024 → c.n 12 2 < 1024 → c.b 15 = 0 → regulCheck t (c.b 0) = csOk →
    let g : Guarantee := ⟨0, c.b 2, 0, c.b 3, c.n 8 4, min 1000 (max 1 (c.n 4 2))⟩
    (setGuarantee (c.b 0) g (c.n 12 2) (c.b 14) t = none → exec (.regSet r) s = cmdBad c csOvercommit t) ∧
    (∀ u, setGuarantee (c.b 0) g (c.n 12 2) (c.b 14) t = some u →
      exec (.regSet r) s = cmdOk c (natLe 2 (worstLoad u)) u)) ∧
  (∀ (r : CmdRef) (c : CmdIn) (s t : State), cmdTaken 0x51 r c s t → c.n 0 2 < 4096 → c.b 2 < 5 →
    qpArgsOk c (qpAt t (c.n 0 2)).st = true → (qpFunc t (c.n 0 2)).isSome = true →
    (qpMoveOk (qpAt t (c.n 0 2)).st (c.b 2) = false → exec (.qpModify r) s = cmdBad c csBadArg t) ∧
    (qpMoveOk (qpAt t (c.n 0 2)).st (c.b 2) = true → exec (.qpModify r) s = cmdOk c []
      (qpMove (c.n 0 2) (c.b 2) (if (qpAt t (c.n 0 2)).st ≤ 1 then qpWrite (c.n 0 2) c t else t)))) ∧
  (∀ (r : CmdRef) (c : CmdIn) (s t : State), cmdTaken 0x53 r c s t → c.b 1 < 8 → c.n 16 8 ≠ 0 →
    dpaOk t c (c.n 8 8) (c.n 16 8) = true → lowestRun (fun k => (keyOwner t k).isNone) 0 1024 1 = none →
    exec (.mkCreate r) s = cmdBad c csNoResource t) ∧
  (∀ (r : CmdRef) (c : CmdIn) (s t : State) (k : Nat), cmdTaken 0x53 r c s t → c.b 1 < 8 → c.n 16 8 ≠ 0 →
    dpaOk t c (c.n 8 8) (c.n 16 8) = true → lowestRun (fun k => (keyOwner t k).isNone) 0 1024 1 = some k →
    let u := rput .mkLenHi k (c.n 16 8 / 2 ^ 32) (rput .mkLenLo k (c.n 16 8 % 2 ^ 32)
      (rput .mkBaseHi k (c.n 8 8 / 2 ^ 32) (rput .mkBaseLo k (c.n 8 8 % 2 ^ 32) (freeNat 14 t).2)))
    let v := mkCtlAct k (c.b 0 + 2 ^ 4 + 2 ^ 5 * c.b 1 + 2 ^ 16 * (freeNat 14 t).1) u
    exec (.mkCreate r) s = .next (endCmd c (.after [mkTakeKey k]
      (natLe 4 (k + 2 ^ 10 * dueTake v (mkTakeKey k) + 2 ^ 18 * (freeNat 14 t).1))) v)) ∧
  (∀ (r : CmdRef) (c : CmdIn) (s t : State), cmdTaken 0x54 r c s t →
    (curTake t (mkTakeKey (c.n 0 4 % 1024)) ≠ some (natBits 17 10 (c.n 0 4)) →
      exec (.mkDestroy r) s = cmdBad c csNoResource t) ∧
    ((keyOwner t (c.n 0 4 % 1024)).isSome = true → curTake t (mkTakeKey (c.n 0 4 % 1024)) = some (natBits 17 10 (c.n 0 4)) →
      rbits t .mkCtl (c.n 0 4 % 1024) 29 16 = natBits 31 18 (c.n 0 4) →
      exec (.mkDestroy r) s = cmdOk c [] (mkCtlAct (c.n 0 4 % 1024) (setBits 4 4 0 (rget t .mkCtl (c.n 0 4 % 1024))) t))) ∧
  (∀ (r : CmdRef) (c : CmdIn) (s t : State) (n : Nat), cmdTaken 0x58 r c s t → 4 ≤ c.b 1 → c.b 1 ≤ 10 → 6 ≤ c.b 2 → c.b 2 ≤ 12 →
    c.n 4 4 = 0 → freeSession t (c.b 0) = some n →
    let u := openSes n (c.b 0) true none (c.b 1) (c.b 2) (rput .sesCue n 0 (rput .sesCplHead n 0 (rput .sesCmdDb n 0 t)))
    exec (.sessionLocal r) s = cmdOk c (natLe 8 n ++ [0, 1, 2].flatMap (fun k => natLe 8 (reelBase u n k))) u) ∧
  (∀ (r : CmdRef) (c : CmdIn) (s t : State), cmdTaken 0x59 r c s t → c.b 0 < 64 →
    exec (.sessionClose r) s = if (sesAt t (c.b 0)).st = 0 then cmdBad c csNoResource t else cmdOk c [] (closeSes (c.b 0) t))

/-- The group, routes, Slates, guest sites, H1 and stacks (R186, R224, R234, R291, R359, R360, R363, R391, R426).
GROUP_SET writes the members while the group is closed, and is BUSY while it is open; ROUTE_LOAD writes the whole
table from memory, and fails where a byte read is poisoned. SLATE_ARM of partitions that may be saved arms the
function's Slate with its devices and opens its collective. SLATE_ABORT fails a Slate that is armed or running and is
BUSY otherwise. GUEST_OPEN opens a site and ends when it is ACTIVE; GUEST_FENCE fences one. H1_FENCE fences H1 and
ends with the Cuts; H1_REJOIN of a base that is whole is BUSY; of a parted one it brings H1 back, and answers how many
bundles are up. STACK_MAINT fences a stack that no partition uses; RETIRED_LIST writes the retired granules. -/
def Obligations.GroupGuestAndStackCommands : Prop :=
  (∀ (r : CmdRef) (c : CmdIn) (s t u : State) (b : List Byte), cmdTaken 0x60 r c s t → c.n 0 2 < 4096 → c.n 2 2 ≤ 4096 →
    dpaOk t c (c.n 8 8) (2 * c.n 2 2) = true →
    (groupOpen t = true → exec (.groupSet r) s = cmdBad c csBusy t) ∧
    (groupOpen t = false → engBytes (.mp .h0) (c.n 8 8) (2 * c.n 2 2) t = (some (b, false), u) →
      exec (.groupSet r) s = cmdOk c [] (forEach (List.range 4096) (fun m s =>
        rput .member m (if m < c.n 2 2 then fieldAt b (2 * m) 2 + 2 ^ 16 else 0) s)
        (rputBits .groupCfg 0 24 0 (c.n 0 2 + 2 ^ 12 * c.n 2 2) u)))) ∧
  (∀ (r : CmdRef) (c : CmdIn) (s t : State), cmdTaken 0x61 r c s t →
    (dpaOk t c (c.n 8 8) (4 * 65536) = false → exec (.routeLoad r) s = cmdBad c csBadArg t) ∧
    (dpaOk t c (c.n 8 8) (4 * 65536) = true → exec (.routeLoad r) s =
      match engBytes (.mp .h0) (c.n 8 8) (4 * 65536) t with
      | (some (b, false), u) => cmdOk c [] (forEach (chunks 4 65536 b).zipIdx
          (fun x s => rput .routeEntry x.2 (leNat x.1 % 2 ^ 11) s) u)
      | (some (_, true), u) => cmdBad c csFailed u
      | (none, u) => .next (endCmd c .again u))) ∧
  (∀ (r : CmdRef) (c : CmdIn) (s t u : State) (b : List Byte) (k p : Nat), cmdTaken 0x70 r c s t →
    (c.n 16 2 = 0 → exec (.slateArm r) s = cmdBad c csBadArg t) ∧
    (0 < c.n 16 2 → c.n 16 2 ≤ 4096 → (∃ e, collNamed t (c.n 6 2) = some e ∧ collFunc t e = c.b 0) →
      dpaOk t c (c.n 24 8) (2 * c.n 16 2) = true → slateParts t (c.b 0) (c.b 4) (maskList 64 (c.n 8 8)) = csOk →
      (slateAt t (c.b 0)).st ∉ [.armed, .pointed, .streaming] →
      engBytes (.mp .h0) (c.n 24 8) (2 * c.n 16 2) t = (some (b, false), u) →
      let devs := (chunks 2 (c.n 16 2) b).map leNat
      devs.findIdx? (fun d => decide (d = (ownDev u).toNat)) = some p →
      (exportedTo u (maskList 64 (c.n 8 8))).all (fun d => devs.contains d) = true →
      slateEntry u (c.b 0) (c.n 2 2) = some k →
      exec (.slateArm r) s = cmdOk c [] (openSlateColl k (c.b 0) (c.n 2 2) p devs
        (forEach [c.b 0, 16 + c.b 0] (fun i s => rput .slateHeld i 0 (rput .slatePreserved i 0 s))
          (setSlate (c.b 0) { SlateSt.init with
            st := .armed, epoch := (slateAt t (c.b 0)).epoch, id := c.n 2 2, preserve := c.b 4, barrier := c.n 6 2
            parts := maskList 64 (c.n 8 8), devices := devs.map (BitVec.ofNat 16) } u))))) ∧
  (∀ (r : CmdRef) (c : CmdIn) (s t : State), cmdTaken 0x71 r c s t →
    exec (.slateAbort r) s =
      if (slateAt t (c.b 0)).st = .armed ∨ (slateAt t (c.b 0)).st = .pointed ∨ (slateAt t (c.b 0)).st = .streaming then
        cmdOk c [] (failSlate (c.b 0) 4 t)
      else cmdBad c csBusy t) ∧
  (∀ (r : CmdRef) (c : CmdIn) (s t : State), cmdTaken 0x80 r c s t → c.b 2 < 4 → c.b 3 < 2 → c.b 4 < 8 →
    siteHalfCheck t (c.b 0) = csOk →
    (c.first = true → (siteAt t (c.b 0)).st = 0 → exec (.guestOpen r) s = .next (settleAll (gsWriteAct (c.b 0)
      (setBits 10 0 (1 + 2 * c.b 1 + 2 ^ 5 * c.b 2 + 2 ^ 7 * c.b 3 + 2 ^ 8 * c.b 4) (rget t .gsCtl (c.b 0))) t))) ∧
    (c.first = false → (siteAt t (c.b 0)).st = 2 → exec (.guestOpen r) s = cmdOk c (natLe 1 2 ++
      natLe 1 (siteAt t (c.b 0)).fwClass ++ natLe 1 (b2n (siteAt t (c.b 0)).coherent)) t) ∧
    (c.first = false → (siteAt t (c.b 0)).st = 3 → exec (.guestOpen r) s = cmdBad c csFenced t)) ∧
  (∀ (r : CmdRef) (c : CmdIn) (s t : State), cmdTaken 0x81 r c s t → siteHalfCheck t (c.b 0) = csOk →
    exec (.guestFence r) s = cmdOk c [] (fenceSite (c.b 0) 4 t)) ∧
  (∀ (r : CmdRef) (c : CmdIn) (s t : State), cmdTaken 0x82 r c s t →
    (t.part = .mb1 → exec (.h1Fence r) s = cmdBad c csBadArg t) ∧
    (t.part = .mb2 → c.first = true → farGone t = false →
      (∀ f ∈ List.range 16, (funcAt (fenceH1 3 t) f).st ≠ 2) → exec (.h1Fence r) s = cmdOk c [] (fenceH1 3 t)) ∧
    (t.part = .mb2 → c.first = false → (∀ f ∈ List.range 16, (funcAt t f).st ≠ 2) → exec (.h1Fence r) s = cmdOk c [] t)) ∧
  (∀ (r : CmdRef) (rep : BootReport) (c : CmdIn) (s t : State), cmdTaken 0x83 r c s t → t.part = .mb2 →
    (t.zor.halves ≠ 2 → exec (.h1Rejoin r rep) s = cmdBad c csBusy t) ∧
    (t.zor.halves = 2 → exec (.h1Rejoin r rep) s =
      if (rejoinH1 rep t).1 = true then cmdOk c (natLe 1 (bundlesUp (rejoinH1 rep t).2 .h0).length) (rejoinH1 rep t).2
      else cmdBad c (if (rejoinH1 rep t).2.ident.refused = true then csFailed else csTimeout) (rejoinH1 rep t).2)) ∧
  (∀ (r : CmdRef) (rep : TrainReport) (c : CmdIn) (s t u : State), cmdTaken 0x84 r c s t → c.b 0 < 16 → c.b 1 = 1 →
    halfCheck t (c.b 0 / 8) = csOk → stackOut t (c.b 0) = false → (deg t (halfOfStack (c.b 0))).subValid = false →
    (∀ p ∈ List.range 64, partOnStack t p (c.b 0) = false) → maintFence (c.b 0) t = (true, u) →
    exec (.stackMaint r rep) s = cmdOk c [] u) ∧
  (∀ (r : CmdRef) (c : CmdIn) (s t u : State), cmdTaken 0x85 r c s t →
    let w := (t.mem.retired.drop (c.n 0 4)).take (c.n 16 4)
    dpaOk t c (c.n 8 8) (16 * w.length) = true → engPut (.mp .h0) (c.n 8 8) (w.flatMap (retiredEntry t)) false t = (true, u) →
    exec (.retiredList r) s = cmdOk c (natLe 4 w.length ++ natLe 4 t.mem.retired.length) u)

/-- The device, its fields, its settings and its firmware (R30, R391, R404, R405, R423, R429, R435, R436, R441, R445).
DEV_INFO answers the part and its identity; DEVICE_ID_SET gives the identifier while the group is closed; DEVICE_RESET
makes a cold boot due in 10 ms. FIELD_READ answers the fields in order, FIELD_WRITE writes the pairs in order.
SETTINGS_STORE of a good record makes it active; FW_WRITE to the slot that does not run writes the flash, FW_ACTIVATE
of a good image prefers it. ATTEST_QUOTE and IDENTITY_READ write their bytes. -/
def Obligations.DeviceCommands : Prop :=
  (∀ (r : CmdRef) (c : CmdIn) (s t : State), cmdTaken 0x01 r c s t →
    exec (.devInfo r) s = cmdOk c (natLe 1 (partCode t) ++ natLe 1 (halvesByte t) ++ natLe 1 t.ident.bootState ++
      natLe 1 t.pwr.rec0.cause ++ natLe 2 t.ident.devId.toNat ++ natLe 1 (b2n t.ident.idValid) ++ zeros 1 ++
      natLe 4 t.ident.fwVersion.toNat ++ zeros 4 ++ serialBytes t) t) ∧
  (∀ (r : CmdRef) (c : CmdIn) (s t : State), cmdTaken 0x02 r c s t →
    (groupOpen t = true → exec (.deviceIdSet r) s = cmdBad c csBusy t) ∧
    (groupOpen t = false → exec (.deviceIdSet r) s = cmdOk c []
      { t with ident := { t.ident with devId := BitVec.ofNat 16 (c.n 0 2), idValid := true } })) ∧
  (∀ (r : CmdRef) (c : CmdIn) (s t : State), cmdTaken 0x03 r c s t →
    exec (.deviceReset r) s = cmdOk c [] { t with pwr := { t.pwr with resetDueT := some (t.clock + ms 10) } }) ∧
  (∀ (r : CmdRef) (c : CmdIn) (s t : State), cmdTaken 0x90 r c s t → 0 < c.b 8 → c.b 8 ≤ 26 →
    let l := (List.range (c.b 8)).map (fun k => c.n 0 8 + 4 * k)
    (fieldChecks (l.map (fun a => fieldCheck t c.f a none)) = csOk →
      exec (.fieldRead r) s = cmdOk c (natLe 4 (c.b 8) ++ (fieldsRead c.f l t).1) (fieldsRead c.f l t).2) ∧
    (fieldChecks (l.map (fun a => fieldCheck t c.f a none)) ≠ csOk →
      exec (.fieldRead r) s = cmdBad c (fieldChecks (l.map (fun a => fieldCheck t c.f a none))) t)) ∧
  (∀ (r : CmdRef) (c : CmdIn) (s t : State), cmdTaken 0x91 r c s t → writeChecks c t = csOk →
    exec (.fieldWrite r) s = .next (endCmd c (fieldsWrite c.f 0 (fieldPairs c) t).1 (fieldsWrite c.f 0 (fieldPairs c) t).2)) ∧
  (∀ (r : CmdRef) (c : CmdIn) (s t : State), cmdTaken 0x92 r c s t → writeChecks c t = csOk →
    (oneGroup t c.f (fieldPairs c) = false → exec (.fieldWriteGroup r) s = cmdBad c csBadArg t) ∧
    (oneGroup t c.f (fieldPairs c) = true → exec (.fieldWriteGroup r) s =
      .next (endCmd c (fieldsWrite c.f 0 (fieldPairs c) t).1 (fieldsWrite c.f 0 (fieldPairs c) t).2))) ∧
  (∀ (r : CmdRef) (c : CmdIn) (s t u : State) (b : List Byte), cmdTaken 0xA0 r c s t →
    (c.n 16 4 = recLen ∨ c.n 16 4 = recSigned) → dpaOk t c (c.n 8 8) (c.n 16 4) = true →
    engBytes (.mp .h0) (c.n 8 8) (c.n 16 4) t = (some (b, false), u) → recForm (c.n 16 4) b = true →
    u.ident.setSeq < word4 b 8 → recSignedOk u b = true → u.cad.lastStoreT = none → u.ident.storeCount < 1900000 →
    exec (.settingsStore r) s = cmdOk c (natLe 4 (word4 b 8)) (storeRecord b u)) ∧
  (∀ (r : CmdRef) (rb : Bool) (c : CmdIn) (s t u : State) (b : List Byte), cmdTaken 0xA1 r c s t → c.b 0 < 2 →
    c.n 4 4 % 4096 = 0 → 0 < c.n 16 4 → c.n 16 4 ≤ 262144 → c.n 4 4 + c.n 16 4 ≤ slotSize →
    dpaOk t c (c.n 8 8) (c.n 16 4) = true → c.b 0 ≠ b2n t.ident.runSlot →
    engBytes (.mp .h0) (c.n 8 8) (c.n 16 4) t = (some (b, false), u) →
    (rb = false → exec (.fwWrite r rb) s = cmdBad c csFailed u) ∧
    (rb = true → preferSlot u ≠ c.b 0 → c.b 0 ∈ u.ident.slotsWritten → exec (.fwWrite r rb) s =
      cmdOk c [] (flashPut (slotBase (c.b 0) + c.n 4 4) b u))) ∧
  (∀ (r : CmdRef) (c : CmdIn) (s t : State) (m : FwImage), cmdTaken 0xA2 r c s t → c.b 0 < 2 → c.b 1 < 2 →
    slotImage t (c.b 0) = some m → imageFault t (some m) = 0 →
    exec (.fwActivate r) s = cmdOk c [] (measure 1 4 none (bytesOf 64 m.digest) (natLe 1 (c.b 0) ++ natLe 1 (c.b 1))
      (writeCtl (c.b 0) (decide (c.b 1 = 1)) t))) ∧
  (∀ (r : CmdRef) (c : CmdIn) (s t u : State), cmdTaken 0xA3 r c s t → c.b 40 = 0 →
    let q := quoteBytes t c.f (slice 0 32 (entArgs c.e))
    dpaOk t c (c.n 32 8) q.length = true → engPut (.mp .h0) (c.n 32 8) q false t = (true, u) →
    exec (.attestQuote r) s = cmdOk c (natLe 4 q.length ++ natLe 4 t.ident.mlog.length) u) ∧
  (∀ (r : CmdRef) (c : CmdIn) (s t u : State) (b : List Byte), cmdTaken 0xA4 r c s t → c.b 0 < 3 →
    b = (if c.b 0 = 0 then idRecord t else if c.b 0 = 1 then deviceCert t else aliasCert t) →
    dpaOk t c (c.n 8 8) b.length = true → engPut (.mp .h0) (c.n 8 8) b false t = (true, u) →
    exec (.identityRead r) s = cmdOk c (natLe 4 b.length) u)

/-- Domains, trips and the power budget (R408, R409, R410, R411, R413, R414, R415, R416, R417, R419, R421, R422). A domain
that is ON is gated when its rule says so, and one that is gated wakes in its wake time when its rule no longer does.
A buck fault leaves its domain FAULT and takes H0 down when the domain is one that H0 cannot lose. A low supply sets
the throttle level to 8 at least; H0 answers the demand of H1 with a grant, keeping its own rise back until H1 has
fallen; without an exchange for 300 us each half takes half of the limit. A half too warm rises two levels, or trips. -/
def Obligations.PowerDomainsAndBudget : Prop :=
  (∀ (h : Half) (i : Fin 35) (s : State), hasHalf s h = true → ((domAt s (35 * h.num + i.val)).st ≠ 1 ∨ gateTo s h i = none) →
    exec (.domainGate h i) s = .next s) ∧
  (∀ (h : Half) (i : Fin 35) (s : State), hasHalf s h = true → (domAt s (35 * h.num + i.val)).st = 1 →
    gateTo s h i = some 2 → i.val ≠ 31 → exec (.domainGate h i) s =
      .next (modDom (35 * h.num + i.val) (fun d => { d with st := 2 }) s)) ∧
  (∀ (h : Half) (i : Fin 35) (s : State), hasHalf s h = true → (domAt s (35 * h.num + i.val)).st = 2 →
    gateTo s h i = none → i.val ≠ 32 → exec (.domainWake h i) s =
      .next (modDom (35 * h.num + i.val) (fun d => { d with st := 1, wakes := (d.wakes + 1) % 2 ^ 16 })
        (atTime (s.clock + wakeTime i) s))) ∧
  (∀ (i : Fin 35) (k : BuckFaultKind) (s : State), (i.val = 0 ∨ i.val = 1 ∨ i.val = 28) → (domAt s (35 * 0 + i.val)).st ≠ 5 →
    s.pwr.down = false → exec (.buckFault .h0 i k) s =
      .next (takeDown 4 5 i (modDom (35 * 0 + i.val) (fun d => { d with st := 5, cause := faultCode k }) s))) ∧
  (∀ (h : Half) (i : Fin 35) (k : BuckFaultKind) (s : State), hasHalf s h = true →
    ((domAt s (35 * h.num + i.val)).st = 5 ∨ s.pwr.down = true) → exec (.buckFault h i k) s = .next s) ∧
  (∀ s : State, s.pwr.down = true → exec .vinFastThreshold s = .next s) ∧
  (∀ s : State, s.part = .mb1 → s.pwr.down = false → exec .vinFastThreshold s =
    .next (setLevel .h0 (max 8 s.pwr.gaf0.throttle) (modGaf .h0 (fun g => { g with vinLow := true }) s))) ∧
  (∀ s : State, ∃ t, exec .vinMainRestored s = .next t ∧ t.pwr.gaf0.vinLow = false ∧
    t.pwr.gaf0.throttle = s.pwr.gaf0.throttle ∧ t.mem = s.mem ∧ t.regs = s.regs) ∧
  (∀ s : State, exec (.vinTrip true) s = .next (takeDown 4 4 0 { s with pins := { s.pins with pwrGood := false } })) ∧
  (∀ (d p : BitVec 16) (l : Fin 16) (hot : Int) (s : State), hasHalf s .h1 = true → exchanging s = true →
    exec (.gfReport d p l hot) s = .next (
      let t := groupTake .h0 .pkg (sideGot (.half .h0 0) 0x18 (natLe 2 d.toNat ++ natLe 2 p.toNat ++
        [BitVec.ofNat 8 l.val, BitVec.ofInt 8 hot]) s)
      let r := grantOf (t.pwr.gaf0.power + t.pwr.gaf0.removed) d.toNat t
      let n := (t.pwr.gaf0.exchange + 1) % 2 ^ 16
      modGaf .h0 (fun g => { g with
        exchange := n, lastMsg := (sideSend (.half .h0 0) 0x19 (natLe 2 (pkgLimit r.2 - r.1) ++ natLe 2 n) r.2).clock
        fallback := false, grant := if r.1 ≤ g.grant then r.1 else g.grant
        pendGrant := if r.1 ≤ g.grant then none else some r.1 })
        (sideSend (.half .h0 0) 0x19 (natLe 2 (pkgLimit r.2 - r.1) ++ natLe 2 n) r.2))) ∧
  (∀ (g x : BitVec 16) (s : State), hasHalf s .h1 = true → exchanging s = true → exec (.gfGrant g x) s =
    .next (modGaf .h1 (fun y => { y with
      grant := g.toNat, exchange := x.toNat, lastMsg := s.clock, fallback := false })
      (sideGot (.half .h1 0) 0x19 (natLe 2 g.toNat ++ natLe 2 x.toNat) s))) ∧
  (∀ s : State, hasHalf s .h1 = true →
    (s.pwr.gaf0.pendGrant = none → exec .grantAckTimeout s = .next s) ∧
    (s.pwr.gaf0.pendGrant ≠ none → exec .grantAckTimeout s =
      .next (modGaf .h0 (fun g => { g with pendGrant := none }) (atTime (s.pwr.gaf0.lastMsg + us 30) s)))) ∧
  (∀ s : State, hasHalf s .h1 = true → exchanging s = true → exec (.gafferFallback .h1) s =
    .next (let t := atTime (s.pwr.gaf1.lastMsg + us 300) s
      modGaf .h1 (fun g => { g with grant := pkgLimit t / 2, fallback := true }) t)) ∧
  (∀ s : State, hasHalf s .h1 = true → exchanging s = true → exec (.gafferFallback .h0) s =
    .next (let t := atTime (s.pwr.gaf0.lastMsg + us 300) s
      let n := (s.pwr.gaf0.exchange + 1) % 2 ^ 16
      modGaf .h0 (fun g => { g with
        exchange := n, fallback := true, grant := min (pkgLimit t / 2) s.pwr.gaf0.grant
        pendGrant := if pkgLimit t / 2 ≤ s.pwr.gaf0.grant then none else some (pkgLimit t / 2) })
        (sideSend (.half .h0 0) 0x19 (natLe 2 (pkgLimit t / 2) ++ natLe 2 n) t))) ∧
  (∀ (h : Half) (p c : Nat) (s : State), hasHalf s h = true → halfRuns s h = true → (gafAt s h).tempHold = false →
    (gafAt s h).vinLow = false → exec (.throttleAdjust h p c) s =
      .next (setLevel h (if (gafAt s h).grant < p then min 15 ((gafAt s h).throttle + 1)
        else if 100 * p < 95 * (gafAt s h).grant then (gafAt s h).throttle - 1 else (gafAt s h).throttle)
        (noteGafPower h p (c * (gafAt s h).throttle / (16 - (gafAt s h).throttle)) s))) ∧
  (∀ (h : Half) (s : State), hasHalf s h = true → halfRuns s h = true →
    exec (.dieSensorRead h none) s = .next (trip h 2 s)) ∧
  (∀ (h : Half) (k : Fin 22) (x : Int) (s : State), hasHalf s h = true → halfRuns s h = true → 120 ≤ x →
    s.pwr.die.find? (22 * h.num + k.val) = none →
    exec (.dieSensorRead h (some [(k, x)])) s = .next (trip h 1
      { s with pwr := { s.pwr with die := s.pwr.die.insert (22 * h.num + k.val) (x, x) } })) ∧
  (∀ (k : ClockLossKind) (s : State), s.part = .mb1 → halfRuns s .h0 = true → k ≠ .reference →
    exec (.clockLoss .h0 k) s = .next (trip .h0 3 s)) ∧
  (∀ (x : BitVec 64) (s : State), hasHalf s .h1 = true → exec (.timeSet x) s =
    .next { sideGot (.half .h1 0) 0x1B (natLe 8 x.toNat) s with
      pwr := { s.pwr with time1 := x.toNat, time1At := s.clock } }) ∧
  (∀ (c : BitVec 8) (s : State), hasHalf s .h1 = true →
    exec (.tripNotice .h0 c) s = .next (fenceH1 4 (sideGot (.half .h0 0) 0x1C [c] s)) ∧
    exec (.tripNotice .h1 c) s = .next (h1Loses (sideGot (.half .h1 0) 0x1C [c] s))) ∧
  (∀ s : State, hasHalf s .h1 = true →
    (farGone s = true → exec .h1Reset s = .next (discardH1 s)) ∧ (farGone s = false → exec .h1Reset s = .next (fenceH1 3 s)))

/-- Resets, the cold boot and the two management processors (R388, R423, R424, R426, R434, R442). RESET_N low takes the
base down with the pin named in RESET_INFO; PWR_GOOD and the reference let a boot begin. A cold boot of a base that
may not boot changes nothing; one that may runs its steps, and a hold strap stops it after the front half until it is
released. H1 starts its image when the digest is the one that H0 measured. A beat counts up and is seen by the other
half; 30 ms without one fences H1. A watchdog takes its half down. -/
def Obligations.BootAndProcessors : Prop :=
  (∀ s : State, ∃ t, exec .resetNAssert s = .next t ∧ t.pins.resetN = false ∧ t.pwr.rec0.pinReset = true ∧
    t.pwr.rec0.cause = 0 ∧ t.pwr.down = true ∧ t.part = s.part ∧ t.pending = s.pending) ∧
  (∀ s : State, exec .pwrGoodHigh s = .next { s with pins := { s.pins with pwrGood := true } } ∧
    exec .refclkAonReturn s = .next { s with pwr := { s.pwr with refLost := false } }) ∧
  (∀ (rep : BootReport) (s : State), s.pwr.resetDueT = none → bootable s = false → exec (.coldBoot rep) s = .next s) ∧
  (∀ (rep : BootReport) (s : State), s.pwr.resetDueT = none → bootable s = true → (bootFront rep s).pwr.down = false →
    exec (.coldBoot rep) s = .next (if (bootFront rep s).pins.straps.getLsbD 4 then
        { bootFront rep s with pwr := { (bootFront rep s).pwr with held := true } }
      else bootBack rep (bootFront rep s))) ∧
  (∀ (rep : BootReport) (s : State), s.pwr.held = true → s.pwr.down = false → exec (.bootHoldRelease rep) s =
    .next (bootBack rep { s with pins := { s.pins with bootHoldBall := false }, pwr := { s.pwr with held := false } })) ∧
  (∀ (d : BitVec 512) (n : BitVec 32) (s u : State), hasHalf s .h1 = true →
    u = sideGot (.half .h1 0) 0x1A (bytesOf 64 d ++ natLe 4 n.toNat) s →
    (d ≠ s.ident.digest → exec (.bootGo d n) s = .next u) ∧
    (s.cad.mp0.st = 1 → s.cad.mp1.st = 0 → halfRuns s .h1 = true → d = s.ident.digest →
      exec (.bootGo d n) s = .next (measure 2 6 none (bytesOf 64 d) (natLe 1 0)
        (modMp .h1 (fun x => { x with st := 1, fwSlot := s.ident.runSlot, beatSeenT := s.clock }) u)))) ∧
  (∀ s : State, s.cad.mp0.st ≠ 1 → exec .floorRaise s = .next s) ∧
  (∀ s : State, s.cad.mp0.st = 1 → s.ident.bootState = 1 → s.clock ≤ s.pwr.readyT + ms 10000 → s.ident.floorChecked = false →
    raiseFlag s = true → preferSlot s = b2n s.ident.runSlot → s.ident.die0.floor < s.ident.svn →
    exec .floorRaise s = .next (
      let t := writeCtl (b2n s.ident.runSlot) false
        { s with ident := { s.ident with floorChecked := true, die0 := { s.ident.die0 with floor := s.ident.svn } } }
      measure 1 5 none (shake 64 (natLe 1 t.ident.svn)) (natLe 1 t.ident.svn) t)) ∧
  (∀ (fw : BitVec 32) (slot : Bool) (s : State), hasHalf s .h1 = true → ∃ t, exec (.mpHello .h0 fw slot) s = .next t ∧
    t.ident.h1Reported = true ∧ t.cad.mp0.hello = some (fw, slot) ∧ t.cad.mp0.beatSeenT = s.clock ∧ t.mem = s.mem ∧
    t.regs = s.regs) ∧
  (∀ (n op : BitVec 16) (l : List (BitVec 8)) (st : BitVec 8) (s : State), hasHalf s .h1 = true →
    (s.cad.mp1.st = 1 → halfRuns s .h1 = true → ∃ t, exec (.mpWork n op l) s = .next t ∧
      t.cad.mp1.works = s.cad.mp1.works ++ [n.toNat] ∧ n.toNat ∈ t.cad.mp0.works ∧ t.mem = s.mem ∧ t.regs = s.regs) ∧
    (∃ t, exec (.mpDone n st l) s = .next t ∧ n.toNat ∉ t.cad.mp0.works ∧ n.toNat ∉ t.cad.mp1.works ∧ t.mem = s.mem ∧
      t.regs = s.regs)) ∧
  (∀ (h : Half) (s : State), hasHalf s h = true → (mpAt s h).st = 1 → halfRuns s h = true →
    ∃ t, exec (.mpBeat h) s = .next t ∧ (mpAt t h).beat = ((mpAt s h).beat + 1) % 2 ^ 32 ∧
      (s.part = .mb2 → (mpAt t h.other).beatSeenT = s.clock) ∧ t.mem = s.mem ∧ t.regs = s.regs) ∧
  (∀ s : State, s.part = .mb2 → farGone s = false → s.cad.mp0.st = 1 →
    exec .mpBeatLoss s = .next (fenceH1 3 (atTime (s.cad.mp0.beatSeenT + ms 30) s))) ∧
  (∀ (h : Half) (s : State), hasHalf s h = true → halfRuns s h = true → exec (.watchdogExpire h) s =
    .next (if h = .h0 then takeDown 1 0 0 (sideSend (.half h 0) 0x09 [] s) else h1Down 1 0 0 (sideSend (.half h 0) 0x09 [] s)))

/-- Records reach the ring in order, folded, and the sessions (R454, R455, R456, R457). A record of severity UC-F or UC-D
at the front of a collector is written to the ring whole; one below that whose code, source and function were written
in the last millisecond is folded into a count and does not reach the ring; the first one takes the folded count with
it. A read of the ring takes the oldest record off, and tells the sessions when it is an event. A sample is taken for
each group that its mask enables; with a period of 0 there is none. -/
def Obligations.DailiesAreKept : Prop :=
  (∀ (h : Half) (s : State), hasHalf s h = true → (collector s h).inq = [] → exec (.dailiesRecord h) s = .next s) ∧
  (∀ (h : Half) (s : State) (r : DRec) (rest : List DRec), hasHalf s h = true → (collector s h).inq = r :: rest →
    (collector s h).on = true → 2 ≤ r.sev →
    exec (.dailiesRecord h) s = .next (writeRec h r (setCollector h { collector s h with inq := rest } s))) ∧
  (∀ (h : Half) (s : State) (r : DRec) (rest : List DRec), hasHalf s h = true → (collector s h).inq = r :: rest →
    (collector s h).on = true → r.sev < 2 →
    ((collector s h).recent.filter (fun e => decide (s.clock < e.2 + ms 1))).any (fun e => decide (e.1 = foldKey r)) = true →
    ∃ t, exec (.dailiesRecord h) s = .next t ∧ (collector t h).inq = rest ∧ (collector t h).ring = (collector s h).ring ∧
      (((collector t h).folded.filter (fun e => decide (e.1 = foldKey r))).map Prod.snd).sum =
        (((collector s h).folded.filter (fun e => decide (e.1 = foldKey r))).map Prod.snd).sum + r.count ∧
      t.mem = s.mem ∧ t.coh = s.coh ∧ t.host = s.host) ∧
  (∀ (h : Half) (s : State) (r : DRec) (rest : List DRec), hasHalf s h = true → (collector s h).inq = r :: rest →
    (collector s h).on = true → r.sev = 0 →
    ((collector s h).recent.filter (fun e => decide (s.clock < e.2 + ms 1))).any (fun e => decide (e.1 = foldKey r)) = false →
    exec (.dailiesRecord h) s = .next (writeRec h { r with
        count := r.count + (((collector s h).folded.filter (fun e => decide (e.1 = foldKey r))).map Prod.snd).sum }
      (setCollector h { collector s h with
        inq := rest
        recent := (foldKey r, s.clock) :: (collector s h).recent.filter (fun e => decide (s.clock < e.2 + ms 1))
        folded := (collector s h).folded.filter (fun e => decide (e.1 ≠ foldKey r)) } s))) ∧
  (∀ (h : Half) (s : State) (r : RingRec) (rest : List RingRec), hasHalf s h = true → ringReadable s h = true →
    (collector s h).ring = r :: rest →
    exec (.dailiesRead h) s = .next (if eventful (setCollector h { collector s h with ring := rest, lostNext := 0 } s) h r then
        tellSessions (collector s h).lostNext r (setCollector h { collector s h with ring := rest, lostNext := 0 } s)
      else setCollector h { collector s h with ring := rest, lostNext := 0 } s)) ∧
  (∀ (h : Half) (s : State), hasHalf s h = true → rbits s .dailiesCtl h.num 15 0 = 0 → exec (.sample h) s = .next s) ∧
  (∀ (h : Half) (s : State), hasHalf s h = true → rbits s .dailiesCtl h.num 15 0 ≠ 0 → (collector s h).on = true →
    rget s .sampleMask h.num = 0 → exec (.sample h) s =
      .next (setCollector h { collector s h with
        lastSample := (atTime ((collector s h).lastSample + ms (rbits s .dailiesCtl h.num 15 0)) s).clock }
        (atTime ((collector s h).lastSample + ms (rbits s .dailiesCtl h.num 15 0)) s)))

/-- Stores to configuration space, commits, and the pins (R6, R17, R25, R28, R369, R474, R476, R477, R487). A store that
is 32 bits wide, aligned and allowed is applied and answered; another has no effect, is recorded and answered with an
error. A commit of a group writes its COMMIT field. The I3C target takes a pointer to the identity block, refuses
another, and reads the field at the pointer, which moves on by 4. BYPASS, IDCODE and the boundary scan set the
instruction register. A module that goes takes the host link down. A detection that ends without a claim leaves the
address in use. -/
def Obligations.PinsAndConfiguration : Prop :=
  (∀ (ag : Agent) (a : BitVec 48) (v : BitVec 32) (s : State) (w : Writer), agentThere s ag = true →
    writerOf s ag = some w → a.toNat % 4 = 0 → cfgDenied s w (cfgSpot s w a.toNat) = none →
    exec (.configStore ag a 4 v) s =
      .next (emit (.cfgDone ag a.toNat) (cfgApply w ag a.toNat v.toNat (cfgSpot s w a.toNat) s))) ∧
  (∀ (ag : Agent) (a : BitVec 48) (size : Nat) (v : BitVec 32) (s : State) (w : Writer), agentThere s ag = true →
    writerOf s ag = some w → (size ≠ 4 ∨ a.toNat % 4 ≠ 0) →
    ∃ t, exec (.configStore ag a size v) s = .next t ∧ t.regs = s.regs ∧ t.mem = s.mem ∧ t.coh = s.coh ∧
      t.cues = s.cues ∧ t.dolly = s.dolly ∧ t.fab = s.fab ∧ t.out = .cfgErr ag a.toNat :: s.out) ∧
  (∀ (ag : Agent) (h : Half) (q : Fin 256) (s : State),
    storeOk ag h .dqCommit (groupCommit h (.dqRing q)).2 1 1 s →
    exec (.commit ag h (.dqRing q)) s = .next (stored ag h .dqCommit (groupCommit h (.dqRing q)).2
      (commitAct h (.dqRing (Fin.ofNat 256 (groupCommit h (.dqRing q)).2)) 1 s))) ∧
  (∀ (h : Half) (v : BitVec 32) (s : State), hasHalf s h = true →
    (s.pins.pwrGood = false → exec (.i3cPointerWrite h v) s = .next s) ∧
    (s.pins.pwrGood = true → v.toNat / 2 ^ 24 = 0 →
      ∃ t, exec (.i3cPointerWrite h v) s = .next t ∧ i3cPtr t h = v ∧ t.out = .i3cAck h :: s.out ∧ t.mem = s.mem ∧
        t.regs = s.regs) ∧
    (s.pins.pwrGood = true → i3cReadable s h v = false → exec (.i3cPointerWrite h v) s = .next (emit (.i3cNack h) s)) ∧
    (s.pins.pwrGood = true → ∃ t, exec (.i3cRead h) s = .next t ∧ i3cPtr t h = i3cPtr s h + 4)) ∧
  (∀ (h : Half) (a : BitVec 7) (k : DaaKind) (s : State), hasHalf s h = true → s.pins.pwrGood = true →
    ∃ t, exec (.dynamicAddressAssignment h k a) s = .next t ∧
      (if h = .h0 then t.pins.dyn0 else t.pins.dyn1) = some a ∧ t.mem = s.mem ∧ t.regs = s.regs) ∧
  (∀ (h : Half) (v : BitVec 32) (s : State), hasHalf s h = true →
    exec (.bypass h) s = .next (jtagSet h 0 none 0 s) ∧
    exec (.idcode h) s = .next (jtagSet h 1 none (idcodeWord s h) s) ∧
    (s.pins.resetN = true → exec (.extest h) s = .next (jtagSet h 0 none 0 s) ∧
      exec (.samplePreload h v) s = .next (jtagSet h 0 none 0 s)) ∧
    (s.pins.resetN = false → ∃ t, exec (.samplePreload h v) s = .next t ∧
      (if h = .h0 then t.pins.bsr0 else t.pins.bsr1) = v ∧ t.mem = s.mem ∧ t.regs = s.regs) ∧
    (s.pins.resetN = false → ∃ t, exec (.extest h) s = .next t ∧
      (if h = .h0 then t.pins.boundary0 else t.pins.boundary1) = some (if h = .h0 then s.pins.bsr0 else s.pins.bsr1) ∧
      t.mem = s.mem ∧ t.regs = s.regs)) ∧
  (∀ s : State, (∃ t, exec (.modPresentChange false) s = .next t ∧ t.pins.modPresentN = false ∧ t.pins.modResetN = true ∧
      t.host = s.host ∧ t.mem = s.mem ∧ t.regs = s.regs) ∧
    (∃ t, exec (.modPresentChange true) s = .next t ∧ t.pins.modPresentN = true ∧ t.host.link = 0 ∧ t.mem = s.mem ∧
      t.regs = s.regs)) ∧
  (∀ s : State, (s.host.v6LocalBad = false → exec (.duplicateAddressDetectionEnd .linkLocal) s =
      .next { s with host := { s.host with v6LocalOk := true } }) ∧
    (s.host.v6LocalBad = true → exec (.duplicateAddressDetectionEnd .linkLocal) s = .next s))

/-- Gathers and scatters (R60). The word that a lane's address names is the address taken modulo 16 KiB. A gather reads
for each active lane the word that the lane's address in the index register names. A scatter leaves in each word of
the local store the value of the highest-numbered active lane that names it, and a word that no active lane names as
it was. -/
def Obligations.GathersAndScatters : Prop :=
  (∀ a : Nat, lsWordAt a 0 0 = a % 16384 / 4) ∧
  (∀ (d ix : Fin 32) (mask : LaneMask) (sto sat : Bool) (errs : List LsErr) (route : Nat) (v : VecSt) (x : CellSt),
    ∃ r, vecOp (.gather d ix) mask sto sat errs route v x = some r ∧ r.x = x ∧ ∀ l, l < 32 →
      laneOf (vreg r.v d) l = if natBit l mask.on.toNat then (lsGet x (lsWordAt (laneOf (vreg v ix) l) 0 0)).v.toNat
        else laneOf (vreg v d) l) ∧
  (∀ (a ix : Fin 32) (mask : LaneMask) (sto sat : Bool) (errs : List LsErr) (route : Nat) (v : VecSt) (x : CellSt),
    ∃ r, vecOp (.scatter a ix) mask sto sat errs route v x = some r ∧ r.v = v ∧ ∀ w, w < 4096 →
      (lsGet r.x w).v.toNat =
        match (List.range 32).reverse.find? (fun l =>
          natBit l mask.on.toNat && decide (lsWordAt (laneOf (vreg v ix) l) 0 0 = w)) with
        | some l => laneOf (vreg v a) l
        | none => (lsGet x w).v.toNat)

/-- The fields of commit groups (R15). Every field of a commit group other than its COMMIT field is of class C, and a
field of one group is a field of no other (the groups of H0 alone have one instance, whichever half names them). -/
def Obligations.CommitGroupsAreApart : Prop :=
  (∀ (h : Half) (g : GroupRef) (x : Reg × Nat), x ∈ groupFields h g → x ≠ groupCommit h g ∧ (regRow x.1).isC = true) ∧
  (∀ (h k : Half) (g m : GroupRef) (x : Reg × Nat), x ∈ groupFields h g → x ∈ groupFields k m →
    m = g ∧ groupHalf k m = groupHalf h g) ∧
  (∀ (h k : Half) (g m : GroupRef), groupCommit h g ∉ groupFields k m)

/-- Every field answers at its address, and no two share one (R7, R27, R108). For every field of every block and every
instance of it on both halves, what the configuration space of an MB2 that runs whole finds at the address of that
instance is that instance, for the management processors and for F0. Two fields, or two instances of one, have two
addresses. -/
def Obligations.ConfigurationAddressesNameTheirFields : Prop :=
  (∀ (s : State) (w : Writer) (r : Reg) (i : Nat), s.part = .mb2 → s.zor.halves ≠ 2 → (w = .mp ∨ w = .func 0) →
    i < (if (regRow r).h1 = .own then 2 * regCount r else regCount r) →
    cfgSpot s w (regAddr r i) = .field (regHalf r i) r i) ∧
  (∀ (r q : Reg) (i j : Nat), i < (if (regRow r).h1 = .own then 2 * regCount r else regCount r) →
    j < (if (regRow q).h1 = .own then 2 * regCount q else regCount q) → regAddr r i = regAddr q j → r = q ∧ i = j)

/-- Sectors read back as they were written (R157, R163). A sector that was written reads back with its data and its side
bits; every byte outside its 32 bytes, and the side bits of every other sector, are as they were. A memory in which
nothing is listed reads as the zero fill. -/
def Obligations.MemoryOfTheStacks : Prop :=
  (∀ (m : MemSt) (k : Nat) (d : BitVec 256) (side : Nat), dramSector (dramWrite k d side m) k = d ∧
    NMap.getD (dramWrite k d side m).side k 0 = side ∧
    (∀ b, (b < 32 * k ∨ 32 * k + 32 ≤ b) → dramByte (dramWrite k d side m) b = dramByte m b) ∧
    (∀ j, j ≠ k → dramSector (dramWrite k d side m) j = dramSector m j ∧
      NMap.getD (dramWrite k d side m).side j 0 = NMap.getD m.side j 0)) ∧
  (∀ k, dramSector MemSt.init k = 0 ∧ NMap.getD MemSt.init.side k 0 = 0)

/-- A step runs the command at the front of the queue (R11). A step with a command waiting is that command's effect on the
state with the rest of the queue; commands that come later wait behind it. A step with no command waiting moves the
model's clock by one tick of 0.1 us and changes nothing else (the queue and the tick are the model's own, log entry
3). -/
def Obligations.StepRunsFrontCommand : Prop :=
  (∀ (c : Instr) (rest : List Instr) (s : State), step { s with pending := c :: rest } = exec c { s with pending := rest }) ∧
  (∀ s : State, s.pending = [] → step s = .next { s with clock := s.clock + 1 })

/-- Every command completes where its half is there (R5, R20, R21). On MB2 every command completes, whatever its operands
and whatever the state. On MB1 a command completes or names what only MB2 has, and then it ends in the fault
absentOnPart. No command is refused. -/
def Obligations.CommandsComplete : Prop :=
  (∀ (c : Instr) (s : State), s.part = .mb2 → ∃ t, exec c s = .next t) ∧
  (∀ (c : Instr) (s : State), s.part = .mb1 → (∃ t, exec c s = .next t) ∨ exec c s = .fault .absentOnPart) ∧
  (∀ (c : Instr) (s : State) (r : Refusal), exec c s ≠ .refused r)

/-- The base right after a cold reset (R7, R157, R372, R388, R423). Every field has the value of its Reset column and no
write is pending; no command waits; every byte of the stacks reads as zero and the memory has its canonical form;
every function is FREE and every queue pair in RESET, no management processor runs the firmware, and no port or bundle
is up. That the part is MB2, and that the clock starts at 0, are the model's choices (log entries 2 and 3). -/
def Obligations.ResetLeaves : Prop :=
  (∀ (r : Reg) (i : Nat), rget State.reset r i = regReset .mb2 r i) ∧ (∀ h g, groupPending State.reset h g = false) ∧
  State.reset.pending = [] ∧ memOk State.reset ∧ (∀ b, dramByte State.reset.mem b = 0) ∧
  (∀ f, (funcAt State.reset f).st = 0) ∧ (∀ n, (qpAt State.reset n).st = 0) ∧ (∀ h, (mpAt State.reset h).st = 0) ∧
  (∀ n, (portAt State.reset n).st = .down) ∧ (∀ n, bundleUp (bundleAt State.reset n) = false) ∧
  State.reset.part = .mb2 ∧ State.reset.clock = 0

/-- Every step keeps the part, the queue behind it, the course of time and the form of the memories (R20, R157, R116,
R422). Whatever a step does, from every state: the base stays the part it is; the queue afterwards is the queue
without the command at its front, so that no command adds, drops or reorders waiting commands; the model's clock never
goes back; and the memory of the stacks and the scratchpads keep the one form in which equal contents are equal data.
The queue, the clock and that form are the model's own (log entries 3 and 4). -/
def Obligations.StepsKeepThePartAndTheQueue : Prop :=
  ∀ s s' : State, step s = .next s' →
    s'.part = s.part ∧ s'.pending = s.pending.tail ∧ s.clock ≤ s'.clock ∧ (memOk s → memOk s')
end

