-- ==== Sys2Proof/Laws/Maps.lean ====
section
/-! SUPPORT. Laws of the sparse maps: a read after a write, and the canonical form that every operation keeps. -/

namespace Sys2Proof.NMap

variable {α : Type}

@[simp] theorem find?_nil (k : Nat) : find? ([] : NMap α) k = none := rfl

@[simp] theorem find?_insert_self (m : NMap α) (k : Nat) (v : α) : find? (insert m k v) k = some v := by
  induction m with
  | nil => simp [insert, find?]
  | cons p rest ih =>
    obtain ⟨k', v'⟩ := p
    simp only [insert]
    split
    · simp [find?]
    · split
      · simp [find?]
      · simp [find?, *]

theorem find?_insert_ne (m : NMap α) {k j : Nat} (v : α) (h : j ≠ k) : find? (insert m k v) j = find? m j := by
  induction m with
  | nil => simp [insert, find?, h]
  | cons p rest ih =>
    obtain ⟨k', v'⟩ := p
    simp only [insert]
    split
    · simp [find?, h]
    · split
      · rename_i hk
        subst hk
        simp [find?, h]
      · simp [find?, ih]

theorem find?_erase_ne (m : NMap α) {k j : Nat} (h : j ≠ k) : find? (erase m k) j = find? m j := by
  induction m with
  | nil => rfl
  | cons p rest ih =>
    obtain ⟨k', v'⟩ := p
    simp only [erase]
    split
    · rename_i hk
      subst hk
      simp [find?, h, ih]
    · simp [find?, ih]

@[simp] theorem find?_erase_self (m : NMap α) (k : Nat) : find? (erase m k) k = none := by
  induction m with
  | nil => rfl
  | cons p rest ih =>
    obtain ⟨k', v'⟩ := p
    simp only [erase]
    split
    · exact ih
    · rename_i hk
      simpa [find?, hk] using ih

@[simp] theorem getD_insert_self (m : NMap α) (k : Nat) (v d : α) : getD (insert m k v) k d = v := by
  simp [getD]

theorem getD_insert_ne (m : NMap α) {k j : Nat} (v d : α) (h : j ≠ k) : getD (insert m k v) j d = getD m j d := by
  simp [getD, find?_insert_ne m v h]

/-- Every listed key is larger than `k`. -/
theorem sorted_cons {k : Nat} {v : α} {m : NMap α} :
    sorted ((k, v) :: m) = true ↔ (∀ p ∈ m, k < p.1) ∧ sorted m = true := by
  induction m generalizing k v with
  | nil => simp [sorted]
  | cons p rest ih =>
    obtain ⟨k', v'⟩ := p
    simp only [sorted, Bool.and_eq_true, decide_eq_true_eq, List.mem_cons, forall_eq_or_imp]
    constructor
    · rintro ⟨h, hs⟩
      exact ⟨⟨h, fun p hp => h.trans ((ih.1 hs).1 p hp)⟩, hs⟩
    · rintro ⟨⟨h, _⟩, hs⟩
      exact ⟨h, hs⟩

theorem mem_insert {m : NMap α} {k : Nat} {v : α} {p : Nat × α} (h : p ∈ insert m k v) : p = (k, v) ∨ p ∈ m := by
  induction m with
  | nil => simpa [insert] using h
  | cons q rest ih =>
    obtain ⟨k', v'⟩ := q
    simp only [insert] at h
    split at h
    · simpa using h
    · split at h
      · rcases List.mem_cons.1 h with h | h
        · exact .inl h
        · exact .inr (List.mem_cons_of_mem _ h)
      · rcases List.mem_cons.1 h with h | h
        · exact .inr (h ▸ List.mem_cons_self)
        · rcases ih h with h | h
          · exact .inl h
          · exact .inr (List.mem_cons_of_mem _ h)

theorem mem_erase {m : NMap α} {k : Nat} {p : Nat × α} (h : p ∈ erase m k) : p ∈ m := by
  induction m with
  | nil => simp [erase] at h
  | cons q rest ih =>
    obtain ⟨k', v'⟩ := q
    simp only [erase] at h
    split at h
    · exact List.mem_cons_of_mem _ (ih h)
    · rcases List.mem_cons.1 h with h | h
      · exact h ▸ List.mem_cons_self
      · exact List.mem_cons_of_mem _ (ih h)

theorem sorted_insert {m : NMap α} (k : Nat) (v : α) (h : sorted m = true) : sorted (insert m k v) = true := by
  induction m with
  | nil => rfl
  | cons q rest ih =>
    obtain ⟨k', v'⟩ := q
    rw [sorted_cons] at h
    simp only [insert]
    split
    · rename_i hk
      rw [sorted_cons]
      refine ⟨?_, sorted_cons.2 h⟩
      intro p hp
      rcases List.mem_cons.1 hp with hp | hp
      · simpa [hp] using hk
      · exact hk.trans (h.1 p hp)
    · split
      · rename_i hk
        subst hk
        exact sorted_cons.2 h
      · rename_i hk hne
        rw [sorted_cons]
        refine ⟨?_, ih h.2⟩
        intro p hp
        rcases mem_insert hp with hp | hp
        · rw [hp]
          show k' < k
          omega
        · exact h.1 p hp

theorem sorted_erase {m : NMap α} (k : Nat) (h : sorted m = true) : sorted (erase m k) = true := by
  induction m with
  | nil => rfl
  | cons q rest ih =>
    obtain ⟨k', v'⟩ := q
    rw [sorted_cons] at h
    simp only [erase]
    split
    · exact ih h.2
    · exact sorted_cons.2 ⟨fun p hp => h.1 p (mem_erase hp), ih h.2⟩

variable [DecidableEq α]

/-- Writing keeps the canonical form. -/
theorem wf_setD {d : α} {m : NMap α} (k : Nat) (v : α) (h : wf d m = true) : wf d (setD m k d v) = true := by
  simp only [wf, Bool.and_eq_true, List.all_eq_true, decide_eq_true_eq] at h ⊢
  simp only [setD]
  split
  · exact ⟨sorted_erase k h.1, fun p hp => h.2 p (mem_erase hp)⟩
  · rename_i hv
    refine ⟨sorted_insert k v h.1, fun p hp => ?_⟩
    rcases mem_insert hp with hp | hp
    · rw [hp]
      exact hv
    · exact h.2 p hp

/-- A read of what was written. -/
@[simp] theorem getD_setD_self {d : α} (m : NMap α) (k : Nat) (v : α) : getD (setD m k d v) k d = v := by
  simp only [setD]
  split
  · rename_i hv
    simp [getD, hv]
  · simp

/-- A write leaves every other place alone. -/
theorem getD_setD_ne {d : α} (m : NMap α) {k j : Nat} (v : α) (h : j ≠ k) : getD (setD m k d v) j d = getD m j d := by
  simp only [setD]
  split
  · simp [getD, find?_erase_ne m h]
  · exact getD_insert_ne m v d h

end Sys2Proof.NMap
end

