-- ==== Sys2Proof/Laws/Memory.lean ====
section
/-! SUPPORT. Laws of the memories: every operation on the stacks' memory and on the scratchpads keeps the canonical form, a read
after a write gives what was written, and a write leaves every other byte alone. -/

namespace Sys2Proof.NMap

/-- Leaving entries out keeps the canonical form. -/
theorem wf_filter {α : Type} [DecidableEq α] (d : α) (f : Nat × α → Bool) {m : NMap α} (h : wf d m = true) :
    wf d (m.filter f) = true := by
  have s : ∀ l : NMap α, sorted l = true → sorted (l.filter f) = true := by
    intro l
    induction l with
    | nil => exact id
    | cons q l ih =>
      intro h
      rw [sorted_cons] at h
      rw [List.filter_cons]
      split
      · exact sorted_cons.2 ⟨fun p hp => h.1 p (List.mem_filter.1 hp).1, ih h.2⟩
      · exact ih h.2
  simp only [wf, Bool.and_eq_true, List.all_eq_true] at *
  exact ⟨s m h.1, fun p hp => h.2 p (List.mem_filter.1 hp).1⟩

/-- Writes in any order keep the canonical form. -/
theorem wf_foldl {α β : Type} [DecidableEq α] (d : α) (f : NMap α → β → NMap α)
    (hf : ∀ m b, wf d m = true → wf d (f m b) = true) (l : List β) {m : NMap α} (h : wf d m = true) :
    wf d (l.foldl f m) = true := by
  induction l generalizing m with
  | nil => exact h
  | cons b l ih => exact ih (hf m b h)

end Sys2Proof.NMap

namespace Sys2Proof.Machine

open Sys2Proof

/-! ### The memory of the stacks -/

theorem dramPut_wf (l : List Byte) (k : Nat) {m : List Host.Cell} (h : NMap.wf dramDefault m = true) :
    NMap.wf dramDefault (dramPut l k m) = true := by
  induction l generalizing k m with
  | nil => exact h
  | cons b l ih => exact ih _ (NMap.wf_setD _ _ h)

theorem dramPut_other (l : List Byte) (k j : Nat) (m : List Host.Cell) (h : j < k ∨ k + l.length ≤ j) :
    NMap.getD (dramPut l k m) j dramDefault = NMap.getD m j dramDefault := by
  induction l generalizing k m with
  | nil => rfl
  | cons b l ih =>
    rw [List.length_cons] at h
    rw [dramPut, ih _ _ (by omega), NMap.getD_setD_ne _ _ (by omega)]

theorem dramPut_self (l : List Byte) (k i : Nat) (m : List Host.Cell) (h : i < l.length) :
    NMap.getD (dramPut l k m) (k + i) dramDefault = l[i] := by
  induction l generalizing k i m with
  | nil => simp at h
  | cons b l ih =>
    rw [dramPut]
    cases i with
    | zero => rw [dramPut_other _ _ _ _ (by omega)]; simp
    | succ i =>
      rw [show k + (i + 1) = k + 1 + i by omega, ih _ _ _ (by simpa using h)]
      rfl

theorem dramWrite_wf (k : Nat) (d : Sec256) (side : Nat) {m : MemSt} (h : m.wf = true) : (dramWrite k d side m).wf = true := by
  simp only [MemSt.wf, Bool.and_eq_true, dramWrite] at *
  exact ⟨dramPut_wf _ _ h.1, NMap.wf_setD _ _ h.2⟩

/-- A sector write leaves every byte outside the sector alone. -/
theorem dramByte_dramWrite_other (k : Nat) (d : Sec256) (side j : Nat) (m : MemSt) (h : j / 32 ≠ k) :
    dramByte (dramWrite k d side m) j = dramByte m j :=
  dramPut_other _ _ _ _ (by simp [bytesOf]; omega)

/-- A byte of the sector written reads as written. -/
theorem dramByte_dramWrite_self (k i : Nat) (d : Sec256) (side : Nat) (m : MemSt) (h : i < (bytesOf 32 d).length) :
    dramByte (dramWrite k d side m) (32 * k + i) = (bytesOf 32 d)[i] :=
  dramPut_self _ _ _ _ h

/-- What changes other parts of the memory keeps the form. -/
theorem memSame (m : MemSt) (c d r l) (h : m.wf = true) : MemSt.wf ⟨m.dram, m.side, c, d, r, l⟩ = true := h

/-- Leaving bytes out, as a zero fill does, keeps the form. -/
theorem memFilter {m : MemSt} (f : Nat × Byte → Bool) (g : Nat × Nat → Bool) (c d r l) (h : m.wf = true) :
    MemSt.wf ⟨m.dram.filter f, m.side.filter g, c, d, r, l⟩ = true := by
  simp only [MemSt.wf, Bool.and_eq_true] at *
  exact ⟨NMap.wf_filter _ _ h.1, NMap.wf_filter _ _ h.2⟩

/-- Writing side bits keeps the form. -/
theorem sidePut_wf {m : MemSt} (k v : Nat) (h : m.wf = true) : MemSt.wf { m with side := m.side.setD k 0 v } = true := by
  simp only [MemSt.wf, Bool.and_eq_true] at *
  exact ⟨h.1, NMap.wf_setD _ _ h.2⟩

/-! ### The scratchpads -/

/-- What changes other parts of the buffer keeps the form. -/
theorem padSame (b : BufferSt) (f p e w st r wf wz q qw mt ot ar) (h : b.padWf = true) :
    BufferSt.padWf ⟨f, p, e, w, st, r, wf, wz, b.scratch, b.scratchPoison, q, qw, mt, ot, ar⟩ = true := h

/-- Leaving bytes out, as zeroing a way does, keeps the form. -/
theorem padFilter (b : BufferSt) (x : Nat × Byte → Bool) (y : Nat × Bool → Bool) (f p e w st r wf wz q qw mt ot ar) (h : b.padWf = true) :
    BufferSt.padWf ⟨f, p, e, w, st, r, wf, wz, b.scratch.filter x, b.scratchPoison.filter y, q, qw, mt, ot, ar⟩ = true := by
  simp only [BufferSt.padWf, Bool.and_eq_true] at *
  exact ⟨NMap.wf_filter _ _ h.1, NMap.wf_filter _ _ h.2⟩

/-- Marking sectors of the scratchpads as poisoned keeps the form. -/
theorem padPoison_wf {b : BufferSt} (l : List Nat) (h : b.padWf = true) :
    BufferSt.padWf { b with scratchPoison := l.foldl (fun m u => NMap.setD m u false true) b.scratchPoison } = true := by
  simp only [BufferSt.padWf, Bool.and_eq_true] at *
  exact ⟨h.1, NMap.wf_foldl _ _ (fun m u h => NMap.wf_setD _ _ h) _ h.2⟩

theorem scratchPut_wf (a : Nat) (bs : List Byte) (p : Bool) {s : State} (h : s.buf.padWf = true) :
    (scratchPut a bs p s).buf.padWf = true := by
  simp only [BufferSt.padWf, Bool.and_eq_true, scratchPut] at *
  refine ⟨NMap.wf_foldl _ _ (fun m x h => NMap.wf_setD _ _ h) _ h.1, NMap.wf_foldl _ _ (fun m u h => ?_) _ h.2⟩
  split
  · exact NMap.wf_setD _ _ h
  · split
    · exact NMap.wf_setD _ _ h
    · exact h

/-! ### At reset -/

theorem reset_mem_wf : State.reset.mem.wf = true := rfl

theorem reset_pad_wf : State.reset.buf.padWf = true := rfl

end Sys2Proof.Machine
end

