-- ==== Sys2Proof/Laws/Keeps.lean ====
section
/-! SUPPORT. What every operation keeps: the part, the queue of waiting commands, a clock that does not go back, and the canonical
form of the memories; and how it carries over sequences, choices and loops. The files `Keeps<Part>.lean` show it of every
operation of the machine; `KeepsO`, `KeepsP` and `KeepsQ` say it of operations that may answer nothing, and `KeepsR` of
outcomes. -/

namespace Sys2Proof.Machine

open Sys2Proof

/-- What every operation keeps. -/
structure Keeps (s t : State) : Prop where
  part : t.part = s.part
  pending : t.pending = s.pending
  clock : s.clock ≤ t.clock
  mem : s.mem.wf = true → t.mem.wf = true
  pad : s.buf.padWf = true → t.buf.padWf = true


theorem Keeps.refl (s : State) : Keeps s s := ⟨rfl, rfl, Nat.le_refl _, id, id⟩

theorem Keeps.trans {s t u : State} (h : Keeps s t) (k : Keeps t u) : Keeps s u :=
  ⟨k.part.trans h.part, k.pending.trans h.pending, h.clock.trans k.clock, fun w => k.mem (h.mem w),
    fun w => k.pad (h.pad w)⟩

theorem Keeps.after {s t u : State} (k : Keeps t u) (h : Keeps s t) : Keeps s u := h.trans k

theorem Keeps.ite {s t u : State} {c : Prop} [Decidable c] (h : Keeps s t) (k : Keeps s u) : Keeps s (if c then t else u) := by
  split <;> assumption

theorem Keeps.ite2 {α : Type} {s : State} {t u : α × State} {c : Prop} [Decidable c] (h : Keeps s t.2) (k : Keeps s u.2) :
    Keeps s (if c then t else u).2 := by
  split <;> assumption

theorem Keeps.ite3 {α β : Type} {s : State} {t u : α × β × State} {c : Prop} [Decidable c] (h : Keeps s t.2.2) (k : Keeps s u.2.2) :
    Keeps s (if c then t else u).2.2 := by
  split <;> assumption

theorem Keeps.snd {α : Type} {s t : State} {a : α} {p : α × State} (h : p = (a, t)) (k : Keeps s p.2) : Keeps s t := by
  subst h; exact k

theorem Keeps.snd3 {α β : Type} {s t : State} {a : α} {b : β} {p : α × β × State} (h : p = (a, b, t)) (k : Keeps s p.2.2) : Keeps s t := by
  subst h; exact k

theorem Keeps.fst {α : Type} {s t : State} {a : α} {p : State × α} (h : p = (t, a)) (k : Keeps s p.1) : Keeps s t := by
  subst h; exact k

theorem Keeps.ite1 {α : Type} {s : State} {t u : State × α} {c : Prop} [Decidable c] (h : Keeps s t.1) (k : Keeps s u.1) :
    Keeps s (if c then t else u).1 := by
  split <;> assumption

theorem Keeps.upd {s t : State} (h : Keeps s t) {o c r f cu tk co d l re z ho ca pw i c0 c1 d0 d1 pi} :
    Keeps s ⟨t.part, t.clock, t.pending, o, c, r, f, cu, tk, t.buf, t.mem, co, d, l, re, z, ho, ca, pw, i, c0, c1, d0, d1, pi⟩ :=
  ⟨h.part, h.pending, h.clock, h.mem, h.pad⟩

theorem Keeps.updMem {s t : State} (h : Keeps s t) {m b o c r f cu tk co d l re z ho ca pw i c0 c1 d0 d1 pi}
    (w : t.mem.wf = true → MemSt.wf m = true) (x : t.buf.padWf = true → BufferSt.padWf b = true) :
    Keeps s ⟨t.part, t.clock, t.pending, o, c, r, f, cu, tk, b, m, co, d, l, re, z, ho, ca, pw, i, c0, c1, d0, d1, pi⟩ :=
  ⟨h.part, h.pending, h.clock, fun y => w (h.mem y), fun y => x (h.pad y)⟩

theorem keeps_forEach {α : Type} {f : α → State → State} (h : ∀ a s, Keeps s (f a s)) (l : List α) (s : State) :
    Keeps s (forEach l f s) := by
  induction l generalizing s with
  | nil => exact .refl s
  | cons a l ih => exact (h a s).trans (ih (f a s))

theorem keeps_foldl {α : Type} {f : State → α → State} (h : ∀ s a, Keeps s (f s a)) (l : List α) (s : State) :
    Keeps s (l.foldl f s) := by
  induction l generalizing s with
  | nil => exact .refl s
  | cons a l ih => exact (h s a).trans (ih (f s a))

theorem keeps_foldl2 {α β : Type} {f : β × State → α → β × State} (h : ∀ r a, Keeps r.2 (f r a).2) (l : List α) (r : β × State) :
    Keeps r.2 (l.foldl f r).2 := by
  induction l generalizing r with
  | nil => exact .refl _
  | cons a l ih => exact (h r a).trans (ih (f r a))

theorem keeps_when {b : Bool} {f : State → State} (h : ∀ s, Keeps s (f s)) (s : State) : Keeps s (when b f s) := by
  unfold Machine.when; split
  · exact h s
  · exact .refl s

/-- An operation that may answer no state keeps what the states it answers keep. -/
structure KeepsO (s : State) (o : Option State) : Prop where
  use : ∀ {t}, o = some t → Keeps s t
structure KeepsP {α : Type} (s : State) (o : Option (α × State)) : Prop where
  use : ∀ {a t}, o = some (a, t) → Keeps s t
structure KeepsQ {α β : Type} (s : State) (o : Option (α × β × State)) : Prop where
  use : ∀ {a b t}, o = some (a, b, t) → Keeps s t

theorem KeepsO.of {s t : State} {o : Option State} (e : o = some t) (h : KeepsO s o) : Keeps s t := h.use e

theorem KeepsP.of {α : Type} {s t : State} {a : α} {o : Option (α × State)} (e : o = some (a, t)) (h : KeepsP s o) : Keeps s t := h.use e

theorem KeepsP.of2 {α : Type} {s : State} {p : α × State} {o : Option (α × State)} (e : o = some p) (h : KeepsP s o) : Keeps s p.2 := h.use e

theorem KeepsQ.of {α β : Type} {s t : State} {a : α} {b : β} {o : Option (α × β × State)} (e : o = some (a, b, t)) (h : KeepsQ s o) : Keeps s t := h.use e

theorem KeepsQ.of2 {α β : Type} {s : State} {p : α × β × State} {o : Option (α × β × State)} (e : o = some p) (h : KeepsQ s o) : Keeps s p.2.2 := h.use e

theorem KeepsO.ofNone {s : State} : KeepsO s none := ⟨fun h => nomatch h⟩

theorem KeepsP.ofNone {α : Type} {s : State} : KeepsP (α := α) s none := ⟨fun h => nomatch h⟩

theorem KeepsQ.ofNone {α β : Type} {s : State} : KeepsQ (α := α) (β := β) s none := ⟨fun h => nomatch h⟩

theorem KeepsO.ofSome {s t : State} (h : Keeps s t) : KeepsO s (some t) := ⟨fun e => by cases e; exact h⟩

theorem KeepsP.ofSome {α : Type} {s t : State} {a : α} (h : Keeps s t) : KeepsP s (some (a, t)) := ⟨fun e => by cases e; exact h⟩

theorem KeepsP.ofPair {α : Type} {s : State} {p : α × State} (h : Keeps s p.2) : KeepsP s (some p) := ⟨fun e => by cases e; exact h⟩

theorem KeepsQ.ofSome {α β : Type} {s t : State} {a : α} {b : β} (h : Keeps s t) : KeepsQ s (some (a, b, t)) :=
  ⟨fun e => by cases e; exact h⟩

theorem KeepsO.ite {s : State} {o p : Option State} {c : Prop} [Decidable c] (h : KeepsO s o) (k : KeepsO s p) :
    KeepsO s (if c then o else p) := by
  split <;> assumption

theorem KeepsP.ite {α : Type} {s : State} {o p : Option (α × State)} {c : Prop} [Decidable c] (h : KeepsP s o) (k : KeepsP s p) :
    KeepsP s (if c then o else p) := by
  split <;> assumption

theorem KeepsQ.ite {α β : Type} {s : State} {o p : Option (α × β × State)} {c : Prop} [Decidable c] (h : KeepsQ s o) (k : KeepsQ s p) :
    KeepsQ s (if c then o else p) := by
  split <;> assumption

theorem KeepsO.trans {s t : State} {o : Option State} (h : Keeps s t) (k : KeepsO t o) : KeepsO s o := ⟨fun e => h.trans (k.use e)⟩

theorem KeepsP.trans {α : Type} {s t : State} {o : Option (α × State)} (h : Keeps s t) (k : KeepsP t o) : KeepsP s o :=
  ⟨fun e => h.trans (k.use e)⟩

theorem KeepsQ.trans {α β : Type} {s t : State} {o : Option (α × β × State)} (h : Keeps s t) (k : KeepsQ t o) : KeepsQ s o :=
  ⟨fun e => h.trans (k.use e)⟩

theorem KeepsO.map {s : State} {o : Option State} {f : State → State} (h : KeepsO s o) (k : ∀ t, Keeps t (f t)) : KeepsO s (o.map f) := by
  cases o with
  | none => exact .ofNone
  | some t => exact .ofSome ((h.use rfl).trans (k t))

theorem KeepsO.mapOf {α : Type} {s : State} {o : Option α} {f : α → State} (k : ∀ a, Keeps s (f a)) : KeepsO s (o.map f) := by
  cases o with
  | none => exact .ofNone
  | some a => exact .ofSome (k a)

theorem KeepsO.bind {s : State} {o : Option State} {f : State → Option State} (h : KeepsO s o) (k : ∀ t, KeepsO t (f t)) :
    KeepsO s (o.bind f) := by
  cases o with
  | none => exact .ofNone
  | some t => exact KeepsO.trans (h.use rfl) (k t)

theorem KeepsP.mapO {α : Type} {s : State} {o : Option State} {f : State → α × State} (h : KeepsO s o)
    (k : ∀ t, Keeps t (f t).2) : KeepsP s (o.map f) := by
  cases o with
  | none => exact .ofNone
  | some p => exact .ofPair ((h.use rfl).trans (k p))

theorem KeepsP.map {α β : Type} {s : State} {o : Option (α × State)} {f : α × State → β × State} (h : KeepsP s o)
    (k : ∀ p, Keeps p.2 (f p).2) : KeepsP s (o.map f) := by
  cases o with
  | none => exact .ofNone
  | some p => exact .ofPair ((h.use rfl).trans (k p))

theorem KeepsO.getD {s t : State} {o : Option State} (h : KeepsO s o) (k : Keeps s t) : Keeps s (o.getD t) := by
  cases o with
  | none => exact k
  | some u => exact h.use rfl

theorem KeepsO.after {s t : State} {o : Option State} (k : KeepsO t o) (h : Keeps s t) : KeepsO s o := KeepsO.trans h k

theorem KeepsP.after {α : Type} {s t : State} {o : Option (α × State)} (k : KeepsP t o) (h : Keeps s t) : KeepsP s o := KeepsP.trans h k

theorem KeepsQ.after {α β : Type} {s t : State} {o : Option (α × β × State)} (k : KeepsQ t o) (h : Keeps s t) : KeepsQ s o := KeepsQ.trans h k

theorem keeps_atTime (t : Nat) (s : State) : Keeps s (atTime t s) := ⟨rfl, rfl, Nat.le_max_left _ _, id, id⟩

theorem keeps_tick (s : State) : Keeps s (tick s) := ⟨rfl, rfl, Nat.le_succ _, id, id⟩

theorem KeepsO.mapP {α : Type} {s : State} {o : Option (α × State)} {f : α × State → State} (h : KeepsP s o)
    (k : ∀ p, Keeps p.2 (f p)) : KeepsO s (o.map f) := by
  cases o with
  | none => exact .ofNone
  | some p => exact .ofSome ((h.use rfl).trans (k p))

/-- The next state of an outcome keeps what `Keeps` says; a fault or a refusal has none. -/
structure KeepsR (s : State) (o : Outcome) : Prop where
  use : ∀ {t}, o = .next t → Keeps s t

theorem KeepsR.next {s t : State} (h : Keeps s t) : KeepsR s (.next t) := ⟨fun e => by cases e; exact h⟩

theorem KeepsR.onPart {s : State} {b : Bool} {o : Outcome} (h : KeepsR s o) : KeepsR s (onPart b o) := by
  unfold Machine.onPart
  split
  · exact h
  · exact ⟨fun e => nomatch e⟩

theorem KeepsR.onHalf {s u : State} {h : Half} {o : Outcome} (k : KeepsR s o) : KeepsR s (onHalf u h o) := k.onPart

end Sys2Proof.Machine
end

