-- ==== Sys2Proof/Laws/KeepsSlice.lean ====
section
/-! SUPPORT. What the operations of the registers, the records, the cues, the memory queues and the slices of the buffer keep (`Keeps`). -/

namespace Sys2Proof.Machine

open Sys2Proof

theorem keeps_rput : ∀ x0 x1 x2 s, Keeps s (rput x0 x1 x2 s) := by
  intro x0 x1 x2 s
  unfold rput
  try dsimp only
  with_reducible repeat' first | apply Keeps.refl | fail_if_no_progress apply Keeps.upd

theorem keeps_rputBits : ∀ x0 x1 x2 x3 x4 s, Keeps s (rputBits x0 x1 x2 x3 x4 s) := by
  intro x0 x1 x2 x3 x4 s
  unfold rputBits
  try dsimp only
  with_reducible repeat' first | apply Keeps.refl | (apply Keeps.after; apply keeps_rput)

theorem keeps_bumpSat : ∀ x0 x1 x2 x3 x4 s, Keeps s (bumpSat x0 x1 x2 x3 x4 s) := by
  intro x0 x1 x2 x3 x4 s
  unfold bumpSat
  try dsimp only
  with_reducible repeat' first | apply Keeps.refl | (apply Keeps.after; apply keeps_rputBits)

theorem keeps_freeNat : ∀ x0 s, Keeps s (freeNat x0 s).2 := by
  intro x0 s
  unfold freeNat
  try dsimp only
  with_reducible repeat' first | apply Keeps.refl | assumption | fail_if_no_progress apply Keeps.upd

theorem keeps_setCollector : ∀ x0 x1 s, Keeps s (setCollector x0 x1 s) := by
  intro x0 x1 s
  unfold setCollector
  try dsimp only
  with_reducible repeat' first | apply Keeps.refl | fail_if_no_progress apply Keeps.upd | split

theorem keeps_freeBool : ∀ s, Keeps s (freeBool s).2 := by
  intro s
  unfold freeBool
  try dsimp only
  with_reducible repeat' first | apply Keeps.refl | assumption | fail_if_no_progress apply Keeps.upd

theorem keeps_emit : ∀ x0 s, Keeps s (emit x0 s) := by
  intro x0 s
  unfold emit
  try dsimp only
  with_reducible repeat' first | apply Keeps.refl | fail_if_no_progress apply Keeps.upd

theorem keeps_stepTake : ∀ x0 s, Keeps s (stepTake x0 s) := by
  intro x0 s
  unfold stepTake
  try dsimp only
  with_reducible repeat' first | apply Keeps.refl | fail_if_no_progress apply Keeps.upd

theorem keeps_callAdvance : ∀ x0 s, Keeps s (callAdvance x0 s) := by
  intro x0 s
  unfold callAdvance
  try dsimp only
  with_reducible repeat' first
    | apply Keeps.refl | apply Keeps.ite | fail_if_no_progress apply Keeps.upd
    | (apply Keeps.after; apply keeps_stepTake)

theorem keeps_daily : ∀ x0 s, Keeps s (daily x0 s) := by
  intro x0 s
  unfold daily
  try dsimp only
  with_reducible repeat' first | apply Keeps.refl | (apply Keeps.after; apply keeps_setCollector)

theorem keeps_eventD : ∀ x0 x1 x2 x3 x4 x5 x6 x7 s, Keeps s (eventD x0 x1 x2 x3 x4 x5 x6 x7 s) := by
  intro x0 x1 x2 x3 x4 x5 x6 x7 s
  unfold eventD
  try dsimp only
  with_reducible repeat' first | apply Keeps.refl | (apply Keeps.after; apply keeps_daily)

theorem keeps_event : ∀ x0 x1 x2 x3 x4 x5 x6 s, Keeps s (event x0 x1 x2 x3 x4 x5 x6 s) := by
  intro x0 x1 x2 x3 x4 x5 x6 s
  unfold event
  try dsimp only
  with_reducible repeat' first | apply Keeps.refl | (apply Keeps.after; apply keeps_daily)

theorem keeps_modDom : ∀ x0 x1 s, Keeps s (modDom x0 x1 s) := by
  intro x0 x1 s
  unfold modDom
  try dsimp only
  with_reducible repeat' first | apply Keeps.refl | fail_if_no_progress apply Keeps.upd

theorem keeps_bumpWrap : ∀ x0 x1 x2 x3 x4 s, Keeps s (bumpWrap x0 x1 x2 x3 x4 s) := by
  intro x0 x1 x2 x3 x4 s
  unfold bumpWrap
  try dsimp only
  with_reducible repeat' first | apply Keeps.refl | (apply Keeps.after; apply keeps_rputBits)

theorem keeps_setBundle : ∀ x0 x1 s, Keeps s (setBundle x0 x1 s) := by
  intro x0 x1 s
  unfold setBundle
  try dsimp only
  with_reducible repeat' first | apply Keeps.refl | fail_if_no_progress apply Keeps.upd

theorem keeps_emitFrame : ∀ x0 x1 x2 s, Keeps s (emitFrame x0 x1 x2 s) := by
  intro x0 x1 x2 s
  unfold emitFrame
  try dsimp only
  with_reducible repeat' first | apply Keeps.refl | (apply Keeps.after; apply keeps_emit)

theorem keeps_closeFrame : ∀ x0 s, Keeps s (closeFrame x0 s) := by
  intro x0 s
  unfold closeFrame
  try dsimp only
  with_reducible repeat' first
    | apply Keeps.refl | apply Keeps.ite | (apply Keeps.after; first | apply keeps_emitFrame | apply keeps_setBundle)

theorem keeps_putSlot : ∀ x0 x1 s, Keeps s (putSlot x0 x1 s) := by
  intro x0 x1 s
  unfold putSlot
  try dsimp only
  with_reducible repeat' first
    | apply Keeps.refl | apply Keeps.ite | (apply Keeps.after; first | apply keeps_setBundle | apply keeps_closeFrame)

theorem keeps_zAgeQueue : ∀ x0 x1 s, Keeps s (zAgeQueue x0 x1 s) := by
  intro x0 x1 s
  unfold zAgeQueue
  try dsimp only
  with_reducible repeat' first
    | apply Keeps.refl | apply Keeps.ite | (apply Keeps.after; first | apply keeps_bumpSat | apply keeps_setBundle)

theorem keeps_sendSlot : ∀ x0 x1 x2 s, Keeps s (sendSlot x0 x1 x2 s) := by
  intro x0 x1 x2 s
  unfold sendSlot
  try dsimp only
  with_reducible repeat' first
    | apply Keeps.refl
    | (apply Keeps.after; first | apply keeps_when | apply keeps_emit | apply keeps_setBundle | apply keeps_putSlot)
    | intro _ | split

theorem keeps_zPumpGo : ∀ x0 x1 s, Keeps s (zPumpGo x0 x1 s) := by
  intro x0 x1 s
  fun_induction zPumpGo x0 x1 s
  with_reducible repeat' first
    | apply Keeps.refl | assumption | apply Keeps.ite | (apply Keeps.after; assumption)
    | (apply Keeps.after; first | apply keeps_closeFrame | apply keeps_putSlot | apply keeps_setBundle | apply keeps_sendSlot)

theorem keeps_zPump : ∀ x0 x1 s, Keeps s (zPump x0 x1 s) := by
  intro x0 x1 s
  unfold zPump
  try dsimp only
  with_reducible repeat' first
    | apply Keeps.refl | apply Keeps.ite | (apply Keeps.after; first | apply keeps_zAgeQueue | apply keeps_zPumpGo)

theorem keeps_modBundle : ∀ x0 x1 s, Keeps s (modBundle x0 x1 s) := by
  intro x0 x1 s
  unfold modBundle
  try dsimp only
  with_reducible repeat' first | apply Keeps.refl | (apply Keeps.after; apply keeps_setBundle)

theorem keeps_zQueue : ∀ x0 x1 x2 x3 s, Keeps s (zQueue x0 x1 x2 x3 s) := by
  intro x0 x1 x2 x3 s
  unfold zQueue
  try dsimp only
  with_reducible repeat' first | apply Keeps.refl | (apply Keeps.after; first | apply keeps_zPump | apply keeps_modBundle)

theorem keeps_zPlace : ∀ x0 x1 x2 s, Keeps s (zPlace x0 x1 x2 s) := by
  intro x0 x1 x2 s
  unfold zPlace
  try dsimp only
  with_reducible repeat' first
    | apply Keeps.refl | (apply Keeps.after; first | apply keeps_bumpSat | apply keeps_zQueue) | split

theorem keeps_zSend : ∀ x0 x1 x2 s, Keeps s (zSend x0 x1 x2 s) := by
  intro x0 x1 x2 s
  unfold zSend
  try dsimp only
  with_reducible repeat' first | apply Keeps.refl | (apply Keeps.after; apply keeps_zPlace)

theorem keeps_setSite : ∀ x0 x1 s, Keeps s (setSite x0 x1 s) := by
  intro x0 x1 s
  unfold setSite
  try dsimp only
  with_reducible repeat' first | apply Keeps.refl | fail_if_no_progress apply Keeps.upd

theorem keeps_modSite : ∀ x0 x1 s, Keeps s (modSite x0 x1 s) := by
  intro x0 x1 s
  unfold modSite
  try dsimp only
  with_reducible repeat' first | apply Keeps.refl | (apply Keeps.after; apply keeps_setSite)

theorem keeps_sendCue : ∀ x0 x1 x2 x3 x4 x5 x6 x7 s, Keeps s (sendCue x0 x1 x2 x3 x4 x5 x6 x7 s) := by
  intro x0 x1 x2 x3 x4 x5 x6 x7 s
  unfold sendCue
  try dsimp only
  with_reducible repeat' first | apply Keeps.refl | apply Keeps.ite | (apply Keeps.after; apply keeps_zSend)

theorem keeps_cueStale : ∀ x0 s, Keeps s (cueStale x0 s) := by
  intro x0 s
  unfold cueStale
  try dsimp only
  with_reducible repeat' first | apply Keeps.refl | (apply Keeps.after; first | apply keeps_event | apply keeps_bumpSat)

theorem keeps_setCue : ∀ x0 x1 s, Keeps s (setCue x0 x1 s) := by
  intro x0 x1 s
  unfold setCue
  try dsimp only
  with_reducible repeat' first | apply Keeps.refl | fail_if_no_progress apply Keeps.upd

theorem keeps_noteProgress : ∀ x0 x1 s, Keeps s (noteProgress x0 x1 s) := by
  intro x0 x1 s
  unfold noteProgress
  try dsimp only
  with_reducible repeat' first | apply Keeps.refl | fail_if_no_progress apply Keeps.upd

theorem keeps_setCtx : ∀ x0 x1 x2 x3 s, Keeps s (setCtx x0 x1 x2 x3 s) := by
  intro x0 x1 x2 x3 s
  unfold setCtx
  try dsimp only
  with_reducible repeat' first | apply Keeps.refl | fail_if_no_progress apply Keeps.upd

theorem keeps_setQueue : ∀ x0 x1 s, Keeps s (setQueue x0 x1 s) := by
  intro x0 x1 s
  unfold setQueue
  try dsimp only
  with_reducible repeat' first | apply Keeps.refl | fail_if_no_progress apply Keeps.upd

theorem keeps_wake : ∀ x0 x1 s, Keeps s (wake x0 x1 s) := by
  intro x0 x1 s
  unfold wake
  try dsimp only
  with_reducible repeat' first
    | apply Keeps.refl | apply Keeps.ite | fail_if_no_progress apply Keeps.upd
    | (apply Keeps.after; first | apply keeps_noteProgress | apply keeps_setCtx | apply keeps_setQueue | apply keeps_sendCue)
    | split

theorem keeps_cueCheck : ∀ x0 s, Keeps s (cueCheck x0 s) := by
  intro x0 s
  unfold cueCheck
  try dsimp only
  with_reducible repeat' first
    | apply Keeps.refl | (apply Keeps.after; first | apply keeps_setCue | apply keeps_forEach | apply keeps_wake)
    | intro _

theorem keeps_cueSet : ∀ x0 x1 s, Keeps s (cueSet x0 x1 s) := by
  intro x0 x1 s
  unfold cueSet
  try dsimp only
  with_reducible repeat' first | apply Keeps.refl | (apply Keeps.after; first | apply keeps_cueCheck | apply keeps_setCue)

theorem keeps_doCueValue : ∀ x0 x1 s, Keeps s (doCueValue x0 x1 s) := by
  intro x0 x1 s
  unfold doCueValue
  try dsimp only
  with_reducible repeat' first | apply Keeps.refl | (apply Keeps.after; apply keeps_cueSet)

theorem keeps_cueAdd : ∀ x0 x1 s, Keeps s (cueAdd x0 x1 s) := by
  intro x0 x1 s
  unfold cueAdd
  try dsimp only
  with_reducible repeat' first
    | apply Keeps.refl
    | (apply Keeps.after; first | apply keeps_setCue | apply keeps_when | apply keeps_event | apply keeps_bumpSat | apply keeps_cueCheck)
    | intro _

theorem keeps_cueSignal : ∀ x0 x1 s, Keeps s (cueSignal x0 x1 s) := by
  intro x0 x1 s
  unfold cueSignal
  try dsimp only
  with_reducible repeat' first
    | apply Keeps.refl | apply Keeps.ite | (apply Keeps.after; first | apply keeps_cueAdd | apply keeps_cueStale)

theorem keeps_signalFrom : ∀ x0 x1 x2 s, Keeps s (signalFrom x0 x1 x2 s) := by
  intro x0 x1 x2 s
  unfold signalFrom
  try dsimp only
  with_reducible repeat' first
    | apply Keeps.refl | apply Keeps.ite | (apply Keeps.after; first | apply keeps_cueSignal | apply keeps_sendCue)

theorem keeps_signalNum : ∀ x0 x1 x2 s, Keeps s (signalNum x0 x1 x2 s) := by
  intro x0 x1 x2 s
  unfold signalNum
  try dsimp only
  with_reducible repeat' first | apply Keeps.refl | (apply Keeps.after; apply keeps_signalFrom)

theorem keeps_signalField : ∀ x0 x1 x2 s, Keeps s (signalField x0 x1 x2 s) := by
  intro x0 x1 x2 s
  unfold signalField
  try dsimp only
  with_reducible repeat' first
    | apply Keeps.refl | apply Keeps.ite | (apply Keeps.after; first | apply keeps_event | apply keeps_signalFrom)

theorem keeps_faultCtx : ∀ x0 x1 x2 x3 x4 s, Keeps s (faultCtx x0 x1 x2 x3 x4 s) := by
  intro x0 x1 x2 x3 x4 s
  unfold faultCtx
  try dsimp only
  with_reducible repeat' first | apply Keeps.refl | (apply Keeps.after; first | apply keeps_setCtx | apply keeps_eventD)

theorem keeps_creditBack : ∀ x0 s, Keeps s (creditBack x0 s) := by
  intro x0 s
  unfold creditBack
  try dsimp only
  with_reducible repeat' first | apply Keeps.refl | apply Keeps.ite | fail_if_no_progress apply Keeps.upd

theorem keeps_dropWho : ∀ x0 s, Keeps s (dropWho x0 s) := by
  intro x0 s
  unfold dropWho
  try dsimp only
  with_reducible repeat' first
    | apply Keeps.refl
    | (apply Keeps.after; first | apply keeps_faultCtx | apply keeps_forEach | apply keeps_creditBack | apply keeps_setQueue)
    | intro _ | split

theorem keeps_dropWait : ∀ x0 s, Keeps s (dropWait x0 s) := by
  intro x0 s
  unfold dropWait
  try dsimp only
  with_reducible repeat' first
    | apply Keeps.refl | assumption | apply Keeps.ite | apply Keeps.ite2 | fail_if_no_progress apply Keeps.upd
    | (apply Keeps.after; apply keeps_dropWho) | intro _ | split

theorem keeps_cueWait : ∀ x0 x1 s, Keeps s (cueWait x0 x1 s) := by
  intro x0 x1 s
  unfold cueWait
  try dsimp only
  with_reducible repeat' first
    | apply Keeps.refl | assumption | apply Keeps.ite | apply Keeps.ite2 | fail_if_no_progress apply Keeps.upd
    | (apply Keeps.after; first | apply keeps_cueCheck | apply keeps_setCue | apply keeps_dropWait | apply keeps_cueStale)

theorem keeps_doWait : ∀ x0 x1 x2 x3 x4 x5 s, Keeps s (doWait x0 x1 x2 x3 x4 x5 s) := by
  intro x0 x1 x2 x3 x4 x5 s
  unfold doWait
  try dsimp only
  with_reducible repeat' first
    | apply Keeps.refl | apply Keeps.ite | (apply Keeps.after; first | apply keeps_sendCue | apply keeps_cueWait) | split

theorem keeps_cueRelease : ∀ x0 x1 s, Keeps s (cueRelease x0 x1 s) := by
  intro x0 x1 s
  unfold cueRelease
  try dsimp only
  with_reducible repeat' first
    | apply Keeps.refl
    | (apply Keeps.after; first | apply keeps_setCue | apply keeps_when | apply keeps_forEach | apply keeps_dropWait | apply keeps_callAdvance | apply keeps_rput)
    | intro _

theorem keeps_waitFrom : ∀ x0 x1 x2 s, Keeps s (waitFrom x0 x1 x2 s) := by
  intro x0 x1 x2 s
  unfold waitFrom
  try dsimp only
  with_reducible repeat' first
    | apply Keeps.refl | apply Keeps.ite | fail_if_no_progress apply Keeps.upd
    | (apply Keeps.after; first | apply keeps_cueWait | apply keeps_dropWait | apply keeps_sendCue)

theorem keeps_doWaitDone : ∀ x0 x1 s, Keeps s (doWaitDone x0 x1 s) := by
  intro x0 x1 s
  unfold doWaitDone
  try dsimp only
  with_reducible repeat' first
    | apply Keeps.refl | fail_if_no_progress apply Keeps.upd | (apply Keeps.after; apply keeps_wake) | split

theorem keeps_withdraw : ∀ x0 s, Keeps s (withdraw x0 s) := by
  intro x0 s
  unfold withdraw
  try dsimp only
  with_reducible repeat' first | apply Keeps.refl | fail_if_no_progress apply Keeps.upd

theorem keeps_doSignal : ∀ x0 x1 x2 x3 s, Keeps s (doSignal x0 x1 x2 x3 s) := by
  intro x0 x1 x2 x3 s
  unfold doSignal
  try dsimp only
  with_reducible repeat' first
    | apply Keeps.refl | apply Keeps.ite | (apply Keeps.after; first | apply keeps_sendCue | apply keeps_cueSignal)
    | split

theorem keeps_doCueOwner : ∀ x0 x1 s, Keeps s (doCueOwner x0 x1 s) := by
  intro x0 x1 s
  unfold doCueOwner
  try dsimp only
  with_reducible repeat' first
    | apply Keeps.refl | apply Keeps.ite | (apply Keeps.after; first | apply keeps_rput | apply keeps_cueRelease)

theorem keeps_doTakeAdvance : ∀ x0 s, Keeps s (doTakeAdvance x0 s) := by
  intro x0 s
  unfold doTakeAdvance
  try dsimp only
  with_reducible repeat' first
    | apply Keeps.refl | apply Keeps.ite | (apply Keeps.after; first | apply keeps_stepTake | apply keeps_atTime)

theorem keeps_copyRow : ∀ x0 x1 x2 x3 x4 x5 s, Keeps s (copyRow x0 x1 x2 x3 x4 x5 s) := by
  intro x0 x1 x2 x3 x4 x5 s
  unfold copyRow
  try dsimp only
  with_reducible repeat' first
    | apply Keeps.refl | assumption | apply Keeps.ite | apply Keeps.ite2
    | (apply Keeps.after; first | apply keeps_forEach | apply keeps_freeNat | apply keeps_event | apply keeps_bumpSat)
    | intro _ | split | dsimp only | dsimp +zetaDelta only | (apply dramWrite_wf; assumption)
    | fail_if_no_progress apply Keeps.updMem

theorem keeps_setChan : ∀ x0 x1 s, Keeps s (setChan x0 x1 s) := by
  intro x0 x1 s
  unfold setChan
  try dsimp only
  with_reducible repeat' first
    | apply Keeps.refl | assumption | intro _ | (apply memSame; assumption) | fail_if_no_progress apply Keeps.updMem

theorem keeps_logRepair : ∀ x0 x1 x2 x3 s, Keeps s (logRepair x0 x1 x2 x3 s) := by
  intro x0 x1 x2 x3 s
  unfold logRepair
  try dsimp only
  with_reducible repeat' first
    | apply Keeps.refl | assumption | intro _ | (apply memSame; assumption) | fail_if_no_progress apply Keeps.updMem

theorem keeps_listGranules : ∀ x0 x1 x2 s, Keeps s (listGranules x0 x1 x2 s) := by
  intro x0 x1 x2 s
  unfold listGranules
  try dsimp only
  with_reducible repeat' first
    | apply Keeps.refl | assumption | apply Keeps.ite
    | (apply Keeps.after; first | apply keeps_forEach | apply keeps_event) | intro _ | split | dsimp only
    | (apply memSame; assumption) | fail_if_no_progress apply Keeps.updMem

theorem keeps_retireRow : ∀ x0 x1 x2 s, Keeps s (retireRow x0 x1 x2 s) := by
  intro x0 x1 x2 s
  unfold retireRow
  try dsimp only
  with_reducible repeat' first
    | apply Keeps.refl | assumption | apply Keeps.ite | apply Keeps.ite2
    | (apply Keeps.after; first | apply keeps_listGranules | apply keeps_logRepair)

theorem keeps_redirectRow : ∀ x0 x1 x2 x3 x4 s, Keeps s (redirectRow x0 x1 x2 x3 x4 s) := by
  intro x0 x1 x2 x3 x4 s
  unfold redirectRow
  try dsimp only
  with_reducible repeat' first
    | apply Keeps.refl
    | (apply Keeps.after; first | apply keeps_copyRow | apply keeps_setChan | apply keeps_event | apply keeps_logRepair | apply keeps_retireRow)
    | split

theorem keeps_rawWrite : ∀ x0 x1 x2 x3 s, Keeps s (rawWrite x0 x1 x2 x3 s) := by
  intro x0 x1 x2 x3 s
  unfold rawWrite
  try dsimp only
  with_reducible repeat' first
    | apply Keeps.refl | assumption | intro _ | (apply dramWrite_wf; assumption) | fail_if_no_progress apply Keeps.updMem

theorem keeps_checkedRead : ∀ x0 x1 x2 x3 x4 x5 s, Keeps s (checkedRead x0 x1 x2 x3 x4 x5 s).2 := by
  intro x0 x1 x2 x3 x4 x5 s
  unfold checkedRead
  try dsimp only
  with_reducible repeat' first
    | apply Keeps.refl | assumption | apply Keeps.ite | apply Keeps.ite2
    | (apply Keeps.after; first | apply keeps_when | apply keeps_bumpSat | apply keeps_event | apply keeps_setChan | apply keeps_freeNat | apply keeps_rawWrite | apply keeps_redirectRow)
    | intro _

theorem keeps_pushRet : ∀ x0 x1 s, Keeps s (pushRet x0 x1 s) := by
  intro x0 x1 s
  unfold pushRet
  try dsimp only
  with_reducible repeat' first
    | apply Keeps.refl | assumption | intro _ | (apply padSame; assumption) | fail_if_no_progress apply Keeps.updMem

theorem keeps_performOp : ∀ x0 x1 x2 x3 s, Keeps s (performOp x0 x1 x2 x3 s) := by
  intro x0 x1 x2 x3 s
  unfold performOp
  try dsimp only
  with_reducible repeat' first
    | apply Keeps.refl | assumption
    | (apply Keeps.after; first | apply keeps_checkedRead | apply keeps_pushRet | apply keeps_rawWrite) | split

theorem keeps_performNth : ∀ x0 x1 x2 s, Keeps s (performNth x0 x1 x2 s) := by
  intro x0 x1 x2 s
  unfold performNth
  try dsimp only
  with_reducible repeat' first
    | apply Keeps.refl | apply Keeps.ite | (apply Keeps.after; first | apply keeps_performOp | apply keeps_setChan)
    | split

theorem keeps_enqueue : ∀ x0 x1 x2 x3 s, Keeps s (enqueue x0 x1 x2 x3 s) := by
  intro x0 x1 x2 x3 s
  unfold enqueue
  try dsimp only
  with_reducible repeat' first | apply Keeps.refl | (apply Keeps.after; apply keeps_setChan)

theorem keeps_flushWcb : ∀ x0 x1 x2 s, Keeps s (flushWcb x0 x1 x2 s) := by
  intro x0 x1 x2 s
  unfold flushWcb
  try dsimp only
  with_reducible repeat' first
    | apply Keeps.refl | (apply Keeps.after; first | apply keeps_setChan | apply keeps_enqueue) | split

theorem keeps_accept : ∀ x0 x1 x2 x3 s, Keeps s (accept x0 x1 x2 x3 s) := by
  intro x0 x1 x2 x3 s
  unfold accept
  try dsimp only
  with_reducible repeat' first
    | apply Keeps.refl | apply Keeps.ite
    | (apply Keeps.after; first | apply keeps_enqueue | apply keeps_setChan | apply keeps_flushWcb) | split

theorem keeps_setStack : ∀ x0 x1 s, Keeps s (setStack x0 x1 s) := by
  intro x0 x1 s
  unfold setStack
  try dsimp only
  with_reducible repeat' first
    | apply Keeps.refl | assumption | intro _ | (apply memSame; assumption) | fail_if_no_progress apply Keeps.updMem

theorem keeps_drainSector : ∀ x0 x1 x2 x3 s, Keeps s (drainSector x0 x1 x2 x3 s) := by
  intro x0 x1 x2 x3 s
  fun_induction drainSector x0 x1 x2 x3 s
  with_reducible repeat' first
    | apply Keeps.refl | assumption | (apply Keeps.after; assumption) | (apply Keeps.after; apply keeps_performNth)

theorem keeps_setRegul : ∀ x0 x1 s, Keeps s (setRegul x0 x1 s) := by
  intro x0 x1 s
  unfold setRegul
  try dsimp only
  with_reducible repeat' first | apply Keeps.refl | fail_if_no_progress apply Keeps.upd

theorem keeps_modRegul : ∀ x0 x1 s, Keeps s (modRegul x0 x1 s) := by
  intro x0 x1 s
  unfold modRegul
  try dsimp only
  with_reducible repeat' first | apply Keeps.refl | (apply Keeps.after; apply keeps_setRegul)

theorem keeps_govDone : ∀ x0 x1 x2 x3 s, Keeps s (govDone x0 x1 x2 x3 s) := by
  intro x0 x1 x2 x3 s
  unfold govDone
  try dsimp only
  with_reducible repeat' first | apply Keeps.refl | (apply Keeps.after; apply keeps_modRegul) | split

theorem keeps_govIssue : ∀ x0 s, Keeps s (govIssue x0 s) := by
  intro x0 s
  unfold govIssue
  try dsimp only
  with_reducible repeat' first | apply Keeps.refl | (apply Keeps.after; apply keeps_modRegul) | split

theorem keeps_govEngine : ∀ x0 x1 x2 x3 x4 s, Keeps s (govEngine x0 x1 x2 x3 x4 s) := by
  intro x0 x1 x2 x3 x4 s
  unfold govEngine
  try dsimp only
  with_reducible repeat' first | apply Keeps.refl | (apply Keeps.after; first | apply keeps_govDone | apply keeps_govIssue)

theorem keeps_bindEvent : ∀ x0 x1 x2 s, Keeps s (bindEvent x0 x1 x2 s) := by
  intro x0 x1 x2 s
  unfold bindEvent
  try dsimp only
  with_reducible repeat' first | apply Keeps.refl | apply Keeps.ite | (apply Keeps.after; apply keeps_event) | split

theorem keeps_countPoison : ∀ x0 x1 s, Keeps s (countPoison x0 x1 s) := by
  intro x0 x1 s
  unfold countPoison
  try dsimp only
  with_reducible repeat' first | apply Keeps.refl | (apply Keeps.after; apply keeps_bumpSat) | split

theorem keeps_replyRead : ∀ x0 x1 x2 s, Keeps s (replyRead x0 x1 x2 s) := by
  intro x0 x1 x2 s
  unfold replyRead
  try dsimp only
  with_reducible repeat' first
    | apply Keeps.refl
    | (apply Keeps.after; first | apply keeps_govDone | apply keeps_when | apply keeps_countPoison | apply keeps_emit)
    | intro _

theorem keeps_failAcc : ∀ x0 s, Keeps s (failAcc x0 s) := by
  intro x0 s
  unfold failAcc
  try dsimp only
  with_reducible repeat' first
    | apply Keeps.refl | assumption | apply Keeps.ite
    | (apply Keeps.after; first | apply keeps_emit | apply keeps_replyRead | apply keeps_when | apply keeps_govDone)
    | intro _ | split | dsimp only | (apply padSame; assumption) | fail_if_no_progress apply Keeps.updMem

theorem keeps_stall : ∀ x0 s, Keeps s (stall x0 s) := by
  intro x0 s
  unfold stall
  try dsimp only
  with_reducible repeat' first
    | apply Keeps.refl | assumption | intro _ | (apply padSame; assumption) | fail_if_no_progress apply Keeps.updMem

theorem keeps_noteAccess : ∀ x0 s, Keeps s (noteAccess x0 s) := by
  intro x0 s
  unfold noteAccess
  try dsimp only
  with_reducible repeat' first | apply Keeps.refl | (apply Keeps.after; apply keeps_setStack)

theorem keeps_setFrame : ∀ x0 x1 x2 x3 s, Keeps s (setFrame x0 x1 x2 x3 s) := by
  intro x0 x1 x2 x3 s
  unfold setFrame
  try dsimp only
  with_reducible repeat' first
    | apply Keeps.refl | assumption | intro _ | split | dsimp only | (apply padSame; assumption)
    | fail_if_no_progress apply Keeps.updMem

theorem keeps_updLine : ∀ x0 x1 x2 x3 x4 s, Keeps s (updLine x0 x1 x2 x3 x4 s) := by
  intro x0 x1 x2 x3 x4 s
  unfold updLine
  try dsimp only
  with_reducible repeat' first | apply Keeps.refl | (apply Keeps.after; apply keeps_setFrame) | split

theorem keeps_replyDone : ∀ x0 s, Keeps s (replyDone x0 s) := by
  intro x0 s
  unfold replyDone
  try dsimp only
  with_reducible repeat' first
    | apply Keeps.refl | (apply Keeps.after; first | apply keeps_when | apply keeps_emit | apply keeps_govDone) | intro _

theorem keeps_reply : ∀ x0 x1 s, Keeps s (reply x0 x1 s) := by
  intro a data s
  have h : ∀ op d s, Keeps s (match op, d with
      | SecOp.read, some (d, p) => replyRead a d p s
      | .read, none => s
      | .prefetch _, _ => s
      | _, _ => replyDone a s) := by
    intro op d s
    cases op <;> cases d <;> first | exact .refl s | exact keeps_replyDone _ _ | exact keeps_replyRead _ _ _ _
  exact h a.op data s

theorem keeps_touch : ∀ x0 x1 x2 s, Keeps s (touch x0 x1 x2 s) := by
  intro x0 x1 x2 s
  unfold touch
  try dsimp only
  with_reducible repeat' first
    | apply Keeps.refl | assumption | intro _ | (apply padSame; assumption) | fail_if_no_progress apply Keeps.updMem

theorem keeps_addWait : ∀ x0 s, Keeps s (addWait x0 s) := by
  intro x0 s
  unfold addWait
  try dsimp only
  with_reducible repeat' first
    | apply Keeps.refl | assumption | intro _ | (apply padSame; assumption) | fail_if_no_progress apply Keeps.updMem

theorem keeps_setEbuf : ∀ x0 x1 s, Keeps s (setEbuf x0 x1 s) := by
  intro x0 x1 s
  unfold setEbuf
  try dsimp only
  with_reducible repeat' first
    | apply Keeps.refl | assumption | intro _ | (apply padSame; assumption) | fail_if_no_progress apply Keeps.updMem

theorem keeps_acceptSlot : ∀ x0 x1 x2 x3 s, Keeps s (acceptSlot x0 x1 x2 x3 s) := by
  intro x0 x1 x2 x3 s
  unfold acceptSlot
  try dsimp only
  with_reducible repeat' first | apply Keeps.refl | apply Keeps.ite | (apply Keeps.after; apply keeps_accept) | split

theorem keeps_handOver : ∀ x0 x1 s, KeepsO s (handOver x0 x1 s) := by
  intro x0 x1 s
  unfold handOver
  try dsimp only
  with_reducible repeat' first
    | apply Keeps.refl | assumption | apply Keeps.ite | apply KeepsO.ite | apply KeepsO.ofNone | apply KeepsO.ofSome
    | (apply Keeps.after; first | apply keeps_setEbuf | apply keeps_forEach | apply keeps_acceptSlot) | intro _ | split

theorem keeps_handOverLine : ∀ x0 x1 s, KeepsO s (handOverLine x0 x1 s) := by
  intro x0 x1 s
  unfold handOverLine
  try dsimp only
  with_reducible repeat' first
    | apply Keeps.refl | assumption | apply KeepsO.ofNone | apply KeepsO.ofSome
    | (apply KeepsO.after; apply keeps_handOver) | split

theorem keeps_requestFill : ∀ x0 x1 x2 x3 x4 x5 x6 s, KeepsO s (requestFill x0 x1 x2 x3 x4 x5 x6 s) := by
  intro x0 x1 x2 x3 x4 x5 x6 s
  unfold requestFill
  try dsimp only
  with_reducible repeat' first
    | apply Keeps.refl | assumption | apply Keeps.ite | apply KeepsO.ite | apply KeepsO.ofNone | apply KeepsO.ofSome
    | (apply KeepsO.of; assumption)
    | (apply Keeps.after; first | apply keeps_updLine | apply keeps_bumpWrap | apply keeps_accept)
    | (apply KeepsO.after; apply keeps_handOverLine) | split

theorem keeps_onHeldLine : ∀ x0 x1 x2 x3 s, Keeps s (onHeldLine x0 x1 x2 x3 s) := by
  intro x0 x1 x2 x3 s
  unfold onHeldLine
  try dsimp only
  with_reducible repeat' first
    | apply Keeps.refl | assumption | apply KeepsO.ofNone | apply KeepsO.ofSome | (apply KeepsO.of; assumption)
    | (apply Keeps.after; first | apply keeps_updLine | apply keeps_reply | apply keeps_touch | apply keeps_addWait | apply keeps_stall)
    | (apply KeepsO.after; apply keeps_requestFill) | split

theorem keeps_packVictim : ∀ x0 x1 x2 x3 x4 s, KeepsO s (packVictim x0 x1 x2 x3 x4 s) := by
  intro x0 x1 x2 x3 x4 s
  unfold packVictim
  try dsimp only
  with_reducible repeat' first
    | apply Keeps.refl | assumption | apply Keeps.ite | apply KeepsO.ite | apply KeepsO.ofNone | apply KeepsO.ofSome
    | apply KeepsO.map | apply KeepsO.mapOf
    | (apply Keeps.after; first | apply keeps_bumpWrap | apply keeps_touch | apply keeps_setFrame) | intro _

theorem keeps_newEntry : ∀ x0 x1 x2 s, KeepsO s (newEntry x0 x1 x2 s) := by
  intro x0 x1 x2 s
  unfold newEntry
  try dsimp only
  with_reducible repeat' first
    | apply Keeps.refl | assumption | apply Keeps.ite | apply KeepsO.ite | apply KeepsO.ofNone | apply KeepsO.ofSome
    | (apply KeepsO.of; assumption) | (apply Keeps.after; apply keeps_setEbuf)
    | (apply KeepsO.after; apply keeps_handOverLine) | split

theorem keeps_evictLine : ∀ x0 x1 x2 x3 s, KeepsO s (evictLine x0 x1 x2 x3 s) := by
  intro x0 x1 x2 x3 s
  unfold evictLine
  try dsimp only
  with_reducible repeat' first
    | apply Keeps.refl | assumption | apply Keeps.ite | apply KeepsO.ite | apply KeepsO.ofNone | apply KeepsO.ofSome
    | (apply KeepsO.after; apply keeps_newEntry)

theorem keeps_evictFrame : ∀ x0 x1 x2 x3 s, KeepsO s (evictFrame x0 x1 x2 x3 s) := by
  intro x0 x1 x2 x3 s
  unfold evictFrame
  try dsimp only
  with_reducible repeat' first
    | apply Keeps.refl | assumption | apply KeepsO.ofNone | apply KeepsO.ofSome | apply KeepsO.map | apply KeepsO.bind
    | apply KeepsO.mapOf | (apply Keeps.after; first | apply keeps_bumpWrap | apply keeps_setFrame)
    | (apply KeepsO.after; apply keeps_evictLine) | intro _ | split

theorem keeps_allocFrame : ∀ x0 x1 x2 x3 x4 s, KeepsP s (allocFrame x0 x1 x2 x3 x4 s) := by
  intro x0 x1 x2 x3 x4 s
  unfold allocFrame
  try dsimp only
  with_reducible repeat' first
    | apply Keeps.refl | assumption | apply Keeps.ite | apply KeepsO.ite | apply KeepsO.ofNone | apply KeepsO.ofSome
    | apply KeepsO.map | apply KeepsO.mapP | apply KeepsO.mapOf | apply KeepsP.ite | apply KeepsP.ofNone
    | apply KeepsP.ofSome | apply KeepsP.map | apply KeepsP.mapO | (apply KeepsO.of; assumption)
    | (apply Keeps.after; apply keeps_touch)
    | (apply KeepsO.after; first | apply keeps_packVictim | apply keeps_evictFrame) | intro _ | split

theorem keeps_allocLine : ∀ x0 x1 x2 x3 x4 s, KeepsP s (allocLine x0 x1 x2 x3 x4 s) := by
  intro x0 x1 x2 x3 x4 s
  unfold allocLine
  try dsimp only
  with_reducible repeat' first
    | apply Keeps.refl | assumption | apply KeepsP.ofNone | apply KeepsP.ofSome | apply KeepsP.map | apply KeepsP.mapO
    | (apply Keeps.after; apply keeps_setFrame) | (apply KeepsP.after; apply keeps_allocFrame) | intro _

theorem keeps_onAbsent : ∀ x0 x1 s, Keeps s (onAbsent x0 x1 s) := by
  intro x0 x1 s
  unfold onAbsent
  try dsimp only
  with_reducible repeat' first
    | apply Keeps.refl | assumption | apply Keeps.ite | apply KeepsO.ite | apply KeepsO.ofNone | apply KeepsO.ofSome
    | apply KeepsP.ite | apply KeepsP.ofNone | apply KeepsP.ofSome | (apply KeepsO.of; assumption)
    | (apply KeepsP.of; assumption) | apply KeepsO.getD
    | (apply Keeps.after; first | apply keeps_addWait | apply keeps_stall | apply keeps_accept | apply keeps_replyDone | apply keeps_setFrame)
    | (apply KeepsO.after; first | apply keeps_requestFill | apply keeps_newEntry)
    | (apply KeepsP.after; apply keeps_allocLine) | split

theorem keeps_onEntry : ∀ x0 x1 x2 x3 s, Keeps s (onEntry x0 x1 x2 x3 s) := by
  intro x0 x1 x2 x3 s
  unfold onEntry
  try dsimp only
  with_reducible repeat' first
    | apply Keeps.refl | assumption | apply Keeps.ite | apply KeepsO.ite | apply KeepsO.ofNone | apply KeepsO.ofSome
    | apply KeepsP.ite | apply KeepsP.ofNone | apply KeepsP.ofSome | (apply KeepsO.of; assumption)
    | (apply KeepsP.of; assumption)
    | (apply Keeps.after; first | apply keeps_replyRead | apply keeps_onAbsent | apply keeps_stall | apply keeps_replyDone | apply keeps_setEbuf | apply keeps_acceptSlot)
    | (apply KeepsO.after; apply keeps_handOver) | (apply KeepsP.after; apply keeps_allocLine) | split

theorem keeps_onUnheld : ∀ x0 x1 s, Keeps s (onUnheld x0 x1 s) := by
  intro x0 x1 s
  unfold onUnheld
  try dsimp only
  with_reducible repeat' first
    | apply Keeps.refl | (apply Keeps.after; first | apply keeps_onEntry | apply keeps_onAbsent) | split

theorem keeps_onPacked : ∀ x0 x1 x2 x3 x4 s, Keeps s (onPacked x0 x1 x2 x3 x4 s) := by
  intro x0 x1 x2 x3 x4 s
  unfold onPacked
  try dsimp only
  with_reducible repeat' first
    | apply Keeps.refl | assumption | apply Keeps.ite | apply KeepsO.ite | apply KeepsO.ofNone | apply KeepsO.ofSome
    | apply KeepsP.ite | apply KeepsP.ofNone | apply KeepsP.ofSome | (apply KeepsO.of; assumption)
    | (apply KeepsP.of; assumption)
    | (apply Keeps.after; first | apply keeps_updLine | apply keeps_onHeldLine | apply keeps_onUnheld | apply keeps_stall)
    | (apply KeepsO.after; apply keeps_evictLine) | (apply KeepsP.after; apply keeps_allocLine) | split

theorem keeps_sliceLookup : ∀ x0 x1 s, Keeps s (sliceLookup x0 x1 s) := by
  intro x0 x1 s
  unfold sliceLookup
  try dsimp only
  with_reducible repeat' first
    | apply Keeps.refl | apply Keeps.ite
    | (apply Keeps.after; first | apply keeps_failAcc | apply keeps_stall | apply keeps_noteAccess | apply keeps_when | apply keeps_bumpWrap | apply keeps_onHeldLine | apply keeps_onPacked | apply keeps_onUnheld)
    | intro _ | split

theorem keeps_setSliceArb : ∀ x0 x1 s, Keeps s (setSliceArb x0 x1 s) := by
  intro x0 x1 s
  unfold setSliceArb
  try dsimp only
  with_reducible repeat' first
    | apply Keeps.refl | assumption | intro _ | (apply padSame; assumption) | fail_if_no_progress apply Keeps.updMem

theorem keeps_retryGo : ∀ x0 x1 x2 s, Keeps s (retryGo x0 x1 x2 s) := by
  intro x0 x1 x2 s
  fun_induction retryGo x0 x1 x2 s
  all_goals try dsimp only
  with_reducible repeat' first
    | apply Keeps.refl | assumption | apply Keeps.ite | (apply Keeps.after; assumption)
    | (apply Keeps.after; first | apply keeps_sliceLookup | apply keeps_setSliceArb)

theorem keeps_applyWaits : ∀ x0 x1 s, Keeps s (applyWaits x0 x1 s).2 := by
  intro x0 x1 s
  fun_induction applyWaits x0 x1 s
  all_goals try dsimp only
  with_reducible repeat' first
    | apply Keeps.refl | assumption | (apply Keeps.after; assumption) | (apply Keeps.after; apply keeps_reply)

theorem keeps_retryOthers : ∀ x0 s, Keeps s (retryOthers x0 s) := by
  intro x0 s
  unfold retryOthers
  try dsimp only
  with_reducible repeat' first
    | apply Keeps.refl | assumption | apply Keeps.ite | apply KeepsO.ite | apply KeepsO.ofNone | apply KeepsO.ofSome
    | (apply KeepsO.of; assumption) | (apply Keeps.after; apply keeps_forEach)
    | (apply KeepsO.after; apply keeps_requestFill) | intro _ | split | dsimp only | (apply padSame; assumption)
    | fail_if_no_progress apply Keeps.updMem

theorem keeps_fillOthers : ∀ x0 x1 s, Keeps s (fillOthers x0 x1 s) := by
  intro x0 x1 s
  unfold fillOthers
  try dsimp only
  with_reducible repeat' first
    | apply Keeps.refl | assumption | apply Keeps.ite | apply Keeps.ite2 | (apply Keeps.after; apply keeps_retryOthers)
    | intro _ | split | dsimp only | dsimp +zetaDelta only | (apply padSame; assumption)
    | fail_if_no_progress apply Keeps.updMem

theorem keeps_takeRet : ∀ x0 x1 s, KeepsP s (takeRet x0 x1 s) := by
  intro x0 x1 s
  unfold takeRet
  try dsimp only
  with_reducible repeat' first
    | apply Keeps.refl | assumption | apply KeepsP.ofNone | apply KeepsP.ofSome | intro _ | split | dsimp only
    | (apply padSame; assumption) | fail_if_no_progress apply Keeps.updMem

theorem keeps_deadReread : ∀ x0 x1 x2 s, Keeps s (deadReread x0 x1 x2 s) := by
  intro x0 x1 x2 s
  unfold deadReread
  try dsimp only
  with_reducible repeat' first
    | apply Keeps.refl | apply Keeps.ite
    | (apply Keeps.after; first | apply keeps_bumpSat | apply keeps_when | apply keeps_event) | intro _ | split

theorem keeps_takeWaits : ∀ x0 s, Keeps s (takeWaits x0 s).2 := by
  intro x0 s
  unfold takeWaits
  try dsimp only
  with_reducible repeat' first
    | apply Keeps.refl | assumption | intro _ | dsimp only | (apply padSame; assumption)
    | fail_if_no_progress apply Keeps.updMem

theorem keeps_applyFailed : ∀ x0 x1 s, Keeps s (applyFailed x0 x1 s).2 := by
  intro x0 x1 s
  fun_induction applyFailed x0 x1 s
  all_goals try dsimp only
  with_reducible repeat' first
    | apply Keeps.refl | assumption | (apply Keeps.after; assumption)
    | (apply Keeps.after; first | apply keeps_reply | apply keeps_bumpSat | apply keeps_failAcc)

theorem keeps_fillArrive : ∀ x0 x1 s, Keeps s (fillArrive x0 x1 s) := by
  intro x0 x1 s
  unfold fillArrive
  try dsimp only
  with_reducible repeat' first
    | apply Keeps.refl | assumption | apply Keeps.ite | apply Keeps.ite2
    | (apply Keeps.after; first | apply keeps_failAcc | apply keeps_bumpSat | apply keeps_replyRead | apply keeps_when | apply keeps_deadReread | apply keeps_takeWaits | apply keeps_applyFailed | apply keeps_applyWaits | apply keeps_updLine | apply keeps_touch | apply keeps_fillOthers)
    | intro _ | split

theorem keeps_settle : ∀ x0 x1 x2 x3 s, Keeps s (settle x0 x1 x2 x3 s) := by
  intro x0 x1 x2 x3 s
  fun_induction settle x0 x1 x2 x3 s
  with_reducible repeat' first
    | apply Keeps.refl | assumption | apply Keeps.ite | apply KeepsP.ite | apply KeepsP.ofNone | apply KeepsP.ofSome
    | (apply KeepsP.of; assumption) | (apply Keeps.after; assumption)
    | (apply Keeps.after; first | apply keeps_fillArrive | apply keeps_performNth)
    | (apply KeepsP.after; apply keeps_takeRet)

theorem keeps_sliceAccess : ∀ x0 s, Keeps s (sliceAccess x0 s) := by
  intro x0 s
  unfold sliceAccess
  try dsimp only
  with_reducible repeat' first
    | apply Keeps.refl | assumption | apply Keeps.ite | apply Keeps.ite2 | fail_if_no_progress apply Keeps.upd
    | (apply Keeps.after; first | apply keeps_sliceLookup | apply keeps_freeNat | apply keeps_bumpWrap)

theorem keeps_retryStalled : ∀ x0 s, Keeps s (retryStalled x0 s) := by
  intro x0 s
  unfold retryStalled
  try dsimp only
  with_reducible repeat' first
    | apply Keeps.refl | assumption | apply Keeps.ite | apply Keeps.ite2
    | (apply Keeps.after; first | apply keeps_retryOthers | apply keeps_retryGo) | intro _ | split | dsimp only
    | dsimp +zetaDelta only | (apply padSame; assumption) | fail_if_no_progress apply Keeps.updMem

theorem keeps_performGranted : ∀ x0 x1 x2 s, Keeps s (performGranted x0 x1 x2 s) := by
  intro x0 x1 x2 s
  unfold performGranted
  try dsimp only
  with_reducible repeat' first
    | apply Keeps.refl | apply Keeps.ite | (apply Keeps.after; first | apply keeps_performNth | apply keeps_setChan)
    | split

theorem keeps_cfgEvent : ∀ x0 x1 x2 s, Keeps s (cfgEvent x0 x1 x2 s) := by
  intro x0 x1 x2 s
  unfold cfgEvent
  try dsimp only
  with_reducible repeat' first | apply Keeps.refl | (apply Keeps.after; apply keeps_eventD)

theorem keeps_putField : ∀ x0 x1 x2 s, Keeps s (putField x0 x1 x2 s) := by
  intro x0 x1 x2 s
  unfold putField
  try dsimp only
  with_reducible repeat' first
    | apply Keeps.refl | apply Keeps.ite | fail_if_no_progress apply Keeps.upd | (apply Keeps.after; apply keeps_rput)

theorem keeps_cfgRefuse : ∀ x0 x1 x2 s, Keeps s (cfgRefuse x0 x1 x2 s) := by
  intro x0 x1 x2 s
  unfold cfgRefuse
  try dsimp only
  with_reducible repeat' first | apply Keeps.refl | (apply Keeps.after; first | apply keeps_emit | apply keeps_cfgEvent)

theorem keeps_groupTake : ∀ x0 x1 s, Keeps s (groupTake x0 x1 s) := by
  intro x0 x1 s
  unfold groupTake
  try dsimp only
  with_reducible repeat' first | apply Keeps.refl | fail_if_no_progress apply Keeps.upd

theorem keeps_groupApply : ∀ x0 x1 s, Keeps s (groupApply x0 x1 s) := by
  intro x0 x1 s
  unfold groupApply
  try dsimp only
  with_reducible repeat' first | apply Keeps.refl | fail_if_no_progress apply Keeps.upd

theorem keeps_regStore {f : Nat → State → State} (hf : ∀ n s, Keeps s (f n s)) (ag : Agent) (h : Half) (r : Reg) (i v : Nat)
    (s : State) : Keeps s (regStore ag h r i v f s) := by
  unfold regStore
  try dsimp only
  with_reducible repeat' first
    | apply Keeps.refl | assumption | apply Keeps.ite | (apply Keeps.after; apply hf)
    | (apply Keeps.after; first | apply keeps_cfgRefuse | apply keeps_emit | apply keeps_cfgEvent | apply keeps_when)
    | intro _ | split

theorem keeps_setPort : ∀ x0 x1 s, Keeps s (setPort x0 x1 s) := by
  intro x0 x1 s
  unfold setPort
  try dsimp only
  with_reducible repeat' first | apply Keeps.refl | fail_if_no_progress apply Keeps.upd

theorem keeps_dealBlock : ∀ x0 x1 s, Keeps s (dealBlock x0 x1 s) := by
  intro x0 x1 s
  unfold dealBlock
  try dsimp only
  with_reducible repeat' first
    | apply Keeps.refl | apply Keeps.ite
    | (apply Keeps.after; first | apply keeps_setPort | apply keeps_emit | apply keeps_when) | intro _ | split

theorem keeps_dealFlit : ∀ x0 x1 s, Keeps s (dealFlit x0 x1 s) := by
  intro x0 x1 s
  unfold dealFlit
  try dsimp only
  with_reducible repeat' first
    | apply Keeps.refl | (apply Keeps.after; first | apply keeps_forEach | apply keeps_dealBlock) | intro _

theorem keeps_countLink : ∀ x0 s, Keeps s (countLink x0 s) := by
  intro x0 s
  unfold countLink
  try dsimp only
  with_reducible repeat' first | apply Keeps.refl | (apply Keeps.after; apply keeps_bumpSat)

theorem keeps_ageQueue : ∀ x0 s, Keeps s (ageQueue x0 s) := by
  intro x0 s
  unfold ageQueue
  try dsimp only
  with_reducible repeat' first
    | apply Keeps.refl | apply Keeps.ite
    | (apply Keeps.after; first | apply keeps_forEach | apply keeps_countLink | apply keeps_setPort) | intro _

theorem keeps_pickClass : ∀ s x1, Keeps s (pickClass s x1).2 := by
  intro s x1
  unfold pickClass
  try dsimp only
  with_reducible repeat' first
    | apply Keeps.refl | assumption | apply Keeps.ite | apply Keeps.ite2 | (apply Keeps.after; apply keeps_freeBool)
    | split

theorem keeps_putData : ∀ x0 x1 s, Keeps s (putData x0 x1 s) := by
  intro x0 x1 s
  unfold putData
  try dsimp only
  with_reducible repeat' first | apply Keeps.refl | (apply Keeps.after; first | apply keeps_emit | apply keeps_dealFlit)

theorem keeps_sendFlit : ∀ x0 x1 x2 s, Keeps s (sendFlit x0 x1 x2 s) := by
  intro x0 x1 x2 s
  unfold sendFlit
  try dsimp only
  with_reducible repeat' first
    | apply Keeps.refl | assumption | apply Keeps.ite | apply Keeps.ite2 | fail_if_no_progress apply Keeps.upd
    | (apply Keeps.after; first | apply keeps_putData | apply keeps_setPort)

theorem keeps_modPort : ∀ x0 x1 s, Keeps s (modPort x0 x1 s) := by
  intro x0 x1 s
  unfold modPort
  try dsimp only
  with_reducible repeat' first | apply Keeps.refl | (apply Keeps.after; apply keeps_setPort)

theorem keeps_pump : ∀ x0 x1 s, Keeps s (pump x0 x1 s) := by
  intro x0 x1 s
  fun_induction pump x0 x1 s
  with_reducible repeat' first
    | apply Keeps.refl | assumption | apply Keeps.ite | apply Keeps.ite2 | (apply Keeps.snd; assumption)
    | (apply Keeps.after; assumption)
    | (apply Keeps.after; first | apply keeps_pickClass | apply keeps_sendFlit | apply keeps_modPort)

theorem keeps_pumpAll : ∀ x0 s, Keeps s (pumpAll x0 s) := by
  intro x0 s
  unfold pumpAll
  try dsimp only
  with_reducible repeat' first
    | apply Keeps.refl | assumption | apply Keeps.ite | apply Keeps.ite2 | fail_if_no_progress apply Keeps.upd
    | (apply Keeps.after; first | apply keeps_ageQueue | apply keeps_pump)

theorem keeps_queuePkt : ∀ x0 x1 x2 s, Keeps s (queuePkt x0 x1 x2 s) := by
  intro x0 x1 x2 s
  unfold queuePkt
  try dsimp only
  with_reducible repeat' first
    | apply Keeps.refl | apply Keeps.ite
    | (apply Keeps.after; first | apply keeps_when | apply keeps_bumpSat | apply keeps_pumpAll | apply keeps_modPort)
    | intro _

theorem keeps_routePacket : ∀ x0 s, Keeps s (routePacket x0 s) := by
  intro x0 s
  unfold routePacket
  try dsimp only
  with_reducible repeat' first
    | apply Keeps.refl | (apply Keeps.after; first | apply keeps_queuePkt | apply keeps_countLink) | split

theorem keeps_sendPacket : ∀ x0 s, Keeps s (sendPacket x0 s) := by
  intro x0 s
  unfold sendPacket
  try dsimp only
  with_reducible repeat' first
    | apply Keeps.refl | apply Keeps.ite | (apply Keeps.after; first | apply keeps_routePacket | apply keeps_countLink)

theorem keeps_sendCoh : ∀ x0 x1 s, Keeps s (sendCoh x0 x1 s) := by
  intro x0 x1 s
  unfold sendCoh
  try dsimp only
  with_reducible repeat' first
    | apply Keeps.refl | (apply Keeps.after; first | apply keeps_sendPacket | apply keeps_emit | apply keeps_zSend)
    | split

theorem keeps_putCtrl : ∀ x0 x1 s, Keeps s (putCtrl x0 x1 s) := by
  intro x0 x1 s
  unfold putCtrl
  try dsimp only
  with_reducible repeat' first | apply Keeps.refl | (apply Keeps.after; first | apply keeps_emit | apply keeps_dealFlit)

theorem keeps_mcQueue : ∀ x0 x1 s, Keeps s (mcQueue x0 x1 s) := by
  intro x0 x1 s
  unfold mcQueue
  try dsimp only
  with_reducible repeat' first | apply Keeps.refl | (apply Keeps.after; apply keeps_queuePkt) | split

theorem keeps_mcGive : ∀ x0 x1 s, Keeps s (mcGive x0 x1 s).2 := by
  intro x0 x1 s
  unfold mcGive
  try dsimp only
  with_reducible repeat' first
    | apply Keeps.refl | assumption | apply Keeps.ite | apply Keeps.ite2 | (apply Keeps.after; apply keeps_mcQueue)

theorem keeps_mcGiveAll : ∀ x0 x1 s, Keeps s (mcGiveAll x0 x1 s).2 := by
  intro x0 x1 s
  fun_induction mcGiveAll x0 x1 s
  all_goals try dsimp only
  with_reducible repeat' first
    | apply Keeps.refl | assumption | (apply Keeps.after; assumption) | (apply Keeps.after; apply keeps_mcGive)

theorem keeps_noteMcFails : ∀ x0 x1 s, Keeps s (noteMcFails x0 x1 s) := by
  intro x0 x1 s
  unfold noteMcFails
  try dsimp only
  with_reducible repeat' first | apply Keeps.refl | apply Keeps.ite | fail_if_no_progress apply Keeps.upd

theorem keeps_mcFinish : ∀ x0 s, Keeps s (mcFinish x0 s) := by
  intro x0 s
  unfold mcFinish
  try dsimp only
  with_reducible repeat' first
    | apply Keeps.refl | assumption | apply Keeps.ite | apply Keeps.ite2 | fail_if_no_progress apply Keeps.upd
    | (apply Keeps.after; first | apply keeps_queuePkt | apply keeps_emit | apply keeps_noteMcFails) | intro _ | split

theorem keeps_setMcops : ∀ x0 s, Keeps s (setMcops x0 s) := by
  intro x0 s
  unfold setMcops
  try dsimp only
  with_reducible repeat' first | apply Keeps.refl | fail_if_no_progress apply Keeps.upd

theorem keeps_mcSettle : ∀ s, Keeps s (mcSettle s) := by
  intro s
  unfold mcSettle
  try dsimp only
  with_reducible repeat' first
    | apply Keeps.refl | (apply Keeps.after; first | apply keeps_forEach | apply keeps_mcFinish | apply keeps_setMcops)
    | intro _

theorem keeps_mcPush : ∀ x0 x1 s, Keeps s (mcPush x0 x1 s).2 := by
  intro x0 x1 s
  fun_induction mcPush x0 x1 s
  all_goals try dsimp only
  with_reducible repeat' first
    | apply Keeps.refl | assumption | apply Keeps.ite | apply Keeps.ite2 | fail_if_no_progress apply Keeps.upd
    | (apply Keeps.after; assumption) | (apply Keeps.after; first | apply keeps_countLink | apply keeps_mcQueue)

theorem keeps_mcPushAll : ∀ x0 x1 s, Keeps s (mcPushAll x0 x1 s).2 := by
  intro x0 x1 s
  fun_induction mcPushAll x0 x1 s
  all_goals try dsimp only
  with_reducible repeat' first
    | apply Keeps.refl | assumption | apply Keeps.ite | apply Keeps.ite2 | (apply Keeps.after; assumption)
    | (apply Keeps.after; apply keeps_mcPush)

theorem keeps_mcDrain : ∀ x0 s, Keeps s (mcDrain x0 s) := by
  intro x0 s
  unfold mcDrain
  try dsimp only
  with_reducible repeat' first
    | apply Keeps.refl | assumption | apply Keeps.ite | apply Keeps.ite2
    | (apply Keeps.after; first | apply keeps_forEach | apply keeps_mcPushAll | apply keeps_setMcops) | intro _

theorem keeps_mcReplicate : ∀ x0 x1 s, KeepsO s (mcReplicate x0 x1 s) := by
  intro x0 x1 s
  unfold mcReplicate
  try dsimp only
  with_reducible repeat' first
    | apply Keeps.refl | assumption | apply Keeps.ite | apply Keeps.ite2 | apply KeepsO.ite | apply KeepsO.ofNone
    | apply KeepsO.ofSome
    | (apply Keeps.after; first | apply keeps_countLink | apply keeps_mcGiveAll | apply keeps_mcSettle | apply keeps_setMcops)
    | split

theorem keeps_modBranch : ∀ x0 x1 x2 s, Keeps s (modBranch x0 x1 x2 s) := by
  intro x0 x1 x2 s
  unfold modBranch
  try dsimp only
  with_reducible repeat' first | apply Keeps.refl | apply Keeps.ite | (apply Keeps.after; apply keeps_setMcops)

theorem keeps_doMcHoldExpire : ∀ x0 x1 s, Keeps s (doMcHoldExpire x0 x1 s) := by
  intro x0 x1 s
  unfold doMcHoldExpire
  try dsimp only
  with_reducible repeat' first
    | apply Keeps.refl | apply Keeps.ite
    | (apply Keeps.after; first | apply keeps_atTime | apply keeps_mcSettle | apply keeps_modBranch) | split

theorem keeps_doMcAck : ∀ x0 x1 x2 x3 x4 s, Keeps s (doMcAck x0 x1 x2 x3 x4 s) := by
  intro x0 x1 x2 x3 x4 s
  unfold doMcAck
  try dsimp only
  with_reducible repeat' first
    | apply Keeps.refl | apply Keeps.ite | (apply Keeps.after; first | apply keeps_mcSettle | apply keeps_modBranch)

theorem keeps_mcSend : ∀ x0 x1 s, KeepsO s (mcSend x0 x1 s) := by
  intro x0 x1 s
  unfold mcSend
  try dsimp only
  with_reducible repeat' first
    | apply Keeps.refl | assumption | apply Keeps.ite | apply KeepsO.ite | apply KeepsO.ofNone | apply KeepsO.ofSome
    | (apply Keeps.after; apply keeps_countLink) | (apply KeepsO.after; apply keeps_mcReplicate)

end Sys2Proof.Machine
end

