-- ==== Sys2Proof/Laws/KeepsCoherence.lean ====
section
/-! SUPPORT. What the operations of the directories, the far caches, the home and the accesses of engines keep (`Keeps`). -/

namespace Sys2Proof.Machine

open Sys2Proof

theorem keeps_issueSnoopTag : ∀ x0 s, KeepsQ s (issueSnoopTag x0 s) := by
  intro x0 s
  unfold issueSnoopTag
  try dsimp only
  with_reducible repeat' first
    | apply Keeps.refl | assumption | apply KeepsQ.ofNone | apply KeepsQ.ofSome | fail_if_no_progress apply Keeps.upd
    | split

theorem keeps_sendSnoop : ∀ x0 x1 x2 x3 x4 s, Keeps s (sendSnoop x0 x1 x2 x3 x4 s) := by
  intro x0 x1 x2 x3 x4 s
  unfold sendSnoop
  try dsimp only
  with_reducible repeat' first
    | apply Keeps.refl | assumption | apply KeepsQ.ofNone | apply KeepsQ.ofSome | fail_if_no_progress apply Keeps.upd
    | (apply KeepsQ.of; assumption) | (apply Keeps.after; apply keeps_sendCoh)
    | (apply KeepsQ.after; apply keeps_issueSnoopTag) | split

theorem keeps_snoopBlock : ∀ x0 x1 x2 x3 x4 x5 s, Keeps s (snoopBlock x0 x1 x2 x3 x4 x5 s) := by
  intro x0 x1 x2 x3 x4 x5 s
  unfold snoopBlock
  try dsimp only
  with_reducible repeat' first
    | apply Keeps.refl | assumption | apply KeepsO.ofNone | apply KeepsO.ofSome | apply KeepsQ.ofNone
    | apply KeepsQ.ofSome | fail_if_no_progress apply Keeps.upd | (apply KeepsO.of; assumption)
    | (apply KeepsQ.of; assumption) | (apply Keeps.after; first | apply keeps_forEach | apply keeps_sendSnoop)
    | (apply KeepsO.after; apply keeps_mcSend) | (apply KeepsQ.after; apply keeps_issueSnoopTag) | intro _ | split

theorem keeps_snoopList : ∀ x0 x1 x2 x3 x4 x5 s, Keeps s (snoopList x0 x1 x2 x3 x4 x5 s) := by
  intro x0 x1 x2 x3 x4 x5 s
  unfold snoopList
  try dsimp only
  with_reducible repeat' first
    | apply Keeps.refl | apply Keeps.ite
    | (apply Keeps.after; first | apply keeps_forEach | apply keeps_sendSnoop | apply keeps_snoopBlock) | intro _

theorem keeps_snoopAll : ∀ x0 x1 x2 x3 x4 s, Keeps s (snoopAll x0 x1 x2 x3 x4 s) := by
  intro x0 x1 x2 x3 x4 s
  unfold snoopAll
  try dsimp only
  with_reducible repeat' first | apply Keeps.refl | (apply Keeps.after; apply keeps_snoopList)

theorem keeps_putDir : ∀ x0 x1 x2 x3 s, Keeps s (putDir x0 x1 x2 x3 s) := by
  intro x0 x1 x2 x3 s
  unfold putDir
  try dsimp only
  with_reducible repeat' first | apply Keeps.refl | fail_if_no_progress apply Keeps.upd | split

theorem keeps_quietTry : ∀ x0 x1 x2 x3 x4 x5 s, KeepsO s (quietTry x0 x1 x2 x3 x4 x5 s) := by
  intro x0 x1 x2 x3 x4 x5 s
  unfold quietTry
  try dsimp only
  with_reducible repeat' first
    | apply Keeps.refl | assumption | apply Keeps.ite | apply KeepsO.ite | apply KeepsO.ofNone | apply KeepsO.ofSome
    | (apply Keeps.after; first | apply keeps_sliceAccess | apply keeps_settle)

theorem keeps_quietAll : ∀ a b g f l s, KeepsO s (quietAll a b g f l s) := by
  intro a b g f l
  induction l with
  | nil => exact fun s => .ofSome (.refl s)
  | cons x l ih => exact fun s => KeepsO.bind (keeps_quietTry _ _ _ _ _ _ s) ih

theorem keeps_quietAcc : ∀ x0 x1 x2 x3 x4 x5 s, Keeps s (quietAcc x0 x1 x2 x3 x4 x5 s) := by
  intro x0 x1 x2 x3 x4 x5 s
  unfold quietAcc
  try dsimp only
  with_reducible repeat' first
    | apply Keeps.refl | (apply Keeps.after; first | apply keeps_settle | apply keeps_sliceAccess)

theorem keeps_quietWrites : ∀ x0 x1 x2 x3 x4 s, Keeps s (quietWrites x0 x1 x2 x3 x4 s) := by
  intro x0 x1 x2 x3 x4 s
  unfold quietWrites
  try dsimp only
  with_reducible repeat' first
    | apply Keeps.refl | (apply Keeps.after; first | apply keeps_forEach | apply keeps_quietAcc) | intro _

theorem keeps_setSlate : ∀ x0 x1 s, Keeps s (setSlate x0 x1 s) := by
  intro x0 x1 s
  unfold setSlate
  try dsimp only
  with_reducible repeat' first | apply Keeps.refl | fail_if_no_progress apply Keeps.upd

theorem keeps_slateWant : ∀ x0 x1 s, Keeps s (slateWant x0 x1 s) := by
  intro x0 x1 s
  unfold slateWant
  try dsimp only
  with_reducible repeat' first
    | apply Keeps.refl | apply Keeps.ite | (apply Keeps.after; first | apply keeps_bumpSat | apply keeps_setSlate)
    | split

theorem keeps_quietAdds : ∀ x0 x1 x2 x3 x4 x5 s, Keeps s (quietAdds x0 x1 x2 x3 x4 x5 s) := by
  intro x0 x1 x2 x3 x4 x5 s
  unfold quietAdds
  try dsimp only
  with_reducible repeat' first
    | apply Keeps.refl | (apply Keeps.after; first | apply keeps_forEach | apply keeps_quietAcc) | intro _

theorem keeps_mergePart : ∀ x0 x1 x2 x3 s, Keeps s (mergePart x0 x1 x2 x3 s) := by
  intro x0 x1 x2 x3 s
  unfold mergePart
  try dsimp only
  with_reducible repeat' first | apply Keeps.refl | (apply Keeps.after; apply keeps_quietAdds)

theorem keeps_poisonLine : ∀ x0 x1 x2 s, Keeps s (poisonLine x0 x1 x2 s) := by
  intro x0 x1 x2 s
  unfold poisonLine
  try dsimp only
  with_reducible repeat' first
    | apply Keeps.refl | (apply Keeps.after; first | apply keeps_forEach | apply keeps_quietAcc | apply keeps_eventD)
    | intro _

theorem keeps_copyGranule : ∀ x0 x1 s, Keeps s (copyGranule x0 x1 s) := by
  intro x0 x1 s
  unfold copyGranule
  try dsimp only
  with_reducible repeat' first
    | apply Keeps.refl | (apply Keeps.after; first | apply keeps_forEach | apply keeps_quietAcc) | intro _ | split

theorem keeps_mergeData : ∀ x0 x1 x2 s, Keeps s (mergeData x0 x1 x2 s) := by
  intro x0 x1 x2 s
  unfold mergeData
  try dsimp only
  with_reducible repeat' first | apply Keeps.refl | (apply Keeps.after; apply keeps_quietWrites)

theorem keeps_slateGate : ∀ x0 s, KeepsO s (slateGate x0 s) := by
  intro x0 s
  unfold slateGate
  try dsimp only
  with_reducible repeat' first
    | apply Keeps.refl | assumption | apply Keeps.ite | apply KeepsO.ite | apply KeepsO.ofNone | apply KeepsO.ofSome
    | (apply Keeps.after; first | apply keeps_copyGranule | apply keeps_bumpSat | apply keeps_setSlate) | split

theorem keeps_countDir : ∀ x0 x1 x2 x3 s, Keeps s (countDir x0 x1 x2 x3 s) := by
  intro x0 x1 x2 x3 s
  unfold countDir
  try dsimp only
  with_reducible repeat' first
    | apply Keeps.refl | apply Keeps.ite | (apply Keeps.after; first | apply keeps_bumpWrap | apply keeps_bumpSat)

theorem keeps_modDir : ∀ x0 x1 x2 s, Keeps s (modDir x0 x1 x2 s) := by
  intro x0 x1 x2 s
  unfold modDir
  try dsimp only
  with_reducible repeat' first | apply Keeps.refl | apply Keeps.ite | (apply Keeps.after; apply keeps_putDir) | split

theorem keeps_staleMsg : ∀ x0 s, Keeps s (staleMsg x0 s) := by
  intro x0 s
  unfold staleMsg
  try dsimp only
  with_reducible repeat' first
    | apply Keeps.refl | apply Keeps.ite | fail_if_no_progress apply Keeps.upd
    | (apply Keeps.after; first | apply keeps_bumpSat | apply keeps_event) | split

theorem keeps_quietRead : ∀ x0 x1 x2 x3 x4 s, Keeps s (quietRead x0 x1 x2 x3 x4 s).2 := by
  intro x0 x1 x2 x3 x4 s
  unfold quietRead
  try dsimp only
  with_reducible repeat' first
    | apply Keeps.refl | assumption | apply Keeps.ite | apply Keeps.ite2 | fail_if_no_progress apply Keeps.upd
    | (apply Keeps.after; first | apply keeps_settle | apply keeps_quietAcc)

theorem keeps_putTx : ∀ x0 x1 x2 s, Keeps s (putTx x0 x1 x2 s) := by
  intro x0 x1 x2 s
  unfold putTx
  try dsimp only
  with_reducible repeat' first | apply Keeps.refl | fail_if_no_progress apply Keeps.upd | split

theorem keeps_quietReads : ∀ x0 x1 x2 x3 x4 x5 s, Keeps s (quietReads x0 x1 x2 x3 x4 x5 s).2 := by
  intro x0 x1 x2 x3 x4 x5 s
  fun_induction quietReads x0 x1 x2 x3 x4 x5 s
  all_goals try dsimp only
  with_reducible repeat' first
    | apply Keeps.refl | assumption | (apply Keeps.snd; assumption) | (apply Keeps.after; assumption)
    | (apply Keeps.after; apply keeps_quietRead)

theorem keeps_slateHold : ∀ x0 s, Keeps s (slateHold x0 s) := by
  intro x0 s
  unfold slateHold
  try dsimp only
  with_reducible repeat' first
    | apply Keeps.refl | (apply Keeps.after; first | apply keeps_bumpSat | apply keeps_setSlate) | split

theorem keeps_freeSnoops : ∀ x0 x1 s, Keeps s (freeSnoops x0 x1 s) := by
  intro x0 x1 s
  unfold freeSnoops
  try dsimp only
  with_reducible repeat' first | apply Keeps.refl | fail_if_no_progress apply Keeps.upd

theorem keeps_answer : ∀ x0 x1 s, Keeps s (answer x0 x1 s) := by
  intro x0 x1 s
  unfold answer
  try dsimp only
  with_reducible repeat' first | apply Keeps.refl | (apply Keeps.after; apply keeps_sendCoh) | split

theorem keeps_ackStep : ∀ x0 x1 s, Keeps s (ackStep x0 x1 s) := by
  intro x0 x1 s
  unfold ackStep
  try dsimp only
  with_reducible repeat' first
    | apply Keeps.refl | apply Keeps.ite | fail_if_no_progress apply Keeps.upd
    | (apply Keeps.after; first | apply keeps_answer | apply keeps_when) | intro _ | split

theorem keeps_answerError : ∀ x0 x1 s, Keeps s (answerError x0 x1 s) := by
  intro x0 x1 s
  unfold answerError
  try dsimp only
  with_reducible repeat' first
    | apply Keeps.refl | assumption | apply Keeps.ite | apply Keeps.ite2 | fail_if_no_progress apply Keeps.upd
    | (apply Keeps.after; first | apply keeps_answer | apply keeps_when | apply keeps_forEach | apply keeps_failAcc | apply keeps_emit)
    | intro _ | split

theorem keeps_putFar : ∀ x0 x1 s, Keeps s (putFar x0 x1 s) := by
  intro x0 x1 s
  unfold putFar
  try dsimp only
  with_reducible repeat' first | apply Keeps.refl | fail_if_no_progress apply Keeps.upd | split

theorem keeps_expireLine : ∀ x0 x1 x2 s, Keeps s (expireLine x0 x1 x2 s) := by
  intro x0 x1 x2 s
  unfold expireLine
  try dsimp only
  with_reducible repeat' first
    | apply Keeps.refl | (apply Keeps.after; first | apply keeps_putFar | apply keeps_bumpSat) | split

theorem keeps_putReq : ∀ x0 x1 x2 s, Keeps s (putReq x0 x1 x2 s) := by
  intro x0 x1 x2 s
  unfold putReq
  try dsimp only
  with_reducible repeat' first | apply Keeps.refl | fail_if_no_progress apply Keeps.upd | split

theorem keeps_engineAnswer : ∀ x0 x1 x2 s, Keeps s (engineAnswer x0 x1 x2 s) := by
  intro x0 x1 x2 s
  unfold engineAnswer
  try dsimp only
  with_reducible repeat' first
    | apply Keeps.refl | assumption | apply Keeps.ite | apply Keeps.ite2 | fail_if_no_progress apply Keeps.upd
    | (apply Keeps.after; first | apply keeps_staleMsg | apply keeps_setQueue) | intro _ | split

theorem keeps_farReply : ∀ x0 x1 x2 x3 x4 x5 s, Keeps s (farReply x0 x1 x2 x3 x4 x5 s) := by
  intro x0 x1 x2 x3 x4 x5 s
  unfold farReply
  try dsimp only
  with_reducible repeat' first
    | apply Keeps.refl
    | (apply Keeps.after; first | apply keeps_engineAnswer | apply keeps_forEach | apply keeps_when | apply keeps_countPoison | apply keeps_emit)
    | intro _

theorem keeps_farFail : ∀ x0 x1 x2 x3 x4 x5 s, Keeps s (farFail x0 x1 x2 x3 x4 x5 s) := by
  intro x0 x1 x2 x3 x4 x5 s
  unfold farFail
  try dsimp only
  with_reducible repeat' first
    | apply Keeps.refl | (apply Keeps.after; first | apply keeps_emit | apply keeps_farReply | apply keeps_engineAnswer)
    | split

theorem keeps_issueReqTag : ∀ x0 s, KeepsQ s (issueReqTag x0 s) := by
  intro x0 s
  unfold issueReqTag
  try dsimp only
  with_reducible repeat' first
    | apply Keeps.refl | assumption | apply KeepsQ.ofNone | apply KeepsQ.ofSome | fail_if_no_progress apply Keeps.upd
    | split

theorem keeps_farRequest : ∀ x0 x1 x2 x3 x4 x5 x6 x7 x8 s, KeepsO s (farRequest x0 x1 x2 x3 x4 x5 x6 x7 x8 s) := by
  intro x0 x1 x2 x3 x4 x5 x6 x7 x8 s
  unfold farRequest
  try dsimp only
  with_reducible repeat' first
    | apply Keeps.refl | assumption | apply Keeps.ite | apply KeepsO.ite | apply KeepsO.ofNone | apply KeepsO.ofSome
    | apply KeepsQ.ite | apply KeepsQ.ofNone | apply KeepsQ.ofSome | (apply KeepsQ.of; assumption)
    | (apply Keeps.after; first | apply keeps_sendCoh | apply keeps_putReq)
    | (apply KeepsQ.after; apply keeps_issueReqTag) | split

theorem keeps_sendOld : ∀ x0 s, Keeps s (sendOld x0 s) := by
  intro x0 s
  unfold sendOld
  try dsimp only
  with_reducible repeat' first
    | apply Keeps.refl | assumption | apply Keeps.ite | apply Keeps.ite2 | apply KeepsO.ite | apply KeepsO.ofNone
    | apply KeepsO.ofSome | apply KeepsO.map | apply KeepsO.bind | apply KeepsO.mapOf
    | fail_if_no_progress apply Keeps.upd | (apply KeepsO.of; assumption) | apply KeepsO.getD
    | (apply Keeps.after; first | apply keeps_forEach | apply keeps_expireLine | apply keeps_putFar)
    | (apply KeepsO.after; apply keeps_farRequest) | intro _ | split

theorem keeps_sendOlds : ∀ s, Keeps s (sendOlds s) := by
  intro s
  unfold sendOlds
  try dsimp only
  with_reducible repeat' first
    | apply Keeps.refl | (apply Keeps.after; first | apply keeps_forEach | apply keeps_sendOld) | intro _

theorem keeps_dropExpired : ∀ x0 x1 s, Keeps s (dropExpired x0 x1 s) := by
  intro x0 x1 s
  unfold dropExpired
  try dsimp only
  with_reducible repeat' first | apply Keeps.refl | apply Keeps.ite | (apply Keeps.after; apply keeps_expireLine) | split

theorem keeps_farHold : ∀ x0 x1 x2 x3 x4 s, Keeps s (farHold x0 x1 x2 x3 x4 s) := by
  intro x0 x1 x2 x3 x4 s
  unfold farHold
  try dsimp only
  with_reducible repeat' first | apply Keeps.refl | fail_if_no_progress apply Keeps.upd

theorem keeps_farTouch : ∀ x0 x1 x2 s, Keeps s (farTouch x0 x1 x2 s) := by
  intro x0 x1 x2 s
  unfold farTouch
  try dsimp only
  with_reducible repeat' first | apply Keeps.refl | fail_if_no_progress apply Keeps.upd

theorem keeps_farAsk : ∀ x0 x1 x2 x3 x4 x5 x6 s, Keeps s (farAsk x0 x1 x2 x3 x4 x5 x6 s) := by
  intro x0 x1 x2 x3 x4 x5 x6 s
  unfold farAsk
  try dsimp only
  with_reducible repeat' first
    | apply Keeps.refl | assumption | apply Keeps.ite | apply KeepsO.ite | apply KeepsO.ofNone | apply KeepsO.ofSome
    | (apply KeepsO.of; assumption) | (apply Keeps.after; apply keeps_farHold)
    | (apply KeepsO.after; apply keeps_farRequest) | split

theorem keeps_renewIfDue : ∀ x0 x1 s, Keeps s (renewIfDue x0 x1 s) := by
  intro x0 x1 s
  unfold renewIfDue
  try dsimp only
  with_reducible repeat' first
    | apply Keeps.refl | assumption | apply Keeps.ite | apply KeepsO.ite | apply KeepsO.ofNone | apply KeepsO.ofSome
    | apply KeepsO.getD | (apply KeepsO.after; apply keeps_farRequest)

theorem keeps_farDone : ∀ x0 x1 s, Keeps s (farDone x0 x1 s) := by
  intro x0 x1 s
  unfold farDone
  try dsimp only
  with_reducible repeat' first | apply Keeps.refl | (apply Keeps.after; first | apply keeps_emit | apply keeps_engineAnswer)

theorem keeps_giveUp : ∀ h k l s, Keeps s (giveUp h k l s).1 := by
  intro h k l s
  unfold giveUp
  try dsimp only
  with_reducible repeat' first
    | apply Keeps.refl | assumption | apply Keeps.ite | apply Keeps.ite2 | apply Keeps.ite1 | apply KeepsO.ite
    | apply KeepsO.ofNone | apply KeepsO.ofSome | apply KeepsO.map | apply KeepsO.bind | apply KeepsO.mapOf
    | fail_if_no_progress apply Keeps.upd | (apply KeepsO.of; assumption) | apply KeepsO.getD
    | (apply Keeps.after; first | apply keeps_expireLine | apply keeps_putFar)
    | (apply KeepsO.after; apply keeps_farRequest) | intro _ | split

theorem keeps_farHit : ∀ x0 x1 x2 x3 x4 x5 x6 s, Keeps s (farHit x0 x1 x2 x3 x4 x5 x6 s) := by
  intro x0 x1 x2 x3 x4 x5 x6 s
  unfold farHit
  try dsimp only
  with_reducible repeat' first
    | apply Keeps.refl | apply Keeps.ite | apply Keeps.ite1
    | (apply Keeps.after; first | apply keeps_farTouch | apply keeps_farAsk | apply keeps_renewIfDue | apply keeps_farReply | apply keeps_farHold | apply keeps_farDone | apply keeps_putFar | apply keeps_giveUp)
    | intro _ | split

theorem keeps_farCacheOp : ∀ x0 x1 x2 x3 x4 s, Keeps s (farCacheOp x0 x1 x2 x3 x4 s) := by
  intro x0 x1 x2 x3 x4 s
  unfold farCacheOp
  try dsimp only
  with_reducible repeat' first
    | apply Keeps.refl | assumption | apply Keeps.ite | apply Keeps.ite2 | fail_if_no_progress apply Keeps.upd
    | (apply Keeps.after; first | apply keeps_dropExpired | apply keeps_farHold | apply keeps_farHit | apply keeps_farAsk)
    | intro _ | split

theorem keeps_farReplay : ∀ x0 s, Keeps s (farReplay x0 s) := by
  intro x0 s
  unfold farReplay
  try dsimp only
  with_reducible repeat' first
    | apply Keeps.refl | assumption | apply Keeps.ite | apply Keeps.ite2 | fail_if_no_progress apply Keeps.upd
    | (apply Keeps.after; first | apply keeps_sendOlds | apply keeps_forEach | apply keeps_farCacheOp) | intro _

theorem keeps_reqFails : ∀ x0 x1 x2 x3 s, Keeps s (reqFails x0 x1 x2 x3 s) := by
  intro x0 x1 x2 x3 s
  unfold reqFails
  try dsimp only
  with_reducible repeat' first
    | apply Keeps.refl | apply Keeps.ite
    | (apply Keeps.after; first | apply keeps_putReq | apply keeps_farFail | apply keeps_farReplay) | split

theorem keeps_doReqTimeout : ∀ x0 x1 s, Keeps s (doReqTimeout x0 x1 s) := by
  intro x0 x1 s
  unfold doReqTimeout
  try dsimp only
  with_reducible repeat' first
    | apply Keeps.refl | (apply Keeps.after; first | apply keeps_reqFails | apply keeps_atTime) | split

theorem keeps_withReq {f : FarReq → State → State} (hf : ∀ r s, Keeps s (f r s)) (h : Half) (tag : Nat) (take : BitVec 8) (s : State) :
    Keeps s (withReq h tag take f s) := by
  unfold withReq
  try dsimp only
  with_reducible repeat' first
    | apply Keeps.refl | assumption | apply Keeps.ite | (apply Keeps.after; apply hf)
    | (apply Keeps.after; apply keeps_staleMsg) | split

theorem keeps_doRetry : ∀ x0 x1 x2 s, Keeps s (doRetry x0 x1 x2 s) := by
  intro x0 x1 x2 s
  unfold doRetry
  try dsimp only
  with_reducible repeat' first
    | apply Keeps.refl | (apply Keeps.after; first | apply keeps_withReq | apply keeps_putReq) | intro _

theorem keeps_doLeaseGiveUp : ∀ x0 x1 x2 s, Keeps s (doLeaseGiveUp x0 x1 x2 s) := by
  intro x0 x1 x2 s
  unfold doLeaseGiveUp
  try dsimp only
  with_reducible repeat' first
    | apply Keeps.refl | apply Keeps.ite | apply Keeps.ite1
    | (apply Keeps.after; first | apply keeps_giveUp | apply keeps_atTime) | intro _ | split

theorem keeps_onSnoop {f : Option (Nat × FarLine) → State → State} (hf : ∀ l s, Keeps s (f l s)) (h : Half) (ga : W64)
    (sn : SnoopRef) (s : State) : Keeps s (onSnoop h ga sn f s) := by
  unfold onSnoop
  try dsimp only
  with_reducible repeat' first
    | apply Keeps.refl | assumption | apply Keeps.ite | (apply Keeps.after; apply hf)
    | (apply Keeps.after; first | apply keeps_sendCoh | apply keeps_dropExpired)

theorem keeps_answerSnoop : ∀ x0 x1 x2 x3 x4 x5 x6 s, Keeps s (answerSnoop x0 x1 x2 x3 x4 x5 x6 s) := by
  intro x0 x1 x2 x3 x4 x5 x6 s
  unfold answerSnoop
  try dsimp only
  with_reducible repeat' first | apply Keeps.refl | (apply Keeps.after; apply keeps_sendCoh)

theorem keeps_doCollect : ∀ x0 x1 x2 s, Keeps s (doCollect x0 x1 x2 s) := by
  intro x0 x1 x2 s
  unfold doCollect
  try dsimp only
  with_reducible repeat' first
    | apply Keeps.refl | assumption | apply Keeps.ite | apply Keeps.ite2 | fail_if_no_progress apply Keeps.upd
    | (apply Keeps.after; first | apply keeps_onSnoop | apply keeps_answerSnoop | apply keeps_putFar) | intro _ | split

theorem keeps_giveUpFunc : ∀ x0 s, Keeps s (giveUpFunc x0 s) := by
  intro x0 s
  unfold giveUpFunc
  try dsimp only
  with_reducible repeat' first
    | apply Keeps.refl | apply Keeps.ite | apply Keeps.ite1
    | (apply Keeps.after; first | apply keeps_forEach | apply keeps_giveUp) | intro _

theorem keeps_farErr : ∀ x0 x1 x2 s, Keeps s (farErr x0 x1 x2 s) := by
  intro x0 x1 x2 s
  unfold farErr
  try dsimp only
  with_reducible repeat' first
    | apply Keeps.refl | (apply Keeps.after; first | apply keeps_putFar | apply keeps_forEach | apply keeps_event)
    | intro _ | split

theorem keeps_doLeaseEnd : ∀ x0 x1 x2 s, Keeps s (doLeaseEnd x0 x1 x2 s) := by
  intro x0 x1 x2 s
  unfold doLeaseEnd
  try dsimp only
  with_reducible repeat' first
    | apply Keeps.refl | assumption | apply Keeps.ite | apply Keeps.ite2 | fail_if_no_progress apply Keeps.upd
    | (apply Keeps.after; first | apply keeps_expireLine | apply keeps_atTime) | intro _ | split

theorem keeps_farAlloc : ∀ x0 x1 s, KeepsP s (farAlloc x0 x1 s) := by
  intro x0 x1 s
  unfold farAlloc
  try dsimp only
  with_reducible repeat' first
    | apply Keeps.refl | assumption | apply Keeps.ite | apply Keeps.ite1 | apply KeepsP.ite | apply KeepsP.ofNone
    | apply KeepsP.ofSome | (apply Keeps.after; first | apply keeps_farTouch | apply keeps_giveUp) | intro _ | split

theorem keeps_farInstall : ∀ x0 x1 x2 x3 x4 s, Keeps s (farInstall x0 x1 x2 x3 x4 s) := by
  intro x0 x1 x2 x3 x4 s
  unfold farInstall
  try dsimp only
  with_reducible repeat' first
    | apply Keeps.refl | assumption | apply KeepsP.ofNone | apply KeepsP.ofSome | (apply KeepsP.of; assumption)
    | (apply Keeps.after; first | apply keeps_farReply | apply keeps_putFar | apply keeps_farDone | apply keeps_farHold)
    | (apply KeepsP.after; apply keeps_farAlloc) | split

theorem keeps_doData : ∀ x0 x1 x2 x3 x4 x5 s, Keeps s (doData x0 x1 x2 x3 x4 x5 s) := by
  intro x0 x1 x2 x3 x4 x5 s
  unfold doData
  try dsimp only
  with_reducible repeat' first
    | apply Keeps.refl
    | (apply Keeps.after; first | apply keeps_withReq | apply keeps_putReq | apply keeps_farInstall | apply keeps_farReply | apply keeps_farAsk | apply keeps_farReplay)
    | intro _ | split

theorem keeps_doInv : ∀ x0 x1 x2 s, Keeps s (doInv x0 x1 x2 s) := by
  intro x0 x1 x2 s
  unfold doInv
  try dsimp only
  with_reducible repeat' first
    | apply Keeps.refl | assumption | apply Keeps.ite | apply Keeps.ite2 | fail_if_no_progress apply Keeps.upd
    | (apply Keeps.after; first | apply keeps_onSnoop | apply keeps_answerSnoop | apply keeps_putFar) | intro _ | split

theorem keeps_doRetryResend : ∀ x0 x1 s, Keeps s (doRetryResend x0 x1 s) := by
  intro x0 x1 s
  unfold doRetryResend
  try dsimp only
  with_reducible repeat' first
    | apply Keeps.refl | (apply Keeps.after; first | apply keeps_atTime | apply keeps_sendCoh | apply keeps_putReq)
    | split

theorem keeps_doDowngrade : ∀ x0 x1 x2 s, Keeps s (doDowngrade x0 x1 x2 s) := by
  intro x0 x1 x2 s
  unfold doDowngrade
  try dsimp only
  with_reducible repeat' first
    | apply Keeps.refl | assumption | apply Keeps.ite | apply Keeps.ite2 | fail_if_no_progress apply Keeps.upd
    | (apply Keeps.after; first | apply keeps_onSnoop | apply keeps_answerSnoop | apply keeps_putFar) | intro _ | split

theorem keeps_farRefuse : ∀ x0 x1 x2 s, Keeps s (farRefuse x0 x1 x2 s) := by
  intro x0 x1 x2 s
  unfold farRefuse
  try dsimp only
  with_reducible repeat' first
    | apply Keeps.refl | (apply Keeps.after; first | apply keeps_engineAnswer | apply keeps_emit | apply keeps_cfgEvent)

theorem keeps_doAck : ∀ x0 x1 x2 s, Keeps s (doAck x0 x1 x2 s) := by
  intro x0 x1 x2 s
  unfold doAck
  try dsimp only
  with_reducible repeat' first
    | apply Keeps.refl | apply Keeps.ite
    | (apply Keeps.after; first | apply keeps_withReq | apply keeps_putReq | apply keeps_putFar | apply keeps_farReplay)
    | intro _ | split

theorem keeps_doAckLocal : ∀ x0 x1 x2 s, Keeps s (doAckLocal x0 x1 x2 s) := by
  intro x0 x1 x2 s
  unfold doAckLocal
  try dsimp only
  with_reducible repeat' first
    | apply Keeps.refl | apply Keeps.ite
    | (apply Keeps.after; first | apply keeps_withReq | apply keeps_farDone | apply keeps_farReplay | apply keeps_putReq)
    | intro _ | split

theorem keeps_mergeFuncLines : ∀ x0 s, Keeps s (mergeFuncLines x0 s) := by
  intro x0 s
  unfold mergeFuncLines
  try dsimp only
  with_reducible repeat' first
    | apply Keeps.refl | apply Keeps.ite | apply Keeps.ite1
    | (apply Keeps.after; first | apply keeps_forEach | apply keeps_giveUp) | intro _ | split

theorem keeps_doError : ∀ x0 x1 x2 x3 s, Keeps s (doError x0 x1 x2 x3 s) := by
  intro x0 x1 x2 x3 s
  unfold doError
  try dsimp only
  with_reducible repeat' first
    | apply Keeps.refl | (apply Keeps.after; first | apply keeps_withReq | apply keeps_reqFails) | intro _

theorem keeps_doGrant : ∀ x0 x1 x2 x3 x4 s, Keeps s (doGrant x0 x1 x2 x3 x4 s) := by
  intro x0 x1 x2 x3 x4 s
  unfold doGrant
  try dsimp only
  with_reducible repeat' first
    | apply Keeps.refl | apply Keeps.ite
    | (apply Keeps.after; first | apply keeps_withReq | apply keeps_putReq | apply keeps_farAsk | apply keeps_farInstall | apply keeps_farReplay)
    | intro _ | split

theorem keeps_doRecall : ∀ x0 x1 x2 s, Keeps s (doRecall x0 x1 x2 s) := by
  intro x0 x1 x2 s
  unfold doRecall
  try dsimp only
  with_reducible repeat' first
    | apply Keeps.refl | assumption | apply Keeps.ite | apply Keeps.ite2 | fail_if_no_progress apply Keeps.upd
    | (apply Keeps.after; first | apply keeps_onSnoop | apply keeps_putFar | apply keeps_answerSnoop) | intro _ | split

theorem keeps_farAccess : ∀ x0 x1 x2 x3 s, Keeps s (farAccess x0 x1 x2 x3 s) := by
  intro x0 x1 x2 x3 s
  unfold farAccess
  try dsimp only
  with_reducible repeat' first
    | apply Keeps.refl | assumption | apply Keeps.ite | apply Keeps.ite2 | fail_if_no_progress apply Keeps.upd
    | (apply Keeps.after; first | apply keeps_farRefuse | apply keeps_farFail | apply keeps_farCacheOp)

theorem keeps_farCombine : ∀ x0 x1 x2 x3 x4 s, Keeps s (farCombine x0 x1 x2 x3 x4 s) := by
  intro x0 x1 x2 x3 x4 s
  unfold farCombine
  try dsimp only
  with_reducible repeat' first | apply Keeps.refl | (apply Keeps.after; apply keeps_farCacheOp)

theorem keeps_doAckGlobal : ∀ x0 x1 x2 s, Keeps s (doAckGlobal x0 x1 x2 s) := by
  intro x0 x1 x2 s
  unfold doAckGlobal
  try dsimp only
  with_reducible repeat' first
    | apply Keeps.refl | (apply Keeps.after; first | apply keeps_withReq | apply keeps_farReplay | apply keeps_putReq)
    | intro _

theorem keeps_doAtomicResult : ∀ x0 x1 x2 x3 s, Keeps s (doAtomicResult x0 x1 x2 x3 s) := by
  intro x0 x1 x2 x3 s
  unfold doAtomicResult
  try dsimp only
  with_reducible repeat' first
    | apply Keeps.refl | assumption | apply Keeps.ite | apply Keeps.ite2 | fail_if_no_progress apply Keeps.upd
    | (apply Keeps.after; first | apply keeps_withReq | apply keeps_emit | apply keeps_putReq) | intro _ | split

theorem keeps_doNack : ∀ x0 x1 x2 s, Keeps s (doNack x0 x1 x2 s) := by
  intro x0 x1 x2 s
  unfold doNack
  try dsimp only
  with_reducible repeat' first
    | apply Keeps.refl | (apply Keeps.after; first | apply keeps_withReq | apply keeps_farReplay | apply keeps_putReq)
    | intro _

theorem keeps_atomicAt : ∀ x0 x1 x2 x3 x4 x5 s, KeepsP s (atomicAt x0 x1 x2 x3 x4 x5 s) := by
  intro x0 x1 x2 x3 x4 x5 s
  unfold atomicAt
  try dsimp only
  with_reducible repeat' first
    | apply Keeps.refl | assumption | apply Keeps.ite | apply Keeps.ite2 | apply KeepsO.ite | apply KeepsO.ofNone
    | apply KeepsO.ofSome | apply KeepsO.map | apply KeepsO.bind | apply KeepsO.mapP | apply KeepsO.mapOf
    | apply KeepsP.ite | apply KeepsP.ofNone | apply KeepsP.ofSome | apply KeepsP.map | apply KeepsP.mapO
    | (apply Keeps.snd; assumption) | fail_if_no_progress apply Keeps.upd | apply KeepsO.getD
    | (apply Keeps.after; apply keeps_quietRead) | (apply KeepsO.after; apply keeps_quietTry) | intro _ | split

theorem keeps_performCopy : ∀ x0 s, Keeps s (performCopy x0 s) := by
  intro x0 s
  unfold performCopy
  try dsimp only
  with_reducible repeat' first
    | apply Keeps.refl | assumption | apply KeepsP.ofNone | apply KeepsP.ofSome | (apply KeepsP.of; assumption)
    | (apply Keeps.after; first | apply keeps_quietWrites | apply keeps_quietAdds | apply keeps_mergeData | apply keeps_mergePart)
    | (apply KeepsP.after; apply keeps_atomicAt) | split

theorem keeps_holderDone : ∀ x0 x1 x2 x3 s, Keeps s (holderDone x0 x1 x2 x3 s) := by
  intro x0 x1 x2 x3 s
  unfold holderDone
  try dsimp only
  with_reducible repeat' first
    | apply Keeps.refl | apply Keeps.ite | (apply Keeps.after; first | apply keeps_modDir | apply keeps_putTx) | split

theorem keeps_answerAck : ∀ x0 s, Keeps s (answerAck x0 s) := by
  intro x0 s
  unfold answerAck
  try dsimp only
  with_reducible repeat' first | apply Keeps.refl | (apply Keeps.after; apply keeps_answer)

theorem keeps_homeRelease : ∀ x0 s, Keeps s (homeRelease x0 s) := by
  intro x0 s
  unfold homeRelease
  try dsimp only
  with_reducible repeat' first
    | apply Keeps.refl | apply Keeps.ite
    | (apply Keeps.after; first | apply keeps_performCopy | apply keeps_mergeData | apply keeps_holderDone | apply keeps_modDir | apply keeps_answerAck | apply keeps_mergePart | apply keeps_answer)
    | intro _ | split

theorem keeps_dirTouch : ∀ x0 x1 x2 s, Keeps s (dirTouch x0 x1 x2 s) := by
  intro x0 x1 x2 s
  unfold dirTouch
  try dsimp only
  with_reducible repeat' first | apply Keeps.refl | fail_if_no_progress apply Keeps.upd

theorem keeps_answerData : ∀ x0 x1 x2 x3 s, Keeps s (answerData x0 x1 x2 x3 s) := by
  intro x0 x1 x2 x3 s
  unfold answerData
  try dsimp only
  with_reducible repeat' first | apply Keeps.refl | apply Keeps.ite | (apply Keeps.after; apply keeps_answer)

theorem keeps_rewritePending : ∀ x0 x1 s, Keeps s (rewritePending x0 x1 s) := by
  intro x0 x1 s
  unfold rewritePending
  try dsimp only
  with_reducible repeat' first
    | apply Keeps.refl | assumption | apply KeepsO.ofNone | apply KeepsO.ofSome | (apply KeepsO.of; assumption)
    | (apply Keeps.after; first | apply keeps_forEach | apply keeps_quietAcc | apply keeps_updLine | apply keeps_acceptSlot)
    | (apply KeepsO.after; apply keeps_newEntry) | intro _ | split

theorem keeps_evictDir : ∀ x0 x1 x2 x3 s, Keeps s (evictDir x0 x1 x2 x3 s) := by
  intro x0 x1 x2 x3 s
  unfold evictDir
  try dsimp only
  with_reducible repeat' first
    | apply Keeps.refl | apply Keeps.ite
    | (apply Keeps.after; first | apply keeps_countDir | apply keeps_putDir | apply keeps_rewritePending | apply keeps_snoopList | apply keeps_putTx)
    | split

theorem keeps_dirRoom : ∀ x0 x1 s, KeepsP s (dirRoom x0 x1 s) := by
  intro x0 x1 s
  unfold dirRoom
  try dsimp only
  with_reducible repeat' first
    | apply Keeps.refl | assumption | apply Keeps.ite | apply KeepsP.ite | apply KeepsP.ofNone | apply KeepsP.ofSome
    | (apply Keeps.after; apply keeps_evictDir) | split

theorem keeps_dirGrant : ∀ x0 x1 x2 x3 x4 x5 s, KeepsO s (dirGrant x0 x1 x2 x3 x4 x5 s) := by
  intro x0 x1 x2 x3 x4 x5 s
  unfold dirGrant
  try dsimp only
  with_reducible repeat' first
    | apply Keeps.refl | assumption | apply Keeps.ite | apply KeepsO.ite | apply KeepsO.ofNone | apply KeepsO.ofSome
    | apply KeepsO.map | apply KeepsO.mapP | apply KeepsO.mapOf | apply KeepsP.ite | apply KeepsP.ofNone
    | apply KeepsP.ofSome | apply KeepsP.map | apply KeepsP.mapO
    | (apply Keeps.after; first | apply keeps_dirTouch | apply keeps_putDir) | (apply KeepsP.after; apply keeps_dirRoom)
    | intro _ | split

theorem keeps_giveLine : ∀ x0 x1 s, KeepsO s (giveLine x0 x1 s) := by
  intro x0 x1 s
  unfold giveLine
  try dsimp only
  with_reducible repeat' first
    | apply Keeps.refl | assumption | apply Keeps.ite | apply Keeps.ite2 | apply KeepsO.ite | apply KeepsO.ofNone
    | apply KeepsO.ofSome | apply KeepsO.map | apply KeepsO.mapOf | (apply Keeps.snd; assumption)
    | (apply Keeps.after; first | apply keeps_quietReads | apply keeps_answerData)
    | (apply KeepsO.after; apply keeps_dirGrant) | intro _ | split

theorem keeps_answerGrant : ∀ x0 x1 x2 s, Keeps s (answerGrant x0 x1 x2 s) := by
  intro x0 x1 x2 s
  unfold answerGrant
  try dsimp only
  with_reducible repeat' first | apply Keeps.refl | apply Keeps.ite | (apply Keeps.after; apply keeps_answer)

theorem keeps_perform : ∀ x0 s, KeepsO s (perform x0 s) := by
  intro x0 s
  unfold perform
  try dsimp only
  with_reducible repeat' first
    | apply Keeps.refl | assumption | apply Keeps.ite | apply Keeps.ite2 | apply KeepsO.ite | apply KeepsO.ofNone
    | apply KeepsO.ofSome | apply KeepsO.map | apply KeepsO.bind | apply KeepsO.mapP | apply KeepsO.mapOf
    | apply KeepsP.ite | apply KeepsP.ofNone | apply KeepsP.ofSome | apply KeepsP.map | apply KeepsP.mapO
    | (apply Keeps.snd; assumption) | fail_if_no_progress apply Keeps.upd | (apply KeepsP.of; assumption)
    | apply KeepsO.getD
    | (apply Keeps.after; first | apply keeps_answerGrant | apply keeps_quietReads | apply keeps_answerData | apply keeps_ackStep | apply keeps_answerError | apply keeps_emit | apply keeps_answer | apply keeps_forEach | apply keeps_sliceAccess)
    | (apply KeepsO.after; first | apply keeps_giveLine | apply keeps_dirGrant | apply keeps_quietAll)
    | (apply KeepsP.after; apply keeps_atomicAt) | intro _ | split

theorem keeps_pendingClear : ∀ x0 x1 s, Keeps s (pendingClear x0 x1 s) := by
  intro x0 x1 s
  unfold pendingClear
  try dsimp only
  with_reducible repeat' first
    | apply Keeps.refl | assumption | apply Keeps.ite
    | (apply Keeps.after; first | apply keeps_forEach | apply keeps_rawWrite | apply keeps_fillArrive) | intro _ | split
    | dsimp only | (apply padSame; assumption) | fail_if_no_progress apply Keeps.updMem

theorem keeps_performOrClear : ∀ r s, Keeps s (performOrClear r s).2 ∧ KeepsO s (performOrClear r s).1 := by
  intro r s
  have q : Keeps s (forEach [0, 1, 2, 3] (fun i s => quietAcc r.sl r.line i .read (reqAgent r) 0 s) s) :=
    keeps_forEach (fun _ _ => keeps_quietAcc _ _ _ _ _ _ _) _ _
  have k : ∀ t, Keeps s t → Keeps s (if pendingRet t r.sl r.line && decide (anyHolders r.sl r.line false t = []) then
      (perform r (pendingClear r.sl r.line (countDir .rpCollects r.sl 31 false t)), t) else (none, t)).2 ∧
      KeepsO s (if pendingRet t r.sl r.line && decide (anyHolders r.sl r.line false t = []) then
      (perform r (pendingClear r.sl r.line (countDir .rpCollects r.sl 31 false t)), t) else (none, t)).1 := by
    intro t h
    split
    · refine ⟨h, ?_⟩
      dsimp only
      have a := keeps_countDir .rpCollects r.sl 31 false t
      generalize countDir .rpCollects r.sl 31 false t = u at a
      have b := keeps_pendingClear r.sl r.line u
      generalize pendingClear r.sl r.line u = v at b
      exact KeepsO.trans ((h.trans a).trans b) (keeps_perform r v)
    · exact ⟨h, .ofNone⟩
  have o := keeps_perform r s
  unfold performOrClear
  extract_lets w
  clear_value w
  cases e : perform r s with
  | some u => rw [e] at o; exact ⟨.refl s, .ofSome (o.use rfl)⟩
  | none =>
    dsimp only
    by_cases hw : w = true
    · rw [if_pos hw]; exact ⟨.refl s, .ofNone⟩
    · rw [if_neg hw]; exact k _ q

theorem keeps_govHolder : ∀ x0 s, Keeps s (govHolder x0 s) := by
  intro x0 s
  unfold govHolder
  try dsimp only
  with_reducible repeat' first
    | apply Keeps.refl | apply Keeps.ite | (apply Keeps.after; first | apply keeps_govDone | apply keeps_govIssue)
    | split

theorem keeps_startPending : ∀ x0 x1 x2 s, Keeps s (startPending x0 x1 x2 s) := by
  intro x0 x1 x2 s
  unfold startPending
  try dsimp only
  with_reducible repeat' first
    | apply Keeps.refl | (apply Keeps.after; first | apply keeps_countDir | apply keeps_snoopAll | apply keeps_putTx)

theorem keeps_finishReq : ∀ r b s, Keeps s (finishReq r b s) := by
  intro r b s
  have h := keeps_performOrClear r s
  unfold finishReq
  split
  · rename_i s1 x e
    have h1 : Keeps s s1 := by rw [e] at h; exact h.2.use rfl
    dsimp only
    refine Keeps.after (keeps_putTx _ _ _ _) (Keeps.after (keeps_when (fun _ => keeps_ackStep _ _ _) _) ?_)
    exact Keeps.after (keeps_govHolder _ _) (Keeps.after (keeps_performCopy _ _) h1)
  · rename_i s1 e
    have h1 : Keeps s s1 := by rw [e] at h; exact h.1
    split
    · exact Keeps.after (keeps_startPending _ _ _ _) h1
    · exact Keeps.after (keeps_putTx _ _ _ _) h1

theorem keeps_homeHandle : ∀ x0 s, Keeps s (homeHandle x0 s) := by
  intro x0 s
  unfold homeHandle
  try dsimp only
  with_reducible repeat' first
    | apply Keeps.refl | assumption | apply Keeps.ite | apply Keeps.ite2 | apply KeepsO.ite | apply KeepsO.ofNone
    | apply KeepsO.ofSome | apply KeepsO.map | apply KeepsO.bind | apply KeepsO.mapOf
    | fail_if_no_progress apply Keeps.upd | (apply KeepsO.of; assumption) | apply KeepsO.getD
    | (apply Keeps.after; first | apply keeps_slateHold | apply keeps_homeRelease | apply keeps_dirTouch | apply keeps_finishReq | apply keeps_snoopAll | apply keeps_putTx | apply keeps_performCopy | apply keeps_snoopList)
    | (apply KeepsO.after; first | apply keeps_slateGate | apply keeps_perform) | intro _ | split

theorem keeps_snoopSlateGuests : ∀ x0 s, Keeps s (snoopSlateGuests x0 s) := by
  intro x0 s
  unfold snoopSlateGuests
  try dsimp only
  with_reducible repeat' first
    | apply Keeps.refl | apply Keeps.ite
    | (apply Keeps.after; first | apply keeps_forEach | apply keeps_snoopAll | apply keeps_putTx) | intro _

theorem keeps_withSnoop {f : SnoopOut → State → State} (hf : ∀ r s, Keeps s (f r s)) (sl tag : Nat) (take : BitVec 8)
    (src : Holder) (s : State) : Keeps s (withSnoop sl tag take src f s) := by
  unfold withSnoop
  try dsimp only
  with_reducible repeat' first
    | apply Keeps.refl | assumption | apply Keeps.ite | (apply Keeps.after; apply hf)
    | (apply Keeps.after; apply keeps_staleMsg) | split

theorem keeps_txComplete : ∀ x0 x1 x2 s, Keeps s (txComplete x0 x1 x2 s) := by
  intro x0 x1 x2 s
  unfold txComplete
  try dsimp only
  with_reducible repeat' first
    | apply Keeps.refl | assumption | apply Keeps.ite | apply Keeps.ite2 | fail_if_no_progress apply Keeps.upd
    | (apply Keeps.after; first | apply keeps_freeSnoops | apply keeps_putTx | apply keeps_pendingClear | apply keeps_homeHandle | apply keeps_putDir | apply keeps_when | apply keeps_ackStep | apply keeps_finishReq)
    | intro _ | split

theorem keeps_drainLineQ : ∀ x0 x1 s, Keeps s (drainLineQ x0 x1 s) := by
  intro x0 x1 s
  fun_induction drainLineQ x0 x1 s
  all_goals try dsimp only
  with_reducible repeat' first
    | apply Keeps.refl | assumption | fail_if_no_progress apply Keeps.upd | (apply Keeps.after; assumption)
    | (apply Keeps.after; apply keeps_homeHandle)

theorem keeps_redrive : ∀ x0 x1 s, Keeps s (redrive x0 x1 s) := by
  intro x0 x1 s
  unfold redrive
  try dsimp only
  with_reducible repeat' first
    | apply Keeps.refl | apply Keeps.ite
    | (apply Keeps.after; first | apply keeps_drainLineQ | apply keeps_finishReq | apply keeps_putTx) | split

theorem keeps_redriveSlice : ∀ x0 s, Keeps s (redriveSlice x0 s) := by
  intro x0 s
  unfold redriveSlice
  try dsimp only
  with_reducible repeat' first
    | apply Keeps.refl | apply Keeps.ite | (apply Keeps.after; first | apply keeps_forEach | apply keeps_redrive)
    | intro _

theorem keeps_advanceTx : ∀ x0 x1 s, Keeps s (advanceTx x0 x1 s) := by
  intro x0 x1 s
  unfold advanceTx
  try dsimp only
  with_reducible repeat' first
    | apply Keeps.refl | assumption | apply Keeps.ite | apply KeepsO.ite | apply KeepsO.ofNone | apply KeepsO.ofSome
    | (apply KeepsO.of; assumption)
    | (apply Keeps.after; first | apply keeps_txComplete | apply keeps_redriveSlice | apply keeps_drainLineQ | apply keeps_putTx | apply keeps_performCopy)
    | (apply KeepsO.after; apply keeps_perform) | split

theorem keeps_pointHold : ∀ x0 x1 s, Keeps s (pointHold x0 x1 s) := by
  intro x0 x1 s
  unfold pointHold
  try dsimp only
  with_reducible repeat' first | apply Keeps.refl | (apply Keeps.after; apply keeps_setSlate)

theorem keeps_pendingMerge : ∀ x0 x1 x2 x3 s, Keeps s (pendingMerge x0 x1 x2 x3 s) := by
  intro x0 x1 x2 x3 s
  unfold pendingMerge
  try dsimp only
  with_reducible repeat' first
    | apply Keeps.refl | assumption | (apply Keeps.after; first | apply keeps_forEach | apply keeps_mergePart) | intro _
    | split | dsimp only | (apply padSame; assumption) | fail_if_no_progress apply Keeps.updMem

theorem keeps_applySnoop : ∀ x0 s, Keeps s (applySnoop x0 s) := by
  intro x0 s
  unfold applySnoop
  try dsimp only
  with_reducible repeat' first
    | apply Keeps.refl | assumption | apply Keeps.ite | apply KeepsO.ite | apply KeepsO.ofNone | apply KeepsO.ofSome
    | apply KeepsO.map | apply KeepsO.mapOf | (apply KeepsO.of; assumption) | apply KeepsO.getD
    | (apply Keeps.after; first | apply keeps_withSnoop | apply keeps_advanceTx | apply keeps_holderDone | apply keeps_pointHold | apply keeps_slateHold | apply keeps_pendingMerge | apply keeps_mergePart | apply keeps_mergeData | apply keeps_performCopy)
    | (apply KeepsO.after; apply keeps_slateGate) | intro _ | split

theorem keeps_homeArrive : ∀ x0 s, Keeps s (homeArrive x0 s) := by
  intro x0 s
  unfold homeArrive
  try dsimp only
  with_reducible repeat' first
    | apply Keeps.refl | assumption | apply Keeps.ite | apply Keeps.ite2 | fail_if_no_progress apply Keeps.upd
    | (apply Keeps.after; first | apply keeps_pointHold | apply keeps_homeHandle | apply keeps_advanceTx | apply keeps_answerError | apply keeps_drainLineQ | apply keeps_forEach | apply keeps_sliceAccess | apply keeps_answer)
    | intro _ | split

theorem keeps_slateResume : ∀ x0 s, Keeps s (slateResume x0 s) := by
  intro x0 s
  unfold slateResume
  try dsimp only
  with_reducible repeat' first
    | apply Keeps.refl
    | (apply Keeps.after; first | apply keeps_forEach | apply keeps_applySnoop | apply keeps_homeArrive) | intro _
    | split

theorem keeps_flipEpoch : ∀ x0 s, Keeps s (flipEpoch x0 s) := by
  intro x0 s
  unfold flipEpoch
  try dsimp only
  with_reducible repeat' first
    | apply Keeps.refl | apply Keeps.ite
    | (apply Keeps.after; first | apply keeps_setSlate | apply keeps_slateResume | apply keeps_sendOld | apply keeps_farReplay)

theorem keeps_tryFlip : ∀ x0 s, Keeps s (tryFlip x0 s) := by
  intro x0 s
  unfold tryFlip
  try dsimp only
  with_reducible repeat' first
    | apply Keeps.refl | apply Keeps.ite
    | (apply Keeps.after; first | apply keeps_snoopSlateGuests | apply keeps_flipEpoch)

theorem keeps_settleSlates : ∀ s, Keeps s (settleSlates s) := by
  intro s
  unfold settleSlates
  try dsimp only
  with_reducible repeat' first
    | apply Keeps.refl | (apply Keeps.after; first | apply keeps_forEach | apply keeps_tryFlip) | intro _

theorem keeps_dirErr : ∀ x0 x1 x2 s, Keeps s (dirErr x0 x1 x2 s) := by
  intro x0 x1 x2 s
  unfold dirErr
  try dsimp only
  with_reducible repeat' first
    | apply Keeps.refl | apply Keeps.ite | fail_if_no_progress apply Keeps.upd
    | (apply Keeps.after; first | apply keeps_event | apply keeps_bumpSat | apply keeps_putDir) | split

theorem keeps_holderLost : ∀ x0 x1 x2 x3 s, Keeps s (holderLost x0 x1 x2 x3 s) := by
  intro x0 x1 x2 x3 s
  unfold holderLost
  try dsimp only
  with_reducible repeat' first
    | apply Keeps.refl | apply Keeps.ite
    | (apply Keeps.after; first | apply keeps_countDir | apply keeps_poisonLine | apply keeps_advanceTx | apply keeps_holderDone | apply keeps_modDir)

theorem keeps_mcDrops : ∀ s, Keeps s (mcDrops s) := by
  intro s
  unfold mcDrops
  try dsimp only
  with_reducible repeat' first
    | apply Keeps.refl | apply Keeps.ite | fail_if_no_progress apply Keeps.upd
    | (apply Keeps.after; first | apply keeps_forEach | apply keeps_holderLost) | intro _ | split

theorem keeps_markOld : ∀ x0 s, Keeps s (markOld x0 s) := by
  intro x0 s
  unfold markOld
  try dsimp only
  with_reducible repeat' first | apply Keeps.refl | apply Keeps.ite | fail_if_no_progress apply Keeps.upd

theorem keeps_mergeXPartials : ∀ x0 s, Keeps s (mergeXPartials x0 s) := by
  intro x0 s
  unfold mergeXPartials
  try dsimp only
  with_reducible repeat' first
    | apply Keeps.refl | apply Keeps.ite
    | (apply Keeps.after; first | apply keeps_forEach | apply keeps_modDir | apply keeps_mergePart | apply keeps_putFar)
    | intro _ | split

theorem keeps_reachPoint : ∀ x0 s, Keeps s (reachPoint x0 s) := by
  intro x0 s
  unfold reachPoint
  try dsimp only
  with_reducible repeat' first
    | apply Keeps.refl | assumption | apply Keeps.ite | apply Keeps.ite2 | fail_if_no_progress apply Keeps.upd
    | (apply Keeps.after; first | apply keeps_markOld | apply keeps_mergeXPartials | apply keeps_tryFlip | apply keeps_setSlate)

theorem keeps_epochTrigger : ∀ x0 x1 s, Keeps s (epochTrigger x0 x1 s) := by
  intro x0 x1 s
  unfold epochTrigger
  try dsimp only
  with_reducible repeat' first | apply Keeps.refl | apply Keeps.ite | (apply Keeps.after; apply keeps_reachPoint) | split

theorem keeps_holderRefuse : ∀ x0 x1 x2 x3 s, Keeps s (holderRefuse x0 x1 x2 x3 s) := by
  intro x0 x1 x2 x3 s
  unfold holderRefuse
  try dsimp only
  with_reducible repeat' first
    | apply Keeps.refl | apply Keeps.ite | (apply Keeps.after; first | apply keeps_cfgEvent | apply keeps_answerError)
    | split

theorem keeps_answerPoint : ∀ x0 x1 x2 x3 x4 x5 s, Keeps s (answerPoint x0 x1 x2 x3 x4 x5 s) := by
  intro x0 x1 x2 x3 x4 x5 s
  unfold answerPoint
  try dsimp only
  with_reducible repeat' first | apply Keeps.refl | (apply Keeps.after; apply keeps_epochTrigger) | split

theorem keeps_doSnoopData : ∀ x0 x1 x2 x3 x4 x5 x6 x7 s, Keeps s (doSnoopData x0 x1 x2 x3 x4 x5 x6 x7 s) := by
  intro x0 x1 x2 x3 x4 x5 x6 x7 s
  unfold doSnoopData
  try dsimp only
  with_reducible repeat' first
    | apply Keeps.refl | assumption | apply Keeps.ite | apply Keeps.ite2 | fail_if_no_progress apply Keeps.upd
    | (apply Keeps.after; first | apply keeps_answerPoint | apply keeps_staleMsg | apply keeps_settleSlates | apply keeps_applySnoop)
    | intro _ | split

theorem keeps_redriveStack : ∀ x0 s, Keeps s (redriveStack x0 s) := by
  intro x0 s
  unfold redriveStack
  try dsimp only
  with_reducible repeat' first
    | apply Keeps.refl | apply Keeps.ite | (apply Keeps.after; first | apply keeps_forEach | apply keeps_redrive)
    | intro _

theorem keeps_doSnoopAck : ∀ x0 x1 x2 x3 x4 x5 x6 s, Keeps s (doSnoopAck x0 x1 x2 x3 x4 x5 x6 s) := by
  intro x0 x1 x2 x3 x4 x5 x6 s
  unfold doSnoopAck
  try dsimp only
  with_reducible repeat' first
    | apply Keeps.refl | assumption | apply Keeps.ite
    | (apply Keeps.after; first | apply keeps_staleMsg | apply keeps_settleSlates | apply keeps_withSnoop | apply keeps_advanceTx | apply keeps_holderDone | apply keeps_answerPoint)
    | intro _ | split

theorem keeps_holderGo : ∀ x0 x1 x2 x3 s, Keeps s (holderGo x0 x1 x2 x3 s) := by
  intro x0 x1 x2 x3 s
  unfold holderGo
  try dsimp only
  with_reducible repeat' first
    | apply Keeps.refl | apply Keeps.ite | (apply Keeps.after; first | apply keeps_farCombine | apply keeps_homeArrive)
    | split

theorem keeps_fromHolder : ∀ x0 x1 s, Keeps s (fromHolder x0 x1 s) := by
  intro x0 x1 s
  unfold fromHolder
  try dsimp only
  with_reducible repeat' first
    | apply Keeps.refl | assumption | apply Keeps.ite | apply Keeps.ite2 | fail_if_no_progress apply Keeps.upd
    | (apply Keeps.after; first | apply keeps_holderRefuse | apply keeps_settleSlates | apply keeps_holderGo | apply keeps_epochTrigger)
    | intro _ | split

theorem keeps_fromHolderLines : ∀ x0 x1 s, Keeps s (fromHolderLines x0 x1 s) := by
  intro x0 x1 s
  unfold fromHolderLines
  try dsimp only
  with_reducible repeat' first
    | apply Keeps.refl | apply Keeps.ite | fail_if_no_progress apply Keeps.upd
    | (apply Keeps.after; first | apply keeps_fromHolder | apply keeps_holderRefuse | apply keeps_answer | apply keeps_forEach | apply keeps_epochTrigger | apply keeps_settleSlates | apply keeps_holderGo)
    | intro _ | split

theorem keeps_doRpCollectTimeout : ∀ x0 x1 s, Keeps s (doRpCollectTimeout x0 x1 s) := by
  intro x0 x1 s
  unfold doRpCollectTimeout
  try dsimp only
  with_reducible repeat' first
    | apply Keeps.refl | assumption | apply Keeps.ite | apply Keeps.ite2 | fail_if_no_progress apply Keeps.upd
    | (apply Keeps.after; first | apply keeps_atTime | apply keeps_settleSlates | apply keeps_advanceTx | apply keeps_putTx | apply keeps_countDir | apply keeps_poisonLine | apply keeps_foldl | apply keeps_foldl2)
    | intro _ | split

theorem keeps_dropHolder : ∀ x0 s, Keeps s (dropHolder x0 s) := by
  intro x0 s
  unfold dropHolder
  try dsimp only
  with_reducible repeat' first
    | apply Keeps.refl | assumption | apply Keeps.ite | apply Keeps.ite2 | fail_if_no_progress apply Keeps.upd
    | (apply Keeps.after; first | apply keeps_settleSlates | apply keeps_forEach | apply keeps_holderLost) | intro _

theorem keeps_doLeaseDeadline : ∀ x0 x1 x2 s, Keeps s (doLeaseDeadline x0 x1 x2 s) := by
  intro x0 x1 x2 s
  unfold doLeaseDeadline
  try dsimp only
  with_reducible repeat' first
    | apply Keeps.refl | assumption | apply Keeps.ite | apply Keeps.ite2 | fail_if_no_progress apply Keeps.upd
    | (apply Keeps.after; first | apply keeps_settleSlates | apply keeps_holderLost | apply keeps_atTime) | intro _
    | split

theorem keeps_quietClear : ∀ x0 x1 s, Keeps s (quietClear x0 x1 s) := by
  intro x0 x1 s
  unfold quietClear
  try dsimp only
  with_reducible repeat' first
    | apply Keeps.refl | assumption | intro _ | (apply padSame; assumption) | fail_if_no_progress apply Keeps.updMem

theorem keeps_ownReady : ∀ x0 x1 x2 x3 x4 s, Keeps s (ownReady x0 x1 x2 x3 x4 s).2 := by
  intro x0 x1 x2 x3 x4 s
  unfold ownReady
  try dsimp only
  with_reducible repeat' first
    | apply Keeps.refl | assumption | apply Keeps.ite | apply Keeps.ite2 | apply KeepsO.ite | apply KeepsO.ofNone
    | apply KeepsO.ofSome | apply KeepsO.map | apply KeepsO.bind | apply KeepsO.mapOf
    | fail_if_no_progress apply Keeps.upd | (apply KeepsO.of; assumption) | apply KeepsO.getD
    | (apply Keeps.after; first | apply keeps_slateWant | apply keeps_snoopList | apply keeps_putTx | apply keeps_snoopAll)
    | (apply KeepsO.after; apply keeps_slateGate) | intro _ | split

theorem keeps_storeCopy : ∀ x0 x1 x2 s, Keeps s (storeCopy x0 x1 x2 s) := by
  intro x0 x1 x2 s
  unfold storeCopy
  try dsimp only
  with_reducible repeat' first | apply Keeps.refl | (apply Keeps.after; apply keeps_performCopy) | split

theorem keeps_engStore : ∀ x0 x1 x2 x3 x4 s, Keeps s (engStore x0 x1 x2 x3 x4 s).2 := by
  intro x0 x1 x2 x3 x4 s
  unfold engStore
  try dsimp only
  with_reducible repeat' first
    | apply Keeps.refl | assumption | apply Keeps.ite | apply Keeps.ite2 | apply KeepsO.ite | apply KeepsO.ofNone
    | apply KeepsO.ofSome | (apply Keeps.snd; assumption) | (apply KeepsO.of; assumption) | apply KeepsO.getD
    | (apply Keeps.after; first | apply keeps_quietClear | apply keeps_ownReady | apply keeps_storeCopy)
    | (apply KeepsO.after; apply keeps_quietTry) | intro _ | split | dsimp only | (apply padSame; assumption)
    | fail_if_no_progress apply Keeps.updMem

theorem keeps_engStoreGo : ∀ x0 x1 x2 s, Keeps s (engStoreGo x0 x1 x2 s).2 := by
  intro x0 x1 x2 s
  fun_induction engStoreGo x0 x1 x2 s
  all_goals try dsimp only
  with_reducible repeat' first
    | apply Keeps.refl | assumption | (apply Keeps.snd; assumption) | (apply Keeps.after; assumption)
    | (apply Keeps.after; apply keeps_engStore)

theorem keeps_askStore : ∀ x0 x1 x2 x3 x4 s, Keeps s (askStore x0 x1 x2 x3 x4 s) := by
  intro x0 x1 x2 x3 x4 s
  unfold askStore
  try dsimp only
  with_reducible repeat' first
    | apply Keeps.refl | assumption | apply Keeps.ite | apply Keeps.ite2 | (apply Keeps.after; apply keeps_engStore)

theorem keeps_engStoreAll : ∀ x0 x1 x2 s, Keeps s (engStoreAll x0 x1 x2 s).2 := by
  intro x0 x1 x2 s
  unfold engStoreAll
  try dsimp only
  with_reducible repeat' first
    | apply Keeps.refl | assumption | apply Keeps.ite | apply Keeps.ite2
    | (apply Keeps.after; first | apply keeps_engStoreGo | apply keeps_forEach | apply keeps_askStore) | intro _

theorem keeps_refuseAccess : ∀ x0 x1 x2 s, Keeps s (refuseAccess x0 x1 x2 s) := by
  intro x0 x1 x2 s
  unfold refuseAccess
  try dsimp only
  with_reducible repeat' first | apply Keeps.refl | (apply Keeps.after; first | apply keeps_emit | apply keeps_cfgEvent)

theorem keeps_padErr : ∀ a n e s, Keeps s (padErr a n e s) := by
  intro a n e s
  unfold padErr
  cases e with
  | dataSingle => exact keeps_event _ _ _ _ _ _ _ _
  | dataDouble => exact Keeps.updMem (.refl s) id (padPoison_wf _)
  | _ => exact .refl s

theorem keeps_scratchPut : ∀ a bs p s, Keeps s (scratchPut a bs p s) :=
  fun _ _ _ _ => ⟨rfl, rfl, Nat.le_refl _, id, scratchPut_wf _ _ _⟩

theorem keeps_scratchSector : ∀ x0 x1 s, Keeps s (scratchSector x0 x1 s) := by
  intro x0 x1 s
  unfold scratchSector
  try dsimp only
  with_reducible repeat' first
    | apply Keeps.refl | apply Keeps.ite | (apply Keeps.after; first | apply keeps_scratchPut | apply keeps_forEach)
    | intro _

theorem keeps_scratchAdd : ∀ x0 x1 x2 s, Keeps s (scratchAdd x0 x1 x2 s) := by
  intro x0 x1 x2 s
  unfold scratchAdd
  try dsimp only
  with_reducible repeat' first
    | apply Keeps.refl | (apply Keeps.after; first | apply keeps_forEach | apply keeps_scratchPut) | intro _

theorem keeps_padAccess : ∀ x0 x1 x2 x3 x4 s, Keeps s (padAccess x0 x1 x2 x3 x4 s) := by
  intro x0 x1 x2 x3 x4 s
  unfold padAccess
  try dsimp only
  with_reducible repeat' first
    | apply Keeps.refl | apply Keeps.ite
    | (apply Keeps.after; first | apply keeps_refuseAccess | apply keeps_padErr | apply keeps_forEach | apply keeps_emit | apply keeps_when | apply keeps_countPoison | apply keeps_scratchSector | apply keeps_scratchAdd)
    | intro _ | split

theorem keeps_lookupErr : ∀ x0 x1 x2 x3 s, Keeps s (lookupErr x0 x1 x2 x3 s) := by
  intro x0 x1 x2 x3 s
  unfold lookupErr
  try dsimp only
  with_reducible repeat' first
    | apply Keeps.refl | assumption | apply Keeps.ite | apply Keeps.ite2
    | (apply Keeps.after; first | apply keeps_event | apply keeps_updLine | apply keeps_setFrame | apply keeps_eventD | apply keeps_dirErr)
    | intro _ | split | dsimp only | dsimp +zetaDelta only | (apply padSame; assumption)
    | fail_if_no_progress apply Keeps.updMem

theorem keeps_crossZoram : ∀ x0 x1 x2 x3 s, Keeps s (crossZoram x0 x1 x2 x3 s) := by
  intro x0 x1 x2 x3 s
  unfold crossZoram
  try dsimp only
  with_reducible repeat' first | apply Keeps.refl | apply Keeps.ite | (apply Keeps.after; apply keeps_emit)

theorem keeps_lineAccess : ∀ x0 x1 x2 x3 x4 s, Keeps s (lineAccess x0 x1 x2 x3 x4 s) := by
  intro x0 x1 x2 x3 x4 s
  unfold lineAccess
  try dsimp only
  with_reducible repeat' first
    | apply Keeps.refl | assumption | apply Keeps.ite | apply Keeps.ite2 | fail_if_no_progress apply Keeps.upd
    | (apply Keeps.after; first | apply keeps_refuseAccess | apply keeps_lookupErr | apply keeps_crossZoram | apply keeps_modRegul | apply keeps_homeArrive | apply keeps_forEach | apply keeps_govIssue)
    | intro _ | split

theorem keeps_doAddToLine : ∀ x0 x1 x2 x3 x4 x5 s, Keeps s (doAddToLine x0 x1 x2 x3 x4 x5 s) := by
  intro x0 x1 x2 x3 x4 x5 s
  unfold doAddToLine
  try dsimp only
  with_reducible repeat' first
    | apply Keeps.refl | assumption | apply Keeps.ite | apply Keeps.ite2 | fail_if_no_progress apply Keeps.upd
    | (apply Keeps.after; first | apply keeps_refuseAccess | apply keeps_farAccess | apply keeps_padAccess | apply keeps_farCombine | apply keeps_lineAccess)
    | intro _ | split

theorem keeps_doFillData : ∀ x0 x1 s, Keeps s (doFillData x0 x1 s) := by
  intro x0 x1 s
  unfold doFillData
  try dsimp only
  with_reducible repeat' first
    | apply Keeps.refl | assumption | apply Keeps.ite | apply Keeps.ite2 | apply KeepsP.ite | apply KeepsP.ofNone
    | apply KeepsP.ofSome | apply KeepsP.map | apply KeepsP.mapO | fail_if_no_progress apply Keeps.upd
    | (apply KeepsP.of; assumption)
    | (apply Keeps.after; first | apply keeps_retryStalled | apply keeps_pendingClear | apply keeps_countDir | apply keeps_startPending | apply keeps_settleSlates | apply keeps_redriveSlice | apply keeps_fillArrive)
    | (apply KeepsP.after; apply keeps_takeRet) | intro _ | split

theorem keeps_doScratchpad : ∀ x0 x1 x2 x3 x4 s, Keeps s (doScratchpad x0 x1 x2 x3 x4 s) := by
  intro x0 x1 x2 x3 x4 s
  unfold doScratchpad
  try dsimp only
  with_reducible repeat' first
    | apply Keeps.refl | assumption | apply Keeps.ite | apply Keeps.ite2 | fail_if_no_progress apply Keeps.upd
    | (apply Keeps.after; first | apply keeps_refuseAccess | apply keeps_padErr | apply keeps_emit | apply keeps_when | apply keeps_countPoison | apply keeps_scratchPut | apply keeps_scratchAdd)
    | intro _ | split

theorem keeps_engRead : ∀ x0 x1 s, Keeps s (engRead x0 x1 s).2 := by
  intro x0 x1 s
  unfold engRead
  try dsimp only
  with_reducible repeat' first
    | apply Keeps.refl | assumption | apply Keeps.ite | apply Keeps.ite2 | (apply Keeps.snd; assumption)
    | (apply Keeps.after; first | apply keeps_ownReady | apply keeps_quietRead | apply keeps_pendingClear | apply keeps_countDir | apply keeps_startPending)
    | intro _ | split | dsimp only | (apply padSame; assumption) | fail_if_no_progress apply Keeps.updMem

theorem keeps_doSliceRead : ∀ x0 x1 x2 x3 x4 s, Keeps s (doSliceRead x0 x1 x2 x3 x4 s) := by
  intro x0 x1 x2 x3 x4 s
  unfold doSliceRead
  try dsimp only
  with_reducible repeat' first
    | apply Keeps.refl | assumption | apply Keeps.ite | apply Keeps.ite2 | fail_if_no_progress apply Keeps.upd
    | (apply Keeps.after; first | apply keeps_refuseAccess | apply keeps_farAccess | apply keeps_padAccess | apply keeps_lineAccess)
    | intro _ | split

theorem keeps_doSliceWrite : ∀ x0 x1 x2 x3 x4 s, Keeps s (doSliceWrite x0 x1 x2 x3 x4 s) := by
  intro x0 x1 x2 x3 x4 s
  unfold doSliceWrite
  try dsimp only
  with_reducible repeat' first
    | apply Keeps.refl | assumption | apply Keeps.ite | apply Keeps.ite2 | fail_if_no_progress apply Keeps.upd
    | (apply Keeps.after; first | apply keeps_refuseAccess | apply keeps_farAccess | apply keeps_padAccess | apply keeps_lineAccess)
    | intro _ | split

theorem keeps_doFarCacheAccess : ∀ x0 x1 x2 x3 x4 s, Keeps s (doFarCacheAccess x0 x1 x2 x3 x4 s) := by
  intro x0 x1 x2 x3 x4 s
  unfold doFarCacheAccess
  try dsimp only
  with_reducible repeat' first
    | apply Keeps.refl | apply Keeps.ite
    | (apply Keeps.after; first | apply keeps_farErr | apply keeps_doSliceRead | apply keeps_doSliceWrite | apply keeps_doAddToLine | apply keeps_homeArrive | apply keeps_refuseAccess | apply keeps_farAccess)
    | split

theorem keeps_engWrite : ∀ x0 x1 x2 s, Keeps s (engWrite x0 x1 x2 s).2 := by
  intro x0 x1 x2 s
  unfold engWrite
  try dsimp only
  with_reducible repeat' first
    | apply Keeps.refl | assumption | apply Keeps.ite | apply Keeps.ite2 | fail_if_no_progress apply Keeps.upd
    | (apply Keeps.after; apply keeps_engStore)

theorem keeps_engPutGo : ∀ x0 x1 x2 x3 x4 s, Keeps s (engPutGo x0 x1 x2 x3 x4 s).2 := by
  intro x0 x1 x2 x3 x4 s
  fun_induction engPutGo x0 x1 x2 x3 x4 s
  all_goals try dsimp only
  with_reducible repeat' first
    | apply Keeps.refl | assumption | (apply Keeps.snd; assumption) | (apply Keeps.after; assumption)
    | (apply Keeps.after; apply keeps_engWrite)

theorem keeps_engPut : ∀ x0 x1 x2 x3 s, Keeps s (engPut x0 x1 x2 x3 s).2 := by
  intro x0 x1 x2 x3 s
  unfold engPut
  try dsimp only
  with_reducible repeat' first | apply Keeps.refl | assumption | (apply Keeps.after; apply keeps_engPutGo)

theorem keeps_engBytesGo : ∀ x0 x1 x2 x3 x4 x5 s, Keeps s (engBytesGo x0 x1 x2 x3 x4 x5 s).2 := by
  intro x0 x1 x2 x3 x4 x5 s
  fun_induction engBytesGo x0 x1 x2 x3 x4 x5 s
  all_goals try dsimp only
  with_reducible repeat' first
    | apply Keeps.refl | assumption | apply Keeps.ite | apply Keeps.ite2 | (apply Keeps.snd; assumption)
    | (apply Keeps.after; assumption) | (apply Keeps.after; apply keeps_engRead)

theorem keeps_engBytes : ∀ x0 x1 x2 s, Keeps s (engBytes x0 x1 x2 s).2 := by
  intro x0 x1 x2 s
  unfold engBytes
  try dsimp only
  with_reducible repeat' first
    | apply Keeps.refl | assumption | apply Keeps.ite | apply Keeps.ite2 | (apply Keeps.after; apply keeps_engBytesGo)

theorem keeps_engAdd : ∀ x0 x1 x2 s, Keeps s (engAdd x0 x1 x2 s).2 := by
  intro x0 x1 x2 s
  unfold engAdd
  try dsimp only
  with_reducible repeat' first
    | apply Keeps.refl | assumption | apply Keeps.ite | apply Keeps.ite2 | fail_if_no_progress apply Keeps.upd
    | (apply Keeps.after; apply keeps_engStore)

theorem keeps_doEbufHandover : ∀ x0 x1 s, Keeps s (doEbufHandover x0 x1 s) := by
  intro x0 x1 s
  unfold doEbufHandover
  try dsimp only
  with_reducible repeat' first
    | apply Keeps.refl | assumption | apply Keeps.ite | apply Keeps.ite2 | apply KeepsO.ite | apply KeepsO.ofNone
    | apply KeepsO.ofSome | apply KeepsO.map | apply KeepsO.bind | apply KeepsO.mapOf
    | fail_if_no_progress apply Keeps.upd | (apply KeepsO.of; assumption) | apply KeepsO.getD
    | (apply Keeps.after; first | apply keeps_settleSlates | apply keeps_redriveSlice | apply keeps_retryStalled)
    | (apply KeepsO.after; apply keeps_handOver) | intro _ | split

theorem keeps_holdRecords : ∀ x0 x1 s, Keeps s (holdRecords x0 x1 s) := by
  intro x0 x1 s
  unfold holdRecords
  try dsimp only
  with_reducible repeat' first
    | apply Keeps.refl | apply Keeps.ite
    | (apply Keeps.after; first | apply keeps_forEach | apply keeps_event | apply keeps_setStack) | intro _

end Sys2Proof.Machine
end

