-- ==== Sys2Proof/Laws/KeepsMemory.lean ====
section
/-! SUPPORT. What the operations of the maintenance operations, the stacks and the rules of Continuity keep (`Keeps`). -/

namespace Sys2Proof.Machine

open Sys2Proof

theorem keeps_maintCueSignal : ∀ x0 x1 s, Keeps s (maintCueSignal x0 x1 s) := by
  intro x0 x1 s
  unfold maintCueSignal
  try dsimp only
  with_reducible repeat' first
    | apply Keeps.refl | assumption | apply Keeps.ite | apply Keeps.ite2 | fail_if_no_progress apply Keeps.upd
    | (apply Keeps.after; apply keeps_signalField)

theorem keeps_writeRecord : ∀ x0 x1 s, Keeps s (writeRecord x0 x1 s).2 := by
  intro x0 x1 s
  unfold writeRecord
  try dsimp only
  with_reducible repeat' first
    | apply Keeps.refl | assumption | (apply Keeps.snd; assumption)
    | (apply Keeps.after; first | apply keeps_engWrite | apply keeps_maintCueSignal) | split

theorem keeps_setMaint : ∀ x0 x1 x2 s, Keeps s (setMaint x0 x1 x2 s) := by
  intro x0 x1 x2 s
  unfold setMaint
  try dsimp only
  with_reducible repeat' first
    | apply Keeps.refl | assumption | intro _ | (apply padSame; assumption) | fail_if_no_progress apply Keeps.updMem

theorem keeps_lateRecord : ∀ x0 x1 s, Keeps s (lateRecord x0 x1 s) := by
  intro x0 x1 s
  unfold lateRecord
  try dsimp only
  with_reducible repeat' first
    | apply Keeps.refl | assumption | (apply Keeps.snd; assumption)
    | (apply Keeps.after; first | apply keeps_writeRecord | apply keeps_setMaint) | split

theorem keeps_nextOp : ∀ x0 x1 s, Keeps s (nextOp x0 x1 s) := by
  intro x0 x1 s
  unfold nextOp
  try dsimp only
  with_reducible repeat' first | apply Keeps.refl | (apply Keeps.after; apply keeps_setMaint) | split

theorem keeps_doMaintRecord : ∀ x0 x1 s, Keeps s (doMaintRecord x0 x1 s) := by
  intro x0 x1 s
  unfold doMaintRecord
  try dsimp only
  with_reducible repeat' first
    | apply Keeps.refl | assumption | apply Keeps.ite | apply Keeps.ite2 | (apply Keeps.snd; assumption)
    | fail_if_no_progress apply Keeps.upd
    | (apply Keeps.after; first | apply keeps_lateRecord | apply keeps_writeRecord | apply keeps_nextOp) | intro _
    | split

theorem keeps_discardEntry : ∀ x0 x1 s, Keeps s (discardEntry x0 x1 s).2 := by
  intro x0 x1 s
  unfold discardEntry
  try dsimp only
  with_reducible repeat' first
    | apply Keeps.refl | assumption | apply Keeps.ite | apply Keeps.ite2 | (apply Keeps.after; apply keeps_setEbuf)
    | split

theorem keeps_ruleEvent : ∀ x0 x1 x2 x3 x4 x5 s, Keeps s (ruleEvent x0 x1 x2 x3 x4 x5 s) := by
  intro x0 x1 x2 x3 x4 x5 s
  unfold ruleEvent
  try dsimp only
  with_reducible repeat' first | apply Keeps.refl | (apply Keeps.after; apply keeps_event)

theorem keeps_segMapAct : ∀ x0 x1 s, Keeps s (segMapAct x0 x1 s) := by
  intro x0 x1 s
  unfold segMapAct
  try dsimp only
  with_reducible repeat' first
    | apply Keeps.refl | apply Keeps.ite | (apply Keeps.after; first | apply keeps_rput | apply keeps_ruleEvent)

theorem keeps_queueOp : ∀ h f o s, Keeps s (queueOp h f o s) := by
  intro h f o s
  unfold queueOp
  extract_lets src p s1
  have k : Keeps s s1 := keeps_when (fun _ => keeps_event _ _ _ _ _ _ _ _) _
  clear_value s1 p
  split
  · exact Keeps.after (keeps_setMaint _ _ _ _) k
  · split
    · exact Keeps.after (keeps_setMaint _ _ _ _) k
    · split
      · rename_i e
        exact Keeps.after (keeps_setMaint _ _ _ _) (k.trans (Keeps.snd e (keeps_writeRecord _ _ _)))
      · rename_i e
        exact Keeps.after (keeps_setMaint _ _ _ _) (k.trans (Keeps.snd e (keeps_writeRecord _ _ _)))

theorem keeps_submitOp : ∀ h f s, Keeps s (submitOp h f s) := fun _ _ _ => keeps_queueOp _ _ _ _

theorem keeps_maintCommitAct : ∀ h f hf n s, Keeps s (maintCommitAct h f hf n s) := by
  intro h f hf n s
  unfold maintCommitAct
  dsimp only
  split
  · exact Keeps.after (keeps_submitOp _ _ _) (keeps_groupApply _ _ _)
  · exact .refl s

theorem keeps_doMaintCommit : ∀ x0 x1 x2 s, Keeps s (doMaintCommit x0 x1 x2 s) := by
  intro x0 x1 x2 s
  unfold doMaintCommit
  try dsimp only
  with_reducible repeat' first
    | apply Keeps.refl | (apply Keeps.after; first | apply keeps_regStore | apply keeps_maintCommitAct) | intro _

theorem keeps_opCoherent : ∀ x0 x1 x2 s, Keeps s (opCoherent x0 x1 x2 s).2 := by
  intro x0 x1 x2 s
  unfold opCoherent
  try dsimp only
  with_reducible repeat' first
    | apply Keeps.refl | assumption | apply KeepsO.ofNone | apply KeepsO.ofSome
    | (apply Keeps.after; apply keeps_homeArrive) | split

theorem keeps_settleLine : ∀ x0 x1 s, Keeps s (settleLine x0 x1 s) := by
  intro x0 x1 s
  unfold settleLine
  try dsimp only
  with_reducible repeat' first
    | apply Keeps.refl | (apply Keeps.after; first | apply keeps_forEach | apply keeps_settle) | intro _

theorem keeps_prefetchLine : ∀ a b k s, KeepsO s (prefetchLine a b k s) := by
  intro a b k s
  have q : ∀ (l : List Nat) (o : Option State), KeepsO s o →
      KeepsO s (l.foldl (fun o i => o.bind (quietTry a b i (.prefetch k) (.mp (halfOf 128 a)) 0)) o) := by
    intro l
    induction l with
    | nil => exact fun o h => h
    | cons i l ih => exact fun o h => ih _ (KeepsO.bind h (fun t => keeps_quietTry _ _ _ _ _ _ t))
  exact q _ (some s) (.ofSome (.refl s))

theorem keeps_flushLine : ∀ x0 x1 x2 x3 x4 s, KeepsP s (flushLine x0 x1 x2 x3 x4 s) := by
  intro x0 x1 x2 x3 x4 s
  unfold flushLine
  try dsimp only
  with_reducible repeat' first
    | apply Keeps.refl | assumption | apply Keeps.ite | apply KeepsO.ite | apply KeepsO.ofNone | apply KeepsO.ofSome
    | apply KeepsO.map | apply KeepsO.mapP | apply KeepsO.mapOf | apply KeepsP.ite | apply KeepsP.ofNone
    | apply KeepsP.ofSome | apply KeepsP.map | apply KeepsP.mapO | (apply Keeps.after; apply keeps_updLine)
    | (apply KeepsO.after; apply keeps_newEntry) | intro _

theorem keeps_opLine : ∀ x0 x1 x2 s, KeepsP s (opLine x0 x1 x2 s) := by
  intro x0 x1 x2 s
  unfold opLine
  try dsimp only
  with_reducible repeat' first
    | apply Keeps.refl | assumption | apply Keeps.ite | apply Keeps.ite2 | apply KeepsO.ite | apply KeepsO.ofNone
    | apply KeepsO.ofSome | apply KeepsO.map | apply KeepsO.bind | apply KeepsO.mapP | apply KeepsO.mapOf
    | apply KeepsP.ite | apply KeepsP.ofNone | apply KeepsP.ofSome | apply KeepsP.map | apply KeepsP.mapO
    | fail_if_no_progress apply Keeps.upd | (apply KeepsO.of; assumption) | (apply KeepsP.of; assumption)
    | apply KeepsO.getD
    | (apply Keeps.after; first | apply keeps_settleLine | apply keeps_when | apply keeps_bumpWrap | apply keeps_updLine | apply keeps_discardEntry)
    | (apply KeepsO.after; first | apply keeps_prefetchLine | apply keeps_newEntry)
    | (apply KeepsP.after; apply keeps_flushLine) | intro _ | split

theorem keeps_opRun : ∀ h f c n s, Keeps s (opRun h f c n s) := by
  intro h f c n
  induction n with
  | zero => intro s; exact .refl s
  | succ n ih =>
    intro s
    have nx : ∀ (o : MaintOp) (t : State), Keeps t (opRun h f c n (setMaint h f { maintAt t h f with run := some o } t)) :=
      fun o t => Keeps.after (ih _) (keeps_setMaint _ _ _ _)
    unfold opRun
    dsimp only
    split
    · exact .refl s
    · split
      · exact .refl s
      · split
        · exact .refl s
        · split
          · exact nx _ _
          · split
            · exact nx _ _
            · split
              · exact Keeps.snd ‹_› (keeps_opCoherent _ _ _ _)
              · rename_i s1 e
                have h1 : Keeps s s1 := Keeps.snd e (keeps_opCoherent _ _ _ _)
                split
                · exact Keeps.after (keeps_setMaint _ _ _ _) h1
                · exact Keeps.after (nx _ _) (Keeps.after (KeepsP.of ‹_› (keeps_opLine _ _ _ _)) h1)

theorem keeps_noteWayFunc : ∀ x0 s, Keeps s (noteWayFunc x0 s) := by
  intro x0 s
  unfold noteWayFunc
  try dsimp only
  with_reducible repeat' first
    | apply Keeps.refl | assumption | apply Keeps.ite | intro _ | split | dsimp only | (apply padSame; assumption)
    | fail_if_no_progress apply Keeps.updMem

theorem keeps_wayMapAct : ∀ x0 x1 s, Keeps s (wayMapAct x0 x1 s) := by
  intro x0 x1 s
  unfold wayMapAct
  try dsimp only
  with_reducible repeat' first
    | apply Keeps.refl | assumption | apply Keeps.ite | apply Keeps.ite2 | fail_if_no_progress apply Keeps.upd
    | (apply Keeps.after; first | apply keeps_noteWayFunc | apply keeps_rput)

theorem keeps_doWayMapWrite : ∀ x0 x1 x2 x3 s, Keeps s (doWayMapWrite x0 x1 x2 x3 s) := by
  intro x0 x1 x2 x3 s
  unfold doWayMapWrite
  try dsimp only
  with_reducible repeat' first
    | apply Keeps.refl | (apply Keeps.after; first | apply keeps_regStore | apply keeps_wayMapAct) | intro _

theorem keeps_doWayZeroDone : ∀ x0 x1 s, Keeps s (doWayZeroDone x0 x1 s) := by
  intro x0 x1 s
  unfold doWayZeroDone
  try dsimp only
  with_reducible repeat' first
    | apply Keeps.refl | assumption | intro _ | split | dsimp only | (apply padFilter; assumption)
    | fail_if_no_progress apply Keeps.updMem

theorem keeps_doMaintFailTimeout : ∀ x0 x1 s, Keeps s (doMaintFailTimeout x0 x1 s) := by
  intro x0 x1 s
  unfold doMaintFailTimeout
  try dsimp only
  with_reducible repeat' first
    | apply Keeps.refl | (apply Keeps.after; first | apply keeps_atTime | apply keeps_setMaint) | split

theorem keeps_doSegMapWrite : ∀ x0 x1 x2 x3 s, Keeps s (doSegMapWrite x0 x1 x2 x3 s) := by
  intro x0 x1 x2 x3 s
  unfold doSegMapWrite
  try dsimp only
  with_reducible repeat' first
    | apply Keeps.refl | (apply Keeps.after; first | apply keeps_regStore | apply keeps_segMapAct) | intro _

theorem keeps_partCfgAct : ∀ x0 x1 s, Keeps s (partCfgAct x0 x1 s) := by
  intro x0 x1 s
  unfold partCfgAct
  try dsimp only
  with_reducible repeat' first
    | apply Keeps.refl | (apply Keeps.after; first | apply keeps_forEach | apply keeps_noteWayFunc | apply keeps_rput)
    | intro _

theorem keeps_abandonMaint : ∀ x0 s, Keeps s (abandonMaint x0 s) := by
  intro x0 s
  unfold abandonMaint
  try dsimp only
  with_reducible repeat' first | apply Keeps.refl | (apply Keeps.after; apply keeps_setMaint)

theorem keeps_tgCount : ∀ x0 x1 s, Keeps s (tgCount x0 x1 s) := by
  intro x0 x1 s
  unfold tgCount
  try dsimp only
  with_reducible repeat' first | apply Keeps.refl | apply Keeps.ite | (apply Keeps.after; apply keeps_setChan)

theorem keeps_doRefresh : ∀ x0 s, Keeps s (doRefresh x0 s) := by
  intro x0 s
  unfold doRefresh
  try dsimp only
  with_reducible repeat' first | apply Keeps.refl | apply Keeps.ite | (apply Keeps.after; apply keeps_setChan)

theorem keeps_zeroFill : ∀ x0 s, Keeps s (zeroFill x0 s) := by
  intro x0 s
  unfold zeroFill
  try dsimp only
  with_reducible repeat' first
    | apply Keeps.refl | assumption | intro _ | (apply memFilter; assumption) | fail_if_no_progress apply Keeps.updMem

theorem keeps_bandChange : ∀ x0 x1 s, Keeps s (bandChange x0 x1 s) := by
  intro x0 x1 s
  unfold bandChange
  try dsimp only
  with_reducible repeat' first
    | apply Keeps.refl | apply Keeps.ite
    | (apply Keeps.after; first | apply keeps_setStack | apply keeps_bumpSat | apply keeps_eventD | apply keeps_zSend)

theorem keeps_thermalDrain : ∀ x0 s, Keeps s (thermalDrain x0 s) := by
  intro x0 s
  unfold thermalDrain
  try dsimp only
  with_reducible repeat' first
    | apply Keeps.refl | apply Keeps.ite | (apply Keeps.after; first | apply keeps_setStack | apply keeps_bandChange)

theorem keeps_doTempReading : ∀ x0 x1 s, Keeps s (doTempReading x0 x1 s) := by
  intro x0 x1 s
  unfold doTempReading
  try dsimp only
  with_reducible repeat' first
    | apply Keeps.refl | apply Keeps.ite
    | (apply Keeps.after; first | apply keeps_setStack | apply keeps_thermalDrain | apply keeps_bandChange)

theorem keeps_noteRecal : ∀ x0 x1 s, Keeps s (noteRecal x0 x1 s) := by
  intro x0 x1 s
  unfold noteRecal
  try dsimp only
  with_reducible repeat' first | apply Keeps.refl | apply Keeps.ite | (apply Keeps.after; apply keeps_setChan)

theorem keeps_afterChan : ∀ x0 s, Keeps s (afterChan x0 s) := by
  intro x0 s
  unfold afterChan
  try dsimp only
  with_reducible repeat' first
    | apply Keeps.refl | (apply Keeps.after; first | apply keeps_redriveSlice | apply keeps_retryStalled)

theorem keeps_performKind : ∀ x0 x1 x2 x3 s, Keeps s (performKind x0 x1 x2 x3 s) := by
  intro x0 x1 x2 x3 s
  unfold performKind
  try dsimp only
  with_reducible repeat' first
    | apply Keeps.refl | assumption | apply Keeps.ite | apply Keeps.ite2 | fail_if_no_progress apply Keeps.upd
    | (apply Keeps.after; first | apply keeps_afterChan | apply keeps_performGranted) | intro _ | split

theorem keeps_tgWrite : ∀ c i s, Keeps s (tgWrite c i s) := by
  intro c i s
  refine ⟨rfl, rfl, Nat.le_refl _, fun h => ?_, id⟩
  unfold tgWrite
  dsimp only
  split
  · exact dramWrite_wf _ _ _ h
  · exact sidePut_wf _ _ (dramWrite_wf _ _ _ h)

theorem keeps_tgSweep : ∀ x0 x1 x2 x3 s, Keeps s (tgSweep x0 x1 x2 x3 s) := by
  intro x0 x1 x2 x3 s
  fun_induction tgSweep x0 x1 x2 x3 s
  with_reducible repeat' first
    | apply Keeps.refl | assumption | apply Keeps.ite | apply Keeps.ite2 | (apply Keeps.after; assumption)
    | (apply Keeps.after; first | apply keeps_freeBool | apply keeps_when | apply keeps_tgWrite) | intro _

theorem keeps_doWcbAge : ∀ x0 x1 x2 s, Keeps s (doWcbAge x0 x1 x2 s) := by
  intro x0 x1 x2 s
  unfold doWcbAge
  try dsimp only
  with_reducible repeat' first
    | apply Keeps.refl | assumption | apply Keeps.ite | apply Keeps.ite2 | fail_if_no_progress apply Keeps.upd
    | (apply Keeps.after; first | apply keeps_flushWcb | apply keeps_atTime | apply keeps_afterChan | apply keeps_performGranted)
    | intro _ | split

theorem keeps_tgStop : ∀ x0 s, Keeps s (tgStop x0 s) := by
  intro x0 s
  unfold tgStop
  try dsimp only
  with_reducible repeat' first
    | apply Keeps.refl | assumption | apply Keeps.ite | apply Keeps.ite2
    | (apply Keeps.after; first | apply keeps_tgSweep | apply keeps_freeNat | apply keeps_setChan)

theorem keeps_tgGoAct : ∀ x0 x1 s, Keeps s (tgGoAct x0 x1 s) := by
  intro x0 x1 s
  unfold tgGoAct
  try dsimp only
  with_reducible repeat' first
    | apply Keeps.refl | assumption | apply Keeps.ite | apply Keeps.ite2 | fail_if_no_progress apply Keeps.upd
    | (apply Keeps.after; first | apply keeps_tgStop | apply keeps_ruleEvent | apply keeps_setChan)

theorem keeps_tgInline : ∀ x0 x1 s, Keeps s (tgInline x0 x1 s) := by
  intro x0 x1 s
  unfold tgInline
  try dsimp only
  with_reducible repeat' first
    | apply Keeps.refl | assumption | apply Keeps.ite | apply Keeps.ite2
    | (apply Keeps.after; first | apply keeps_forEach | apply keeps_checkedRead | apply keeps_tgCount) | intro _

theorem keeps_failRead : ∀ x0 x1 s, Keeps s (failRead x0 x1 s) := by
  intro x0 x1 s
  unfold failRead
  try dsimp only
  with_reducible repeat' first
    | apply Keeps.refl | assumption | apply Keeps.ite | apply Keeps.ite2 | fail_if_no_progress apply Keeps.upd
    | (apply Keeps.after; first | apply keeps_fillArrive | apply keeps_bumpSat) | intro _ | split

theorem keeps_failBlocked : ∀ x0 s, Keeps s (failBlocked x0 s) := by
  intro x0 s
  unfold failBlocked
  try dsimp only
  with_reducible repeat' first
    | apply Keeps.refl | apply Keeps.ite
    | (apply Keeps.after; first | apply keeps_forEach | apply keeps_bumpSat | apply keeps_answerError | apply keeps_putTx | apply keeps_drainLineQ | apply keeps_holdRecords)
    | intro _ | split

theorem keeps_doHoldExpire : ∀ x0 s, Keeps s (doHoldExpire x0 s) := by
  intro x0 s
  unfold doHoldExpire
  try dsimp only
  with_reducible repeat' first
    | apply Keeps.refl | assumption | apply Keeps.ite | apply Keeps.ite2
    | (apply Keeps.after; first | apply keeps_atTime | apply keeps_setChan | apply keeps_forEach | apply keeps_failRead | apply keeps_holdRecords | apply keeps_failAcc | apply keeps_bumpSat | apply keeps_retryStalled | apply keeps_failBlocked | apply keeps_foldl | apply keeps_foldl2)
    | intro _ | split | dsimp only | (apply padSame; assumption) | fail_if_no_progress apply Keeps.updMem

theorem keeps_excludeStack : ∀ x0 x1 x2 s, Keeps s (excludeStack x0 x1 x2 s) := by
  intro x0 x1 x2 s
  unfold excludeStack
  try dsimp only
  with_reducible repeat' first | apply Keeps.refl | (apply Keeps.after; first | apply keeps_setStack | apply keeps_eventD)

theorem keeps_laneRepairs : ∀ x0 x1 s, Keeps s (laneRepairs x0 x1 s) := by
  intro x0 x1 s
  unfold laneRepairs
  try dsimp only
  with_reducible repeat' first
    | apply Keeps.refl | (apply Keeps.after; first | apply keeps_forEach | apply keeps_eventD | apply keeps_setChan)
    | intro _

theorem keeps_enterService : ∀ x0 x1 s, Keeps s (enterService x0 x1 s) := by
  intro x0 x1 s
  unfold enterService
  try dsimp only
  with_reducible repeat' first
    | apply Keeps.refl
    | (apply Keeps.after; first | apply keeps_zeroFill | apply keeps_laneRepairs | apply keeps_setStack | apply keeps_forEach | apply keeps_setChan)
    | intro _

theorem keeps_rebuildRow : ∀ x0 x1 x2 s, Keeps s (rebuildRow x0 x1 x2 s) := by
  intro x0 x1 x2 s
  unfold rebuildRow
  try dsimp only
  with_reducible repeat' first
    | apply Keeps.refl | assumption | apply Keeps.ite | apply Keeps.ite2 | fail_if_no_progress apply Keeps.upd | intro _
    | split | (apply Keeps.after; first | apply keeps_setChan | apply keeps_listGranules)

theorem keeps_rebuildRows : ∀ x0 x1 s, Keeps s (rebuildRows x0 x1 s) := by
  intro x0 x1 s
  unfold rebuildRows
  try dsimp only
  with_reducible repeat' first
    | apply Keeps.refl | assumption | apply Keeps.ite | apply Keeps.ite2
    | (apply Keeps.after; first | apply keeps_setStack | apply keeps_forEach | apply keeps_setChan | apply keeps_rebuildRow | apply keeps_foldl | apply keeps_foldl2)
    | intro _ | split | dsimp only | dsimp +zetaDelta only | (apply memSame; assumption)
    | fail_if_no_progress apply Keeps.updMem

theorem keeps_refuseBase : ∀ s, Keeps s (refuseBase s) :=
  fun _ => ⟨rfl, rfl, Nat.le_refl _, fun _ => rfl, id⟩

theorem keeps_doStackTrain : ∀ x0 x1 s, Keeps s (doStackTrain x0 x1 s) := by
  intro x0 x1 s
  unfold doStackTrain
  try dsimp only
  with_reducible repeat' first
    | apply Keeps.refl | assumption | apply Keeps.ite | apply Keeps.ite2 | fail_if_no_progress apply Keeps.upd
    | (apply Keeps.after; first | apply keeps_setStack | apply keeps_excludeStack | apply keeps_enterService | apply keeps_rebuildRows | apply keeps_refuseBase)
    | intro _ | split

theorem keeps_doTgDone : ∀ x0 x1 s, Keeps s (doTgDone x0 x1 s) := by
  intro x0 x1 s
  unfold doTgDone
  try dsimp only
  with_reducible repeat' first
    | apply Keeps.refl | assumption | apply Keeps.ite | apply Keeps.ite2 | fail_if_no_progress apply Keeps.upd
    | (apply Keeps.after; first | apply keeps_tgCount | apply keeps_tgSweep | apply keeps_tgInline | apply keeps_setChan)

theorem keeps_resumeStack : ∀ x0 s, Keeps s (resumeStack x0 s) := by
  intro x0 s
  unfold resumeStack
  try dsimp only
  with_reducible repeat' first
    | apply Keeps.refl
    | (apply Keeps.after; first | apply keeps_redriveStack | apply keeps_forEach | apply keeps_retryStalled) | intro _

theorem keeps_doScrub : ∀ x0 x1 s, Keeps s (doScrub x0 x1 s) := by
  intro x0 x1 s
  unfold doScrub
  try dsimp only
  with_reducible repeat' first
    | apply Keeps.refl | assumption | apply Keeps.ite | apply Keeps.ite2 | fail_if_no_progress apply Keeps.upd
    | (apply Keeps.after; first | apply keeps_setChan | apply keeps_enqueue | apply keeps_flushWcb | apply keeps_performGranted | apply keeps_freeNat | apply keeps_eventD)

theorem keeps_doThermalReturn : ∀ x0 s, Keeps s (doThermalReturn x0 s) := by
  intro x0 s
  unfold doThermalReturn
  try dsimp only
  with_reducible repeat' first
    | apply Keeps.refl | apply Keeps.ite
    | (apply Keeps.after; first | apply keeps_atTime | apply keeps_setStack | apply keeps_resumeStack | apply keeps_bandChange)
    | split

theorem keeps_loseStack : ∀ x0 x1 s, Keeps s (loseStack x0 x1 s) := by
  intro x0 x1 s
  unfold loseStack
  try dsimp only
  with_reducible repeat' first
    | apply Keeps.refl | assumption | apply Keeps.ite
    | (apply Keeps.after; first | apply keeps_setStack | apply keeps_forEach | apply keeps_setChan | apply keeps_failRead | apply keeps_fillArrive | apply keeps_failAcc | apply keeps_eventD | apply keeps_answerError | apply keeps_putTx | apply keeps_drainLineQ)
    | intro _ | split | dsimp only | (apply padSame; assumption) | fail_if_no_progress apply Keeps.updMem

theorem keeps_doSlateComplete : ∀ x0 s, Keeps s (doSlateComplete x0 s) := by
  intro x0 s
  unfold doSlateComplete
  try dsimp only
  with_reducible repeat' first | apply Keeps.refl | apply Keeps.ite | (apply Keeps.after; apply keeps_setSlate)

theorem keeps_doSlateStream : ∀ x0 s, Keeps s (doSlateStream x0 s) := by
  intro x0 s
  unfold doSlateStream
  try dsimp only
  with_reducible repeat' first
    | apply Keeps.refl | (apply Keeps.after; first | apply keeps_atTime | apply keeps_setSlate) | split

theorem keeps_slateRelease : ∀ x0 x1 s, Keeps s (slateRelease x0 x1 s) := by
  intro x0 x1 s
  unfold slateRelease
  try dsimp only
  with_reducible repeat' first
    | apply Keeps.refl | assumption | apply Keeps.ite | apply Keeps.ite2 | fail_if_no_progress apply Keeps.upd
    | (apply Keeps.after; first | apply keeps_setSlate | apply keeps_slateResume)

theorem keeps_failSlate : ∀ x0 x1 s, Keeps s (failSlate x0 x1 s) := by
  intro x0 x1 s
  unfold failSlate
  try dsimp only
  with_reducible repeat' first
    | apply Keeps.refl | assumption | apply Keeps.ite | apply Keeps.ite2 | fail_if_no_progress apply Keeps.upd
    | (apply Keeps.after; first | apply keeps_setSlate | apply keeps_when | apply keeps_flipEpoch | apply keeps_event | apply keeps_slateRelease)
    | intro _

theorem keeps_failGranule : ∀ x0 x1 s, Keeps s (failGranule x0 x1 s) := by
  intro x0 x1 s
  unfold failGranule
  try dsimp only
  with_reducible repeat' first
    | apply Keeps.refl | (apply Keeps.after; first | apply keeps_failSlate | apply keeps_setSlate)

theorem keeps_doSlatePoint : ∀ x0 x1 s, Keeps s (doSlatePoint x0 x1 s) := by
  intro x0 x1 s
  unfold doSlatePoint
  try dsimp only
  with_reducible repeat' first | apply Keeps.refl | apply Keeps.ite | (apply Keeps.after; apply keeps_reachPoint) | split

theorem keeps_slateDone : ∀ x0 x1 s, Keeps s (slateDone x0 x1 s) := by
  intro x0 x1 s
  unfold slateDone
  try dsimp only
  with_reducible repeat' first
    | apply Keeps.refl | (apply Keeps.after; first | apply keeps_setSlate | apply keeps_slateRelease)

end Sys2Proof.Machine
end

