-- ==== Sys2Proof/Laws/KeepsFabric.lean ====
section
/-! SUPPORT. What the operations of the cells, the arrays and the streams keep (`Keeps`). -/

namespace Sys2Proof.Machine

open Sys2Proof

theorem keeps_residueStale : ∀ x0 x1 x2 x3 s, Keeps s (residueStale x0 x1 x2 x3 s) := by
  intro x0 x1 x2 x3 s
  unfold residueStale
  try dsimp only
  with_reducible repeat' first | apply Keeps.refl | apply Keeps.ite | (apply Keeps.after; apply keeps_setCtx)

theorem keeps_setPhys : ∀ x0 x1 s, Keeps s (setPhys x0 x1 s) := by
  intro x0 x1 s
  unfold setPhys
  try dsimp only
  with_reducible repeat' first | apply Keeps.refl | fail_if_no_progress apply Keeps.upd

theorem keeps_setCell : ∀ x0 x1 s, Keeps s (setCell x0 x1 s) := by
  intro x0 x1 s
  unfold setCell
  try dsimp only
  with_reducible repeat' first | apply Keeps.refl | fail_if_no_progress apply Keeps.upd

theorem keeps_modCell : ∀ x0 x1 s, Keeps s (modCell x0 x1 s) := by
  intro x0 x1 s
  unfold modCell
  try dsimp only
  with_reducible repeat' first | apply Keeps.refl | (apply Keeps.after; apply keeps_setCell)

theorem keeps_lsCe : ∀ x0 x1 x2 x3 x4 s, Keeps s (lsCe x0 x1 x2 x3 x4 s) := by
  intro x0 x1 x2 x3 x4 s
  unfold lsCe
  try dsimp only
  with_reducible repeat' first
    | apply Keeps.refl | apply Keeps.ite | (apply Keeps.after; first | apply keeps_modCell | apply keeps_event)

theorem keeps_noteEngLsErrs : ∀ x0 x1 x2 x3 x4 s, Keeps s (noteEngLsErrs x0 x1 x2 x3 x4 s) := by
  intro x0 x1 x2 x3 x4 s
  unfold noteEngLsErrs
  try dsimp only
  with_reducible repeat' first
    | apply Keeps.refl
    | (apply Keeps.after; first | apply keeps_forEach | apply keeps_lsCe | apply keeps_eventD | apply keeps_modCell)
    | intro _ | split

theorem keeps_mapOut : ∀ x0 x1 x2 x3 s, Keeps s (mapOut x0 x1 x2 x3 s) := by
  intro x0 x1 x2 x3 s
  unfold mapOut
  try dsimp only
  with_reducible repeat' first
    | apply Keeps.refl | apply Keeps.ite | (apply Keeps.after; first | apply keeps_event | apply keeps_setPhys)

theorem keeps_doResidueFault : ∀ x0 x1 x2 x3 s, Keeps s (doResidueFault x0 x1 x2 x3 s) := by
  intro x0 x1 x2 x3 s
  unfold doResidueFault
  try dsimp only
  with_reducible repeat' first
    | apply Keeps.refl | assumption | apply Keeps.ite | apply Keeps.ite2 | fail_if_no_progress apply Keeps.upd
    | (apply Keeps.after; first | apply keeps_faultCtx | apply keeps_eventD | apply keeps_modCell | apply keeps_when | apply keeps_forEach | apply keeps_residueStale | apply keeps_mapOut)
    | intro _ | split

theorem keeps_setFlags : ∀ x0 x1 x2 x3 x4 x5 s, Keeps s (setFlags x0 x1 x2 x3 x4 x5 s) := by
  intro x0 x1 x2 x3 x4 x5 s
  unfold setFlags
  try dsimp only
  with_reducible repeat' first
    | apply Keeps.refl | apply Keeps.ite
    | (apply Keeps.after; first | apply keeps_setCell | apply keeps_event | apply keeps_setCtx)

theorem keeps_residueFail : ∀ x0 x1 x2 s, Keeps s (residueFail x0 x1 x2 s) := by
  intro x0 x1 x2 s
  unfold residueFail
  try dsimp only
  with_reducible repeat' first | apply Keeps.refl | (apply Keeps.after; apply keeps_modCell)

theorem keeps_wordDone : ∀ x0 x1 x2 x3 s, Keeps s (wordDone x0 x1 x2 x3 s) := by
  intro x0 x1 x2 x3 s
  unfold wordDone
  try dsimp only
  with_reducible repeat' first | apply Keeps.refl | (apply Keeps.after; apply keeps_setCtx)

theorem keeps_setVec : ∀ x0 x1 x2 s, Keeps s (setVec x0 x1 x2 s) := by
  intro x0 x1 x2 s
  unfold setVec
  try dsimp only
  with_reducible repeat' first | apply Keeps.refl | fail_if_no_progress apply Keeps.upd

theorem keeps_countWaits : ∀ x0 x1 s, Keeps s (countWaits x0 x1 s) := by
  intro x0 x1 s
  unfold countWaits
  try dsimp only
  with_reducible repeat' first
    | apply Keeps.refl | assumption | apply Keeps.ite | apply Keeps.ite2
    | (apply Keeps.after; first | apply keeps_freeNat | apply keeps_modCell)

theorem keeps_cellFault : ∀ x0 x1 x2 x3 x4 s, Keeps s (cellFault x0 x1 x2 x3 x4 s) := by
  intro x0 x1 x2 x3 x4 s
  unfold cellFault
  try dsimp only
  with_reducible repeat' first
    | apply Keeps.refl | apply Keeps.ite | (apply Keeps.after; first | apply keeps_faultCtx | apply keeps_eventD)

theorem keeps_lsUe : ∀ x0 x1 x2 x3 x4 s, Keeps s (lsUe x0 x1 x2 x3 x4 s) := by
  intro x0 x1 x2 x3 x4 s
  unfold lsUe
  try dsimp only
  with_reducible repeat' first
    | apply Keeps.refl | assumption | apply Keeps.ite | apply Keeps.ite2 | fail_if_no_progress apply Keeps.upd
    | (apply Keeps.after; first | apply keeps_cellFault | apply keeps_modCell)

theorem keeps_noteLsErrs : ∀ x0 x1 x2 x3 x4 x5 s, Keeps s (noteLsErrs x0 x1 x2 x3 x4 x5 s) := by
  intro x0 x1 x2 x3 x4 x5 s
  unfold noteLsErrs
  try dsimp only
  with_reducible repeat' first
    | apply Keeps.refl | assumption | apply Keeps.ite | apply Keeps.ite2 | fail_if_no_progress apply Keeps.upd
    | (apply Keeps.after; first | apply keeps_forEach | apply keeps_lsCe | apply keeps_lsUe) | intro _ | split

theorem keeps_doVector : ∀ x0 x1 x2 x3 x4 x5 x6 s, Keeps s (doVector x0 x1 x2 x3 x4 x5 x6 s) := by
  intro x0 x1 x2 x3 x4 x5 x6 s
  unfold doVector
  try dsimp only
  with_reducible repeat' first
    | apply Keeps.refl | assumption | apply Keeps.ite | apply Keeps.ite2 | fail_if_no_progress apply Keeps.upd
    | (apply Keeps.after; first | apply keeps_when | apply keeps_residueFail | apply keeps_noteProgress | apply keeps_wordDone | apply keeps_setVec | apply keeps_setCell | apply keeps_countWaits | apply keeps_noteLsErrs | apply keeps_setFlags)
    | intro _ | split

theorem keeps_doLsWriteback : ∀ x0 x1 x2 x3 s, Keeps s (doLsWriteback x0 x1 x2 x3 s) := by
  intro x0 x1 x2 x3 s
  unfold doLsWriteback
  try dsimp only
  with_reducible repeat' first | apply Keeps.refl | (apply Keeps.after; apply keeps_modCell)

theorem keeps_doMacIssue : ∀ x0 x1 x2 x3 s, Keeps s (doMacIssue x0 x1 x2 x3 s) := by
  intro x0 x1 x2 x3 s
  unfold doMacIssue
  try dsimp only
  with_reducible repeat' first
    | apply Keeps.refl | assumption | apply Keeps.ite | apply Keeps.ite2 | fail_if_no_progress apply Keeps.upd
    | (apply Keeps.after; first | apply keeps_noteProgress | apply keeps_wordDone | apply keeps_when | apply keeps_residueFail | apply keeps_noteLsErrs | apply keeps_setFlags | apply keeps_setCell)
    | intro _ | split

theorem keeps_stepOn : ∀ x0 x1 x2 s, Keeps s (stepOn x0 x1 x2 s) := by
  intro x0 x1 x2 s
  unfold stepOn
  try dsimp only
  with_reducible repeat' first
    | apply Keeps.refl | (apply Keeps.after; first | apply keeps_noteProgress | apply keeps_setCtx)

theorem keeps_doCueSignal : ∀ x0 x1 s, Keeps s (doCueSignal x0 x1 s) := by
  intro x0 x1 s
  unfold doCueSignal
  try dsimp only
  with_reducible repeat' first
    | apply Keeps.refl | apply Keeps.ite
    | (apply Keeps.after; first | apply keeps_faultCtx | apply keeps_signalFrom | apply keeps_stepOn) | split

theorem keeps_emptyCtx : ∀ x0 x1 x2 s, Keeps s (emptyCtx x0 x1 x2 s) := by
  intro x0 x1 x2 s
  unfold emptyCtx
  try dsimp only
  with_reducible repeat' first | apply Keeps.refl | (apply Keeps.after; apply keeps_setCtx)

theorem keeps_wakeCluster : ∀ x0 x1 s, Keeps s (wakeCluster x0 x1 s) := by
  intro x0 x1 s
  unfold wakeCluster
  try dsimp only
  with_reducible repeat' first
    | apply Keeps.refl | apply Keeps.ite | (apply Keeps.after; first | apply keeps_modDom | apply keeps_atTime)

theorem keeps_moveToSpare : ∀ x0 x1 x2 s, Keeps s (moveToSpare x0 x1 x2 s) := by
  intro x0 x1 x2 s
  unfold moveToSpare
  try dsimp only
  with_reducible repeat' first
    | apply Keeps.refl | assumption | apply Keeps.ite | apply Keeps.ite2 | fail_if_no_progress apply Keeps.upd
    | (apply Keeps.after; first | apply keeps_forEach | apply keeps_emptyCtx | apply keeps_setPhys | apply keeps_wakeCluster | apply keeps_event)
    | intro _ | split

theorem keeps_beginWrite : ∀ x0 x1 x2 x3 s, Keeps s (beginWrite x0 x1 x2 x3 s) := by
  intro x0 x1 x2 x3 s
  unfold beginWrite
  try dsimp only
  with_reducible repeat' first
    | apply Keeps.refl | apply Keeps.ite
    | (apply Keeps.after; first | apply keeps_forEach | apply keeps_emptyCtx | apply keeps_moveToSpare | apply keeps_setCtx)
    | intro _

theorem keeps_doDelayExpire : ∀ x0 x1 s, Keeps s (doDelayExpire x0 x1 s) := by
  intro x0 x1 s
  unfold doDelayExpire
  try dsimp only
  with_reducible repeat' first
    | apply Keeps.refl | (apply Keeps.after; first | apply keeps_stepOn | apply keeps_atTime) | split

theorem keeps_takeFailed : ∀ x0 x1 s, Keeps s (takeFailed x0 x1 s).2 := by
  intro x0 x1 s
  unfold takeFailed
  try dsimp only
  with_reducible repeat' first
    | apply Keeps.refl | assumption | apply Keeps.ite | apply Keeps.ite2 | (apply Keeps.after; apply keeps_quietClear)
    | split

theorem keeps_streamPut : ∀ x0 x1 x2 x3 s, Keeps s (streamPut x0 x1 x2 x3 s).2 := by
  intro x0 x1 x2 x3 s
  unfold streamPut
  try dsimp only
  with_reducible repeat' first
    | apply Keeps.refl | assumption | apply Keeps.ite | apply Keeps.ite2 | (apply Keeps.snd; assumption)
    | fail_if_no_progress apply Keeps.upd
    | (apply Keeps.after; first | apply keeps_scratchPut | apply keeps_takeFailed | apply keeps_engPut | apply keeps_govEngine)
    | intro _ | split

theorem keeps_ctxResult : ∀ x0 x1 x2 x3 s, Keeps s (ctxResult x0 x1 x2 x3 s) := by
  intro x0 x1 x2 x3 s
  unfold ctxResult
  try dsimp only
  with_reducible repeat' first | apply Keeps.refl | (apply Keeps.after; apply keeps_setCtx)

theorem keeps_failLoad : ∀ x0 x1 x2 x3 s, Keeps s (failLoad x0 x1 x2 x3 s) := by
  intro x0 x1 x2 x3 s
  unfold failLoad
  try dsimp only
  with_reducible repeat' first
    | apply Keeps.refl | (apply Keeps.after; first | apply keeps_ctxResult | apply keeps_emptyCtx)

theorem keeps_readSection : ∀ x0 x1 x2 s, Keeps s (readSection x0 x1 x2 s).2 := by
  intro x0 x1 x2 s
  unfold readSection
  try dsimp only
  with_reducible repeat' first
    | apply Keeps.refl | assumption | (apply Keeps.snd; assumption) | (apply Keeps.after; apply keeps_engBytes) | split

theorem keeps_readProgs : ∀ x0 x1 x2 x3 x4 x5 x6 s, Keeps s (readProgs x0 x1 x2 x3 x4 x5 x6 s).2 := by
  intro x0 x1 x2 x3 x4 x5 x6 s
  unfold readProgs
  try dsimp only
  with_reducible repeat' first
    | apply Keeps.refl | assumption | apply Keeps.ite | apply Keeps.ite2 | (apply Keeps.snd; assumption)
    | (apply Keeps.after; first | apply keeps_readSection | apply keeps_foldl | apply keeps_foldl2) | intro _ | split

theorem keeps_readImage : ∀ x0 x1 x2 s, Keeps s (readImage x0 x1 x2 s).2 := by
  intro x0 x1 x2 s
  unfold readImage
  try dsimp only
  with_reducible repeat' first
    | apply Keeps.refl | assumption | apply Keeps.ite | apply Keeps.ite2 | (apply Keeps.snd; assumption)
    | fail_if_no_progress apply Keeps.upd | (apply Keeps.after; first | apply keeps_readSection | apply keeps_readProgs)
    | intro _ | split

theorem keeps_loadChecks : ∀ x0 x1 x2 x3 s, Keeps s (loadChecks x0 x1 x2 x3 s) := by
  intro x0 x1 x2 x3 s
  unfold loadChecks
  try dsimp only
  with_reducible repeat' first
    | apply Keeps.refl | assumption | apply Keeps.ite | apply Keeps.ite2 | (apply Keeps.snd; assumption)
    | (apply Keeps.after; first | apply keeps_failLoad | apply keeps_readSection | apply keeps_readImage | apply keeps_beginWrite)
    | split

theorem keeps_doLoad : ∀ x0 x1 x2 s, Keeps s (doLoad x0 x1 x2 s) := by
  intro x0 x1 x2 s
  fun_cases doLoad x0 x1 x2 s
  with_reducible repeat' first
    | apply Keeps.refl | assumption | apply Keeps.ite | apply Keeps.ite2 | fail_if_no_progress apply Keeps.upd
    | (apply Keeps.after; first | apply keeps_ctxResult | apply keeps_loadChecks | apply keeps_wakeCluster | apply keeps_setCtx)

theorem keeps_clearPorts : ∀ x0 x1 s, Keeps s (clearPorts x0 x1 s) := by
  intro x0 x1 s
  unfold clearPorts
  try dsimp only
  with_reducible repeat' first | apply Keeps.refl | fail_if_no_progress apply Keeps.upd

theorem keeps_discardWords : ∀ x0 x1 s, Keeps s (discardWords x0 x1 s) := by
  intro x0 x1 s
  unfold discardWords
  try dsimp only
  with_reducible repeat' first
    | apply Keeps.refl | apply Keeps.ite | fail_if_no_progress apply Keeps.upd | (apply Keeps.after; apply keeps_eventD)

theorem keeps_startCtx : ∀ x0 x1 x2 s, Keeps s (startCtx x0 x1 x2 s) := by
  intro x0 x1 x2 s
  unfold startCtx
  try dsimp only
  with_reducible repeat' first
    | apply Keeps.refl | assumption | apply Keeps.ite | apply Keeps.ite2 | fail_if_no_progress apply Keeps.upd
    | (apply Keeps.after; first | apply keeps_wakeCluster | apply keeps_clearPorts | apply keeps_discardWords | apply keeps_noteProgress | apply keeps_setCtx)

theorem keeps_doStart : ∀ x0 x1 x2 s, Keeps s (doStart x0 x1 x2 s) := by
  intro x0 x1 x2 s
  unfold doStart
  try dsimp only
  with_reducible repeat' first
    | apply Keeps.refl | apply Keeps.ite | (apply Keeps.after; first | apply keeps_ctxResult | apply keeps_startCtx)

theorem keeps_doStop : ∀ x0 x1 x2 s, Keeps s (doStop x0 x1 x2 s) := by
  intro x0 x1 x2 s
  unfold doStop
  try dsimp only
  with_reducible repeat' first
    | apply Keeps.refl | apply Keeps.ite | (apply Keeps.after; first | apply keeps_setCtx | apply keeps_ctxResult)

theorem keeps_doDrop : ∀ x0 x1 x2 s, Keeps s (doDrop x0 x1 x2 s) := by
  intro x0 x1 x2 s
  unfold doDrop
  try dsimp only
  with_reducible repeat' first
    | apply Keeps.refl | apply Keeps.ite | (apply Keeps.after; first | apply keeps_ctxResult | apply keeps_emptyCtx)

theorem keeps_ctxCtrlAct : ∀ x0 x1 x2 x3 s, Keeps s (ctxCtrlAct x0 x1 x2 x3 s) := by
  intro x0 x1 x2 x3 s
  fun_cases ctxCtrlAct x0 x1 x2 x3 s
  with_reducible repeat' first
    | apply Keeps.refl | assumption | apply Keeps.ite
    | (apply Keeps.after; first | apply keeps_doLoad | apply keeps_doStart | apply keeps_doStop | apply keeps_doDrop)

theorem keeps_ctxAction : ∀ x0 x1 x2 x3 x4 s, Keeps s (ctxAction x0 x1 x2 x3 x4 s) := by
  intro x0 x1 x2 x3 x4 s
  unfold ctxAction
  try dsimp only
  with_reducible repeat' first
    | apply Keeps.refl | (apply Keeps.after; first | apply keeps_regStore | apply keeps_ctxCtrlAct) | intro _

theorem keeps_swPar : ∀ x0 x1 x2 x3 x4 s, Keeps s (swPar x0 x1 x2 x3 x4 s) := by
  intro x0 x1 x2 x3 x4 s
  unfold swPar
  try dsimp only
  with_reducible repeat' first
    | apply Keeps.refl | assumption | apply Keeps.ite | apply Keeps.ite2 | fail_if_no_progress apply Keeps.upd
    | (apply Keeps.after; first | apply keeps_cellFault | apply keeps_modCell)

theorem keeps_streamStop : ∀ x0 x1 x2 x3 x4 x5 s, Keeps s (streamStop x0 x1 x2 x3 x4 x5 s) := by
  intro x0 x1 x2 x3 x4 x5 s
  unfold streamStop
  try dsimp only
  with_reducible repeat' first | apply Keeps.refl | (apply Keeps.after; first | apply keeps_cfgEvent | apply keeps_setCtx)

theorem keeps_setPortQ : ∀ x0 x1 x2 x3 s, Keeps s (setPortQ x0 x1 x2 x3 s) := by
  intro x0 x1 x2 x3 s
  unfold setPortQ
  try dsimp only
  with_reducible repeat' first | apply Keeps.refl | fail_if_no_progress apply Keeps.upd

theorem keeps_streamOn : ∀ x0 x1 x2 x3 x4 x5 x6 s, Keeps s (streamOn x0 x1 x2 x3 x4 x5 x6 s) := by
  intro x0 x1 x2 x3 x4 x5 x6 s
  unfold streamOn
  try dsimp only
  with_reducible repeat' first
    | apply Keeps.refl | apply Keeps.ite
    | (apply Keeps.after; first | apply keeps_noteProgress | apply keeps_setCtx | apply keeps_setPortQ)

theorem keeps_doSwitchWord : ∀ x0 x1 x2 x3 x4 x5 s, Keeps s (doSwitchWord x0 x1 x2 x3 x4 x5 s) := by
  intro x0 x1 x2 x3 x4 x5 s
  fun_cases doSwitchWord x0 x1 x2 x3 x4 x5 s
  with_reducible repeat' first
    | apply Keeps.refl | assumption | apply Keeps.ite | apply Keeps.ite2 | (apply Keeps.snd; assumption)
    | (apply Keeps.after; first | apply keeps_when | apply keeps_swPar | apply keeps_noteProgress | apply keeps_setCell | apply keeps_modCell | apply keeps_noteLsErrs | apply keeps_streamPut | apply keeps_streamStop | apply keeps_streamOn)
    | intro _

theorem keeps_placeCells : ∀ x0 x1 x2 x3 x4 x5 s, Keeps s (placeCells x0 x1 x2 x3 x4 x5 s) := by
  intro x0 x1 x2 x3 x4 x5 s
  unfold placeCells
  try dsimp only
  with_reducible repeat' first
    | apply Keeps.refl | assumption
    | (apply Keeps.after; first | apply keeps_forEach | apply keeps_setVec | apply keeps_modCell) | intro _

theorem keeps_doStopTakes : ∀ x0 x1 s, Keeps s (doStopTakes x0 x1 s) := by
  intro x0 x1 s
  unfold doStopTakes
  try dsimp only
  with_reducible repeat' first
    | apply Keeps.refl | apply Keeps.ite | (apply Keeps.after; first | apply keeps_setCtx | apply keeps_withdraw) | split

theorem keeps_doStreamRead : ∀ x0 x1 x2 s, Keeps s (doStreamRead x0 x1 x2 s) := by
  intro x0 x1 x2 s
  have later : ∀ ag p a t, streamGet ag p a s = .later t → Keeps s t := by
    intro ag p a t e
    unfold streamGet at e
    split at e
    · split at e <;> cases e
    · split at e
      · cases e
      · split at e
        · cases e; exact .refl s
        · split at e
          · cases e
          · rename_i h; cases e; exact Keeps.snd h (keeps_engBytes _ _ _ _)
  have word : ∀ ag p a w t, streamGet ag p a s = .word w t → Keeps s t := by
    intro ag p a w t e
    unfold streamGet at e
    split at e
    · split at e
      · have h := (StreamGot.word.inj e).2
        rw [← h]; exact .refl s
      · cases e
    · split at e
      · cases e
      · split at e
        · cases e
        · split at e
          · rename_i h; cases e
            exact Keeps.after (keeps_govEngine _ _ _ _ _ _)
              (Keeps.after (keeps_when (fun _ => keeps_countPoison _ _ _) _) (Keeps.snd h (keeps_engBytes _ _ _ _)))
          · cases e
  unfold doStreamRead
  split
  · exact .refl s
  · dsimp only
    split
    · exact .refl s
    · split
      · exact keeps_streamStop _ _ _ _ _ _ _
      · rename_i t e
        exact later _ _ _ _ e
      · rename_i w t e
        exact Keeps.after (keeps_streamOn _ _ _ _ _ _ _ _) (Keeps.after (keeps_modCell _ _ _) (word _ _ _ _ _ e))

theorem keeps_doStreamWait : ∀ x0 x1 s, Keeps s (doStreamWait x0 x1 s) := by
  intro x0 x1 s
  unfold doStreamWait
  try dsimp only
  with_reducible repeat' first
    | apply Keeps.refl | apply Keeps.ite | (apply Keeps.after; apply keeps_stepOn) | intro _ | split

theorem keeps_doLoadComplete : ∀ x0 x1 x2 s, Keeps s (doLoadComplete x0 x1 x2 s) := by
  intro x0 x1 x2 s
  unfold doLoadComplete
  try dsimp only
  with_reducible repeat' first
    | apply Keeps.refl | assumption | apply Keeps.ite | apply Keeps.ite2 | (apply Keeps.snd; assumption)
    | fail_if_no_progress apply Keeps.upd
    | (apply Keeps.after; first | apply keeps_readSection | apply keeps_ctxResult | apply keeps_emptyCtx | apply keeps_rput | apply keeps_placeCells | apply keeps_setCtx | apply keeps_startCtx | apply keeps_loadChecks)
    | intro _ | split

theorem keeps_cutArrays : ∀ x0 s, Keeps s (cutArrays x0 s) := by
  intro x0 s
  unfold cutArrays
  try dsimp only
  with_reducible repeat' first
    | apply Keeps.refl | apply Keeps.ite | fail_if_no_progress apply Keeps.upd
    | (apply Keeps.after; first | apply keeps_forEach | apply keeps_withdraw | apply keeps_faultCtx | apply keeps_setCtx | apply keeps_clearPorts)
    | intro _

theorem keeps_clusterOwnerAct.ruleEvent' : ∀ x0 x1 s, Keeps s (clusterOwnerAct.ruleEvent' x0 x1 s) := by
  intro x0 x1 s
  unfold clusterOwnerAct.ruleEvent'
  try dsimp only
  with_reducible repeat' first | apply Keeps.refl | (apply Keeps.after; apply keeps_event)

theorem keeps_doLoop : ∀ x0 x1 s, Keeps s (doLoop x0 x1 s) := by
  intro x0 x1 s
  unfold doLoop
  try dsimp only
  with_reducible repeat' first
    | apply Keeps.refl | apply Keeps.ite | (apply Keeps.after; first | apply keeps_stepOn | apply keeps_setCtx) | split

theorem keeps_clusterOwnerAct : ∀ x0 x1 s, Keeps s (clusterOwnerAct x0 x1 s) := by
  intro x0 x1 s
  unfold clusterOwnerAct
  try dsimp only
  with_reducible repeat' first
    | apply Keeps.refl | apply Keeps.ite
    | (apply Keeps.after; first | apply keeps_clusterOwnerAct.ruleEvent' | apply keeps_event | apply keeps_rput)

theorem keeps_returnCells : ∀ x0 x1 s, Keeps s (returnCells x0 x1 s) := by
  intro x0 x1 s
  unfold returnCells
  try dsimp only
  with_reducible repeat' first
    | apply Keeps.refl | fail_if_no_progress apply Keeps.upd
    | (apply Keeps.after; first | apply keeps_forEach | apply keeps_eventD) | intro _

theorem keeps_bootArrays : ∀ x0 x1 s, Keeps s (bootArrays x0 x1 s) := by
  intro x0 x1 s
  unfold bootArrays
  try dsimp only
  with_reducible repeat' first
    | apply Keeps.refl | assumption | apply Keeps.ite | apply Keeps.ite2 | fail_if_no_progress apply Keeps.upd
    | (apply Keeps.after; first | apply keeps_forEach | apply keeps_setPhys | apply keeps_mapOut | apply keeps_returnCells)
    | intro _

theorem keeps_doStallWatchdog : ∀ x0 x1 s, Keeps s (doStallWatchdog x0 x1 s) := by
  intro x0 x1 s
  unfold doStallWatchdog
  try dsimp only
  with_reducible repeat' first
    | apply Keeps.refl | apply Keeps.ite | (apply Keeps.after; first | apply keeps_faultCtx | apply keeps_atTime) | split

theorem keeps_doEnd : ∀ x0 x1 s, Keeps s (doEnd x0 x1 s) := by
  intro x0 x1 s
  unfold doEnd
  try dsimp only
  with_reducible repeat' first
    | apply Keeps.refl | apply Keeps.ite
    | (apply Keeps.after; first | apply keeps_noteProgress | apply keeps_setCtx | apply keeps_startCtx | apply keeps_event)
    | intro _ | split

theorem keeps_enterPhase : ∀ x0 x1 x2 x3 x4 x5 x6 s, Keeps s (enterPhase x0 x1 x2 x3 x4 x5 x6 s) := by
  intro x0 x1 x2 x3 x4 x5 x6 s
  unfold enterPhase
  try dsimp only
  with_reducible repeat' first
    | apply Keeps.refl | assumption | apply Keeps.ite | apply Keeps.ite2 | fail_if_no_progress apply Keeps.upd
    | (apply Keeps.after; first | apply keeps_setCtx | apply keeps_when | apply keeps_residueFail | apply keeps_setFlags | apply keeps_setCell)
    | intro _

theorem keeps_doPhaseEnd : ∀ x0 x1 x2 x3 s, Keeps s (doPhaseEnd x0 x1 x2 x3 s) := by
  intro x0 x1 x2 x3 s
  unfold doPhaseEnd
  try dsimp only
  with_reducible repeat' first
    | apply Keeps.refl
    | (apply Keeps.after; first | apply keeps_noteProgress | apply keeps_setCtx | apply keeps_enterPhase) | split

theorem keeps_doStreamStart : ∀ x0 x1 s, Keeps s (doStreamStart x0 x1 s) := by
  intro x0 x1 s
  unfold doStreamStart
  try dsimp only
  with_reducible repeat' first
    | apply Keeps.refl | apply Keeps.ite
    | (apply Keeps.after; first | apply keeps_stepOn | apply keeps_setPortQ | apply keeps_setCtx) | intro _ | split

theorem keeps_cutCues : ∀ x0 s, Keeps s (cutCues x0 s) := by
  intro x0 s
  unfold cutCues
  try dsimp only
  with_reducible repeat' first
    | apply Keeps.refl | (apply Keeps.after; first | apply keeps_forEach | apply keeps_cueRelease) | intro _

theorem keeps_doPhase : ∀ x0 x1 x2 s, Keeps s (doPhase x0 x1 x2 s) := by
  intro x0 x1 x2 s
  unfold doPhase
  try dsimp only
  with_reducible repeat' first
    | apply Keeps.refl
    | (apply Keeps.after; first | apply keeps_stepOn | apply keeps_setCtx | apply keeps_forEach | apply keeps_enterPhase)
    | intro _ | split

theorem keeps_doDelay : ∀ x0 x1 s, Keeps s (doDelay x0 x1 s) := by
  intro x0 x1 s
  unfold doDelay
  try dsimp only
  with_reducible repeat' first | apply Keeps.refl | (apply Keeps.after; apply keeps_setCtx) | split

theorem keeps_doCueWait : ∀ x0 x1 s, Keeps s (doCueWait x0 x1 s) := by
  intro x0 x1 s
  unfold doCueWait
  try dsimp only
  with_reducible repeat' first
    | apply Keeps.refl | apply Keeps.ite
    | (apply Keeps.after; first | apply keeps_waitFrom | apply keeps_setCtx | apply keeps_faultCtx) | split

theorem keeps_mcPoint : ∀ x0 x1 s, Keeps s (mcPoint x0 x1 s) := by
  intro x0 x1 s
  unfold mcPoint
  try dsimp only
  with_reducible repeat' first
    | apply Keeps.refl | (apply Keeps.after; first | apply keeps_forEach | apply keeps_epochTrigger) | intro _ | split

theorem keeps_mcPut : ∀ x0 x1 s, Keeps s (mcPut x0 x1 s).2 := by
  intro x0 x1 s
  unfold mcPut
  try dsimp only
  with_reducible repeat' first
    | apply Keeps.refl | assumption | apply Keeps.ite | apply Keeps.ite2
    | (apply Keeps.after; first | apply keeps_engStoreAll | apply keeps_mcPoint)

theorem keeps_mcApply : ∀ x0 s, Keeps s (mcApply x0 s).2 := by
  intro x0 s
  unfold mcApply
  try dsimp only
  with_reducible repeat' first
    | apply Keeps.refl | assumption | apply Keeps.ite | apply Keeps.ite2
    | (apply Keeps.after; first | apply keeps_mcPut | apply keeps_doInv | apply keeps_doRecall | apply keeps_doDowngrade | apply keeps_doCollect | apply keeps_countLink)
    | split

theorem keeps_mcLocalGo : ∀ x0 x1 x2 x3 s, Keeps s (mcLocalGo x0 x1 x2 x3 s) := by
  intro x0 x1 x2 x3 s
  fun_induction mcLocalGo x0 x1 x2 x3 s
  with_reducible repeat' first
    | apply Keeps.refl | assumption | apply Keeps.ite | apply Keeps.ite2 | (apply Keeps.snd; assumption)
    | (apply Keeps.after; assumption) | (apply Keeps.after; first | apply keeps_mcApply | apply keeps_modBranch)

theorem keeps_mcDeliverLocal : ∀ s, Keeps s (mcDeliverLocal s) := by
  intro s
  unfold mcDeliverLocal
  try dsimp only
  with_reducible repeat' first
    | apply Keeps.refl | assumption | apply Keeps.ite | apply Keeps.ite2 | fail_if_no_progress apply Keeps.upd
    | (apply Keeps.after; first | apply keeps_mcDrops | apply keeps_mcSettle | apply keeps_forEach | apply keeps_mcLocalGo)
    | intro _

end Sys2Proof.Machine
end

