-- ==== Sys2Proof/Laws/KeepsDolly.lean ====
section
/-! SUPPORT. What the operations of the descriptor engines, the optical ports and Clapper keep (`Keeps`). -/

namespace Sys2Proof.Machine

open Sys2Proof

theorem keeps_modQueue : ∀ x0 x1 s, Keeps s (modQueue x0 x1 s) := by
  intro x0 x1 s
  unfold modQueue
  try dsimp only
  with_reducible repeat' first | apply Keeps.refl | (apply Keeps.after; apply keeps_setQueue)

theorem keeps_modRun : ∀ x0 x1 x2 s, Keeps s (modRun x0 x1 x2 s) := by
  intro x0 x1 x2 s
  unfold modRun
  try dsimp only
  with_reducible repeat' first | apply Keeps.refl | (apply Keeps.after; apply keeps_modQueue)

theorem keeps_setReel : ∀ x0 x1 s, Keeps s (setReel x0 x1 s) := by
  intro x0 x1 s
  unfold setReel
  try dsimp only
  with_reducible repeat' first | apply Keeps.refl | fail_if_no_progress apply Keeps.upd

theorem keeps_dropUnstarted : ∀ x0 s, Keeps s (dropUnstarted x0 s) := by
  intro x0 s
  unfold dropUnstarted
  try dsimp only
  with_reducible repeat' first
    | apply Keeps.refl | assumption | apply Keeps.ite | apply Keeps.ite2 | fail_if_no_progress apply Keeps.upd
    | (apply Keeps.after; first | apply keeps_forEach | apply keeps_creditBack | apply keeps_withdraw | apply keeps_modQueue)
    | intro _

theorem keeps_failDesc : ∀ x0 x1 x2 s, Keeps s (failDesc x0 x1 x2 s) := by
  intro x0 x1 x2 s
  unfold failDesc
  try dsimp only
  with_reducible repeat' first
    | apply Keeps.refl | assumption | apply Keeps.ite | apply Keeps.ite2 | fail_if_no_progress apply Keeps.upd
    | (apply Keeps.after; first | apply keeps_forEach | apply keeps_creditBack | apply keeps_dropUnstarted | apply keeps_modRun | apply keeps_modQueue | apply keeps_when | apply keeps_signalFrom | apply keeps_setReel)
    | intro _ | split

theorem keeps_tryStart : ∀ x0 s, Keeps s (tryStart x0 s) := by
  intro x0 s
  unfold tryStart
  try dsimp only
  with_reducible repeat' first
    | apply Keeps.refl | assumption | apply Keeps.ite | apply Keeps.ite2 | fail_if_no_progress apply Keeps.upd
    | (apply Keeps.after; first | apply keeps_modQueue | apply keeps_modRun | apply keeps_setReel | apply keeps_waitFrom | apply keeps_failDesc)
    | intro _ | split

theorem keeps_engineTurn {f : State → State} (hf : ∀ s, Keeps s (f s)) (n : Nat) (idx : W32) (errs : List ArrErr)
    (s : State) : Keeps s (engineTurn n idx errs f s) := by
  unfold engineTurn
  try dsimp only
  with_reducible repeat' first
    | apply Keeps.refl | assumption | (apply Keeps.after; apply hf) | (apply Keeps.after; apply keeps_modRun)

theorem keeps_settleQueue : ∀ x0 s, Keeps s (settleQueue x0 s) := by
  intro x0 s
  unfold settleQueue
  try dsimp only
  with_reducible repeat' first | apply Keeps.refl | apply Keeps.ite | (apply Keeps.after; apply keeps_modQueue)

theorem keeps_clearFail : ∀ x0 x1 s, Keeps s (clearFail x0 x1 s) := by
  intro x0 x1 s
  unfold clearFail
  try dsimp only
  with_reducible repeat' first
    | apply Keeps.refl | assumption | intro _ | split | dsimp only | (apply padSame; assumption)
    | fail_if_no_progress apply Keeps.updMem

theorem keeps_lsBytes : ∀ x0 x1 x2 x3 x4 s, Keeps s (lsBytes x0 x1 x2 x3 x4 s).2 := by
  intro x0 x1 x2 x3 x4 s
  unfold lsBytes
  try dsimp only
  with_reducible repeat' first | apply Keeps.refl | assumption | (apply Keeps.after; apply keeps_noteEngLsErrs) | split

theorem keeps_issueEngTag : ∀ x0 s, Keeps s (issueEngTag x0 s).2 := by
  intro x0 s
  unfold issueEngTag
  try dsimp only
  with_reducible repeat' first | apply Keeps.refl | assumption | fail_if_no_progress apply Keeps.upd

theorem keeps_spotRead : ∀ x0 x1 x2 x3 s, Keeps s (spotRead x0 x1 x2 x3 s).2 := by
  intro x0 x1 x2 x3 s
  unfold spotRead
  try dsimp only
  with_reducible repeat' first
    | apply Keeps.refl | assumption | apply Keeps.ite | apply Keeps.ite2 | (apply Keeps.snd; assumption)
    | fail_if_no_progress apply Keeps.upd
    | (apply Keeps.after; first | apply keeps_cfgEvent | apply keeps_clearFail | apply keeps_engRead | apply keeps_when | apply keeps_countPoison | apply keeps_govEngine | apply keeps_lsBytes | apply keeps_issueEngTag | apply keeps_modRun | apply keeps_farAccess)
    | intro _ | split

theorem keeps_freeChoices : ∀ x0 s, Keeps s (freeChoices x0 s).2 := by
  intro x0 s
  fun_induction freeChoices x0 s
  all_goals try dsimp only
  with_reducible repeat' first
    | apply Keeps.refl | assumption | (apply Keeps.after; assumption) | (apply Keeps.after; apply keeps_freeNat)

theorem keeps_mixOverlap : ∀ x0 s, Keeps s (mixOverlap x0 s).2 := by
  intro x0 s
  unfold mixOverlap
  try dsimp only
  with_reducible repeat' first | apply Keeps.refl | assumption | (apply Keeps.after; apply keeps_freeChoices)

theorem keeps_putVia {f : Nat → State → State} (hf : ∀ k s, Keeps s (f k s)) (n : Nat) (idx : W32) (s : State) :
    Keeps s (putVia n idx f s).2 := by
  unfold putVia
  try dsimp only
  with_reducible repeat' first
    | apply Keeps.refl | assumption | apply Keeps.ite | apply Keeps.ite2 | (apply Keeps.after; apply hf)
    | (apply Keeps.after; first | apply keeps_issueEngTag | apply keeps_modRun) | intro _ | split

theorem keeps_dqOwnerAct : ∀ x0 x1 s, Keeps s (dqOwnerAct x0 x1 s) := by
  intro x0 x1 s
  unfold dqOwnerAct
  try dsimp only
  with_reducible repeat' first
    | apply Keeps.refl | apply Keeps.ite | (apply Keeps.after; first | apply keeps_callAdvance | apply keeps_rput)

theorem keeps_completeDesc : ∀ x0 x1 s, Keeps s (completeDesc x0 x1 s) := by
  intro x0 x1 s
  unfold completeDesc
  try dsimp only
  with_reducible repeat' first
    | apply Keeps.refl | apply Keeps.ite | (apply Keeps.after; first | apply keeps_modRun | apply keeps_modQueue) | split

theorem keeps_remotePut : ∀ x0 x1 x2 x3 s, Keeps s (remotePut x0 x1 x2 x3 s).2 := by
  intro x0 x1 x2 x3 s
  unfold remotePut
  try dsimp only
  with_reducible repeat' first
    | apply Keeps.refl | assumption | apply Keeps.ite | apply Keeps.ite2 | fail_if_no_progress apply Keeps.upd
    | (apply Keeps.after; first | apply keeps_putVia | apply keeps_farAccess) | intro _

theorem keeps_spotAdd : ∀ x0 x1 x2 x3 x4 s, Keeps s (spotAdd x0 x1 x2 x3 x4 s).2 := by
  intro x0 x1 x2 x3 x4 s
  unfold spotAdd
  try dsimp only
  with_reducible repeat' first
    | apply Keeps.refl | assumption | apply Keeps.ite | apply Keeps.ite2 | (apply Keeps.snd; assumption)
    | fail_if_no_progress apply Keeps.upd
    | (apply Keeps.after; first | apply keeps_cfgEvent | apply keeps_clearFail | apply keeps_putVia | apply keeps_farCombine | apply keeps_engAdd | apply keeps_govEngine | apply keeps_scratchPut | apply keeps_remotePut)
    | intro _ | split

theorem keeps_lsPutBytes : ∀ x0 x1 x2 x3 s, Keeps s (lsPutBytes x0 x1 x2 x3 s) := by
  intro x0 x1 x2 x3 s
  unfold lsPutBytes
  try dsimp only
  with_reducible repeat' first
    | apply Keeps.refl | assumption
    | (apply Keeps.after; first | apply keeps_modCell | apply keeps_foldl | apply keeps_foldl2) | intro _ | split

theorem keeps_spotWrite : ∀ x0 x1 x2 x3 s, Keeps s (spotWrite x0 x1 x2 x3 s).2 := by
  intro x0 x1 x2 x3 s
  unfold spotWrite
  try dsimp only
  with_reducible repeat' first
    | apply Keeps.refl | assumption | apply Keeps.ite | apply Keeps.ite2 | (apply Keeps.snd; assumption)
    | (apply Keeps.after; first | apply keeps_cfgEvent | apply keeps_clearFail | apply keeps_engWrite | apply keeps_govEngine | apply keeps_scratchPut | apply keeps_lsPutBytes | apply keeps_remotePut)
    | split

theorem keeps_countUnits : ∀ x0 x1 x2 x3 s, Keeps s (countUnits x0 x1 x2 x3 s) := by
  intro x0 x1 x2 x3 s
  unfold countUnits
  try dsimp only
  with_reducible repeat' first | apply Keeps.refl | (apply Keeps.after; apply keeps_bumpWrap)

theorem keeps_writeSome : ∀ x0 x1 x2 s, Keeps s (writeSome x0 x1 x2 s).2 := by
  intro x0 x1 x2 s
  unfold writeSome
  try dsimp only
  with_reducible repeat' first
    | apply Keeps.refl | assumption | apply Keeps.ite | apply Keeps.ite2 | (apply Keeps.snd; assumption)
    | (apply Keeps.after; first | apply keeps_spotAdd | apply keeps_spotWrite | apply keeps_countUnits | apply keeps_when | apply keeps_modRun)
    | intro _ | split

theorem keeps_granuleBytes : ∀ x0 x1 s, Keeps s (granuleBytes x0 x1 s).2 := by
  intro x0 x1 s
  unfold granuleBytes
  try dsimp only
  with_reducible repeat' first | apply Keeps.refl | assumption | (apply Keeps.after; apply keeps_engBytes)

theorem keeps_slateRead : ∀ x0 x1 s, Keeps s (slateRead x0 x1 s).2 := by
  intro x0 x1 s
  unfold slateRead
  try dsimp only
  with_reducible repeat' first
    | apply Keeps.refl | assumption | apply Keeps.ite | apply Keeps.ite2 | (apply Keeps.snd; assumption)
    | fail_if_no_progress apply Keeps.upd
    | (apply Keeps.after; first | apply keeps_cfgEvent | apply keeps_clearFail | apply keeps_granuleBytes | apply keeps_failGranule | apply keeps_govEngine | apply keeps_modRun | apply keeps_slateDone)
    | intro _ | split

theorem keeps_freeOverlap : ∀ x0 x1 x2 s, Keeps s (freeOverlap x0 x1 x2 s).2 := by
  intro x0 x1 x2 s
  unfold freeOverlap
  try dsimp only
  with_reducible repeat' first
    | apply Keeps.refl | assumption | apply Keeps.ite | apply Keeps.ite2
    | (apply Keeps.after; first | apply keeps_freeNat | apply keeps_foldl | apply keeps_foldl2) | intro _

theorem keeps_readMore : ∀ x0 x1 s, Keeps s (readMore x0 x1 s).2 := by
  intro x0 x1 s
  unfold readMore
  try dsimp only
  with_reducible repeat' first
    | apply Keeps.refl | assumption | apply Keeps.ite | apply Keeps.ite2 | (apply Keeps.snd; assumption)
    | (apply Keeps.after; first | apply keeps_slateRead | apply keeps_spotRead | apply keeps_freeOverlap | apply keeps_modRun)
    | split

theorem keeps_moveOverlap : ∀ x0 x1 x2 s, Keeps s (moveOverlap x0 x1 x2 s) := by
  intro x0 x1 x2 s
  fun_induction moveOverlap x0 x1 x2 s
  all_goals try dsimp only
  with_reducible repeat' first
    | apply Keeps.refl | assumption | apply Keeps.ite | apply Keeps.ite2 | (apply Keeps.snd; assumption)
    | (apply Keeps.after; assumption)
    | (apply Keeps.after; first | apply keeps_completeDesc | apply keeps_mixOverlap | apply keeps_modRun | apply keeps_failDesc | apply keeps_writeSome | apply keeps_readMore)

theorem keeps_doDescriptorRead : ∀ x0 x1 s, Keeps s (doDescriptorRead x0 x1 s) := by
  intro x0 x1 s
  unfold doDescriptorRead
  try dsimp only
  with_reducible repeat' first
    | apply Keeps.refl | assumption | apply Keeps.ite | apply Keeps.ite2 | (apply Keeps.snd; assumption)
    | fail_if_no_progress apply Keeps.upd
    | (apply Keeps.after; first | apply keeps_issueEngTag | apply keeps_modQueue | apply keeps_failDesc | apply keeps_cfgEvent | apply keeps_clearFail | apply keeps_engBytes | apply keeps_govEngine | apply keeps_tryStart)
    | intro _ | split

theorem keeps_readList : ∀ x0 x1 s, Keeps s (readList x0 x1 s).2 := by
  intro x0 x1 s
  unfold readList
  try dsimp only
  with_reducible repeat' first
    | apply Keeps.refl | assumption | apply Keeps.ite | apply Keeps.ite2 | (apply Keeps.snd; assumption)
    | fail_if_no_progress apply Keeps.upd
    | (apply Keeps.after; first | apply keeps_clearFail | apply keeps_engBytes | apply keeps_govEngine) | intro _ | split

theorem keeps_beginDesc : ∀ x0 x1 s, Keeps s (beginDesc x0 x1 s) := by
  intro x0 x1 s
  unfold beginDesc
  try dsimp only
  with_reducible repeat' first
    | apply Keeps.refl | assumption | apply Keeps.ite | apply Keeps.ite2 | (apply Keeps.snd; assumption)
    | (apply Keeps.after; first | apply keeps_failDesc | apply keeps_readList | apply keeps_modRun) | split

theorem keeps_runDesc {f : Nat → DescRun → State → State} (hf : ∀ n r s, Keeps s (f n r s)) (h : Half) (q : Nat) (idx : W32)
    (op : Nat) (errs : List ArrErr) (s : State) : Keeps s (runDesc h q idx op errs f s) := by
  unfold runDesc
  try dsimp only
  with_reducible repeat' first
    | apply Keeps.refl | assumption | apply Keeps.ite | apply Keeps.ite2 | fail_if_no_progress apply Keeps.upd
    | (apply Keeps.after; apply hf)
    | (apply Keeps.after; first | apply keeps_tryStart | apply keeps_beginDesc | apply keeps_engineTurn) | intro _
    | split

theorem keeps_moveOr {f : State → State} (hf : ∀ s, Keeps s (f s)) (n : Nat) (r : DescRun) (s : State) :
    Keeps s (moveOr n r f s) := by
  unfold moveOr
  try dsimp only
  with_reducible repeat' first
    | apply Keeps.refl | assumption | apply Keeps.ite | (apply Keeps.after; apply hf)
    | (apply Keeps.after; apply keeps_moveOverlap)

theorem keeps_moveShape : ∀ x0 x1 x2 x3 s, Keeps s (moveShape x0 x1 x2 x3 s) := by
  intro x0 x1 x2 x3 s
  fun_induction moveShape x0 x1 x2 x3 s
  with_reducible repeat' first
    | apply Keeps.refl | assumption | apply Keeps.ite | apply Keeps.ite2 | (apply Keeps.snd; assumption)
    | (apply Keeps.after; assumption)
    | (apply Keeps.after; first | apply keeps_completeDesc | apply keeps_readMore | apply keeps_writeSome | apply keeps_failDesc)

theorem keeps_doCopy : ∀ x0 x1 x2 x3 s, Keeps s (doCopy x0 x1 x2 x3 s) := by
  intro x0 x1 x2 x3 s
  unfold doCopy
  try dsimp only
  with_reducible repeat' first
    | apply Keeps.refl | assumption | apply Keeps.ite | apply Keeps.ite2 | fail_if_no_progress apply Keeps.upd
    | (apply Keeps.after; first | apply keeps_runDesc | apply keeps_moveOr | apply keeps_moveShape) | intro _

theorem keeps_enterRecFull : ∀ x0 s, Keeps s (enterRecFull x0 s) := by
  intro x0 s
  unfold enterRecFull
  try dsimp only
  with_reducible repeat' first
    | apply Keeps.refl | apply Keeps.ite | (apply Keeps.after; first | apply keeps_modQueue | apply keeps_dropUnstarted)

theorem keeps_writeDescRec : ∀ x0 x1 s, Keeps s (writeDescRec x0 x1 s).2 := by
  intro x0 x1 s
  unfold writeDescRec
  try dsimp only
  with_reducible repeat' first
    | apply Keeps.refl | assumption | apply Keeps.ite | apply Keeps.ite2 | (apply Keeps.snd; assumption)
    | (apply Keeps.after; first | apply keeps_enterRecFull | apply keeps_cfgEvent | apply keeps_engPut | apply keeps_modQueue | apply keeps_govEngine)
    | split

theorem keeps_doDescComplete : ∀ x0 x1 x2 s, Keeps s (doDescComplete x0 x1 x2 s) := by
  intro x0 x1 x2 s
  unfold doDescComplete
  try dsimp only
  with_reducible repeat' first
    | apply Keeps.refl | assumption | apply Keeps.ite | apply Keeps.ite2 | (apply Keeps.snd; assumption)
    | (apply Keeps.after; first | apply keeps_writeDescRec | apply keeps_when | apply keeps_signalFrom | apply keeps_modQueue | apply keeps_settleQueue)
    | intro _ | split

theorem keeps_doNop : ∀ x0 x1 x2 s, Keeps s (doNop x0 x1 x2 s) := by
  intro x0 x1 x2 s
  unfold doNop
  try dsimp only
  with_reducible repeat' first
    | apply Keeps.refl | (apply Keeps.after; first | apply keeps_runDesc | apply keeps_completeDesc) | intro _

theorem keeps_overrunError : ∀ x0 s, Keeps s (overrunError x0 s) := by
  intro x0 s
  unfold overrunError
  try dsimp only
  with_reducible repeat' first
    | apply Keeps.refl | (apply Keeps.after; first | apply keeps_modQueue | apply keeps_dropUnstarted)

theorem keeps_enableQueue : ∀ x0 s, Keeps s (enableQueue x0 s) := by
  intro x0 s
  unfold enableQueue
  try dsimp only
  with_reducible repeat' first
    | apply Keeps.refl | assumption | apply Keeps.ite | apply Keeps.ite2 | fail_if_no_progress apply Keeps.upd
    | (apply Keeps.after; first | apply keeps_rput | apply keeps_groupTake | apply keeps_setQueue)

theorem keeps_disableQueue : ∀ x0 s, Keeps s (disableQueue x0 s) := by
  intro x0 s
  unfold disableQueue
  try dsimp only
  with_reducible repeat' first
    | apply Keeps.refl | (apply Keeps.after; first | apply keeps_dropUnstarted | apply keeps_modQueue)

theorem keeps_checkRing : ∀ x0 s, Keeps s (checkRing x0 s) := by
  intro x0 s
  unfold checkRing
  try dsimp only
  with_reducible repeat' first
    | apply Keeps.refl | apply Keeps.ite
    | (apply Keeps.after; first | apply keeps_overrunError | apply keeps_settleQueue)

theorem keeps_resumeQueue : ∀ x0 s, Keeps s (resumeQueue x0 s) := by
  intro x0 s
  unfold resumeQueue
  try dsimp only
  with_reducible repeat' first
    | apply Keeps.refl | apply Keeps.ite | (apply Keeps.after; first | apply keeps_modQueue | apply keeps_checkRing)

theorem keeps_stopQueue : ∀ x0 s, Keeps s (stopQueue x0 s) := by
  intro x0 s
  unfold stopQueue
  try dsimp only
  with_reducible repeat' first
    | apply Keeps.refl | apply Keeps.ite
    | (apply Keeps.after; first | apply keeps_settleQueue | apply keeps_modQueue | apply keeps_dropUnstarted)

theorem keeps_dqCtlAct : ∀ x0 x1 s, Keeps s (dqCtlAct x0 x1 s) := by
  intro x0 x1 s
  unfold dqCtlAct
  try dsimp only
  with_reducible repeat' first
    | apply Keeps.refl | apply Keeps.ite
    | (apply Keeps.after; first | apply keeps_rput | apply keeps_when | apply keeps_bindEvent | apply keeps_enableQueue | apply keeps_disableQueue | apply keeps_resumeQueue | apply keeps_stopQueue)
    | intro _

theorem keeps_dqCtlWrite : ∀ x0 x1 x2 x3 x4 s, Keeps s (dqCtlWrite x0 x1 x2 x3 x4 s) := by
  intro x0 x1 x2 x3 x4 s
  unfold dqCtlWrite
  try dsimp only
  with_reducible repeat' first
    | apply Keeps.refl | (apply Keeps.after; first | apply keeps_regStore | apply keeps_dqCtlAct) | intro _

theorem keeps_dqTailAct : ∀ x0 x1 s, Keeps s (dqTailAct x0 x1 s) := by
  intro x0 x1 s
  unfold dqTailAct
  try dsimp only
  with_reducible repeat' first
    | apply Keeps.refl | (apply Keeps.after; first | apply keeps_checkRing | apply keeps_modQueue | apply keeps_rput)

theorem keeps_moveIndexed : ∀ x0 x1 x2 x3 s, Keeps s (moveIndexed x0 x1 x2 x3 s) := by
  intro x0 x1 x2 x3 s
  fun_induction moveIndexed x0 x1 x2 x3 s
  with_reducible repeat' first
    | apply Keeps.refl | assumption | apply Keeps.ite | apply Keeps.ite2 | (apply Keeps.snd; assumption)
    | (apply Keeps.after; assumption)
    | (apply Keeps.after; first | apply keeps_completeDesc | apply keeps_failDesc | apply keeps_readMore | apply keeps_writeSome)

theorem keeps_doGather : ∀ x0 x1 x2 x3 s, Keeps s (doGather x0 x1 x2 x3 s) := by
  intro x0 x1 x2 x3 s
  unfold doGather
  try dsimp only
  with_reducible repeat' first
    | apply Keeps.refl | assumption | apply Keeps.ite | apply Keeps.ite2 | fail_if_no_progress apply Keeps.upd
    | (apply Keeps.after; first | apply keeps_runDesc | apply keeps_moveOr | apply keeps_moveIndexed) | intro _

theorem keeps_dqRecHeadAct : ∀ x0 x1 s, Keeps s (dqRecHeadAct x0 x1 s) := by
  intro x0 x1 s
  unfold dqRecHeadAct
  try dsimp only
  with_reducible repeat' first
    | apply Keeps.refl | apply Keeps.ite
    | (apply Keeps.after; first | apply keeps_modQueue | apply keeps_rput | apply keeps_checkRing | apply keeps_setQueue)

theorem keeps_doScatter : ∀ x0 x1 x2 x3 s, Keeps s (doScatter x0 x1 x2 x3 s) := by
  intro x0 x1 x2 x3 s
  unfold doScatter
  try dsimp only
  with_reducible repeat' first
    | apply Keeps.refl | assumption | apply Keeps.ite | apply Keeps.ite2 | fail_if_no_progress apply Keeps.upd
    | (apply Keeps.after; first | apply keeps_runDesc | apply keeps_moveOr | apply keeps_moveIndexed) | intro _

theorem keeps_moveFill : ∀ x0 x1 x2 s, Keeps s (moveFill x0 x1 x2 s) := by
  intro x0 x1 x2 s
  fun_induction moveFill x0 x1 x2 s
  with_reducible repeat' first
    | apply Keeps.refl | assumption | apply Keeps.ite | apply Keeps.ite2 | (apply Keeps.snd; assumption)
    | (apply Keeps.after; assumption)
    | (apply Keeps.after; first | apply keeps_completeDesc | apply keeps_modRun | apply keeps_writeSome | apply keeps_failDesc)

theorem keeps_doFill : ∀ x0 x1 x2 s, Keeps s (doFill x0 x1 x2 s) := by
  intro x0 x1 x2 s
  unfold doFill
  try dsimp only
  with_reducible repeat' first
    | apply Keeps.refl | (apply Keeps.after; first | apply keeps_runDesc | apply keeps_moveFill) | intro _

theorem keeps_doAddDesc : ∀ x0 x1 x2 x3 s, Keeps s (doAddDesc x0 x1 x2 x3 s) := by
  intro x0 x1 x2 x3 s
  unfold doAddDesc
  try dsimp only
  with_reducible repeat' first
    | apply Keeps.refl | (apply Keeps.after; first | apply keeps_runDesc | apply keeps_moveShape) | intro _

theorem keeps_sendCtrl : ∀ x0 x1 s, Keeps s (sendCtrl x0 x1 s) := by
  intro x0 x1 s
  unfold sendCtrl
  try dsimp only
  with_reducible repeat' first
    | apply Keeps.refl | assumption | apply Keeps.ite | apply Keeps.ite2 | fail_if_no_progress apply Keeps.upd
    | (apply Keeps.after; first | apply keeps_putCtrl | apply keeps_setPort)

theorem keeps_doAckTimer : ∀ x0 s, Keeps s (doAckTimer x0 s) := by
  intro x0 s
  unfold doAckTimer
  try dsimp only
  with_reducible repeat' first | apply Keeps.refl | apply Keeps.ite | (apply Keeps.after; apply keeps_sendCtrl)

theorem keeps_portFlush : ∀ x0 s, Keeps s (portFlush x0 s) := by
  intro x0 s
  unfold portFlush
  try dsimp only
  with_reducible repeat' first
    | apply Keeps.refl | apply Keeps.ite
    | (apply Keeps.after; first | apply keeps_setPort | apply keeps_bumpSat | apply keeps_forEach | apply keeps_queuePkt)
    | intro _

theorem keeps_portDown : ∀ x0 x1 s, Keeps s (portDown x0 x1 s) := by
  intro x0 x1 s
  unfold portDown
  try dsimp only
  with_reducible repeat' first | apply Keeps.refl | (apply Keeps.after; first | apply keeps_modPort | apply keeps_portFlush)

theorem keeps_retrain : ∀ x0 s, Keeps s (retrain x0 s) := by
  intro x0 s
  unfold retrain
  try dsimp only
  with_reducible repeat' first
    | apply Keeps.refl
    | (apply Keeps.after; first | apply keeps_portDown | apply keeps_modPort | apply keeps_event | apply keeps_bumpSat)

theorem keeps_doAckStall : ∀ x0 s, Keeps s (doAckStall x0 s) := by
  intro x0 s
  unfold doAckStall
  try dsimp only
  with_reducible repeat' first
    | apply Keeps.refl | apply Keeps.ite | (apply Keeps.after; first | apply keeps_retrain | apply keeps_atTime)

theorem keeps_trainFail : ∀ x0 s, Keeps s (trainFail x0 s) := by
  intro x0 s
  unfold trainFail
  try dsimp only
  with_reducible repeat' first
    | apply Keeps.refl | apply Keeps.ite | (apply Keeps.after; first | apply keeps_event | apply keeps_setPort)

theorem keeps_applyVcBuf : ∀ x0 s, Keeps s (applyVcBuf x0 s) := by
  intro x0 s
  unfold applyVcBuf
  try dsimp only
  with_reducible repeat' first
    | apply Keeps.refl | assumption | apply Keeps.ite | apply Keeps.ite2 | fail_if_no_progress apply Keeps.upd
    | (apply Keeps.after; first | apply keeps_groupTake | apply keeps_ruleEvent)

theorem keeps_setPeer : ∀ x0 x1 x2 x3 s, Keeps s (setPeer x0 x1 x2 x3 s) := by
  intro x0 x1 x2 x3 s
  unfold setPeer
  try dsimp only
  with_reducible repeat' first | apply Keeps.refl | (apply Keeps.after; apply keeps_modPort)

theorem keeps_meetPeer : ∀ x0 x1 x2 x3 s, Keeps s (meetPeer x0 x1 x2 x3 s) := by
  intro x0 x1 x2 x3 s
  unfold meetPeer
  try dsimp only
  with_reducible repeat' first
    | apply Keeps.refl | (apply Keeps.after; first | apply keeps_when | apply keeps_event | apply keeps_setPeer)
    | intro _

theorem keeps_doPortUp : ∀ x0 x1 s, Keeps s (doPortUp x0 x1 s) := by
  intro x0 x1 s
  unfold doPortUp
  try dsimp only
  with_reducible repeat' first
    | apply Keeps.refl | assumption | apply Keeps.ite | apply Keeps.ite2
    | (apply Keeps.after; first | apply keeps_atTime | apply keeps_trainFail | apply keeps_modPort | apply keeps_applyVcBuf | apply keeps_meetPeer | apply keeps_mcDrain | apply keeps_pumpAll | apply keeps_emit | apply keeps_foldl | apply keeps_foldl2)
    | intro _ | split

theorem keeps_doPortTrainTimeout : ∀ x0 s, Keeps s (doPortTrainTimeout x0 s) := by
  intro x0 s
  unfold doPortTrainTimeout
  try dsimp only
  with_reducible repeat' first
    | apply Keeps.refl | apply Keeps.ite | (apply Keeps.after; first | apply keeps_trainFail | apply keeps_atTime)

theorem keeps_doLossOfSignal : ∀ x0 x1 s, Keeps s (doLossOfSignal x0 x1 s) := by
  intro x0 x1 s
  unfold doLossOfSignal
  try dsimp only
  with_reducible repeat' first
    | apply Keeps.refl | assumption | apply Keeps.ite | apply Keeps.ite2 | fail_if_no_progress apply Keeps.upd
    | (apply Keeps.after; first | apply keeps_retrain | apply keeps_when | apply keeps_putCtrl) | intro _

theorem keeps_doLinkInfo : ∀ x0 x1 x2 x3 s, Keeps s (doLinkInfo x0 x1 x2 x3 s) := by
  intro x0 x1 x2 x3 s
  unfold doLinkInfo
  try dsimp only
  with_reducible repeat' first | apply Keeps.refl | apply Keeps.ite | (apply Keeps.after; apply keeps_setPeer)

theorem keeps_doNakTimer : ∀ x0 s, Keeps s (doNakTimer x0 s) := by
  intro x0 s
  unfold doNakTimer
  try dsimp only
  with_reducible repeat' first
    | apply Keeps.refl | apply Keeps.ite
    | (apply Keeps.after; first | apply keeps_atTime | apply keeps_sendCtrl | apply keeps_modPort)

theorem keeps_doCtrlFlit : ∀ x0 x1 s, Keeps s (doCtrlFlit x0 x1 s) := by
  intro x0 x1 s
  unfold doCtrlFlit
  try dsimp only
  with_reducible repeat' first
    | apply Keeps.refl | assumption | apply Keeps.ite | apply Keeps.ite2 | fail_if_no_progress apply Keeps.upd
    | (apply Keeps.after; first | apply keeps_bumpSat | apply keeps_setPort | apply keeps_retrain | apply keeps_mcDrain | apply keeps_pumpAll | apply keeps_forEach | apply keeps_putData)
    | intro _

theorem keeps_portCtlAct : ∀ x0 x1 s, Keeps s (portCtlAct x0 x1 s) := by
  intro x0 x1 s
  unfold portCtlAct
  try dsimp only
  with_reducible repeat' first
    | apply Keeps.refl | apply Keeps.ite
    | (apply Keeps.after; first | apply keeps_rput | apply keeps_modPort | apply keeps_portDown)

theorem keeps_consumePkt : ∀ x0 x1 x2 s, Keeps s (consumePkt x0 x1 x2 s) := by
  intro x0 x1 x2 s
  unfold consumePkt
  try dsimp only
  with_reducible repeat' first | apply Keeps.refl | (apply Keeps.after; apply keeps_setPort) | split

theorem keeps_startNak : ∀ x0 s, Keeps s (startNak x0 s) := by
  intro x0 s
  unfold startNak
  try dsimp only
  with_reducible repeat' first
    | apply Keeps.refl | apply Keeps.ite | (apply Keeps.after; first | apply keeps_sendCtrl | apply keeps_setPort)

theorem keeps_doDataFlit : ∀ x0 x1 s, Keeps s (doDataFlit x0 x1 s) := by
  intro x0 x1 s
  unfold doDataFlit
  try dsimp only
  with_reducible repeat' first
    | apply Keeps.refl | apply Keeps.ite
    | (apply Keeps.after; first | apply keeps_startNak | apply keeps_bumpSat | apply keeps_countLink | apply keeps_setPort)
    | split

theorem keeps_departSlate : ∀ x0 s, Keeps s (departSlate x0 s) := by
  intro x0 s
  unfold departSlate
  try dsimp only
  with_reducible repeat' first
    | apply Keeps.refl | apply Keeps.ite | (apply Keeps.after; first | apply keeps_setSlate | apply keeps_reachPoint)
    | split

theorem keeps_clapStale : ∀ s, Keeps s (clapStale s) := by
  intro s
  unfold clapStale
  try dsimp only
  with_reducible repeat' first | apply Keeps.refl | (apply Keeps.after; apply keeps_countLink)

theorem keeps_setColl : ∀ x0 x1 s, Keeps s (setColl x0 x1 s) := by
  intro x0 x1 s
  unfold setColl
  try dsimp only
  with_reducible repeat' first | apply Keeps.refl | fail_if_no_progress apply Keeps.upd

theorem keeps_modColl : ∀ x0 x1 s, Keeps s (modColl x0 x1 s) := by
  intro x0 x1 s
  unfold modColl
  try dsimp only
  with_reducible repeat' first | apply Keeps.refl | (apply Keeps.after; apply keeps_setColl)

theorem keeps_sendClap : ∀ x0 x1 x2 x3 x4 x5 x6 s, Keeps s (sendClap x0 x1 x2 x3 x4 x5 x6 s) := by
  intro x0 x1 x2 x3 x4 x5 x6 s
  unfold sendClap
  try dsimp only
  with_reducible repeat' first | apply Keeps.refl | (apply Keeps.after; first | apply keeps_sendPacket | apply keeps_emit)

theorem keeps_sendKids : ∀ x0 x1 x2 x3 x4 s, Keeps s (sendKids x0 x1 x2 x3 x4 s) := by
  intro x0 x1 x2 x3 x4 s
  unfold sendKids
  try dsimp only
  with_reducible repeat' first
    | apply Keeps.refl | (apply Keeps.after; first | apply keeps_forEach | apply keeps_sendClap) | intro _

theorem keeps_putResult : ∀ x0 x1 s, Keeps s (putResult x0 x1 s).2 := by
  intro x0 x1 s
  fun_cases putResult x0 x1 s
  all_goals try dsimp only
  with_reducible repeat' first
    | apply Keeps.refl | assumption | apply Keeps.ite | apply Keeps.ite2
    | (apply Keeps.after; first | apply keeps_engWrite | apply keeps_cfgEvent)

theorem keeps_armArrive : ∀ x0 s, Keeps s (armArrive x0 s) := by
  intro x0 s
  unfold armArrive
  try dsimp only
  with_reducible repeat' first
    | apply Keeps.refl | apply Keeps.ite | (apply Keeps.after; first | apply keeps_waitFrom | apply keeps_setColl)

theorem keeps_nextRound : ∀ x0 s, Keeps s (nextRound x0 s) := by
  intro x0 s
  unfold nextRound
  try dsimp only
  with_reducible repeat' first | apply Keeps.refl | (apply Keeps.after; first | apply keeps_armArrive | apply keeps_setColl)

theorem keeps_departColl : ∀ x0 x1 x2 x3 s, Keeps s (departColl x0 x1 x2 x3 s).2 := by
  intro x0 x1 x2 x3 s
  unfold departColl
  try dsimp only
  with_reducible repeat' first
    | apply Keeps.refl | assumption | apply Keeps.ite | apply Keeps.ite2 | (apply Keeps.snd; assumption) | intro _
    | split
    | (apply Keeps.after; first | apply keeps_putResult | apply keeps_freeNat | apply keeps_sendKids | apply keeps_departSlate | apply keeps_when | apply keeps_signalNum | apply keeps_nextRound | apply keeps_withdraw | apply keeps_event | apply keeps_failSlate | apply keeps_modColl)

theorem keeps_doDepart : ∀ x0 s, Keeps s (doDepart x0 s).2 := by
  intro x0 s
  fun_cases doDepart x0 s
  all_goals try dsimp only
  with_reducible repeat' first
    | apply Keeps.refl | assumption | apply Keeps.ite | apply Keeps.ite2
    | (apply Keeps.after; first | apply keeps_clapStale | apply keeps_departColl)

theorem keeps_startMerge : ∀ x0 s, Keeps s (startMerge x0 s) := by
  intro x0 s
  unfold startMerge
  try dsimp only
  with_reducible repeat' first
    | apply Keeps.refl | apply Keeps.ite
    | (apply Keeps.after; first | apply keeps_forEach | apply keeps_snoopAll | apply keeps_putTx | apply keeps_mergeFuncLines)
    | intro _

theorem keeps_tryUp : ∀ x0 s, Keeps s (tryUp x0 s) := by
  intro x0 s
  fun_cases tryUp x0 s
  with_reducible repeat' first
    | apply Keeps.refl | assumption | apply Keeps.ite | apply Keeps.ite2
    | (apply Keeps.after; first | apply keeps_startMerge | apply keeps_departColl | apply keeps_setColl | apply keeps_sendClap)

theorem keeps_readOwn : ∀ x0 s, Keeps s (readOwn x0 s) := by
  intro x0 s
  unfold readOwn
  try dsimp only
  with_reducible repeat' first
    | apply Keeps.refl | assumption | apply Keeps.ite | apply Keeps.ite2 | (apply Keeps.snd; assumption)
    | (apply Keeps.after; first | apply keeps_setColl | apply keeps_modColl | apply keeps_engRead | apply keeps_cfgEvent)
    | split

theorem keeps_doChildTimeout : ∀ x0 s, Keeps s (doChildTimeout x0 s) := by
  intro x0 s
  unfold doChildTimeout
  try dsimp only
  with_reducible repeat' first
    | apply Keeps.refl | apply Keeps.ite
    | (apply Keeps.after; first | apply keeps_atTime | apply keeps_forEach | apply keeps_eventD | apply keeps_tryUp | apply keeps_readOwn | apply keeps_setColl)
    | intro _ | split

theorem keeps_arriveNow : ∀ x0 s, Keeps s (arriveNow x0 s) := by
  intro x0 s
  unfold arriveNow
  try dsimp only
  with_reducible repeat' first | apply Keeps.refl | (apply Keeps.after; apply keeps_modColl)

theorem keeps_doLocalArrival : ∀ x0 s, Keeps s (doLocalArrival x0 s) := by
  intro x0 s
  unfold doLocalArrival
  try dsimp only
  with_reducible repeat' first
    | apply Keeps.refl | apply Keeps.ite
    | (apply Keeps.after; first | apply keeps_when | apply keeps_sendOld | apply keeps_tryUp | apply keeps_readOwn | apply keeps_arriveNow)
    | intro _ | split

theorem keeps_doDepartTimeout : ∀ x0 s, Keeps s (doDepartTimeout x0 s) := by
  intro x0 s
  fun_cases doDepartTimeout x0 s
  with_reducible repeat' first
    | apply Keeps.refl | assumption | (apply Keeps.after; first | apply keeps_departColl | apply keeps_atTime)

theorem keeps_rootDelay : ∀ x0 x1 x2 s, Keeps s (rootDelay x0 x1 x2 s) := by
  intro x0 x1 x2 s
  unfold rootDelay
  try dsimp only
  with_reducible repeat' first
    | apply Keeps.refl | assumption | apply Keeps.ite | apply Keeps.ite2
    | (apply Keeps.after; first | apply keeps_setColl | apply keeps_sendKids)

theorem keeps_doDelayNotice : ∀ x0 s, Keeps s (doDelayNotice x0 s) := by
  intro x0 s
  unfold doDelayNotice
  try dsimp only
  with_reducible repeat' first
    | apply Keeps.refl | apply Keeps.ite | (apply Keeps.after; first | apply keeps_clapStale | apply keeps_rootDelay)
    | split

theorem keeps_doArrive : ∀ x0 x1 s, Keeps s (doArrive x0 x1 s) := by
  intro x0 x1 s
  unfold doArrive
  try dsimp only
  with_reducible repeat' first
    | apply Keeps.refl | apply Keeps.ite
    | (apply Keeps.after; first | apply keeps_clapStale | apply keeps_countLink | apply keeps_tryUp | apply keeps_setColl)
    | split

theorem keeps_doExtend : ∀ x0 s, Keeps s (doExtend x0 s) := by
  intro x0 s
  unfold doExtend
  try dsimp only
  with_reducible repeat' first
    | apply Keeps.refl | apply Keeps.ite
    | (apply Keeps.after; first | apply keeps_clapStale | apply keeps_sendKids | apply keeps_setColl) | split

theorem keeps_openColl : ∀ x0 s, Keeps s (openColl x0 s) := by
  intro x0 s
  unfold openColl
  try dsimp only
  with_reducible repeat' first
    | apply Keeps.refl
    | (apply Keeps.after; first | apply keeps_groupTake | apply keeps_callAdvance | apply keeps_armArrive | apply keeps_setColl)

theorem keeps_cutColls : ∀ x0 s, Keeps s (cutColls x0 s) := by
  intro x0 s
  unfold cutColls
  try dsimp only
  with_reducible repeat' first
    | apply Keeps.refl | apply Keeps.ite
    | (apply Keeps.after; first | apply keeps_forEach | apply keeps_callAdvance | apply keeps_withdraw | apply keeps_modColl)
    | intro _

theorem keeps_closeColl : ∀ x0 s, Keeps s (closeColl x0 s) := by
  intro x0 s
  unfold closeColl
  try dsimp only
  with_reducible repeat' first | apply Keeps.refl | (apply Keeps.after; first | apply keeps_withdraw | apply keeps_setColl)

theorem keeps_collIdAct : ∀ x0 x1 s, Keeps s (collIdAct x0 x1 s) := by
  intro x0 x1 s
  unfold collIdAct
  try dsimp only
  with_reducible repeat' first
    | apply Keeps.refl | apply Keeps.ite
    | (apply Keeps.after; first | apply keeps_rput | apply keeps_openColl | apply keeps_closeColl)

theorem keeps_doBandNotice : ∀ x0 s, Keeps s (doBandNotice x0 s) := by
  intro x0 s
  unfold doBandNotice
  try dsimp only
  with_reducible repeat' first
    | apply Keeps.refl | apply Keeps.ite
    | (apply Keeps.after; first | apply keeps_modColl | apply keeps_rootDelay | apply keeps_sendClap)

end Sys2Proof.Machine
end

