-- ==== Sys2Proof/Laws/KeepsRecords.lean ====
section
/-! SUPPORT. What the operations of the Storyboard, the regulators, the measurements and the Zoram link keep (`Keeps`). -/

namespace Sys2Proof.Machine

open Sys2Proof

theorem keeps_armFree : ∀ x0 s, Keeps s (armFree x0 s) := by
  intro x0 s
  unfold armFree
  try dsimp only
  with_reducible repeat' first | apply Keeps.refl | (apply Keeps.after; apply keeps_waitFrom)

theorem keeps_openReel : ∀ x0 s, Keeps s (openReel x0 s) := by
  intro x0 s
  unfold openReel
  try dsimp only
  with_reducible repeat' first
    | apply Keeps.refl | apply Keeps.ite
    | (apply Keeps.after; first | apply keeps_groupTake | apply keeps_armFree | apply keeps_setReel | apply keeps_callAdvance)

theorem keeps_closeReel : ∀ x0 s, Keeps s (closeReel x0 s) := by
  intro x0 s
  unfold closeReel
  try dsimp only
  with_reducible repeat' first | apply Keeps.refl | (apply Keeps.after; first | apply keeps_withdraw | apply keeps_setReel)

theorem keeps_reelIdAct : ∀ x0 x1 s, Keeps s (reelIdAct x0 x1 s) := by
  intro x0 x1 s
  unfold reelIdAct
  try dsimp only
  with_reducible repeat' first
    | apply Keeps.refl | apply Keeps.ite
    | (apply Keeps.after; first | apply keeps_rput | apply keeps_openReel | apply keeps_closeReel)

theorem keeps_modBr : ∀ x0 x1 x2 x3 s, Keeps s (modBr x0 x1 x2 x3 s) := by
  intro x0 x1 x2 x3 s
  unfold modBr
  try dsimp only
  with_reducible repeat' first | apply Keeps.refl | apply Keeps.ite | (apply Keeps.after; apply keeps_modRun)

theorem keeps_failBranch : ∀ x0 x1 x2 s, Keeps s (failBranch x0 x1 x2 s) := by
  intro x0 x1 x2 s
  unfold failBranch
  try dsimp only
  with_reducible repeat' first | apply Keeps.refl | (apply Keeps.after; first | apply keeps_modRun | apply keeps_modBr)

theorem keeps_pushGroup : ∀ x0 x1 x2 x3 x4 s, Keeps s (pushGroup x0 x1 x2 x3 x4 s).2 := by
  intro x0 x1 x2 x3 x4 s
  unfold pushGroup
  try dsimp only
  with_reducible repeat' first
    | apply Keeps.refl | assumption | apply Keeps.ite | apply Keeps.ite2 | apply KeepsO.ite | apply KeepsO.ofNone
    | apply KeepsO.ofSome | apply KeepsQ.ite | apply KeepsQ.ofNone | apply KeepsQ.ofSome | (apply KeepsO.of; assumption)
    | (apply KeepsQ.of; assumption) | apply KeepsO.getD
    | (apply Keeps.after; first | apply keeps_modBr | apply keeps_failBranch | apply keeps_emit)
    | (apply KeepsO.after; apply keeps_mcSend) | (apply KeepsQ.after; apply keeps_issueReqTag) | split

theorem keeps_branchTook : ∀ x0 x1 x2 x3 s, Keeps s (branchTook x0 x1 x2 x3 s) := by
  intro x0 x1 x2 x3 s
  unfold branchTook
  try dsimp only
  with_reducible repeat' first | apply Keeps.refl | (apply Keeps.after; apply keeps_modBr)

theorem keeps_pushBranch : ∀ x0 x1 x2 s, Keeps s (pushBranch x0 x1 x2 s).2 := by
  intro x0 x1 x2 s
  unfold pushBranch
  try dsimp only
  with_reducible repeat' first
    | apply Keeps.refl | assumption | apply Keeps.ite | apply Keeps.ite2 | (apply Keeps.snd; assumption)
    | (apply Keeps.after; first | apply keeps_pushGroup | apply keeps_modBr | apply keeps_countUnits | apply keeps_issueEngTag | apply keeps_farAccess | apply keeps_failBranch | apply keeps_branchTook | apply keeps_spotWrite)
    | intro _ | split

theorem keeps_pushBranches : ∀ x0 x1 x2 s, Keeps s (pushBranches x0 x1 x2 s).2 := by
  intro x0 x1 x2 s
  fun_induction pushBranches x0 x1 x2 s
  all_goals try dsimp only
  with_reducible repeat' first
    | apply Keeps.refl | assumption | (apply Keeps.after; assumption) | (apply Keeps.after; apply keeps_pushBranch)

theorem keeps_shareOut : ∀ x0 x1 s, Keeps s (shareOut x0 x1 s) := by
  intro x0 x1 s
  unfold shareOut
  try dsimp only
  with_reducible repeat' first
    | apply Keeps.refl | apply Keeps.ite | (apply Keeps.after; first | apply keeps_countUnits | apply keeps_modRun)
    | split

theorem keeps_mcastGo : ∀ x0 x1 x2 s, Keeps s (mcastGo x0 x1 x2 s) := by
  intro x0 x1 x2 s
  fun_induction mcastGo x0 x1 x2 s
  with_reducible repeat' first
    | apply Keeps.refl | assumption | apply Keeps.ite | apply Keeps.ite2 | (apply Keeps.snd; assumption)
    | (apply Keeps.after; assumption)
    | (apply Keeps.after; first | apply keeps_pushBranches | apply keeps_failDesc | apply keeps_completeDesc | apply keeps_readMore | apply keeps_shareOut)

theorem keeps_readBranches : ∀ x0 x1 s, Keeps s (readBranches x0 x1 s).2 := by
  intro x0 x1 s
  unfold readBranches
  try dsimp only
  with_reducible repeat' first
    | apply Keeps.refl | assumption | apply Keeps.ite | apply Keeps.ite2 | (apply Keeps.snd; assumption)
    | fail_if_no_progress apply Keeps.upd
    | (apply Keeps.after; first | apply keeps_clearFail | apply keeps_engBytes | apply keeps_govEngine) | intro _ | split

theorem keeps_doMcast : ∀ x0 x1 x2 x3 s, Keeps s (doMcast x0 x1 x2 x3 s) := by
  intro x0 x1 x2 x3 s
  unfold doMcast
  try dsimp only
  with_reducible repeat' first
    | apply Keeps.refl | assumption | apply Keeps.ite | apply Keeps.ite2 | (apply Keeps.snd; assumption)
    | (apply Keeps.after; first | apply keeps_mcDeliverLocal | apply keeps_runDesc | apply keeps_mcastGo | apply keeps_readBranches | apply keeps_modRun | apply keeps_failDesc)
    | intro _ | split

theorem keeps_doMcastTimeout : ∀ x0 x1 x2 x3 s, Keeps s (doMcastTimeout x0 x1 x2 x3 s) := by
  intro x0 x1 x2 x3 s
  unfold doMcastTimeout
  try dsimp only
  with_reducible repeat' first
    | apply Keeps.refl | apply Keeps.ite
    | (apply Keeps.after; first | apply keeps_failBranch | apply keeps_atTime | apply keeps_doMcast) | intro _ | split

theorem keeps_openPacket : ∀ x0 x1 s, Keeps s (openPacket x0 x1 s).2 := by
  intro x0 x1 s
  unfold openPacket
  try dsimp only
  with_reducible repeat' first | apply Keeps.refl | assumption | (apply Keeps.after; apply keeps_freeNat)

theorem keeps_rsigAnswer {f : Nat → State → State} (hf : ∀ k s, Keeps s (f k s)) (q idx : W32) (s : State) :
    Keeps s (rsigAnswer q idx f s) := by
  unfold rsigAnswer
  try dsimp only
  with_reducible repeat' first
    | apply Keeps.refl | assumption | apply Keeps.ite | (apply Keeps.after; apply hf)
    | (apply Keeps.after; apply keeps_staleMsg) | split

theorem keeps_doRsigAck : ∀ x0 x1 s, Keeps s (doRsigAck x0 x1 s) := by
  intro x0 x1 s
  unfold doRsigAck
  try dsimp only
  with_reducible repeat' first
    | apply Keeps.refl | assumption | apply Keeps.ite | apply Keeps.ite2 | fail_if_no_progress apply Keeps.upd
    | (apply Keeps.after; first | apply keeps_rsigAnswer | apply keeps_completeDesc) | intro _

theorem keeps_sendReel : ∀ x0 x1 x2 x3 x4 x5 s, Keeps s (sendReel x0 x1 x2 x3 x4 x5 s) := by
  intro x0 x1 x2 x3 x4 x5 s
  unfold sendReel
  try dsimp only
  with_reducible repeat' first | apply Keeps.refl | (apply Keeps.after; first | apply keeps_sendPacket | apply keeps_emit)

theorem keeps_doArrival : ∀ x0 x1 x2 x3 s, Keeps s (doArrival x0 x1 x2 x3 s) := by
  intro x0 x1 x2 x3 s
  unfold doArrival
  try dsimp only
  with_reducible repeat' first
    | apply Keeps.refl | apply Keeps.ite
    | (apply Keeps.after; first | apply keeps_countLink | apply keeps_setReel | apply keeps_signalNum | apply keeps_sendReel)
    | split

theorem keeps_doCredit : ∀ x0 x1 x2 s, Keeps s (doCredit x0 x1 x2 s) := by
  intro x0 x1 x2 s
  unfold doCredit
  try dsimp only
  with_reducible repeat' first
    | apply Keeps.refl | apply Keeps.ite | (apply Keeps.after; first | apply keeps_countLink | apply keeps_setReel)
    | split

theorem keeps_takeRsig : ∀ x0 s, Keeps s (takeRsig x0 s).2 := by
  intro x0 s
  unfold takeRsig
  try dsimp only
  with_reducible repeat' first
    | apply Keeps.refl | assumption | apply Keeps.ite | apply Keeps.ite2
    | (apply Keeps.after; first | apply keeps_cueSignal | apply keeps_event | apply keeps_bumpSat)

theorem keeps_doRsigRefused : ∀ x0 x1 s, Keeps s (doRsigRefused x0 x1 s) := by
  intro x0 x1 s
  unfold doRsigRefused
  try dsimp only
  with_reducible repeat' first
    | apply Keeps.refl | assumption | apply Keeps.ite | apply Keeps.ite2 | fail_if_no_progress apply Keeps.upd
    | (apply Keeps.after; first | apply keeps_rsigAnswer | apply keeps_failDesc) | intro _

theorem keeps_doArrivalAck : ∀ x0 x1 x2 x3 s, Keeps s (doArrivalAck x0 x1 x2 x3 s) := by
  intro x0 x1 x2 x3 s
  unfold doArrivalAck
  try dsimp only
  with_reducible repeat' first
    | apply Keeps.refl | apply Keeps.ite
    | (apply Keeps.after; first | apply keeps_countLink | apply keeps_completeDesc | apply keeps_modRun) | split

theorem keeps_doReelFree : ∀ x0 s, Keeps s (doReelFree x0 s) := by
  intro x0 s
  unfold doReelFree
  try dsimp only
  with_reducible repeat' first
    | apply Keeps.refl | apply Keeps.ite
    | (apply Keeps.after; first | apply keeps_armFree | apply keeps_sendReel | apply keeps_setReel)

theorem keeps_cutQueues : ∀ x0 s, Keeps s (cutQueues x0 s) := by
  intro x0 s
  unfold cutQueues
  try dsimp only
  with_reducible repeat' first
    | apply Keeps.refl
    | (apply Keeps.after; first | apply keeps_forEach | apply keeps_setQueue | apply keeps_disableQueue | apply keeps_rput | apply keeps_callAdvance)
    | intro _

theorem keeps_packSectors : ∀ x0 s, Keeps s (packSectors x0 s).2 := by
  intro x0 s
  unfold packSectors
  try dsimp only
  with_reducible repeat' first
    | apply Keeps.refl | assumption | apply Keeps.ite | apply Keeps.ite2 | (apply Keeps.after; apply keeps_freeNat)

theorem keeps_reelGo : ∀ x0 x1 x2 x3 s, Keeps s (reelGo x0 x1 x2 x3 s) := by
  intro x0 x1 x2 x3 s
  fun_induction reelGo x0 x1 x2 x3 s
  with_reducible repeat' first
    | apply Keeps.refl | assumption | apply Keeps.ite | apply Keeps.ite2 | (apply Keeps.snd; assumption)
    | (apply Keeps.after; assumption)
    | (apply Keeps.after; first | apply keeps_sendReel | apply keeps_setReel | apply keeps_modRun | apply keeps_readMore | apply keeps_failDesc | apply keeps_packSectors | apply keeps_countUnits)

theorem keeps_doReel : ∀ x0 x1 x2 s, Keeps s (doReel x0 x1 x2 s) := by
  intro x0 x1 x2 s
  unfold doReel
  try dsimp only
  with_reducible repeat' first
    | apply Keeps.refl | apply Keeps.ite
    | (apply Keeps.after; first | apply keeps_runDesc | apply keeps_failDesc | apply keeps_setReel | apply keeps_reelGo | apply keeps_modRun)
    | intro _

theorem keeps_doBlock : ∀ x0 s, Keeps s (doBlock x0 s).2 := by
  intro x0 s
  unfold doBlock
  try dsimp only
  with_reducible repeat' first
    | apply Keeps.refl | assumption | apply Keeps.ite | apply Keeps.ite2
    | (apply Keeps.after; first | apply keeps_countLink | apply keeps_cfgEvent | apply keeps_engStoreAll) | split

theorem keeps_doRsignalReceive : ∀ x0 s, Keeps s (doRsignalReceive x0 s) := by
  intro x0 s
  unfold doRsignalReceive
  try dsimp only
  with_reducible repeat' first
    | apply Keeps.refl | assumption | apply Keeps.ite | apply Keeps.ite2
    | (apply Keeps.after; first | apply keeps_takeRsig | apply keeps_openPacket | apply keeps_emit | apply keeps_sendPacket)

theorem keeps_doRsignal : ∀ x0 x1 x2 s, Keeps s (doRsignal x0 x1 x2 s) := by
  intro x0 x1 x2 s
  unfold doRsignal
  try dsimp only
  with_reducible repeat' first
    | apply Keeps.refl | assumption | apply Keeps.ite | apply Keeps.ite2 | (apply Keeps.snd; assumption)
    | (apply Keeps.after; first | apply keeps_runDesc | apply keeps_failDesc | apply keeps_takeRsig | apply keeps_completeDesc | apply keeps_modRun | apply keeps_openPacket | apply keeps_emit | apply keeps_sendPacket)
    | intro _ | split

theorem keeps_modReel : ∀ x0 x1 s, Keeps s (modReel x0 x1 s) := by
  intro x0 x1 s
  unfold modReel
  try dsimp only
  with_reducible repeat' first | apply Keeps.refl | (apply Keeps.after; apply keeps_setReel)

theorem keeps_cutReels : ∀ x0 s, Keeps s (cutReels x0 s) := by
  intro x0 s
  unfold cutReels
  try dsimp only
  with_reducible repeat' first
    | apply Keeps.refl | apply Keeps.ite
    | (apply Keeps.after; first | apply keeps_forEach | apply keeps_callAdvance | apply keeps_withdraw | apply keeps_modReel)
    | intro _

theorem keeps_doMcPacket : ∀ x0 x1 x2 x3 s, Keeps s (doMcPacket x0 x1 x2 x3 s) := by
  intro x0 x1 x2 x3 s
  unfold doMcPacket
  try dsimp only
  with_reducible repeat' first
    | apply Keeps.refl | assumption | apply Keeps.ite | apply KeepsO.ite | apply KeepsO.ofNone | apply KeepsO.ofSome
    | (apply KeepsO.of; assumption)
    | (apply Keeps.after; first | apply keeps_consumePkt | apply keeps_countLink | apply keeps_mcDeliverLocal)
    | (apply KeepsO.after; apply keeps_mcReplicate) | split

theorem keeps_forwardTo : ∀ x0 x1 x2 x3 x4 s, Keeps s (forwardTo x0 x1 x2 x3 x4 s) := by
  intro x0 x1 x2 x3 x4 s
  unfold forwardTo
  try dsimp only
  with_reducible repeat' first
    | apply Keeps.refl | apply Keeps.ite | (apply Keeps.after; first | apply keeps_queuePkt | apply keeps_zSend)

theorem keeps_reqPacket : ∀ x0 s, Keeps s (reqPacket x0 s) := by
  intro x0 s
  unfold reqPacket
  try dsimp only
  with_reducible repeat' first
    | apply Keeps.refl | assumption | apply Keeps.ite | apply Keeps.ite2 | fail_if_no_progress apply Keeps.upd
    | (apply Keeps.after; first | apply keeps_sendCoh | apply keeps_fromHolder | apply keeps_fromHolderLines | apply keeps_countLink | apply keeps_bumpSat)
    | intro _ | split

theorem keeps_respPacket : ∀ x0 s, Keeps s (respPacket x0 s) := by
  intro x0 s
  unfold respPacket
  try dsimp only
  with_reducible repeat' first
    | apply Keeps.refl | apply Keeps.ite
    | (apply Keeps.after; first | apply keeps_bumpSat | apply keeps_doInv | apply keeps_doRecall | apply keeps_doDowngrade | apply keeps_doCollect | apply keeps_doData | apply keeps_doGrant | apply keeps_doAckLocal | apply keeps_doAckGlobal | apply keeps_doAtomicResult | apply keeps_doSnoopAck | apply keeps_doSnoopData | apply keeps_doAck | apply keeps_doNack | apply keeps_doRetry | apply keeps_doError)
    | split

theorem keeps_handlePacket : ∀ x0 x1 s, Keeps s (handlePacket x0 x1 s).2 := by
  intro x0 x1 s
  unfold handlePacket
  try dsimp only
  with_reducible repeat' first
    | apply Keeps.refl | assumption | apply Keeps.ite | apply Keeps.ite2 | fail_if_no_progress apply Keeps.upd
    | (apply Keeps.after; first | apply keeps_reqPacket | apply keeps_respPacket | apply keeps_doArrive | apply keeps_doDepart | apply keeps_doDelayNotice | apply keeps_doExtend | apply keeps_countLink | apply keeps_doBlock | apply keeps_doArrival | apply keeps_doArrivalAck | apply keeps_doCredit | apply keeps_doMcAck | apply keeps_staleMsg)
    | intro _ | split

theorem keeps_doPacketForward : ∀ x0 x1 x2 x3 s, Keeps s (doPacketForward x0 x1 x2 x3 s) := by
  intro x0 x1 x2 x3 s
  unfold doPacketForward
  try dsimp only
  with_reducible repeat' first
    | apply Keeps.refl | assumption | apply Keeps.ite | apply Keeps.ite2 | fail_if_no_progress apply Keeps.upd
    | (apply Keeps.after; first | apply keeps_consumePkt | apply keeps_countLink | apply keeps_forwardTo | apply keeps_sendCoh)
    | intro _ | split

theorem keeps_doPacketDeliver : ∀ x0 x1 x2 s, Keeps s (doPacketDeliver x0 x1 x2 s) := by
  intro x0 x1 x2 s
  unfold doPacketDeliver
  try dsimp only
  with_reducible repeat' first
    | apply Keeps.refl | assumption | apply Keeps.ite | apply Keeps.ite2 | (apply Keeps.snd; assumption)
    | fail_if_no_progress apply Keeps.upd
    | (apply Keeps.after; first | apply keeps_consumePkt | apply keeps_countLink | apply keeps_bumpSat | apply keeps_handlePacket | apply keeps_mcDeliverLocal)
    | intro _ | split

theorem keeps_regulTake : ∀ x0 s, Keeps s (regulTake x0 s) := by
  intro x0 s
  unfold regulTake
  try dsimp only
  with_reducible repeat' first
    | apply Keeps.refl | fail_if_no_progress apply Keeps.upd | (apply Keeps.after; apply keeps_groupTake)

theorem keeps_regCommitAct : ∀ x0 s, Keeps s (regCommitAct x0 s) := by
  intro x0 s
  unfold regCommitAct
  try dsimp only
  with_reducible repeat' first
    | apply Keeps.refl | apply Keeps.ite | (apply Keeps.after; first | apply keeps_regulTake | apply keeps_setRegul)

theorem keeps_setGuarantee : ∀ x0 x1 x2 x3 s, KeepsO s (setGuarantee x0 x1 x2 x3 s) := by
  intro x0 x1 x2 x3 s
  unfold setGuarantee
  try dsimp only
  with_reducible repeat' first
    | apply Keeps.refl | assumption | apply Keeps.ite | apply Keeps.ite2 | apply KeepsO.ite | apply KeepsO.ofNone
    | apply KeepsO.ofSome | apply KeepsO.map | apply KeepsO.bind | apply KeepsO.mapOf
    | fail_if_no_progress apply Keeps.upd | apply KeepsO.getD
    | (apply Keeps.after; first | apply keeps_putField | apply keeps_groupApply | apply keeps_regCommitAct | apply keeps_modRegul)

theorem keeps_noteMiss : ∀ x0 x1 x2 s, Keeps s (noteMiss x0 x1 x2 s) := by
  intro x0 x1 x2 s
  unfold noteMiss
  try dsimp only
  with_reducible repeat' first
    | apply Keeps.refl
    | (apply Keeps.after; first | apply keeps_modRegul | apply keeps_emit | apply keeps_when | apply keeps_signalNum | apply keeps_event)
    | intro _

theorem keeps_releaseHeld : ∀ x0 s, Keeps s (releaseHeld x0 s) := by
  intro x0 s
  unfold releaseHeld
  try dsimp only
  with_reducible repeat' first
    | apply Keeps.refl
    | (apply Keeps.after; first | apply keeps_forEach | apply keeps_homeArrive | apply keeps_govIssue | apply keeps_modRegul)
    | intro _ | split

theorem keeps_doWindowBoundary : ∀ x0 s, Keeps s (doWindowBoundary x0 s) := by
  intro x0 s
  unfold doWindowBoundary
  try dsimp only
  with_reducible repeat' first
    | apply Keeps.refl | apply Keeps.ite
    | (apply Keeps.after; first | apply keeps_atTime | apply keeps_setRegul | apply keeps_when | apply keeps_noteMiss | apply keeps_regulTake | apply keeps_modRegul | apply keeps_releaseHeld)
    | intro _

theorem keeps_releaseLoads : ∀ x0 s, Keeps s (releaseLoads x0 s) := by
  intro x0 s
  unfold releaseLoads
  try dsimp only
  with_reducible repeat' first | apply Keeps.refl | (apply Keeps.after; apply keeps_modRegul)

theorem keeps_regOwnerAct : ∀ x0 x1 s, Keeps s (regOwnerAct x0 x1 s) := by
  intro x0 x1 s
  unfold regOwnerAct
  try dsimp only
  with_reducible repeat' first
    | apply Keeps.refl | apply Keeps.ite | (apply Keeps.after; first | apply keeps_releaseLoads | apply keeps_rput)

theorem keeps_cutReguls : ∀ x0 s, Keeps s (cutReguls x0 s) := by
  intro x0 s
  unfold cutReguls
  try dsimp only
  with_reducible repeat' first
    | apply Keeps.refl | (apply Keeps.after; first | apply keeps_forEach | apply keeps_rput | apply keeps_modRegul)
    | intro _

theorem keeps_bindAct : ∀ x0 x1 x2 s, Keeps s (bindAct x0 x1 x2 s) := by
  intro x0 x1 x2 s
  unfold bindAct
  try dsimp only
  with_reducible repeat' first
    | apply Keeps.refl | (apply Keeps.after; first | apply keeps_rput | apply keeps_forEach | apply keeps_bindEvent)
    | intro _ | split

theorem keeps_releasePart : ∀ x0 s, Keeps s (releasePart x0 s) := by
  intro x0 s
  unfold releasePart
  try dsimp only
  with_reducible repeat' first
    | apply Keeps.refl | (apply Keeps.after; first | apply keeps_forEach | apply keeps_when | apply keeps_releaseLoads)
    | intro _

theorem keeps_readmit : ∀ s, Keeps s (readmit s) := by
  intro s
  unfold readmit
  try dsimp only
  with_reducible repeat' first
    | apply Keeps.refl | assumption | apply Keeps.ite | apply Keeps.ite2
    | (apply Keeps.after; first | apply keeps_forEach | apply keeps_event | apply keeps_modRegul) | intro _

theorem keeps_flashPut : ∀ x0 x1 s, Keeps s (flashPut x0 x1 s) := by
  intro x0 x1 s
  unfold flashPut
  try dsimp only
  with_reducible repeat' first | apply Keeps.refl | fail_if_no_progress apply Keeps.upd

theorem keeps_writeCtl : ∀ x0 x1 s, Keeps s (writeCtl x0 x1 s) := by
  intro x0 x1 s
  unfold writeCtl
  try dsimp only
  with_reducible repeat' first | apply Keeps.refl | (apply Keeps.after; apply keeps_flashPut)

theorem keeps_applySettings : ∀ s, Keeps s (applySettings s) := by
  intro s
  unfold applySettings
  try dsimp only
  with_reducible repeat' first
    | apply Keeps.refl | (apply Keeps.after; first | apply keeps_rput | apply keeps_forEach) | intro _

theorem keeps_fwPut : ∀ x0 x1 s, Keeps s (fwPut x0 x1 s) := by
  intro x0 x1 s
  unfold fwPut
  try dsimp only
  with_reducible repeat' first | apply Keeps.refl | assumption | (apply Keeps.after; apply keeps_engPut)

theorem keeps_areaPut : ∀ x0 x1 x2 s, Keeps s (areaPut x0 x1 x2 s) := by
  intro x0 x1 x2 s
  unfold areaPut
  try dsimp only
  with_reducible repeat' first | apply Keeps.refl | fail_if_no_progress apply Keeps.upd | split

theorem keeps_chooseRecord : ∀ s, Keeps s (chooseRecord s) := by
  intro s
  unfold chooseRecord
  try dsimp only
  with_reducible repeat' first | apply Keeps.refl | apply Keeps.ite | fail_if_no_progress apply Keeps.upd | split

theorem keeps_measStore : ∀ x0 x1 s, Keeps s (measStore x0 x1 s) := by
  intro x0 x1 s
  unfold measStore
  try dsimp only
  with_reducible repeat' first | apply Keeps.refl | (apply Keeps.after; apply keeps_fwPut)

theorem keeps_measure : ∀ x0 x1 x2 x3 x4 s, Keeps s (measure x0 x1 x2 x3 x4 s) := by
  intro x0 x1 x2 x3 x4 s
  unfold measure
  try dsimp only
  with_reducible repeat' first
    | apply Keeps.refl | apply Keeps.ite | fail_if_no_progress apply Keeps.upd
    | (apply Keeps.after; apply keeps_measStore)

theorem keeps_setSb : ∀ x0 x1 s, Keeps s (setSb x0 x1 s) := by
  intro x0 x1 s
  unfold setSb
  try dsimp only
  with_reducible repeat' first | apply Keeps.refl | fail_if_no_progress apply Keeps.upd

theorem keeps_modSb : ∀ x0 x1 s, Keeps s (modSb x0 x1 s) := by
  intro x0 x1 s
  unfold modSb
  try dsimp only
  with_reducible repeat' first | apply Keeps.refl | (apply Keeps.after; apply keeps_setSb)

theorem keeps_sideSend : ∀ x0 x1 x2 s, Keeps s (sideSend x0 x1 x2 s) := by
  intro x0 x1 x2 s
  unfold sideSend
  try dsimp only
  with_reducible repeat' first
    | apply Keeps.refl | apply Keeps.ite | (apply Keeps.after; first | apply keeps_emit | apply keeps_modSb) | split

theorem keeps_sideGot : ∀ x0 x1 x2 s, Keeps s (sideGot x0 x1 x2 s) := by
  intro x0 x1 x2 s
  unfold sideGot
  try dsimp only
  with_reducible repeat' first | apply Keeps.refl | (apply Keeps.after; apply keeps_sideSend)

theorem keeps_sideTold : ∀ x0 x1 x2 s, Keeps s (sideTold x0 x1 x2 s) := by
  intro x0 x1 x2 s
  unfold sideTold
  try dsimp only
  with_reducible repeat' first
    | apply Keeps.refl | (apply Keeps.after; first | apply keeps_sideGot | apply keeps_emit) | split

theorem keeps_bundleTell : ∀ x0 x1 x2 s, Keeps s (bundleTell x0 x1 x2 s) := by
  intro x0 x1 x2 s
  unfold bundleTell
  try dsimp only
  with_reducible repeat' first
    | apply Keeps.refl | (apply Keeps.after; first | apply keeps_sideTold | apply keeps_sideSend) | split

theorem keeps_reportBundle : ∀ x0 x1 s, Keeps s (reportBundle x0 x1 s) := by
  intro x0 x1 s
  unfold reportBundle
  try dsimp only
  with_reducible repeat' first | apply Keeps.refl | apply Keeps.ite | (apply Keeps.after; apply keeps_bundleTell)

theorem keeps_startSb : ∀ x0 s, Keeps s (startSb x0 s) := by
  intro x0 s
  unfold startSb
  try dsimp only
  with_reducible repeat' first | apply Keeps.refl | (apply Keeps.after; apply keeps_modSb)

theorem keeps_dropSiteReqs : ∀ x0 s, Keeps s (dropSiteReqs x0 s) := by
  intro x0 s
  unfold dropSiteReqs
  try dsimp only
  with_reducible repeat' first | apply Keeps.refl | fail_if_no_progress apply Keeps.upd

theorem keeps_withdrawSite : ∀ x0 s, Keeps s (withdrawSite x0 s) := by
  intro x0 s
  unfold withdrawSite
  try dsimp only
  with_reducible repeat' first | apply Keeps.refl | fail_if_no_progress apply Keeps.upd

theorem keeps_fenceSite : ∀ x0 x1 s, Keeps s (fenceSite x0 x1 s) := by
  intro x0 x1 s
  unfold fenceSite
  try dsimp only
  with_reducible repeat' first
    | apply Keeps.refl | apply Keeps.ite
    | (apply Keeps.after; first | apply keeps_sideSend | apply keeps_setSite | apply keeps_forEach | apply keeps_modBundle | apply keeps_dropHolder | apply keeps_dropSiteReqs | apply keeps_callAdvance | apply keeps_withdrawSite | apply keeps_event)
    | intro _

theorem keeps_gsCtlAct : ∀ x0 x1 s, Keeps s (gsCtlAct x0 x1 s) := by
  intro x0 x1 s
  unfold gsCtlAct
  try dsimp only
  with_reducible repeat' first
    | apply Keeps.refl | apply Keeps.ite
    | (apply Keeps.after; first | apply keeps_rput | apply keeps_startSb | apply keeps_setSite | apply keeps_fenceSite | apply keeps_modSb | apply keeps_modSite)

theorem keeps_restartSb : ∀ x0 s, Keeps s (restartSb x0 s) := by
  intro x0 s
  unfold restartSb
  try dsimp only
  with_reducible repeat' first
    | apply Keeps.refl | apply Keeps.ite
    | (apply Keeps.after; first | apply keeps_modSb | apply keeps_startSb | apply keeps_ruleEvent | apply keeps_fenceSite)
    | split

theorem keeps_applyList : ∀ x0 s, Keeps s (applyList x0 s) := by
  intro x0 s
  unfold applyList
  try dsimp only
  with_reducible repeat' first | apply Keeps.refl | fail_if_no_progress apply Keeps.upd | split

theorem keeps_leaveList : ∀ x0 x1 s, Keeps s (leaveList x0 x1 s) := by
  intro x0 x1 s
  unfold leaveList
  try dsimp only
  with_reducible repeat' first
    | apply Keeps.refl | assumption | apply Keeps.ite | apply Keeps.ite2
    | (apply Keeps.after; first | apply keeps_setBundle | apply keeps_zPump | apply keeps_modBundle | apply keeps_forEach | apply keeps_zPlace | apply keeps_foldl | apply keeps_foldl2)
    | intro _ | split

theorem keeps_siteCheck : ∀ x0 s, Keeps s (siteCheck x0 s) := by
  intro x0 s
  unfold siteCheck
  try dsimp only
  with_reducible repeat' first
    | apply Keeps.refl | apply Keeps.ite
    | (apply Keeps.after; first | apply keeps_measure | apply keeps_setSite | apply keeps_fenceSite)

theorem keeps_doBundleList : ∀ x0 s, Keeps s (doBundleList x0 s) := by
  intro x0 s
  unfold doBundleList
  try dsimp only
  with_reducible repeat' first
    | apply Keeps.refl | apply Keeps.ite
    | (apply Keeps.after; first | apply keeps_applyList | apply keeps_forEach | apply keeps_leaveList | apply keeps_zPump | apply keeps_siteCheck)
    | intro _ | split

theorem keeps_doCapGrant : ∀ x0 x1 s, Keeps s (doCapGrant x0 x1 s) := by
  intro x0 x1 s
  unfold doCapGrant
  try dsimp only
  with_reducible repeat' first | apply Keeps.refl | apply Keeps.ite | (apply Keeps.after; apply keeps_modSb) | split

theorem keeps_doTapAck : ∀ x0 x1 x2 x3 s, Keeps s (doTapAck x0 x1 x2 x3 s) := by
  intro x0 x1 x2 x3 s
  unfold doTapAck
  try dsimp only
  with_reducible repeat' first | apply Keeps.refl | apply Keeps.ite | (apply Keeps.after; apply keeps_modSb)

theorem keeps_doTapReq : ∀ x0 x1 x2 x3 s, Keeps s (doTapReq x0 x1 x2 x3 s) := by
  intro x0 x1 x2 x3 s
  unfold doTapReq
  try dsimp only
  with_reducible repeat' first
    | apply Keeps.refl | apply Keeps.ite | (apply Keeps.after; first | apply keeps_setSb | apply keeps_sideSend)

theorem keeps_eyeAct : ∀ x0 x1 x2 x3 s, Keeps s (eyeAct x0 x1 x2 x3 s) := by
  intro x0 x1 x2 x3 s
  unfold eyeAct
  try dsimp only
  with_reducible repeat' first
    | apply Keeps.refl | apply Keeps.ite | (apply Keeps.after; first | apply keeps_rput | apply keeps_modSb)

theorem keeps_countBundle : ∀ x0 x1 s, Keeps s (countBundle x0 x1 s) := by
  intro x0 x1 s
  unfold countBundle
  try dsimp only
  with_reducible repeat' first | apply Keeps.refl | apply Keeps.ite | (apply Keeps.after; apply keeps_bumpSat) | split

theorem keeps_noteRetrain : ∀ x0 s, Keeps s (noteRetrain x0 s) := by
  intro x0 s
  unfold noteRetrain
  try dsimp only
  with_reducible repeat' first | apply Keeps.refl | (apply Keeps.after; first | apply keeps_event | apply keeps_countBundle)

theorem keeps_recordLanes : ∀ x0 x1 x2 x3 s, Keeps s (recordLanes x0 x1 x2 x3 s) := by
  intro x0 x1 x2 x3 s
  unfold recordLanes
  try dsimp only
  with_reducible repeat' first
    | apply Keeps.refl
    | (apply Keeps.after; first | apply keeps_forEach | apply keeps_eventD | apply keeps_when | apply keeps_event)
    | intro _

theorem keeps_sendViews : ∀ x0 x1 x2 x3 x4 s, Keeps s (sendViews x0 x1 x2 x3 x4 s) := by
  intro x0 x1 x2 x3 x4 s
  unfold sendViews
  try dsimp only
  with_reducible repeat' first
    | apply Keeps.refl
    | (apply Keeps.after; first | apply keeps_sideTold | apply keeps_forEach | apply keeps_bundleTell | apply keeps_when)
    | intro _ | split

theorem keeps_trainZ : ∀ x0 x1 x2 s, Keeps s (trainZ x0 x1 x2 s).2 := by
  intro x0 x1 x2 s
  unfold trainZ
  try dsimp only
  with_reducible repeat' first
    | apply Keeps.refl | assumption
    | (apply Keeps.after; first | apply keeps_setBundle | apply keeps_recordLanes | apply keeps_sendViews | apply keeps_reportBundle)

theorem keeps_noteWidth : ∀ x0 x1 s, Keeps s (noteWidth x0 x1 s) := by
  intro x0 x1 s
  unfold noteWidth
  try dsimp only
  with_reducible repeat' first
    | apply Keeps.refl | (apply Keeps.after; first | apply keeps_when | apply keeps_event) | intro _

theorem keeps_addMismatches : ∀ x0 s, Keeps s (addMismatches x0 s) := by
  intro x0 s
  unfold addMismatches
  try dsimp only
  with_reducible repeat' first | apply Keeps.refl | fail_if_no_progress apply Keeps.upd

theorem keeps_retrainCore : ∀ x0 x1 x2 s, Keeps s (retrainCore x0 x1 x2 s) := by
  intro x0 x1 x2 s
  unfold retrainCore
  try dsimp only
  with_reducible repeat' first
    | apply Keeps.refl | assumption | apply Keeps.ite | apply Keeps.ite2
    | (apply Keeps.after; first | apply keeps_when | apply keeps_noteRetrain | apply keeps_countBundle | apply keeps_trainZ | apply keeps_zPump | apply keeps_noteWidth | apply keeps_addMismatches | apply keeps_recordLanes | apply keeps_setBundle | apply keeps_reportBundle | apply keeps_sendViews | apply keeps_siteCheck)
    | intro _ | split

theorem keeps_doBundleState : ∀ x0 x1 x2 x3 s, Keeps s (doBundleState x0 x1 x2 x3 s) := by
  intro x0 x1 x2 x3 s
  unfold doBundleState
  try dsimp only
  with_reducible repeat' first | apply Keeps.refl | apply Keeps.ite | (apply Keeps.after; apply keeps_modBundle)

theorem keeps_doSbLaneLoss : ∀ x0 x1 s, Keeps s (doSbLaneLoss x0 x1 s) := by
  intro x0 x1 s
  unfold doSbLaneLoss
  try dsimp only
  with_reducible repeat' first
    | apply Keeps.refl | apply Keeps.ite | (apply Keeps.after; first | apply keeps_modSb | apply keeps_restartSb)

theorem keeps_doLinkFlit : ∀ x0 x1 s, Keeps s (doLinkFlit x0 x1 s) := by
  intro x0 x1 s
  unfold doLinkFlit
  try dsimp only
  with_reducible repeat' first
    | apply Keeps.refl | assumption | apply Keeps.ite | apply Keeps.ite2
    | (apply Keeps.after; first | apply keeps_setBundle | apply keeps_sideSend | apply keeps_noteRetrain | apply keeps_zPump | apply keeps_forEach | apply keeps_emitFrame)
    | intro _

theorem keeps_popMsg : ∀ x0 x1 s, Keeps s (popMsg x0 x1 s) := by
  intro x0 x1 s
  unfold popMsg
  try dsimp only
  with_reducible repeat' first | apply Keeps.refl | (apply Keeps.after; apply keeps_setBundle) | split

theorem keeps_doZoramAge : ∀ x0 x1 s, Keeps s (doZoramAge x0 x1 s) := by
  intro x0 x1 s
  unfold doZoramAge
  try dsimp only
  with_reducible repeat' first
    | apply Keeps.refl | (apply Keeps.after; first | apply keeps_bumpSat | apply keeps_popMsg | apply keeps_atTime)
    | split

theorem keeps_doSbResend : ∀ x0 s, Keeps s (doSbResend x0 s) := by
  intro x0 s
  unfold doSbResend
  try dsimp only
  with_reducible repeat' first
    | apply Keeps.refl | apply Keeps.ite
    | (apply Keeps.after; first | apply keeps_atTime | apply keeps_restartSb | apply keeps_modSb | apply keeps_emit)
    | split

theorem keeps_doSbStageTimeout : ∀ x0 s, Keeps s (doSbStageTimeout x0 s) := by
  intro x0 s
  unfold doSbStageTimeout
  try dsimp only
  with_reducible repeat' first
    | apply Keeps.refl | apply Keeps.ite | (apply Keeps.after; first | apply keeps_restartSb | apply keeps_atTime)

theorem keeps_doGuestFence : ∀ x0 x1 x2 s, Keeps s (doGuestFence x0 x1 x2 s) := by
  intro x0 x1 x2 s
  unfold doGuestFence
  try dsimp only
  with_reducible repeat' first | apply Keeps.refl | apply Keeps.ite | (apply Keeps.after; apply keeps_zSend)

theorem keeps_doEyeScanDone : ∀ x0 x1 s, Keeps s (doEyeScanDone x0 x1 s) := by
  intro x0 x1 s
  unfold doEyeScanDone
  try dsimp only
  with_reducible repeat' first | apply Keeps.refl | apply Keeps.ite | (apply Keeps.after; apply keeps_modSb)

theorem keeps_trainAll : ∀ x0 s, Keeps s (trainAll x0 s) := by
  intro x0 s
  unfold trainAll
  try dsimp only
  with_reducible repeat' first
    | apply Keeps.refl | assumption | apply Keeps.ite | apply Keeps.ite2 | fail_if_no_progress apply Keeps.upd
    | (apply Keeps.after; first | apply keeps_trainZ | apply keeps_addMismatches | apply keeps_applyList | apply keeps_foldl | apply keeps_foldl2)
    | intro _

theorem keeps_doSnoopLimit : ∀ x0 s, Keeps s (doSnoopLimit x0 s) := by
  intro x0 s
  unfold doSnoopLimit
  try dsimp only
  with_reducible repeat' first
    | apply Keeps.refl | assumption | apply Keeps.ite | apply Keeps.ite2
    | (apply Keeps.after; first | apply keeps_fenceSite | apply keeps_atTime | apply keeps_foldl | apply keeps_foldl2)
    | intro _ | split

theorem keeps_doSplice : ∀ x0 x1 x2 x3 s, Keeps s (doSplice x0 x1 x2 x3 s) := by
  intro x0 x1 x2 x3 s
  unfold doSplice
  try dsimp only
  with_reducible repeat' first
    | apply Keeps.refl | apply Keeps.ite | (apply Keeps.after; first | apply keeps_modBundle | apply keeps_sideSend)

theorem keeps_ownCap : ∀ x0 s, Keeps s (ownCap x0 s).2 := by
  intro x0 s
  unfold ownCap
  try dsimp only
  with_reducible repeat' first
    | apply Keeps.refl | assumption | apply Keeps.ite | apply Keeps.ite2 | (apply Keeps.after; apply keeps_freeNat)

theorem keeps_grantAcked : ∀ s, Keeps s (grantAcked s) := by
  intro s
  unfold grantAcked
  try dsimp only
  with_reducible repeat' first | apply Keeps.refl | fail_if_no_progress apply Keeps.upd | split

theorem keeps_doSbAck : ∀ x0 x1 x2 s, Keeps s (doSbAck x0 x1 x2 s) := by
  intro x0 x1 x2 s
  unfold doSbAck
  try dsimp only
  with_reducible repeat' first
    | apply Keeps.refl | apply Keeps.ite | (apply Keeps.after; first | apply keeps_modSb | apply keeps_grantAcked)

theorem keeps_doCap : ∀ x0 x1 s, Keeps s (doCap x0 x1 s) := by
  intro x0 x1 s
  unfold doCap
  try dsimp only
  with_reducible repeat' first
    | apply Keeps.refl | apply Keeps.ite
    | (apply Keeps.after; first | apply keeps_sideSend | apply keeps_modSb | apply keeps_modSite | apply keeps_siteCheck | apply keeps_setSite | apply keeps_eventD)
    | split

theorem keeps_doBand : ∀ x0 x1 x2 s, Keeps s (doBand x0 x1 x2 s) := by
  intro x0 x1 x2 s
  unfold doBand
  try dsimp only
  with_reducible repeat' first | apply Keeps.refl | apply Keeps.ite | (apply Keeps.after; apply keeps_setStack)

theorem keeps_doTs1 : ∀ x0 x1 x2 s, Keeps s (doTs1 x0 x1 x2 s) := by
  intro x0 x1 x2 s
  unfold doTs1
  try dsimp only
  with_reducible repeat' first
    | apply Keeps.refl | assumption | apply Keeps.ite | apply Keeps.ite2 | fail_if_no_progress apply Keeps.upd
    | (apply Keeps.after; first | apply keeps_event | apply keeps_setSb | apply keeps_ownCap | apply keeps_sideSend)

theorem keeps_cutSites : ∀ x0 s, Keeps s (cutSites x0 s) := by
  intro x0 s
  unfold cutSites
  try dsimp only
  with_reducible repeat' first
    | apply Keeps.refl
    | (apply Keeps.after; first | apply keeps_forEach | apply keeps_sideSend | apply keeps_callAdvance | apply keeps_withdrawSite)
    | intro _

end Sys2Proof.Machine
end

