-- ==== Sys2Proof/Laws/KeepsHost.lean ====
section
/-! SUPPORT. What the operations of the host port, RDMA and the Dailies keep (`Keeps`). -/

namespace Sys2Proof.Machine

open Sys2Proof

theorem keeps_modHost : ∀ x0 s, Keeps s (modHost x0 s) := by
  intro x0 s
  unfold modHost
  try dsimp only
  with_reducible repeat' first | apply Keeps.refl | fail_if_no_progress apply Keeps.upd

theorem keeps_setSes : ∀ x0 x1 s, Keeps s (setSes x0 x1 s) := by
  intro x0 x1 s
  unfold setSes
  try dsimp only
  with_reducible repeat' first | apply Keeps.refl | (apply Keeps.after; apply keeps_modHost)

theorem keeps_closeSes : ∀ x0 s, Keeps s (closeSes x0 s) := by
  intro x0 s
  unfold closeSes
  try dsimp only
  with_reducible repeat' first
    | apply Keeps.refl | apply Keeps.ite | (apply Keeps.after; first | apply keeps_callAdvance | apply keeps_setSes)

theorem keeps_doLostTimeout : ∀ x0 s, Keeps s (doLostTimeout x0 s) := by
  intro x0 s
  unfold doLostTimeout
  try dsimp only
  with_reducible repeat' first
    | apply Keeps.refl | apply Keeps.ite | (apply Keeps.after; first | apply keeps_closeSes | apply keeps_atTime)

theorem keeps_hostEmit : ∀ x0 x1 s, Keeps s (hostEmit x0 x1 s) := by
  intro x0 x1 s
  unfold hostEmit
  try dsimp only
  with_reducible repeat' first
    | apply Keeps.refl | apply Keeps.ite | (apply Keeps.after; first | apply keeps_modHost | apply keeps_emit)

theorem keeps_countHost : ∀ x0 s, Keeps s (countHost x0 s) := by
  intro x0 s
  unfold countHost
  try dsimp only
  with_reducible repeat' first | apply Keeps.refl | (apply Keeps.after; apply keeps_bumpSat)

theorem keeps_ctRefuse : ∀ x0 x1 s, Keeps s (ctRefuse x0 x1 s) := by
  intro x0 x1 s
  unfold ctRefuse
  try dsimp only
  with_reducible repeat' first
    | apply Keeps.refl | (apply Keeps.after; first | apply keeps_hostEmit | apply keeps_countHost)

theorem keeps_takeAcks : ∀ x0 x1 s, Keeps s (takeAcks x0 x1 s) := by
  intro x0 x1 s
  unfold takeAcks
  try dsimp only
  with_reducible repeat' first
    | apply Keeps.refl | assumption | apply Keeps.ite | apply Keeps.ite2 | (apply Keeps.after; apply keeps_setSes)

theorem keeps_ctTake : ∀ x0 x1 s, Keeps s (ctTake x0 x1 s).2 := by
  intro x0 x1 s
  unfold ctTake
  try dsimp only
  with_reducible repeat' first
    | apply Keeps.refl | assumption | apply Keeps.ite | apply Keeps.ite2
    | (apply Keeps.after; first | apply keeps_ctRefuse | apply keeps_countHost | apply keeps_takeAcks)

theorem keeps_doClose : ∀ x0 s, Keeps s (doClose x0 s) := by
  intro x0 s
  unfold doClose
  try dsimp only
  with_reducible repeat' first
    | apply Keeps.refl | assumption | (apply Keeps.snd; assumption)
    | (apply Keeps.after; first | apply keeps_ctTake | apply keeps_closeSes) | split

theorem keeps_sendCt : ∀ x0 x1 x2 x3 s, Keeps s (sendCt x0 x1 x2 x3 s) := by
  intro x0 x1 x2 x3 s
  unfold sendCt
  try dsimp only
  with_reducible repeat' first | apply Keeps.refl | (apply Keeps.after; apply keeps_hostEmit)

theorem keeps_sendGram : ∀ x0 x1 x2 x3 s, Keeps s (sendGram x0 x1 x2 x3 s) := by
  intro x0 x1 x2 x3 s
  unfold sendGram
  try dsimp only
  with_reducible repeat' first
    | apply Keeps.refl | apply Keeps.ite
    | (apply Keeps.after; first | apply keeps_setSes | apply keeps_when | apply keeps_sendCt) | intro _

theorem keeps_complete : ∀ x0 x1 x2 x3 x4 x5 s, Keeps s (complete x0 x1 x2 x3 x4 x5 s) := by
  intro x0 x1 x2 x3 x4 x5 s
  unfold complete
  try dsimp only
  with_reducible repeat' first
    | apply Keeps.refl | assumption | apply Keeps.ite | apply Keeps.ite2 | fail_if_no_progress apply Keeps.upd
    | (apply Keeps.after; first | apply keeps_setSes | apply keeps_fwPut | apply keeps_signalField | apply keeps_sendGram)
    | intro _ | split

theorem keeps_doAutoPending : ∀ x0 s, Keeps s (doAutoPending x0 s) := by
  intro x0 s
  unfold doAutoPending
  try dsimp only
  with_reducible repeat' first
    | apply Keeps.refl | apply Keeps.ite | (apply Keeps.after; first | apply keeps_complete | apply keeps_atTime) | split

theorem keeps_putEvent : ∀ x0 x1 x2 s, Keeps s (putEvent x0 x1 x2 s) := by
  intro x0 x1 x2 s
  unfold putEvent
  try dsimp only
  with_reducible repeat' first
    | apply Keeps.refl | apply Keeps.ite
    | (apply Keeps.after; first | apply keeps_setSes | apply keeps_fwPut | apply keeps_sendGram)

theorem keeps_openSes : ∀ x0 x1 x2 x3 x4 x5 s, Keeps s (openSes x0 x1 x2 x3 x4 x5 s) := by
  intro x0 x1 x2 x3 x4 x5 s
  unfold openSes
  try dsimp only
  with_reducible repeat' first
    | apply Keeps.refl | apply Keeps.ite
    | (apply Keeps.after; first | apply keeps_setSes | apply keeps_forEach | apply keeps_putEvent) | intro _

theorem keeps_doOpen : ∀ x0 s, Keeps s (doOpen x0 s) := by
  intro x0 s
  unfold doOpen
  try dsimp only
  with_reducible repeat' first
    | apply Keeps.refl | assumption | apply Keeps.ite | apply Keeps.ite2
    | (apply Keeps.after; first | apply keeps_ctRefuse | apply keeps_freeNat | apply keeps_hostEmit | apply keeps_openSes)
    | intro _ | split

theorem keeps_modSes : ∀ x0 x1 s, Keeps s (modSes x0 x1 s) := by
  intro x0 x1 s
  unfold modSes
  try dsimp only
  with_reducible repeat' first | apply Keeps.refl | (apply Keeps.after; apply keeps_setSes)

theorem keeps_rxDiscard : ∀ s, Keeps s (rxDiscard s) := by
  intro s
  unfold rxDiscard
  try dsimp only
  with_reducible repeat' first | apply Keeps.refl | (apply Keeps.after; apply keeps_countHost)

theorem keeps_dadConflict : ∀ x0 s, Keeps s (dadConflict x0 s) := by
  intro x0 s
  unfold dadConflict
  try dsimp only
  with_reducible repeat' first
    | apply Keeps.refl | apply Keeps.ite | (apply Keeps.after; first | apply keeps_event | apply keeps_modHost)

theorem keeps_doEthFrame : ∀ f s, Keeps s (doEthFrame f s) := by
  intro f s
  have p : ∀ o : Option State, (o = match f.body with
      | .macControl op => if f.dest = 0x0180C2000001 then some (if op = 0x0101 then s else rxDiscard s) else none
      | _ => none) → KeepsO s o := by
    rintro o rfl
    split
    · split
      · refine .ofSome ?_
        split
        · exact .refl s
        · exact keeps_rxDiscard _
      · exact .ofNone
    · exact .ofNone
  unfold doEthFrame
  dsimp only
  split
  · exact .refl s
  · split
    · exact keeps_countHost _ _
    · split
      · rename_i e
        exact (p _ rfl).use e
      · split
        · exact .refl s
        · split
          · exact keeps_rxDiscard _
          · split
            · split
              · split
                · exact .refl s
                · exact Keeps.after (keeps_hostEmit _ _ _) (keeps_modHost _ _)
              · split
                · exact .refl s
                · exact Keeps.after (keeps_hostEmit _ _ _) (keeps_modHost _ _)
            · exact keeps_dadConflict _ _
            · split
              · exact .refl s
              · exact keeps_rxDiscard _
            · exact keeps_rxDiscard _

theorem keeps_resendAll : ∀ x0 s, Keeps s (resendAll x0 s) := by
  intro x0 s
  unfold resendAll
  try dsimp only
  with_reducible repeat' first
    | apply Keeps.refl | (apply Keeps.after; first | apply keeps_modSes | apply keeps_forEach | apply keeps_sendCt)
    | intro _

theorem keeps_sesHeard : ∀ x0 s, Keeps s (sesHeard x0 s) := by
  intro x0 s
  unfold sesHeard
  try dsimp only
  with_reducible repeat' first
    | apply Keeps.refl | apply Keeps.ite | (apply Keeps.after; first | apply keeps_resendAll | apply keeps_modSes)

theorem keeps_settleUnknown : ∀ x0 x1 s, Keeps s (settleUnknown x0 x1 s) := by
  intro x0 x1 s
  fun_induction settleUnknown x0 x1 s
  with_reducible repeat' first
    | apply Keeps.refl | assumption | apply Keeps.ite | (apply Keeps.after; assumption)
    | (apply Keeps.after; apply keeps_complete)

theorem keeps_acceptEntries : ∀ x0 x1 s, Keeps s (acceptEntries x0 x1 s) := by
  intro x0 x1 s
  unfold acceptEntries
  try dsimp only
  with_reducible repeat' first
    | apply Keeps.refl | (apply Keeps.after; first | apply keeps_modSes | apply keeps_settleUnknown)

theorem keeps_doEntries : ∀ x0 s, Keeps s (doEntries x0 s) := by
  intro x0 s
  unfold doEntries
  try dsimp only
  with_reducible repeat' first
    | apply Keeps.refl | assumption | apply Keeps.ite | apply Keeps.ite2 | (apply Keeps.snd; assumption)
    | (apply Keeps.after; first | apply keeps_ctTake | apply keeps_sendCt | apply keeps_ctRefuse | apply keeps_sesHeard | apply keeps_modSes | apply keeps_forEach | apply keeps_fwPut | apply keeps_acceptEntries)
    | intro _ | split

theorem keeps_newEntries : ∀ n x c s, Keeps s (newEntries n x c s).2 := by
  intro n x c s
  have k : ∀ r i, Keeps r.2 (newEntry1 n x r i).2 := by
    intro r i
    fun_cases newEntry1 n x r i
    · exact .refl _
    · exact Keeps.snd (by assumption) (keeps_engBytes _ _ _ _)
    · exact Keeps.snd (by assumption) (keeps_engBytes _ _ _ _)
  unfold newEntries
  exact keeps_foldl2 k _ (some [], s)

theorem keeps_doHostDown : ∀ s, Keeps s (doHostDown s) := by
  intro s
  unfold doHostDown
  try dsimp only
  with_reducible repeat' first
    | apply Keeps.refl | assumption | apply Keeps.ite | apply Keeps.ite2
    | (apply Keeps.after; first | apply keeps_freeNat | apply keeps_event | apply keeps_modHost)

theorem keeps_doDadEnd : ∀ x0 s, Keeps s (doDadEnd x0 s) := by
  intro x0 s
  unfold doDadEnd
  try dsimp only
  with_reducible repeat' first | apply Keeps.refl | apply Keeps.ite | (apply Keeps.after; apply keeps_modHost) | split

theorem keeps_sesCmdDbAct : ∀ x0 x1 s, Keeps s (sesCmdDbAct x0 x1 s) := by
  intro x0 x1 s
  fun_cases sesCmdDbAct x0 x1 s
  with_reducible repeat' first
    | apply Keeps.refl | assumption | apply Keeps.ite | apply Keeps.ite2 | (apply Keeps.snd; assumption)
    | (apply Keeps.after; first | apply keeps_rput | apply keeps_newEntries | apply keeps_acceptEntries)

theorem keeps_doCtAck : ∀ x0 s, Keeps s (doCtAck x0 s) := by
  intro x0 s
  unfold doCtAck
  try dsimp only
  with_reducible repeat' first
    | apply Keeps.refl | assumption | (apply Keeps.snd; assumption)
    | (apply Keeps.after; first | apply keeps_ctTake | apply keeps_sesHeard) | split

theorem keeps_doDiscover : ∀ x0 s, Keeps s (doDiscover x0 s) := by
  intro x0 s
  unfold doDiscover
  try dsimp only
  with_reducible repeat' first | apply Keeps.refl | (apply Keeps.after; apply keeps_hostEmit)

theorem keeps_doPfc : ∀ x0 x1 s, Keeps s (doPfc x0 x1 s) := by
  intro x0 x1 s
  unfold doPfc
  try dsimp only
  with_reducible repeat' first
    | apply Keeps.refl | apply Keeps.ite
    | (apply Keeps.after; first | apply keeps_modHost | apply keeps_forEach | apply keeps_emit) | intro _

theorem keeps_doCtResend : ∀ x0 s, Keeps s (doCtResend x0 s) := by
  intro x0 s
  unfold doCtResend
  try dsimp only
  with_reducible repeat' first
    | apply Keeps.refl | apply Keeps.ite
    | (apply Keeps.after; first | apply keeps_atTime | apply keeps_setSes | apply keeps_resendAll)

theorem keeps_announce : ∀ s, Keeps s (announce s) := by
  intro s
  unfold announce
  try dsimp only
  with_reducible repeat' first
    | apply Keeps.refl | (apply Keeps.after; first | apply keeps_hostEmit | apply keeps_when | apply keeps_modHost)
    | intro _

theorem keeps_doAnnounceTimer : ∀ s, Keeps s (doAnnounceTimer s) := by
  intro s
  unfold doAnnounceTimer
  try dsimp only
  with_reducible repeat' first
    | apply Keeps.refl | apply Keeps.ite | (apply Keeps.after; first | apply keeps_announce | apply keeps_atTime)

theorem keeps_doHostUp : ∀ s, Keeps s (doHostUp s) := by
  intro s
  unfold doHostUp
  try dsimp only
  with_reducible repeat' first
    | apply Keeps.refl | apply Keeps.ite
    | (apply Keeps.after; first | apply keeps_announce | apply keeps_event | apply keeps_modHost)

theorem keeps_sesCplHeadAct : ∀ x0 x1 s, Keeps s (sesCplHeadAct x0 x1 s) := by
  intro x0 x1 s
  unfold sesCplHeadAct
  try dsimp only
  with_reducible repeat' first
    | apply Keeps.refl | apply Keeps.ite | (apply Keeps.after; first | apply keeps_rput | apply keeps_setSes)

theorem keeps_cutSessions : ∀ x0 s, Keeps s (cutSessions x0 s) := by
  intro x0 s
  unfold cutSessions
  try dsimp only
  with_reducible repeat' first
    | apply Keeps.refl | apply Keeps.ite
    | (apply Keeps.after; first | apply keeps_forEach | apply keeps_rput | apply keeps_setSes | apply keeps_closeSes)
    | intro _

theorem keeps_tellSessions : ∀ x0 x1 s, Keeps s (tellSessions x0 x1 s) := by
  intro x0 x1 s
  unfold tellSessions
  try dsimp only
  with_reducible repeat' first
    | apply Keeps.refl | apply Keeps.ite | (apply Keeps.after; first | apply keeps_forEach | apply keeps_putEvent)
    | intro _

theorem keeps_hostGet : ∀ x0 x1 x2 x3 x4 s, Keeps s (hostGet x0 x1 x2 x3 x4 s).2 := by
  intro x0 x1 x2 x3 x4 s
  fun_induction hostGet x0 x1 x2 x3 x4 s
  all_goals try dsimp only
  with_reducible repeat' first
    | apply Keeps.refl | assumption | apply Keeps.ite | apply Keeps.ite2 | (apply Keeps.snd; assumption)
    | (apply Keeps.after; assumption) | (apply Keeps.after; first | apply keeps_clearFail | apply keeps_engRead)

theorem keeps_setQp : ∀ x0 x1 s, Keeps s (setQp x0 x1 s) := by
  intro x0 x1 s
  unfold setQp
  try dsimp only
  with_reducible repeat' first | apply Keeps.refl | (apply Keeps.after; apply keeps_modHost)

theorem keeps_modQp : ∀ x0 x1 s, Keeps s (modQp x0 x1 s) := by
  intro x0 x1 s
  unfold modQp
  try dsimp only
  with_reducible repeat' first | apply Keeps.refl | (apply Keeps.after; apply keeps_setQp)

theorem keeps_qpDrop : ∀ x0 s, Keeps s (qpDrop x0 s) := by
  intro x0 s
  unfold qpDrop
  try dsimp only
  with_reducible repeat' first
    | apply Keeps.refl | apply Keeps.ite
    | (apply Keeps.after; first | apply keeps_forEach | apply keeps_failDesc | apply keeps_setQp) | intro _ | split

theorem keeps_qpError : ∀ x0 x1 s, Keeps s (qpError x0 x1 s) := by
  intro x0 x1 s
  unfold qpError
  try dsimp only
  with_reducible repeat' first
    | apply Keeps.refl | apply Keeps.ite
    | (apply Keeps.after; first | apply keeps_when | apply keeps_modQp | apply keeps_qpDrop | apply keeps_event)
    | intro _

theorem keeps_qpEmit : ∀ x0 x1 s, Keeps s (qpEmit x0 x1 s) := by
  intro x0 x1 s
  unfold qpEmit
  try dsimp only
  with_reducible repeat' first | apply Keeps.refl | (apply Keeps.after; apply keeps_hostEmit)

theorem keeps_sendPkt : ∀ x0 x1 s, Keeps s (sendPkt x0 x1 s) := by
  intro x0 x1 s
  unfold sendPkt
  try dsimp only
  with_reducible repeat' first | apply Keeps.refl | apply Keeps.ite | (apply Keeps.after; apply keeps_qpEmit)

theorem keeps_qpResend : ∀ x0 s, Keeps s (qpResend x0 s) := by
  intro x0 s
  unfold qpResend
  try dsimp only
  with_reducible repeat' first
    | apply Keeps.refl | (apply Keeps.after; first | apply keeps_forEach | apply keeps_sendPkt | apply keeps_modQp)
    | intro _

theorem keeps_qpRetry : ∀ x0 s, Keeps s (qpRetry x0 s) := by
  intro x0 s
  unfold qpRetry
  try dsimp only
  with_reducible repeat' first
    | apply Keeps.refl | apply Keeps.ite
    | (apply Keeps.after; first | apply keeps_qpError | apply keeps_qpResend | apply keeps_modQp)

theorem keeps_doRoceTimeout : ∀ x0 s, Keeps s (doRoceTimeout x0 s) := by
  intro x0 s
  unfold doRoceTimeout
  try dsimp only
  with_reducible repeat' first
    | apply Keeps.refl | apply Keeps.ite | (apply Keeps.after; first | apply keeps_qpRetry | apply keeps_atTime)

theorem keeps_hostPut : ∀ x0 x1 x2 x3 s, Keeps s (hostPut x0 x1 x2 x3 s).2 := by
  intro x0 x1 x2 x3 s
  fun_induction hostPut x0 x1 x2 x3 s
  all_goals try dsimp only
  with_reducible repeat' first
    | apply Keeps.refl | assumption | apply Keeps.ite | apply Keeps.ite2 | (apply Keeps.snd; assumption)
    | (apply Keeps.after; assumption) | (apply Keeps.after; first | apply keeps_clearFail | apply keeps_engWrite)

theorem keeps_nak : ∀ x0 x1 x2 s, Keeps s (nak x0 x1 x2 s) := by
  intro x0 x1 x2 s
  unfold nak
  try dsimp only
  with_reducible repeat' first | apply Keeps.refl | (apply Keeps.after; apply keeps_qpEmit)

theorem keeps_accessError : ∀ x0 x1 x2 x3 s, Keeps s (accessError x0 x1 x2 x3 s) := by
  intro x0 x1 x2 x3 s
  unfold accessError
  try dsimp only
  with_reducible repeat' first
    | apply Keeps.refl | assumption | apply Keeps.ite | apply Keeps.ite2 | fail_if_no_progress apply Keeps.upd
    | (apply Keeps.after; first | apply keeps_qpError | apply keeps_nak | apply keeps_when | apply keeps_cfgEvent)
    | intro _

theorem keeps_notice : ∀ x0 x1 s, Keeps s (notice x0 x1 s) := by
  intro x0 x1 s
  unfold notice
  try dsimp only
  with_reducible repeat' first
    | apply Keeps.refl | apply Keeps.ite | (apply Keeps.after; first | apply keeps_qpEmit | apply keeps_setQp) | split

theorem keeps_respond {f g : Nat → State → State} (hf : ∀ n s, Keeps s (f n s)) (hg : ∀ n s, Keeps s (g n s)) (b : Bth)
    (s : State) : Keeps s (respond b f g s) := by
  unfold respond
  try dsimp only
  with_reducible repeat' first
    | apply Keeps.refl | assumption | apply Keeps.ite | (apply Keeps.after; apply hf) | (apply Keeps.after; apply hg)
    | (apply Keeps.after; first | apply keeps_countHost | apply keeps_staleMsg | apply keeps_notice | apply keeps_nak)
    | split

theorem keeps_poisonError : ∀ x0 x1 x2 s, Keeps s (poisonError x0 x1 x2 s) := by
  intro x0 x1 x2 s
  unfold poisonError
  try dsimp only
  with_reducible repeat' first
    | apply Keeps.refl
    | (apply Keeps.after; first | apply keeps_countPoison | apply keeps_event | apply keeps_qpError | apply keeps_nak)

theorem keeps_hostAtomic : ∀ x0 x1 x2 x3 s, Keeps s (hostAtomic x0 x1 x2 x3 s) := by
  intro x0 x1 x2 x3 s
  unfold hostAtomic
  try dsimp only
  with_reducible repeat' first
    | apply Keeps.refl | assumption | apply Keeps.ite | apply Keeps.ite2 | apply KeepsP.ite | apply KeepsP.ofNone
    | apply KeepsP.ofSome | (apply Keeps.snd; assumption) | (apply KeepsP.of; assumption)
    | (apply Keeps.after; first | apply keeps_qpEmit | apply keeps_respond | apply keeps_accessError | apply keeps_nak | apply keeps_clearFail | apply keeps_ownReady | apply keeps_poisonError | apply keeps_modQp | apply keeps_rput)
    | (apply KeepsP.after; apply keeps_atomicAt) | intro _ | split

theorem keeps_qpOwnerAct : ∀ x0 x1 s, Keeps s (qpOwnerAct x0 x1 s) := by
  intro x0 x1 s
  unfold qpOwnerAct
  try dsimp only
  with_reducible repeat' first
    | apply Keeps.refl | apply Keeps.ite | (apply Keeps.after; first | apply keeps_callAdvance | apply keeps_rput)

theorem keeps_joinQp : ∀ x0 x1 x2 s, Keeps s (joinQp x0 x1 x2 s) := by
  intro x0 x1 x2 s
  unfold joinQp
  try dsimp only
  with_reducible repeat' first | apply Keeps.refl | apply Keeps.ite | (apply Keeps.after; apply keeps_modQp)

theorem keeps_rdmaBody {f : Nat → Nat → W32 → State → State} (hf : ∀ a b c s, Keeps s (f a b c s)) (n : Nat) (r : DescRun)
    (s : State) : Keeps s (rdmaBody f n r s) := by
  unfold rdmaBody
  try dsimp only
  with_reducible repeat' first
    | apply Keeps.refl | assumption | apply Keeps.ite | (apply Keeps.after; apply hf)
    | (apply Keeps.after; first | apply keeps_failDesc | apply keeps_joinQp | apply keeps_modRun)

theorem keeps_onReply {f : DescRun → State → State} (hf : ∀ r s, Keeps s (f r s)) (p : QpPkt) (s : State) :
    Keeps s (onReply p f s) := by
  unfold onReply
  try dsimp only
  with_reducible repeat' first
    | apply Keeps.refl | assumption | (apply Keeps.after; apply hf)
    | (apply Keeps.after; first | apply keeps_when | apply keeps_staleMsg) | intro _ | split

theorem keeps_leaveQp : ∀ x0 x1 x2 s, Keeps s (leaveQp x0 x1 x2 s) := by
  intro x0 x1 x2 s
  unfold leaveQp
  try dsimp only
  with_reducible repeat' first | apply Keeps.refl | (apply Keeps.after; apply keeps_modQp)

theorem keeps_ackedDescs : ∀ x0 x1 s, Keeps s (ackedDescs x0 x1 s) := by
  intro x0 x1 s
  unfold ackedDescs
  try dsimp only
  with_reducible repeat' first
    | apply Keeps.refl | apply Keeps.ite
    | (apply Keeps.after; first | apply keeps_forEach | apply keeps_onReply | apply keeps_when | apply keeps_modRun | apply keeps_completeDesc | apply keeps_leaveQp)
    | intro _

theorem keeps_qpAck : ∀ x0 x1 s, Keeps s (qpAck x0 x1 s) := by
  intro x0 x1 s
  unfold qpAck
  try dsimp only
  with_reducible repeat' first
    | apply Keeps.refl | apply Keeps.ite | (apply Keeps.after; first | apply keeps_modQp | apply keeps_ackedDescs)

theorem keeps_postPkt : ∀ x0 x1 x2 x3 x4 x5 x6 x7 x8 x9 s, Keeps s (postPkt x0 x1 x2 x3 x4 x5 x6 x7 x8 x9 s) := by
  intro x0 x1 x2 x3 x4 x5 x6 x7 x8 x9 s
  unfold postPkt
  try dsimp only
  with_reducible repeat' first
    | apply Keeps.refl | apply Keeps.ite
    | (apply Keeps.after; first | apply keeps_setQp | apply keeps_sendPkt | apply keeps_rput)

theorem keeps_readPost : ∀ x0 x1 x2 x3 s, Keeps s (readPost x0 x1 x2 x3 s) := by
  intro x0 x1 x2 x3 s
  fun_induction readPost x0 x1 x2 x3 s
  with_reducible repeat' first
    | apply Keeps.refl | assumption | apply Keeps.ite | (apply Keeps.after; assumption)
    | (apply Keeps.after; first | apply keeps_leaveQp | apply keeps_postPkt | apply keeps_modRun)

theorem keeps_readStore : ∀ x0 x1 x2 s, Keeps s (readStore x0 x1 x2 s) := by
  intro x0 x1 x2 s
  fun_induction readStore x0 x1 x2 s
  with_reducible repeat' first
    | apply Keeps.refl | assumption | apply Keeps.ite | apply Keeps.ite2 | (apply Keeps.snd; assumption)
    | (apply Keeps.after; assumption) | (apply Keeps.after; first | apply keeps_writeSome | apply keeps_failDesc)

theorem keeps_readGo : ∀ x0 x1 x2 x3 s, Keeps s (readGo x0 x1 x2 x3 s) := by
  intro x0 x1 x2 x3 s
  unfold readGo
  try dsimp only
  with_reducible repeat' first
    | apply Keeps.refl | apply Keeps.ite
    | (apply Keeps.after; first | apply keeps_readPost | apply keeps_readStore | apply keeps_completeDesc) | split

theorem keeps_qpReadData : ∀ x0 x1 x2 s, Keeps s (qpReadData x0 x1 x2 s) := by
  intro x0 x1 x2 s
  unfold qpReadData
  try dsimp only
  with_reducible repeat' first
    | apply Keeps.refl | assumption | apply Keeps.ite | apply Keeps.ite2 | fail_if_no_progress apply Keeps.upd
    | (apply Keeps.after; first | apply keeps_qpAck | apply keeps_modQp | apply keeps_onReply | apply keeps_modRun | apply keeps_readGo)
    | intro _ | split

theorem keeps_doRoceResponse : ∀ x0 x1 s, Keeps s (doRoceResponse x0 x1 s) := by
  intro x0 x1 s
  unfold doRoceResponse
  try dsimp only
  with_reducible repeat' first
    | apply Keeps.refl | apply Keeps.ite
    | (apply Keeps.after; first | apply keeps_staleMsg | apply keeps_qpAck | apply keeps_qpReadData | apply keeps_qpRetry | apply keeps_qpError | apply keeps_qpResend | apply keeps_modQp)
    | split

theorem keeps_qpMove : ∀ x0 x1 s, Keeps s (qpMove x0 x1 s) := by
  intro x0 x1 s
  unfold qpMove
  try dsimp only
  with_reducible repeat' first
    | apply Keeps.refl | apply Keeps.ite
    | (apply Keeps.after; first | apply keeps_qpError | apply keeps_qpDrop | apply keeps_modQp)

theorem keeps_doRateRecovery : ∀ x0 s, Keeps s (doRateRecovery x0 s) := by
  intro x0 s
  unfold doRateRecovery
  try dsimp only
  with_reducible repeat' first
    | apply Keeps.refl | apply Keeps.ite | (apply Keeps.after; first | apply keeps_atTime | apply keeps_setQp)

theorem keeps_doCnp : ∀ x0 s, Keeps s (doCnp x0 s) := by
  intro x0 s
  unfold doCnp
  try dsimp only
  with_reducible repeat' first
    | apply Keeps.refl | apply Keeps.ite | (apply Keeps.after; first | apply keeps_staleMsg | apply keeps_modQp) | split

theorem keeps_sendResponse : ∀ x0 x1 x2 x3 s, Keeps s (sendResponse x0 x1 x2 x3 s) := by
  intro x0 x1 x2 x3 s
  fun_induction sendResponse x0 x1 x2 x3 s
  with_reducible repeat' first
    | apply Keeps.refl | assumption | apply Keeps.ite | (apply Keeps.after; assumption)
    | (apply Keeps.after; apply keeps_qpEmit)

theorem keeps_hostRead : ∀ x0 x1 x2 x3 x4 x5 s, Keeps s (hostRead x0 x1 x2 x3 x4 x5 s) := by
  intro x0 x1 x2 x3 x4 x5 s
  unfold hostRead
  try dsimp only
  with_reducible repeat' first
    | apply Keeps.refl | assumption | apply Keeps.ite | apply Keeps.ite2 | (apply Keeps.snd; assumption)
    | (apply Keeps.after; first | apply keeps_accessError | apply keeps_hostGet | apply keeps_when | apply keeps_sendResponse | apply keeps_poisonError | apply keeps_nak | apply keeps_rput)
    | intro _ | split

theorem keeps_doRdmaReadReq : ∀ x0 x1 x2 x3 s, Keeps s (doRdmaReadReq x0 x1 x2 x3 s) := by
  intro x0 x1 x2 x3 s
  unfold doRdmaReadReq
  try dsimp only
  with_reducible repeat' first
    | apply Keeps.refl | (apply Keeps.after; first | apply keeps_respond | apply keeps_hostRead) | intro _

theorem keeps_writeGo : ∀ x0 x1 x2 x3 s, Keeps s (writeGo x0 x1 x2 x3 s) := by
  intro x0 x1 x2 x3 s
  fun_induction writeGo x0 x1 x2 x3 s
  with_reducible repeat' first
    | apply Keeps.refl | assumption | apply Keeps.ite | apply Keeps.ite2 | (apply Keeps.snd; assumption)
    | (apply Keeps.after; assumption)
    | (apply Keeps.after; first | apply keeps_leaveQp | apply keeps_completeDesc | apply keeps_readMore | apply keeps_failDesc | apply keeps_postPkt | apply keeps_countUnits | apply keeps_modRun)

theorem keeps_doRdmaWrite : ∀ x0 x1 x2 s, Keeps s (doRdmaWrite x0 x1 x2 s) := by
  intro x0 x1 x2 s
  unfold doRdmaWrite
  try dsimp only
  with_reducible repeat' first
    | apply Keeps.refl | (apply Keeps.after; first | apply keeps_runDesc | apply keeps_rdmaBody | apply keeps_writeGo)
    | intro _

theorem keeps_cutHost : ∀ x0 s, Keeps s (cutHost x0 s) := by
  intro x0 s
  unfold cutHost
  try dsimp only
  with_reducible repeat' first
    | apply Keeps.refl
    | (apply Keeps.after; first | apply keeps_forEach | apply keeps_callAdvance | apply keeps_qpError | apply keeps_cutSessions)
    | intro _

theorem keeps_doRdmaWriteReq : ∀ x0 x1 x2 x3 s, Keeps s (doRdmaWriteReq x0 x1 x2 x3 s) := by
  intro x0 x1 x2 x3 s
  unfold doRdmaWriteReq
  try dsimp only
  with_reducible repeat' first
    | apply Keeps.refl | assumption | apply Keeps.ite | apply Keeps.ite2 | (apply Keeps.snd; assumption)
    | (apply Keeps.after; first | apply keeps_respond | apply keeps_accessError | apply keeps_hostPut | apply keeps_qpEmit | apply keeps_rput | apply keeps_nak)
    | intro _ | split

theorem keeps_doRdmaRead : ∀ x0 x1 x2 s, Keeps s (doRdmaRead x0 x1 x2 s) := by
  intro x0 x1 x2 s
  unfold doRdmaRead
  try dsimp only
  with_reducible repeat' first
    | apply Keeps.refl | (apply Keeps.after; first | apply keeps_runDesc | apply keeps_rdmaBody | apply keeps_readGo)
    | intro _

theorem keeps_mkCtlAct : ∀ x0 x1 s, Keeps s (mkCtlAct x0 x1 s) := by
  intro x0 x1 s
  unfold mkCtlAct
  try dsimp only
  with_reducible repeat' first
    | apply Keeps.refl | apply Keeps.ite | (apply Keeps.after; first | apply keeps_rput | apply keeps_callAdvance)

theorem keeps_sampleDetail : ∀ x0 x1 s, Keeps s (sampleDetail x0 x1 s).2 := by
  intro x0 x1 s
  unfold sampleDetail
  try dsimp only
  with_reducible repeat' first
    | apply Keeps.refl | assumption | apply Keeps.ite | apply Keeps.ite2 | (apply Keeps.after; apply keeps_freeNat)

theorem keeps_doSample : ∀ x0 s, Keeps s (doSample x0 s) := by
  intro x0 s
  unfold doSample
  try dsimp only
  with_reducible repeat' first
    | apply Keeps.refl | assumption | apply Keeps.ite | apply Keeps.ite2
    | (apply Keeps.after; first | apply keeps_atTime | apply keeps_setCollector | apply keeps_forEach | apply keeps_sampleDetail | apply keeps_eventD)
    | intro _

theorem keeps_writeRec : ∀ x0 x1 s, Keeps s (writeRec x0 x1 s) := by
  intro x0 x1 s
  unfold writeRec
  try dsimp only
  with_reducible repeat' first
    | apply Keeps.refl | assumption | apply Keeps.ite | apply Keeps.ite2
    | (apply Keeps.after; first | apply keeps_setCollector | apply keeps_when | apply keeps_bumpSat | apply keeps_engPut | apply keeps_event)
    | intro _ | split

theorem keeps_doDailiesRecord : ∀ x0 s, Keeps s (doDailiesRecord x0 s) := by
  intro x0 s
  unfold doDailiesRecord
  try dsimp only
  with_reducible repeat' first
    | apply Keeps.refl | apply Keeps.ite
    | (apply Keeps.after; first | apply keeps_when | apply keeps_bumpSat | apply keeps_setCollector | apply keeps_writeRec)
    | intro _ | split

theorem keeps_doDailiesRead : ∀ x0 s, Keeps s (doDailiesRead x0 s) := by
  intro x0 s
  unfold doDailiesRead
  try dsimp only
  with_reducible repeat' first
    | apply Keeps.refl | apply Keeps.ite
    | (apply Keeps.after; first | apply keeps_setCollector | apply keeps_tellSessions) | split

theorem keeps_restartRing : ∀ x0 s, Keeps s (restartRing x0 s) := by
  intro x0 s
  unfold restartRing
  try dsimp only
  with_reducible repeat' first | apply Keeps.refl | (apply Keeps.after; apply keeps_setCollector)

theorem keeps_dringCommitAct : ∀ x0 x1 s, Keeps s (dringCommitAct x0 x1 s) := by
  intro x0 x1 s
  unfold dringCommitAct
  try dsimp only
  with_reducible repeat' first
    | apply Keeps.refl | apply Keeps.ite | (apply Keeps.after; first | apply keeps_restartRing | apply keeps_groupApply)

theorem keeps_flushEvents : ∀ s, Keeps s (flushEvents s) := by
  intro s
  unfold flushEvents
  try dsimp only
  with_reducible repeat' first
    | apply Keeps.refl
    | (apply Keeps.after; first | apply keeps_forEach | apply keeps_doDailiesRecord | apply keeps_doDailiesRead)
    | intro _

end Sys2Proof.Machine
end

