-- ==== Sys2Proof/Laws/KeepsPower.lean ====
section
/-! SUPPORT. What the operations of a Cut, degradation, identity, power and boot keep (`Keeps`). -/

namespace Sys2Proof.Machine

open Sys2Proof

theorem keeps_setFunc : ∀ x0 x1 s, Keeps s (setFunc x0 x1 s) := by
  intro x0 x1 s
  unfold setFunc
  try dsimp only
  with_reducible repeat' first | apply Keeps.refl | fail_if_no_progress apply Keeps.upd

theorem keeps_dropHolds : ∀ x0 s, Keeps s (dropHolds x0 s) := by
  intro x0 s
  unfold dropHolds
  try dsimp only
  with_reducible repeat' first | apply Keeps.refl | fail_if_no_progress apply Keeps.upd

theorem keeps_holdWay : ∀ x0 x1 s, Keeps s (holdWay x0 x1 s) := by
  intro x0 x1 s
  unfold holdWay
  try dsimp only
  with_reducible repeat' first | apply Keeps.refl | (apply Keeps.after; apply keeps_rput)

theorem keeps_holdSeg : ∀ x0 x1 s, Keeps s (holdSeg x0 x1 s) := by
  intro x0 x1 s
  unfold holdSeg
  try dsimp only
  with_reducible repeat' first | apply Keeps.refl | (apply Keeps.after; apply keeps_rput)

theorem keeps_undoCmd : ∀ x0 x1 s, Keeps s (undoCmd x0 x1 s) := by
  intro x0 x1 s
  unfold undoCmd
  try dsimp only
  with_reducible repeat' first
    | apply Keeps.refl | assumption | apply Keeps.ite | apply Keeps.ite2 | fail_if_no_progress apply Keeps.upd
    | (apply Keeps.after; first | apply keeps_dropHolds | apply keeps_forEach | apply keeps_holdWay | apply keeps_holdSeg | apply keeps_rputBits | apply keeps_setSite)
    | intro _

theorem keeps_abortCmds : ∀ x0 s, Keeps s (abortCmds x0 s) := by
  intro x0 s
  unfold abortCmds
  try dsimp only
  with_reducible repeat' first
    | apply Keeps.refl | apply Keeps.ite
    | (apply Keeps.after; first | apply keeps_forEach | apply keeps_complete | apply keeps_undoCmd) | intro _

theorem keeps_cutFields : ∀ x0 s, Keeps s (cutFields x0 s) := by
  intro x0 s
  unfold cutFields
  try dsimp only
  with_reducible repeat' first
    | apply Keeps.refl | fail_if_no_progress apply Keeps.upd | (apply Keeps.after; apply keeps_forEach) | intro _

theorem keeps_dropFuncReqs : ∀ x0 s, Keeps s (dropFuncReqs x0 s) := by
  intro x0 s
  unfold dropFuncReqs
  try dsimp only
  with_reducible repeat' first | apply Keeps.refl | fail_if_no_progress apply Keeps.upd

theorem keeps_finishCut : ∀ x0 s, Keeps s (finishCut x0 s) := by
  intro x0 s
  unfold finishCut
  try dsimp only
  with_reducible repeat' first
    | apply Keeps.refl | apply Keeps.ite
    | (apply Keeps.after; first | apply keeps_setFunc | apply keeps_flushEvents | apply keeps_event | apply keeps_forEach | apply keeps_complete)
    | intro _

theorem keeps_settleCut : ∀ x0 s, Keeps s (settleCut x0 s) := by
  intro x0 s
  unfold settleCut
  try dsimp only
  with_reducible repeat' first | apply Keeps.refl | apply Keeps.ite | (apply Keeps.after; apply keeps_finishCut)

theorem keeps_cutFunc : ∀ x0 x1 x2 s, Keeps s (cutFunc x0 x1 x2 s) := by
  intro x0 x1 x2 s
  unfold cutFunc
  try dsimp only
  with_reducible repeat' first
    | apply Keeps.refl | apply Keeps.ite | apply Keeps.ite1
    | (apply Keeps.after; first | apply keeps_setFunc | apply keeps_abortCmds | apply keeps_cutQueues | apply keeps_cutCues | apply keeps_cutArrays | apply keeps_cutFields | apply keeps_abandonMaint | apply keeps_cutReels | apply keeps_cutReguls | apply keeps_cutColls | apply keeps_cutSites | apply keeps_cutHost | apply keeps_dropFuncReqs | apply keeps_giveUpFunc | apply keeps_failSlate | apply keeps_settleCut)

theorem keeps_enterDegraded : ∀ s, Keeps s (enterDegraded s) := by
  intro s
  unfold enterDegraded
  try dsimp only
  with_reducible repeat' first
    | apply Keeps.refl | apply Keeps.ite | fail_if_no_progress apply Keeps.upd
    | (apply Keeps.after; first | apply keeps_announce | apply keeps_event)

theorem keeps_discardUnits : ∀ s, Keeps s (discardUnits s) := by
  intro s
  unfold discardUnits
  try dsimp only
  with_reducible repeat' first | apply Keeps.refl | fail_if_no_progress apply Keeps.upd

theorem keeps_segCoherent : ∀ x0 s, Keeps s (segCoherent x0 s).2 := by
  intro x0 s
  unfold segCoherent
  try dsimp only
  with_reducible repeat' first
    | apply Keeps.refl | assumption | apply Keeps.ite | apply Keeps.ite2
    | (apply Keeps.after; first | apply keeps_opCoherent | apply keeps_foldl | apply keeps_foldl2) | intro _

theorem keeps_purgeSeg : ∀ n s, Keeps s (purgeSeg n s) := by
  intro n s
  unfold purgeSeg
  dsimp only
  refine Keeps.updMem (keeps_forEach (fun p s => ?_) _ _) (memFilter _ _ _ _ _ _) (padSame _ _ _ _ _ _ _ _ _ _ _ _ _ _)
  split
  · exact keeps_updLine _ _ _ _ _ _
  · exact .refl _

theorem keeps_releaseSeg : ∀ x0 s, Keeps s (releaseSeg x0 s).2 := by
  intro x0 s
  unfold releaseSeg
  try dsimp only
  with_reducible repeat' first
    | apply Keeps.refl | assumption | (apply Keeps.snd; assumption)
    | (apply Keeps.after; first | apply keeps_segCoherent | apply keeps_holdSeg | apply keeps_rput | apply keeps_purgeSeg)
    | split

theorem keeps_releaseSegs : ∀ x0 s, Keeps s (releaseSegs x0 s).2 := by
  intro x0 s
  unfold releaseSegs
  try dsimp only
  with_reducible repeat' first
    | apply Keeps.refl | assumption
    | (apply Keeps.after; first | apply keeps_forEach | apply keeps_holdSeg | apply keeps_releaseSeg | apply keeps_foldl | apply keeps_foldl2)
    | intro _

theorem keeps_noteHolds : ∀ x0 x1 s, Keeps s (noteHolds x0 x1 s) := by
  intro x0 x1 s
  unfold noteHolds
  try dsimp only
  with_reducible repeat' first | apply Keeps.refl | fail_if_no_progress apply Keeps.upd

theorem keeps_releaseWays : ∀ x0 s, Keeps s (releaseWays x0 s) := by
  intro x0 s
  unfold releaseWays
  try dsimp only
  with_reducible repeat' first
    | apply Keeps.refl | apply Keeps.ite | (apply Keeps.after; first | apply keeps_forEach | apply keeps_rput) | intro _

theorem keeps_releasePartition : ∀ x0 s, Keeps s (releasePartition x0 s).2 := by
  intro x0 s
  unfold releasePartition
  try dsimp only
  with_reducible repeat' first
    | apply Keeps.refl | assumption | (apply Keeps.snd; assumption)
    | (apply Keeps.after; first | apply keeps_releaseSegs | apply keeps_rput | apply keeps_releasePart | apply keeps_releaseWays)
    | split

theorem keeps_modFunc : ∀ x0 x1 s, Keeps s (modFunc x0 x1 s) := by
  intro x0 x1 s
  unfold modFunc
  try dsimp only
  with_reducible repeat' first | apply Keeps.refl | (apply Keeps.after; apply keeps_setFunc)

theorem keeps_discardWork : ∀ s, Keeps s (discardWork s) := by
  intro s
  unfold discardWork
  try dsimp only
  with_reducible repeat' first
    | apply Keeps.refl | apply Keeps.ite | fail_if_no_progress apply Keeps.upd
    | (apply Keeps.after; first | apply keeps_forEach | apply keeps_portDown) | intro _

theorem keeps_discardMem : ∀ s, Keeps s (discardMem s) := by
  intro s
  unfold discardMem
  try dsimp only
  with_reducible repeat' first
    | apply Keeps.refl | assumption | (apply Keeps.after; first | apply keeps_foldl | apply keeps_foldl2) | intro _
    | dsimp only | (apply memFilter; assumption) | (apply padFilter; assumption) | fail_if_no_progress apply Keeps.updMem

theorem keeps_failAtH1 : ∀ s, Keeps s (failAtH1 s) := by
  intro s
  unfold failAtH1
  try dsimp only
  with_reducible repeat' first
    | apply Keeps.refl | assumption | apply Keeps.ite
    | (apply Keeps.after; first | apply keeps_forEach | apply keeps_failAcc | apply keeps_answerError | apply keeps_reqFails | apply keeps_farFail)
    | intro _ | split | dsimp only | fail_if_no_progress apply Keeps.updMem

theorem keeps_discardCoh : ∀ s, Keeps s (discardCoh s) := by
  intro s
  unfold discardCoh
  try dsimp only
  with_reducible repeat' first | apply Keeps.refl | fail_if_no_progress apply Keeps.upd

theorem keeps_discardH1 : ∀ s, Keeps s (discardH1 s) := by
  intro s
  unfold discardH1
  try dsimp only
  with_reducible repeat' first
    | apply Keeps.refl
    | (apply Keeps.after; first | apply keeps_discardUnits | apply keeps_discardWork | apply keeps_discardCoh | apply keeps_discardMem)

theorem keeps_fenceH1 : ∀ x0 s, Keeps s (fenceH1 x0 s) := by
  intro x0 s
  unfold fenceH1
  try dsimp only
  with_reducible repeat' first
    | apply Keeps.refl | apply Keeps.ite | fail_if_no_progress apply Keeps.upd
    | (apply Keeps.after; first | apply keeps_failAtH1 | apply keeps_dropHolder | apply keeps_forEach | apply keeps_fenceSite | apply keeps_discardH1 | apply keeps_holdSeg | apply keeps_cutFunc | apply keeps_enterDegraded | apply keeps_event | apply keeps_readmit)
    | intro _

theorem keeps_setDeg : ∀ x0 x1 s, Keeps s (setDeg x0 x1 s) := by
  intro x0 x1 s
  unfold setDeg
  try dsimp only
  with_reducible repeat' first | apply Keeps.refl | fail_if_no_progress apply Keeps.upd | split

theorem keeps_installSub : ∀ x0 s, Keeps s (installSub x0 s) := by
  intro x0 s
  unfold installSub
  try dsimp only
  with_reducible repeat' first | apply Keeps.refl | apply Keeps.ite | (apply Keeps.after; apply keeps_setDeg)

theorem keeps_rebuildF0 : ∀ x0 s, Keeps s (rebuildF0 x0 s) := by
  intro x0 s
  unfold rebuildF0
  try dsimp only
  with_reducible repeat' first
    | apply Keeps.refl | apply Keeps.ite | fail_if_no_progress apply Keeps.upd
    | (apply Keeps.after; first | apply keeps_restartRing | apply keeps_forEach | apply keeps_closeSes) | intro _

theorem keeps_degradeStack : ∀ x0 x1 s, Keeps s (degradeStack x0 x1 s) := by
  intro x0 x1 s
  unfold degradeStack
  try dsimp only
  with_reducible repeat' first
    | apply Keeps.refl | assumption | apply Keeps.ite | apply Keeps.ite2
    | (apply Keeps.after; first | apply keeps_loseStack | apply keeps_forEach | apply keeps_holdSeg | apply keeps_event | apply keeps_freeNat | apply keeps_cutFunc | apply keeps_installSub | apply keeps_rebuildF0 | apply keeps_enterDegraded | apply keeps_readmit)
    | intro _

theorem keeps_doCommandParity : ∀ x0 s, Keeps s (doCommandParity x0 s) := by
  intro x0 s
  unfold doCommandParity
  try dsimp only
  with_reducible repeat' first
    | apply Keeps.refl | apply Keeps.ite
    | (apply Keeps.after; first | apply keeps_setChan | apply keeps_bumpSat | apply keeps_event | apply keeps_degradeStack)

theorem keeps_linesQuiet : ∀ x0 s, Keeps s (linesQuiet x0 s).2 := by
  intro x0 s
  unfold linesQuiet
  try dsimp only
  with_reducible repeat' first
    | apply Keeps.refl | assumption
    | (apply Keeps.after; first | apply keeps_opCoherent | apply keeps_settleLine | apply keeps_foldl | apply keeps_foldl2)
    | intro _

theorem keeps_takeLine : ∀ x0 x1 s, Keeps s (takeLine x0 x1 s).2 := by
  intro x0 x1 s
  unfold takeLine
  try dsimp only
  with_reducible repeat' first
    | apply Keeps.refl | assumption
    | (apply Keeps.after; first | apply keeps_updLine | apply keeps_setEbuf | apply keeps_setChan | apply keeps_forEach | apply keeps_rawWrite)
    | intro _ | split

theorem keeps_moveF0 : ∀ x0 x1 x2 s, Keeps s (moveF0 x0 x1 x2 s) := by
  intro x0 x1 x2 s
  unfold moveF0
  try dsimp only
  with_reducible repeat' first
    | apply Keeps.refl | assumption | apply Keeps.ite | apply Keeps.ite2
    | (apply Keeps.after; first | apply keeps_setDeg | apply keeps_takeLine | apply keeps_forEach | apply keeps_rawWrite | apply keeps_foldl | apply keeps_foldl2)
    | intro _

theorem keeps_maintReturn : ∀ x0 x1 s, Keeps s (maintReturn x0 x1 s).2 := by
  intro x0 x1 s
  unfold maintReturn
  try dsimp only
  with_reducible repeat' first
    | apply Keeps.refl | assumption | apply Keeps.ite | apply Keeps.ite2 | (apply Keeps.snd; assumption)
    | fail_if_no_progress apply Keeps.upd
    | (apply Keeps.after; first | apply keeps_linesQuiet | apply keeps_forEach | apply keeps_setChan | apply keeps_setStack | apply keeps_excludeStack | apply keeps_enterService | apply keeps_moveF0 | apply keeps_setDeg)
    | intro _ | split

theorem keeps_doTempReadFail : ∀ x0 s, Keeps s (doTempReadFail x0 s) := by
  intro x0 s
  unfold doTempReadFail
  try dsimp only
  with_reducible repeat' first
    | apply Keeps.refl | apply Keeps.ite | (apply Keeps.after; first | apply keeps_degradeStack | apply keeps_atTime)

theorem keeps_maintFence : ∀ x0 s, Keeps s (maintFence x0 s).2 := by
  intro x0 s
  unfold maintFence
  try dsimp only
  with_reducible repeat' first
    | apply Keeps.refl | assumption | (apply Keeps.snd; assumption)
    | (apply Keeps.after; first | apply keeps_linesQuiet | apply keeps_moveF0 | apply keeps_setStack) | split

theorem keeps_doRecalibration : ∀ x0 x1 s, Keeps s (doRecalibration x0 x1 s) := by
  intro x0 x1 s
  unfold doRecalibration
  try dsimp only
  with_reducible repeat' first
    | apply Keeps.refl | apply Keeps.ite | (apply Keeps.after; first | apply keeps_noteRecal | apply keeps_degradeStack)

theorem keeps_measureSettings : ∀ s, Keeps s (measureSettings s) := by
  intro s
  unfold measureSettings
  try dsimp only
  with_reducible repeat' first | apply Keeps.refl | (apply Keeps.after; apply keeps_measure)

theorem keeps_domCtlAct : ∀ x0 x1 s, Keeps s (domCtlAct x0 x1 s) := by
  intro x0 x1 s
  unfold domCtlAct
  try dsimp only
  with_reducible repeat' first | apply Keeps.refl | (apply Keeps.after; apply keeps_rput)

theorem keeps_doDomainWake : ∀ x0 x1 s, Keeps s (doDomainWake x0 x1 s) := by
  intro x0 x1 s
  unfold doDomainWake
  try dsimp only
  with_reducible repeat' first
    | apply Keeps.refl | apply Keeps.ite
    | (apply Keeps.after; first | apply keeps_atTime | apply keeps_modDom | apply keeps_setStack | apply keeps_forEach | apply keeps_retryStalled)
    | intro _

theorem keeps_roundW : ∀ x0 x1 s, Keeps s (roundW x0 x1 s).2 := by
  intro x0 x1 s
  unfold roundW
  try dsimp only
  with_reducible repeat' first
    | apply Keeps.refl | assumption | apply Keeps.ite | apply Keeps.ite2 | (apply Keeps.after; apply keeps_freeBool)

theorem keeps_grantOf : ∀ x0 x1 s, Keeps s (grantOf x0 x1 s).2 := by
  intro x0 x1 s
  unfold grantOf
  try dsimp only
  with_reducible repeat' first
    | apply Keeps.refl | assumption | apply Keeps.ite | apply Keeps.ite2 | (apply Keeps.after; apply keeps_roundW)

theorem keeps_modGaf : ∀ x0 x1 s, Keeps s (modGaf x0 x1 s) := by
  intro x0 x1 s
  unfold modGaf
  try dsimp only
  with_reducible repeat' first | apply Keeps.refl | fail_if_no_progress apply Keeps.upd | split

theorem keeps_doGfReport : ∀ x0 s, Keeps s (doGfReport x0 s) := by
  intro x0 s
  unfold doGfReport
  try dsimp only
  with_reducible repeat' first
    | apply Keeps.refl | assumption | apply Keeps.ite | apply Keeps.ite2
    | (apply Keeps.after; first | apply keeps_groupTake | apply keeps_grantOf | apply keeps_sideSend | apply keeps_modGaf)

theorem keeps_modMp : ∀ x0 x1 s, Keeps s (modMp x0 x1 s) := by
  intro x0 x1 s
  unfold modMp
  try dsimp only
  with_reducible repeat' first | apply Keeps.refl | fail_if_no_progress apply Keeps.upd | split

theorem keeps_doMpWork : ∀ x0 s, Keeps s (doMpWork x0 s) := by
  intro x0 s
  unfold doMpWork
  try dsimp only
  with_reducible repeat' first | apply Keeps.refl | apply Keeps.ite | (apply Keeps.after; apply keeps_modMp)

theorem keeps_coldReset : ∀ s, Keeps s (coldReset s) :=
  fun _ => ⟨rfl, rfl, Nat.le_refl _, fun _ => rfl, fun _ => rfl⟩

theorem keeps_takeDown : ∀ x0 x1 x2 s, Keeps s (takeDown x0 x1 x2 s) := by
  intro x0 x1 x2 s
  unfold takeDown
  try dsimp only
  with_reducible repeat' first
    | apply Keeps.refl | fail_if_no_progress apply Keeps.upd | (apply Keeps.after; apply keeps_coldReset)

theorem keeps_h1Down : ∀ x0 x1 x2 s, Keeps s (h1Down x0 x1 x2 s) := by
  intro x0 x1 x2 s
  unfold h1Down
  try dsimp only
  with_reducible repeat' first
    | apply Keeps.refl | apply Keeps.ite | fail_if_no_progress apply Keeps.upd | (apply Keeps.after; apply keeps_fenceH1)

theorem keeps_trip : ∀ x0 x1 s, Keeps s (trip x0 x1 s) := by
  intro x0 x1 s
  unfold trip
  try dsimp only
  with_reducible repeat' first
    | apply Keeps.refl | (apply Keeps.after; first | apply keeps_sideSend | apply keeps_takeDown | apply keeps_h1Down)
    | split

theorem keeps_doResetN : ∀ s, Keeps s (doResetN s) := by
  intro s
  unfold doResetN
  try dsimp only
  with_reducible repeat' first
    | apply Keeps.refl | fail_if_no_progress apply Keeps.upd | (apply Keeps.after; apply keeps_takeDown)

theorem keeps_doFallback : ∀ x0 s, Keeps s (doFallback x0 s) := by
  intro x0 s
  unfold doFallback
  try dsimp only
  with_reducible repeat' first
    | apply Keeps.refl | apply Keeps.ite
    | (apply Keeps.after; first | apply keeps_atTime | apply keeps_modGaf | apply keeps_sideSend) | split

theorem keeps_h1Loses : ∀ s, Keeps s (h1Loses s) := by
  intro s
  unfold h1Loses
  try dsimp only
  with_reducible repeat' first | apply Keeps.refl | apply Keeps.ite | (apply Keeps.after; apply keeps_discardH1)

theorem keeps_doResetNotice : ∀ x0 s, Keeps s (doResetNotice x0 s) := by
  intro x0 s
  unfold doResetNotice
  try dsimp only
  with_reducible repeat' first
    | apply Keeps.refl | (apply Keeps.after; first | apply keeps_fenceH1 | apply keeps_h1Loses) | split

theorem keeps_doH1Reset : ∀ s, Keeps s (doH1Reset s) := by
  intro s
  unfold doH1Reset
  try dsimp only
  with_reducible repeat' first
    | apply Keeps.refl | apply Keeps.ite | (apply Keeps.after; first | apply keeps_discardH1 | apply keeps_fenceH1)

theorem keeps_setLevel : ∀ x0 x1 s, Keeps s (setLevel x0 x1 s) := by
  intro x0 x1 s
  unfold setLevel
  try dsimp only
  with_reducible repeat' first
    | apply Keeps.refl | apply Keeps.ite | (apply Keeps.after; first | apply keeps_modGaf | apply keeps_event)

theorem keeps_doGrantTimeout : ∀ s, Keeps s (doGrantTimeout s) := by
  intro s
  unfold doGrantTimeout
  try dsimp only
  with_reducible repeat' first
    | apply Keeps.refl | apply Keeps.ite | (apply Keeps.after; first | apply keeps_modGaf | apply keeps_atTime)

theorem keeps_doMpHello : ∀ x0 x1 x2 s, Keeps s (doMpHello x0 x1 x2 s) := by
  intro x0 x1 x2 s
  unfold doMpHello
  try dsimp only
  with_reducible repeat' first
    | apply Keeps.refl | apply Keeps.ite | fail_if_no_progress apply Keeps.upd | (apply Keeps.after; apply keeps_modMp)

theorem keeps_doVinTrip : ∀ x0 s, Keeps s (doVinTrip x0 s) := by
  intro x0 s
  unfold doVinTrip
  try dsimp only
  with_reducible repeat' first
    | apply Keeps.refl | apply Keeps.ite | fail_if_no_progress apply Keeps.upd
    | (apply Keeps.after; apply keeps_takeDown)

theorem keeps_doVinFast : ∀ s, Keeps s (doVinFast s) := by
  intro s
  unfold doVinFast
  try dsimp only
  with_reducible repeat' first
    | apply Keeps.refl | apply Keeps.ite
    | (apply Keeps.after; first | apply keeps_forEach | apply keeps_setLevel | apply keeps_modGaf) | intro _

theorem keeps_doTripNotice : ∀ x0 s, Keeps s (doTripNotice x0 s) := by
  intro x0 s
  unfold doTripNotice
  try dsimp only
  with_reducible repeat' first
    | apply Keeps.refl | (apply Keeps.after; first | apply keeps_fenceH1 | apply keeps_h1Loses) | split

theorem keeps_noteGafPower : ∀ x0 x1 x2 s, Keeps s (noteGafPower x0 x1 x2 s) := by
  intro x0 x1 x2 s
  unfold noteGafPower
  try dsimp only
  with_reducible repeat' first | apply Keeps.refl | (apply Keeps.after; apply keeps_modGaf)

theorem keeps_doThrottle : ∀ x0 x1 x2 s, Keeps s (doThrottle x0 x1 x2 s) := by
  intro x0 x1 x2 s
  unfold doThrottle
  try dsimp only
  with_reducible repeat' first
    | apply Keeps.refl | apply Keeps.ite | (apply Keeps.after; first | apply keeps_noteGafPower | apply keeps_setLevel)

theorem keeps_doRefReturn : ∀ s, Keeps s (doRefReturn s) := by
  intro s
  unfold doRefReturn
  try dsimp only
  with_reducible repeat' first | apply Keeps.refl | fail_if_no_progress apply Keeps.upd

theorem keeps_doTimeSet : ∀ x0 s, Keeps s (doTimeSet x0 s) := by
  intro x0 s
  unfold doTimeSet
  try dsimp only
  with_reducible repeat' first | apply Keeps.refl | fail_if_no_progress apply Keeps.upd

theorem keeps_doClockLoss : ∀ x0 x1 s, Keeps s (doClockLoss x0 x1 s) := by
  intro x0 x1 s
  unfold doClockLoss
  try dsimp only
  with_reducible repeat' first
    | apply Keeps.refl | apply Keeps.ite | fail_if_no_progress apply Keeps.upd | (apply Keeps.after; apply keeps_trip)
    | split

theorem keeps_doDieSensor : ∀ x0 x1 s, Keeps s (doDieSensor x0 x1 s) := by
  intro x0 x1 s
  unfold doDieSensor
  try dsimp only
  with_reducible repeat' first
    | apply Keeps.refl | assumption | apply Keeps.ite | apply Keeps.ite2 | fail_if_no_progress apply Keeps.upd
    | (apply Keeps.after; first | apply keeps_trip | apply keeps_setLevel | apply keeps_modGaf | apply keeps_foldl | apply keeps_foldl2)
    | intro _ | split

theorem keeps_doMpBeatLoss : ∀ s, Keeps s (doMpBeatLoss s) := by
  intro s
  unfold doMpBeatLoss
  try dsimp only
  with_reducible repeat' first
    | apply Keeps.refl | apply Keeps.ite | (apply Keeps.after; first | apply keeps_fenceH1 | apply keeps_atTime)

theorem keeps_doMpBeat : ∀ x0 s, Keeps s (doMpBeat x0 s) := by
  intro x0 s
  unfold doMpBeat
  try dsimp only
  with_reducible repeat' first
    | apply Keeps.refl | apply Keeps.ite
    | (apply Keeps.after; first | apply keeps_modMp | apply keeps_when | apply keeps_sideGot | apply keeps_sideSend)
    | intro _

theorem keeps_doDomainGate : ∀ x0 x1 s, Keeps s (doDomainGate x0 x1 s) := by
  intro x0 x1 s
  unfold doDomainGate
  try dsimp only
  with_reducible repeat' first
    | apply Keeps.refl | apply Keeps.ite
    | (apply Keeps.after; first | apply keeps_modDom | apply keeps_setStack | apply keeps_doHostDown) | split

theorem keeps_loseCluster : ∀ x0 x1 s, Keeps s (loseCluster x0 x1 s) := by
  intro x0 x1 s
  unfold loseCluster
  try dsimp only
  with_reducible repeat' first
    | apply Keeps.refl | apply Keeps.ite | fail_if_no_progress apply Keeps.upd
    | (apply Keeps.after; first | apply keeps_forEach | apply keeps_withdraw | apply keeps_setCtx | apply keeps_event)
    | intro _ | split

theorem keeps_doBuckFault : ∀ x0 x1 x2 s, Keeps s (doBuckFault x0 x1 x2 s) := by
  intro x0 x1 x2 s
  unfold doBuckFault
  try dsimp only
  with_reducible repeat' first
    | apply Keeps.refl | apply Keeps.ite
    | (apply Keeps.after; first | apply keeps_modDom | apply keeps_takeDown | apply keeps_h1Down | apply keeps_event | apply keeps_loseCluster | apply keeps_degradeStack | apply keeps_forEach | apply keeps_portDown | apply keeps_doHostDown | apply keeps_fenceH1 | apply keeps_fenceSite)
    | intro _ | split

theorem keeps_doVinRestored : ∀ s, Keeps s (doVinRestored s) := by
  intro s
  unfold doVinRestored
  try dsimp only
  with_reducible repeat' first
    | apply Keeps.refl | (apply Keeps.after; first | apply keeps_forEach | apply keeps_modGaf) | intro _

theorem keeps_doGfGrant : ∀ x0 x1 s, Keeps s (doGfGrant x0 x1 s) := by
  intro x0 x1 s
  unfold doGfGrant
  try dsimp only
  with_reducible repeat' first | apply Keeps.refl | apply Keeps.ite | (apply Keeps.after; apply keeps_modGaf)

theorem keeps_doWatchdog : ∀ x0 s, Keeps s (doWatchdog x0 s) := by
  intro x0 s
  unfold doWatchdog
  try dsimp only
  with_reducible repeat' first
    | apply Keeps.refl | apply Keeps.ite
    | (apply Keeps.after; first | apply keeps_sideSend | apply keeps_takeDown | apply keeps_h1Down) | split

theorem keeps_pkgCommitAct : ∀ x0 s, Keeps s (pkgCommitAct x0 s) := by
  intro x0 s
  unfold pkgCommitAct
  try dsimp only
  with_reducible repeat' first
    | apply Keeps.refl | apply Keeps.ite
    | (apply Keeps.after; first | apply keeps_groupApply | apply keeps_groupTake | apply keeps_modGaf)

theorem keeps_doPwrGood : ∀ s, Keeps s (doPwrGood s) := by
  intro s
  unfold doPwrGood
  try dsimp only
  with_reducible repeat' first | apply Keeps.refl | fail_if_no_progress apply Keeps.upd

theorem keeps_doMpDone : ∀ x0 s, Keeps s (doMpDone x0 s) := by
  intro x0 s
  unfold doMpDone
  try dsimp only
  with_reducible repeat' first | apply Keeps.refl | (apply Keeps.after; apply keeps_modMp)

theorem keeps_bootAon : ∀ x0 s, Keeps s (bootAon x0 s) := by
  intro x0 s
  unfold bootAon
  try dsimp only
  with_reducible repeat' first
    | apply Keeps.refl | apply Keeps.ite | fail_if_no_progress apply Keeps.upd
    | (apply Keeps.after; apply keeps_coldReset)

theorem keeps_setDom : ∀ x0 x1 x2 s, Keeps s (setDom x0 x1 x2 s) := by
  intro x0 x1 x2 s
  unfold setDom
  try dsimp only
  with_reducible repeat' first | apply Keeps.refl | (apply Keeps.after; apply keeps_modDom)

theorem keeps_bootHalfOn : ∀ x0 s, Keeps s (bootHalfOn x0 s) := by
  intro x0 s
  unfold bootHalfOn
  try dsimp only
  with_reducible repeat' first
    | apply Keeps.refl | (apply Keeps.after; first | apply keeps_setDom | apply keeps_when | apply keeps_setCollector)
    | intro _

theorem keeps_bootSidebands : ∀ s, Keeps s (bootSidebands s) := by
  intro s
  unfold bootSidebands
  try dsimp only
  with_reducible repeat' first
    | apply Keeps.refl | apply Keeps.ite | (apply Keeps.after; first | apply keeps_forEach | apply keeps_modSb) | intro _

theorem keeps_bootZoram : ∀ x0 s, Keeps s (bootZoram x0 s) := by
  intro x0 s
  unfold bootZoram
  try dsimp only
  with_reducible repeat' first
    | apply Keeps.refl | apply Keeps.ite | fail_if_no_progress apply Keeps.upd
    | (apply Keeps.after; first | apply keeps_trainAll | apply keeps_fenceH1)

theorem keeps_bootFront : ∀ x0 s, Keeps s (bootFront x0 s) := by
  intro x0 s
  unfold bootFront
  try dsimp only
  with_reducible repeat' first
    | apply Keeps.refl | apply Keeps.ite | fail_if_no_progress apply Keeps.upd
    | (apply Keeps.after; first | apply keeps_bootAon | apply keeps_event | apply keeps_eventD | apply keeps_forEach | apply keeps_bootHalfOn | apply keeps_bootSidebands | apply keeps_bootZoram)
    | intro _

theorem keeps_doFloorRaise : ∀ s, Keeps s (doFloorRaise s) := by
  intro s
  unfold doFloorRaise
  try dsimp only
  with_reducible repeat' first
    | apply Keeps.refl | apply Keeps.ite | fail_if_no_progress apply Keeps.upd
    | (apply Keeps.after; first | apply keeps_writeCtl | apply keeps_measure)

theorem keeps_bootPorts : ∀ x0 s, Keeps s (bootPorts x0 s) := by
  intro x0 s
  unfold bootPorts
  try dsimp only
  with_reducible repeat' first
    | apply Keeps.refl | (apply Keeps.after; first | apply keeps_forEach | apply keeps_setDom | apply keeps_when)
    | intro _

theorem keeps_noteImages : ∀ x0 s, Keeps s (noteImages x0 s) := by
  intro x0 s
  unfold noteImages
  try dsimp only
  with_reducible repeat' first | apply Keeps.refl | fail_if_no_progress apply Keeps.upd

theorem keeps_bootGoAt : ∀ x0 x1 s, Keeps s (bootGoAt x0 x1 s) := by
  intro x0 x1 s
  unfold bootGoAt
  try dsimp only
  with_reducible repeat' first
    | apply Keeps.refl | apply Keeps.ite | (apply Keeps.after; first | apply keeps_modMp | apply keeps_measure)

theorem keeps_bootH1 : ∀ x0 x1 s, Keeps s (bootH1 x0 x1 s) := by
  intro x0 x1 s
  unfold bootH1
  try dsimp only
  with_reducible repeat' first
    | apply Keeps.refl | assumption | apply Keeps.ite | apply Keeps.ite2 | fail_if_no_progress apply Keeps.upd
    | (apply Keeps.after; first | apply keeps_fenceH1 | apply keeps_freeNat | apply keeps_sideTold | apply keeps_bootGoAt | apply keeps_modMp | apply keeps_doTimeSet)

theorem keeps_loadImage : ∀ x0 x1 s, Keeps s (loadImage x0 x1 s) := by
  intro x0 x1 s
  unfold loadImage
  try dsimp only
  with_reducible repeat' first
    | apply Keeps.refl | fail_if_no_progress apply Keeps.upd
    | (apply Keeps.after; first | apply keeps_measure | apply keeps_modMp | apply keeps_when | apply keeps_event)
    | intro _

theorem keeps_bootStacks : ∀ x0 x1 s, Keeps s (bootStacks x0 x1 s) := by
  intro x0 x1 s
  unfold bootStacks
  try dsimp only
  with_reducible repeat' first
    | apply Keeps.refl | fail_if_no_progress apply Keeps.upd
    | (apply Keeps.after; first | apply keeps_forEach | apply keeps_doStackTrain | apply keeps_setDom | apply keeps_setStack)
    | intro _ | split

theorem keeps_bootClusters : ∀ x0 x1 s, Keeps s (bootClusters x0 x1 s) := by
  intro x0 x1 s
  unfold bootClusters
  try dsimp only
  with_reducible repeat' first
    | apply Keeps.refl | (apply Keeps.after; first | apply keeps_forEach | apply keeps_setDom | apply keeps_bootArrays)
    | intro _

theorem keeps_bootSubs : ∀ x0 s, Keeps s (bootSubs x0 s) := by
  intro x0 s
  unfold bootSubs
  try dsimp only
  with_reducible repeat' first
    | apply Keeps.refl | (apply Keeps.after; first | apply keeps_forEach | apply keeps_when | apply keeps_installSub)
    | intro _

theorem keeps_f0Pair : ∀ x0 s, Keeps s (f0Pair x0 s) := by
  intro x0 s
  unfold f0Pair
  try dsimp only
  with_reducible repeat' first | apply Keeps.refl | apply Keeps.ite | (apply Keeps.after; apply keeps_rput)

theorem keeps_bootLast : ∀ s, Keeps s (bootLast s) := by
  intro s
  unfold bootLast
  try dsimp only
  with_reducible repeat' first
    | apply Keeps.refl | apply Keeps.ite | fail_if_no_progress apply Keeps.upd
    | (apply Keeps.after; first | apply keeps_forEach | apply keeps_f0Pair | apply keeps_measureSettings | apply keeps_applySettings | apply keeps_chooseRecord | apply keeps_measStore | apply keeps_announce | apply keeps_event)
    | intro _

theorem keeps_bootBack : ∀ x0 s, Keeps s (bootBack x0 s) := by
  intro x0 s
  unfold bootBack
  try dsimp only
  with_reducible repeat' first
    | apply Keeps.refl | apply Keeps.ite
    | (apply Keeps.after; first | apply keeps_noteImages | apply keeps_setDom | apply keeps_modMp | apply keeps_bootH1 | apply keeps_loadImage | apply keeps_forEach | apply keeps_bootPorts | apply keeps_bootStacks | apply keeps_bootClusters | apply keeps_refuseBase | apply keeps_bootSubs | apply keeps_bootLast)
    | intro _ | split

theorem keeps_doHoldRelease : ∀ x0 s, Keeps s (doHoldRelease x0 s) := by
  intro x0 s
  unfold doHoldRelease
  try dsimp only
  with_reducible repeat' first
    | apply Keeps.refl | apply Keeps.ite | fail_if_no_progress apply Keeps.upd
    | (apply Keeps.after; apply keeps_bootBack)

theorem keeps_rejoinH1 : ∀ x0 s, Keeps s (rejoinH1 x0 s).2 := by
  intro x0 s
  unfold rejoinH1
  try dsimp only
  with_reducible repeat' first
    | apply Keeps.refl | assumption | apply Keeps.ite | apply Keeps.ite2 | fail_if_no_progress apply Keeps.upd
    | (apply Keeps.after; first | apply keeps_bootZoram | apply keeps_bootHalfOn | apply keeps_bootSidebands | apply keeps_bootH1 | apply keeps_forEach | apply keeps_setDom | apply keeps_bootPorts | apply keeps_bootStacks | apply keeps_fenceH1 | apply keeps_f0Pair | apply keeps_bootSubs | apply keeps_announce | apply keeps_event | apply keeps_readmit)
    | intro _

theorem keeps_doColdBoot : ∀ x0 s, Keeps s (doColdBoot x0 s) := by
  intro x0 s
  unfold doColdBoot
  try dsimp only
  with_reducible repeat' first
    | apply Keeps.refl | apply Keeps.ite | fail_if_no_progress apply Keeps.upd
    | (apply Keeps.after; first | apply keeps_takeDown | apply keeps_atTime | apply keeps_bootFront | apply keeps_bootBack)
    | split

theorem keeps_readReg : ∀ x0 x1 s, Keeps s (readReg x0 x1 s).2 := by
  intro x0 x1 s
  unfold readReg
  try dsimp only
  with_reducible repeat' first
    | apply Keeps.refl | assumption | apply Keeps.ite | apply Keeps.ite2 | fail_if_no_progress apply Keeps.upd
    | (apply Keeps.after; first | apply keeps_freeNat | apply keeps_freeBool) | split

theorem keeps_zCfgAnswer : ∀ x0 x1 x2 x3 s, Keeps s (zCfgAnswer x0 x1 x2 x3 s) := by
  intro x0 x1 x2 x3 s
  unfold zCfgAnswer
  try dsimp only
  with_reducible repeat' first | apply Keeps.refl | (apply Keeps.after; apply keeps_zSend)

theorem keeps_commitAct : ∀ x0 x1 x2 s, Keeps s (commitAct x0 x1 x2 s) := by
  intro x0 x1 x2 s
  unfold commitAct
  try dsimp only
  with_reducible repeat' first | apply Keeps.refl | apply Keeps.ite | (apply Keeps.after; apply keeps_groupApply)

theorem keeps_cellStatusAct : ∀ x0 x1 s, Keeps s (cellStatusAct x0 x1 s) := by
  intro x0 x1 s
  unfold cellStatusAct
  try dsimp only
  with_reducible repeat' first | apply Keeps.refl | (apply Keeps.after; apply keeps_modCell)

theorem keeps_peekAct : ∀ x0 x1 s, Keeps s (peekAct x0 x1 s) := by
  intro x0 x1 s
  unfold peekAct
  try dsimp only
  with_reducible repeat' first
    | apply Keeps.refl | assumption | apply Keeps.ite | apply Keeps.ite2 | fail_if_no_progress apply Keeps.upd
    | (apply Keeps.after; apply keeps_groupApply)

theorem keeps_gsWriteAct : ∀ x0 x1 s, Keeps s (gsWriteAct x0 x1 s) := by
  intro x0 x1 s
  unfold gsWriteAct
  try dsimp only
  with_reducible repeat' first
    | apply Keeps.refl | (apply Keeps.after; first | apply keeps_when | apply keeps_modDom | apply keeps_gsCtlAct)
    | intro _

theorem keeps_netAct : ∀ x0 s, Keeps s (netAct x0 s) := by
  intro x0 s
  unfold netAct
  try dsimp only
  with_reducible repeat' first
    | apply Keeps.refl | apply Keeps.ite | (apply Keeps.after; first | apply keeps_groupApply | apply keeps_modHost)

theorem keeps_storeWord : ∀ x0 x1 x2 x3 s, Keeps s (storeWord x0 x1 x2 x3 s) := by
  intro x0 x1 x2 x3 s
  fun_cases storeWord x0 x1 x2 x3 s
  with_reducible repeat' first
    | apply Keeps.refl | assumption | apply Keeps.ite | apply Keeps.ite2 | fail_if_no_progress apply Keeps.upd
    | (apply Keeps.after; first | apply keeps_segMapAct | apply keeps_wayMapAct | apply keeps_partCfgAct | apply keeps_maintCommitAct | apply keeps_doCueValue | apply keeps_doCueOwner | apply keeps_ctxCtrlAct | apply keeps_commitAct | apply keeps_clusterOwnerAct | apply keeps_cellStatusAct | apply keeps_tgGoAct | apply keeps_peekAct | apply keeps_dqCtlAct | apply keeps_dqTailAct | apply keeps_dqRecHeadAct | apply keeps_dqOwnerAct | apply keeps_reelIdAct | apply keeps_regOwnerAct | apply keeps_regCommitAct | apply keeps_groupApply | apply keeps_modRegul | apply keeps_bindAct | apply keeps_portCtlAct | apply keeps_collIdAct | apply keeps_eyeAct | apply keeps_gsWriteAct | apply keeps_netAct | apply keeps_qpOwnerAct | apply keeps_qpMove | apply keeps_mkCtlAct | apply keeps_sesCmdDbAct | apply keeps_sesCplHeadAct | apply keeps_domCtlAct | apply keeps_pkgCommitAct | apply keeps_dringCommitAct | apply keeps_putField)

theorem keeps_cfgApply : ∀ x0 x1 x2 x3 x4 s, Keeps s (cfgApply x0 x1 x2 x3 x4 s) := by
  intro x0 x1 x2 x3 x4 s
  unfold cfgApply
  try dsimp only
  with_reducible repeat' first
    | apply Keeps.refl | apply Keeps.ite
    | (apply Keeps.after; first | apply keeps_cfgEvent | apply keeps_when | apply keeps_storeWord) | intro _ | split

theorem keeps_cfgFetch : ∀ x0 s, Keeps s (cfgFetch x0 s).2 := by
  intro x0 s
  unfold cfgFetch
  try dsimp only
  with_reducible repeat' first | apply Keeps.refl | assumption | (apply Keeps.after; apply keeps_readReg) | split

theorem keeps_doZCfg : ∀ x0 x1 x2 x3 x4 x5 s, Keeps s (doZCfg x0 x1 x2 x3 x4 x5 s) := by
  intro x0 x1 x2 x3 x4 x5 s
  unfold doZCfg
  try dsimp only
  with_reducible repeat' first
    | apply Keeps.refl | assumption | apply Keeps.ite | apply Keeps.ite2
    | (apply Keeps.after; first | apply keeps_zCfgAnswer | apply keeps_cfgEvent | apply keeps_cfgApply | apply keeps_cfgFetch)
    | split

theorem keeps_doConfigStore : ∀ x0 x1 x2 x3 s, Keeps s (doConfigStore x0 x1 x2 x3 s) := by
  intro x0 x1 x2 x3 s
  unfold doConfigStore
  try dsimp only
  with_reducible repeat' first
    | apply Keeps.refl | apply Keeps.ite
    | (apply Keeps.after; first | apply keeps_cfgRefuse | apply keeps_emit | apply keeps_cfgApply) | split

theorem keeps_doCommit : ∀ x0 x1 x2 s, Keeps s (doCommit x0 x1 x2 s) := by
  intro x0 x1 x2 s
  unfold doCommit
  try dsimp only
  with_reducible repeat' first
    | apply Keeps.refl | (apply Keeps.after; first | apply keeps_regStore | apply keeps_storeWord) | intro _

end Sys2Proof.Machine
end

