-- ==== Sys2Proof/Laws/KeepsCadun.lean ====
section
/-! SUPPORT. What the operations of the commands of Cadun, the pins and what arrives over Zoram keep (`Keeps`). -/

namespace Sys2Proof.Machine

open Sys2Proof

theorem keeps_endOk : ∀ x0 s, Keeps s (endOk x0 s).2 := by
  intro x0 s
  unfold endOk
  try dsimp only
  with_reducible repeat' apply Keeps.refl

theorem keeps_putThen : ∀ x0 x1 x2 s, Keeps s (putThen x0 x1 x2 s).2 := by
  intro x0 x1 x2 s
  unfold putThen
  try dsimp only
  with_reducible repeat' first
    | apply Keeps.refl | assumption | (apply Keeps.snd; assumption)
    | (apply Keeps.after; first | apply keeps_engPut | apply keeps_endOk) | split

theorem keeps_endWith : ∀ x0 s, Keeps s (endWith x0 s).2 := by
  intro x0 s
  unfold endWith
  try dsimp only
  with_reducible repeat' apply Keeps.refl

theorem keeps_settleAll : ∀ s, Keeps s (settleAll s) := by
  intro s
  unfold settleAll
  try dsimp only
  with_reducible repeat' first
    | apply Keeps.refl | (apply Keeps.after; first | apply keeps_forEach | apply keeps_settleUnknown) | intro _

theorem keeps_finishCmd : ∀ x0 x1 x2 x3 s, Keeps s (finishCmd x0 x1 x2 x3 s) := by
  intro x0 x1 x2 x3 s
  unfold finishCmd
  try dsimp only
  with_reducible repeat' first
    | apply Keeps.refl
    | (apply Keeps.after; first | apply keeps_settleAll | apply keeps_complete | apply keeps_flushEvents)

theorem keeps_endCmd : ∀ x0 x1 s, Keeps s (endCmd x0 x1 s) := by
  intro x0 x1 s
  unfold endCmd
  try dsimp only
  with_reducible repeat' first
    | apply Keeps.refl | apply Keeps.ite
    | (apply Keeps.after; first | apply keeps_finishCmd | apply keeps_modSes | apply keeps_settleAll) | split

theorem keeps_startCmd : ∀ x0 x1 s, Keeps s (startCmd x0 x1 s) := by
  intro x0 x1 s
  unfold startCmd
  try dsimp only
  with_reducible repeat' first | apply Keeps.refl | apply Keeps.ite | (apply Keeps.after; apply keeps_modSes)

theorem keeps_settleCadun : ∀ s, Keeps s (settleCadun s) := by
  intro s
  unfold settleCadun
  try dsimp only
  with_reducible repeat' first
    | apply Keeps.refl | apply Keeps.ite
    | (apply Keeps.after; first | apply keeps_forEach | apply keeps_settleCut | apply keeps_finishCmd | apply keeps_settleAll)
    | intro _ | split

theorem keeps_orElse {f : State → CmdEnd × State} (hf : ∀ s, Keeps s (f s).2) (st : Nat) (s : State) :
    Keeps s (orElse st s f).2 := by
  unfold orElse
  try dsimp only
  with_reducible repeat' first
    | apply Keeps.refl | assumption | apply Keeps.ite | apply Keeps.ite2 | (apply Keeps.after; apply hf)
    | (apply Keeps.after; apply keeps_endWith)

theorem keeps_runCmd {f : CmdIn → State → CmdEnd × State} (hf : ∀ c s, Keeps s (f c s).2) (op : Nat) (r : CmdRef) (s : State) :
    Keeps s (runCmd op r f s) := by
  unfold runCmd
  try dsimp only
  with_reducible repeat' first
    | apply Keeps.refl | assumption | apply Keeps.ite | (apply Keeps.after; apply hf)
    | (apply Keeps.after; first | apply keeps_startCmd | apply keeps_finishCmd | apply keeps_endCmd) | split

theorem keeps_getThen {f : List Byte → State → CmdEnd × State} (hf : ∀ b s, Keeps s (f b s).2) (a n : Nat) (s : State) :
    Keeps s (getThen a n s f).2 := by
  unfold getThen
  try dsimp only
  with_reducible repeat' first
    | apply Keeps.refl | assumption | (apply Keeps.snd; assumption) | (apply Keeps.after; apply hf)
    | (apply Keeps.after; first | apply keeps_engBytes | apply keeps_endWith) | split

theorem keeps_mapSeg : ∀ x0 x1 x2 s x4, KeepsO s (mapSeg x0 x1 x2 s x4) := by
  intro x0 x1 x2 s x4
  unfold mapSeg
  try dsimp only
  with_reducible repeat' first
    | apply Keeps.refl | assumption | apply KeepsO.ofNone | apply KeepsO.ofSome | apply KeepsO.map | apply KeepsO.mapOf
    | (apply Keeps.after; apply keeps_rput) | intro _

theorem keeps_cmdClusterRelease : ∀ x0 s, Keeps s (cmdClusterRelease x0 s).2 := by
  intro x0 s
  unfold cmdClusterRelease
  try dsimp only
  with_reducible repeat' first
    | apply Keeps.refl | assumption | apply Keeps.ite | apply Keeps.ite2
    | (apply Keeps.after; first | apply keeps_orElse | apply keeps_endWith | apply keeps_endOk | apply keeps_forEach | apply keeps_rput)
    | intro _

theorem keeps_releaseRest : ∀ x0 s, Keeps s (releaseRest x0 s) := by
  intro x0 s
  unfold releaseRest
  try dsimp only
  with_reducible repeat' first
    | apply Keeps.refl | apply Keeps.ite
    | (apply Keeps.after; first | apply keeps_forEach | apply keeps_rput | apply keeps_doCueOwner | apply keeps_dqOwnerAct | apply keeps_regOwnerAct | apply keeps_qpOwnerAct | apply keeps_qpMove | apply keeps_mkCtlAct | apply keeps_closeSes | apply keeps_collIdAct | apply keeps_reelIdAct | apply keeps_rputBits | apply keeps_fenceSite)
    | intro _

theorem keeps_mapSegs : ∀ m h p l s, KeepsO s (mapSegs m h p l s) := by
  intro m h p l s
  have k : ∀ (l : List Nat) (o : Option State), KeepsO s o →
      KeepsO s (l.foldl (fun o g => o.bind (fun s => mapSeg m h p s g)) o) := by
    intro l
    induction l with
    | nil => exact fun o h => h
    | cons g l ih => exact fun o h => ih _ (KeepsO.bind h (fun t => keeps_mapSeg _ _ _ t _))
  exact k l (some s) (.ofSome (.refl s))

theorem keeps_cmdPartResize : ∀ x0 s, Keeps s (cmdPartResize x0 s).2 := by
  intro x0 s
  unfold cmdPartResize
  try dsimp only
  with_reducible repeat' first
    | apply Keeps.refl | assumption | apply Keeps.ite | apply Keeps.ite2 | apply KeepsO.ite | apply KeepsO.ofNone
    | apply KeepsO.ofSome | (apply Keeps.snd; assumption) | (apply KeepsO.of; assumption)
    | (apply Keeps.after; first | apply keeps_endWith | apply keeps_orElse | apply keeps_releaseSegs | apply keeps_endOk)
    | (apply KeepsO.after; apply keeps_mapSegs) | intro _ | split

theorem keeps_cmdCut : ∀ x0 s, Keeps s (cmdCut x0 s).2 := by
  intro x0 s
  unfold cmdCut
  try dsimp only
  with_reducible repeat' first
    | apply Keeps.refl | assumption | apply Keeps.ite | apply Keeps.ite2
    | (apply Keeps.after; first | apply keeps_modFunc | apply keeps_endWith | apply keeps_cutFunc)

theorem keeps_recallSeg : ∀ x0 s, Keeps s (recallSeg x0 s).2 := by
  intro x0 s
  unfold recallSeg
  try dsimp only
  with_reducible repeat' first
    | apply Keeps.refl | assumption
    | (apply Keeps.after; first | apply keeps_opCoherent | apply keeps_foldl | apply keeps_foldl2) | intro _

theorem keeps_cmdPartExport : ∀ x0 s, Keeps s (cmdPartExport x0 s).2 := by
  intro x0 s
  unfold cmdPartExport
  try dsimp only
  with_reducible repeat' first
    | apply Keeps.refl | assumption | apply Keeps.ite | apply Keeps.ite2 | fail_if_no_progress apply Keeps.upd
    | (apply Keeps.after; first | apply keeps_endWith | apply keeps_orElse | apply keeps_when | apply keeps_noteHolds | apply keeps_forEach | apply keeps_holdSeg | apply keeps_recallSeg | apply keeps_rput | apply keeps_endOk | apply keeps_dropHolds | apply keeps_foldl | apply keeps_foldl2)
    | intro _

theorem keeps_cmdPartCreate : ∀ x0 s, Keeps s (cmdPartCreate x0 s).2 := by
  intro x0 s
  unfold cmdPartCreate
  try dsimp only
  with_reducible repeat' first
    | apply Keeps.refl | assumption | apply Keeps.ite | apply Keeps.ite2 | apply KeepsO.ite | apply KeepsO.ofNone
    | apply KeepsO.ofSome | (apply KeepsO.of; assumption)
    | (apply Keeps.after; first | apply keeps_endWith | apply keeps_orElse | apply keeps_endOk | apply keeps_rput)
    | (apply KeepsO.after; apply keeps_mapSegs) | intro _ | split

theorem keeps_releaseParts : ∀ x0 s, Keeps s (releaseParts x0 s).2 := by
  intro x0 s
  unfold releaseParts
  try dsimp only
  with_reducible repeat' first
    | apply Keeps.refl | assumption
    | (apply Keeps.after; first | apply keeps_releasePartition | apply keeps_foldl | apply keeps_foldl2) | intro _

theorem keeps_cmdFuncDestroy : ∀ x0 s, Keeps s (cmdFuncDestroy x0 s).2 := by
  intro x0 s
  unfold cmdFuncDestroy
  try dsimp only
  with_reducible repeat' first
    | apply Keeps.refl | assumption | apply Keeps.ite | apply Keeps.ite2 | (apply Keeps.snd; assumption)
    | (apply Keeps.after; first | apply keeps_cutFunc | apply keeps_releaseParts | apply keeps_endOk | apply keeps_event | apply keeps_modFunc | apply keeps_releaseRest)
    | split

theorem keeps_emptyWays : ∀ x0 x1 s, Keeps s (emptyWays x0 x1 s).2 := by
  intro x0 x1 s
  unfold emptyWays
  try dsimp only
  with_reducible repeat' first
    | apply Keeps.refl | assumption | apply KeepsP.ofNone | apply KeepsP.ofSome | (apply Keeps.snd; assumption)
    | (apply KeepsP.of; assumption)
    | (apply Keeps.after; first | apply keeps_opCoherent | apply keeps_foldl | apply keeps_foldl2)
    | (apply KeepsP.after; apply keeps_opLine) | intro _ | split

theorem keeps_cmdWaysSet : ∀ x0 s, Keeps s (cmdWaysSet x0 s).2 := by
  intro x0 s
  unfold cmdWaysSet
  try dsimp only
  with_reducible repeat' first
    | apply Keeps.refl | assumption | apply Keeps.ite | apply Keeps.ite2 | (apply Keeps.snd; assumption)
    | fail_if_no_progress apply Keeps.upd
    | (apply Keeps.after; first | apply keeps_orElse | apply keeps_endWith | apply keeps_when | apply keeps_noteHolds | apply keeps_forEach | apply keeps_holdWay | apply keeps_emptyWays | apply keeps_endOk | apply keeps_dropHolds | apply keeps_wayMapAct | apply keeps_foldl | apply keeps_foldl2)
    | intro _ | split

theorem keeps_cmdPartDestroy : ∀ x0 s, Keeps s (cmdPartDestroy x0 s).2 := by
  intro x0 s
  unfold cmdPartDestroy
  try dsimp only
  with_reducible repeat' first
    | apply Keeps.refl | assumption | apply Keeps.ite | apply Keeps.ite2 | (apply Keeps.snd; assumption)
    | (apply Keeps.after; first | apply keeps_orElse | apply keeps_endWith | apply keeps_releasePartition | apply keeps_endOk)
    | intro _ | split

theorem keeps_cmdClusterAssign : ∀ x0 s, Keeps s (cmdClusterAssign x0 s).2 := by
  intro x0 s
  unfold cmdClusterAssign
  try dsimp only
  with_reducible repeat' first
    | apply Keeps.refl | assumption | apply Keeps.ite | apply Keeps.ite2
    | (apply Keeps.after; first | apply keeps_orElse | apply keeps_endWith | apply keeps_endOk | apply keeps_forEach | apply keeps_rput)
    | intro _

theorem keeps_cmdFuncCreate : ∀ x0 s, Keeps s (cmdFuncCreate x0 s).2 := by
  intro x0 s
  unfold cmdFuncCreate
  try dsimp only
  with_reducible repeat' first
    | apply Keeps.refl | assumption | apply Keeps.ite | apply Keeps.ite2
    | (apply Keeps.after; first | apply keeps_endWith | apply keeps_endOk | apply keeps_event | apply keeps_modFunc)

theorem keeps_cmdFuncQuery : ∀ x0 s, Keeps s (cmdFuncQuery x0 s).2 := by
  intro x0 s
  unfold cmdFuncQuery
  try dsimp only
  with_reducible repeat' first
    | apply Keeps.refl | assumption | (apply Keeps.after; first | apply keeps_readReg | apply keeps_endOk)

theorem keeps_allocRun {f : Nat → State → State} (hf : ∀ n s, Keeps s (f n s)) (free : Nat → Bool) (base size n : Nat)
    (key : Nat → Nat) (s : State) : Keeps s (allocRun free base size n key f s).2 := by
  unfold allocRun
  try dsimp only
  with_reducible repeat' first
    | apply Keeps.refl | assumption | apply Keeps.ite | apply Keeps.ite2
    | (apply Keeps.after; first | apply keeps_endWith | apply keeps_forEach) | intro _ | split

theorem keeps_cmdCueAlloc : ∀ x0 s, Keeps s (cmdCueAlloc x0 s).2 := by
  intro x0 s
  unfold cmdCueAlloc
  try dsimp only
  with_reducible repeat' first
    | apply Keeps.refl | assumption
    | (apply Keeps.after; first | apply keeps_orElse | apply keeps_allocRun | apply keeps_doCueOwner) | intro _

theorem keeps_openSlateColl : ∀ x0 x1 x2 x3 x4 s, Keeps s (openSlateColl x0 x1 x2 x3 x4 s) := by
  intro x0 x1 x2 x3 x4 s
  unfold openSlateColl
  try dsimp only
  with_reducible repeat' first
    | apply Keeps.refl | apply Keeps.ite
    | (apply Keeps.after; first | apply keeps_collIdAct | apply keeps_rput | apply keeps_forEach) | intro _

theorem keeps_cmdSlateArm : ∀ x0 s, Keeps s (cmdSlateArm x0 s).2 := by
  intro x0 s
  unfold cmdSlateArm
  try dsimp only
  with_reducible repeat' first
    | apply Keeps.refl | assumption | apply Keeps.ite | apply Keeps.ite2 | fail_if_no_progress apply Keeps.upd
    | (apply Keeps.after; first | apply keeps_endWith | apply keeps_orElse | apply keeps_getThen | apply keeps_setSlate | apply keeps_forEach | apply keeps_rput | apply keeps_endOk | apply keeps_openSlateColl)
    | intro _ | split

theorem keeps_cmdStackMaint : ∀ x0 x1 s, Keeps s (cmdStackMaint x0 x1 s).2 := by
  intro x0 x1 s
  unfold cmdStackMaint
  try dsimp only
  with_reducible repeat' first
    | apply Keeps.refl | assumption | apply Keeps.ite | apply Keeps.ite2 | (apply Keeps.snd; assumption)
    | (apply Keeps.after; first | apply keeps_endWith | apply keeps_orElse | apply keeps_maintFence | apply keeps_endOk | apply keeps_maintReturn)
    | intro _ | split

theorem keeps_cmdRegFree : ∀ x0 s, Keeps s (cmdRegFree x0 s).2 := by
  intro x0 s
  unfold cmdRegFree
  try dsimp only
  with_reducible repeat' first
    | apply Keeps.refl | assumption
    | (apply Keeps.after; first | apply keeps_orElse | apply keeps_endOk | apply keeps_regOwnerAct) | intro _

theorem keeps_cmdDqAlloc : ∀ x0 s, Keeps s (cmdDqAlloc x0 s).2 := by
  intro x0 s
  unfold cmdDqAlloc
  try dsimp only
  with_reducible repeat' first
    | apply Keeps.refl | assumption
    | (apply Keeps.after; first | apply keeps_orElse | apply keeps_allocRun | apply keeps_dqOwnerAct) | intro _

theorem keeps_cmdQpAlloc : ∀ x0 s, Keeps s (cmdQpAlloc x0 s).2 := by
  intro x0 s
  unfold cmdQpAlloc
  try dsimp only
  with_reducible repeat' first
    | apply Keeps.refl | assumption | (apply Keeps.after; first | apply keeps_allocRun | apply keeps_qpOwnerAct)
    | intro _

theorem keeps_qpWrite : ∀ x0 x1 s, Keeps s (qpWrite x0 x1 s) := by
  intro x0 x1 s
  unfold qpWrite
  try dsimp only
  with_reducible repeat' first
    | apply Keeps.refl | (apply Keeps.after; first | apply keeps_rput | apply keeps_forEach) | intro _

theorem keeps_cmdQpModify : ∀ x0 s, Keeps s (cmdQpModify x0 s).2 := by
  intro x0 s
  unfold cmdQpModify
  try dsimp only
  with_reducible repeat' first
    | apply Keeps.refl | assumption | apply Keeps.ite | apply Keeps.ite2
    | (apply Keeps.after; first | apply keeps_endWith | apply keeps_endOk | apply keeps_qpMove | apply keeps_when | apply keeps_qpWrite)
    | intro _

theorem keeps_cmdSlateAbort : ∀ x0 s, Keeps s (cmdSlateAbort x0 s).2 := by
  intro x0 s
  unfold cmdSlateAbort
  try dsimp only
  with_reducible repeat' first
    | apply Keeps.refl | assumption | apply Keeps.ite | apply Keeps.ite2
    | (apply Keeps.after; first | apply keeps_endOk | apply keeps_failSlate | apply keeps_endWith)

theorem keeps_cmdSessionClose : ∀ x0 s, Keeps s (cmdSessionClose x0 s).2 := by
  intro x0 s
  unfold cmdSessionClose
  try dsimp only
  with_reducible repeat' first
    | apply Keeps.refl | assumption | apply Keeps.ite | apply Keeps.ite2
    | (apply Keeps.after; first | apply keeps_endWith | apply keeps_endOk | apply keeps_closeSes)

theorem keeps_cmdGroupSet : ∀ x0 s, Keeps s (cmdGroupSet x0 s).2 := by
  intro x0 s
  unfold cmdGroupSet
  try dsimp only
  with_reducible repeat' first
    | apply Keeps.refl | assumption | apply Keeps.ite | apply Keeps.ite2
    | (apply Keeps.after; first | apply keeps_endWith | apply keeps_getThen | apply keeps_rputBits | apply keeps_endOk | apply keeps_forEach | apply keeps_rput)
    | intro _

theorem keeps_cmdRegSet : ∀ x0 s, Keeps s (cmdRegSet x0 s).2 := by
  intro x0 s
  unfold cmdRegSet
  try dsimp only
  with_reducible repeat' first
    | apply Keeps.refl | assumption | apply Keeps.ite | apply Keeps.ite2 | apply KeepsO.ite | apply KeepsO.ofNone
    | apply KeepsO.ofSome | (apply KeepsO.of; assumption)
    | (apply Keeps.after; first | apply keeps_endWith | apply keeps_orElse | apply keeps_endOk)
    | (apply KeepsO.after; apply keeps_setGuarantee) | intro _ | split

theorem keeps_cmdRetiredList : ∀ x0 s, Keeps s (cmdRetiredList x0 s).2 := by
  intro x0 s
  unfold cmdRetiredList
  try dsimp only
  with_reducible repeat' first
    | apply Keeps.refl | assumption | apply Keeps.ite | apply Keeps.ite2
    | (apply Keeps.after; first | apply keeps_endWith | apply keeps_putThen)

theorem keeps_cmdRegAlloc : ∀ x0 s, Keeps s (cmdRegAlloc x0 s).2 := by
  intro x0 s
  unfold cmdRegAlloc
  try dsimp only
  with_reducible repeat' first
    | apply Keeps.refl | assumption
    | (apply Keeps.after; first | apply keeps_orElse | apply keeps_endWith | apply keeps_endOk | apply keeps_regOwnerAct)
    | intro _ | split

theorem keeps_cmdDqFree : ∀ x0 s, Keeps s (cmdDqFree x0 s).2 := by
  intro x0 s
  unfold cmdDqFree
  try dsimp only
  with_reducible repeat' first
    | apply Keeps.refl | assumption | apply Keeps.ite | apply Keeps.ite2
    | (apply Keeps.after; first | apply keeps_orElse | apply keeps_endWith | apply keeps_endOk | apply keeps_forEach | apply keeps_dqOwnerAct)
    | intro _

theorem keeps_cmdGuestOpen : ∀ x0 s, Keeps s (cmdGuestOpen x0 s).2 := by
  intro x0 s
  unfold cmdGuestOpen
  try dsimp only
  with_reducible repeat' first
    | apply Keeps.refl | assumption | apply Keeps.ite | apply Keeps.ite2
    | (apply Keeps.after; first | apply keeps_endWith | apply keeps_orElse | apply keeps_gsWriteAct | apply keeps_endOk | apply keeps_undoCmd)
    | intro _

theorem keeps_cmdMkDestroy : ∀ x0 s, Keeps s (cmdMkDestroy x0 s).2 := by
  intro x0 s
  unfold cmdMkDestroy
  try dsimp only
  with_reducible repeat' first
    | apply Keeps.refl | assumption | apply Keeps.ite | apply Keeps.ite2
    | (apply Keeps.after; first | apply keeps_endWith | apply keeps_endOk | apply keeps_mkCtlAct)

theorem keeps_cmdH1Rejoin : ∀ x0 x1 s, Keeps s (cmdH1Rejoin x0 x1 s).2 := by
  intro x0 x1 s
  unfold cmdH1Rejoin
  try dsimp only
  with_reducible repeat' first
    | apply Keeps.refl | assumption | apply Keeps.ite | apply Keeps.ite2 | (apply Keeps.snd; assumption)
    | (apply Keeps.after; first | apply keeps_endWith | apply keeps_rejoinH1 | apply keeps_endOk) | split

theorem keeps_cmdQpFree : ∀ x0 s, Keeps s (cmdQpFree x0 s).2 := by
  intro x0 s
  unfold cmdQpFree
  try dsimp only
  with_reducible repeat' first
    | apply Keeps.refl | assumption | apply Keeps.ite | apply Keeps.ite2
    | (apply Keeps.after; first | apply keeps_orElse | apply keeps_endWith | apply keeps_endOk | apply keeps_forEach | apply keeps_qpOwnerAct)
    | intro _

theorem keeps_cmdRouteLoad : ∀ x0 s, Keeps s (cmdRouteLoad x0 s).2 := by
  intro x0 s
  unfold cmdRouteLoad
  try dsimp only
  with_reducible repeat' first
    | apply Keeps.refl | assumption | apply Keeps.ite | apply Keeps.ite2
    | (apply Keeps.after; first | apply keeps_endWith | apply keeps_getThen | apply keeps_endOk | apply keeps_forEach | apply keeps_rput)
    | intro _

theorem keeps_cmdGuestFence : ∀ x0 s, Keeps s (cmdGuestFence x0 s).2 := by
  intro x0 s
  unfold cmdGuestFence
  try dsimp only
  with_reducible repeat' first
    | apply Keeps.refl | assumption
    | (apply Keeps.after; first | apply keeps_orElse | apply keeps_endOk | apply keeps_fenceSite) | intro _

theorem keeps_cmdCueFree : ∀ x0 s, Keeps s (cmdCueFree x0 s).2 := by
  intro x0 s
  unfold cmdCueFree
  try dsimp only
  with_reducible repeat' first
    | apply Keeps.refl | assumption
    | (apply Keeps.after; first | apply keeps_orElse | apply keeps_endOk | apply keeps_forEach | apply keeps_doCueOwner)
    | intro _

theorem keeps_cmdMkCreate : ∀ x0 s, Keeps s (cmdMkCreate x0 s).2 := by
  intro x0 s
  unfold cmdMkCreate
  try dsimp only
  with_reducible repeat' first
    | apply Keeps.refl | assumption | apply Keeps.ite | apply Keeps.ite2
    | (apply Keeps.after; first | apply keeps_endWith | apply keeps_freeNat | apply keeps_rput | apply keeps_mkCtlAct)
    | split

theorem keeps_cmdSessionLocal : ∀ x0 s, Keeps s (cmdSessionLocal x0 s).2 := by
  intro x0 s
  unfold cmdSessionLocal
  try dsimp only
  with_reducible repeat' first
    | apply Keeps.refl | assumption | apply Keeps.ite | apply Keeps.ite2
    | (apply Keeps.after; first | apply keeps_endWith | apply keeps_rput | apply keeps_openSes | apply keeps_endOk)
    | split

theorem keeps_cmdH1Fence : ∀ x0 s, Keeps s (cmdH1Fence x0 s).2 := by
  intro x0 s
  unfold cmdH1Fence
  try dsimp only
  with_reducible repeat' first
    | apply Keeps.refl | assumption | apply Keeps.ite | apply Keeps.ite2
    | (apply Keeps.after; first | apply keeps_endWith | apply keeps_fenceH1 | apply keeps_endOk)

theorem keeps_fieldsWrite : ∀ x0 x1 x2 s, Keeps s (fieldsWrite x0 x1 x2 s).2 := by
  intro x0 x1 x2 s
  fun_induction fieldsWrite x0 x1 x2 s
  all_goals try dsimp only
  with_reducible repeat' first
    | apply Keeps.refl | assumption | apply Keeps.ite | apply Keeps.ite2 | (apply Keeps.after; assumption)
    | (apply Keeps.after; first | apply keeps_endOk | apply keeps_cfgApply)

theorem keeps_cmdFieldWrite : ∀ x0 s, Keeps s (cmdFieldWrite x0 s).2 := by
  intro x0 s
  unfold cmdFieldWrite
  try dsimp only
  with_reducible repeat' first
    | apply Keeps.refl | assumption | (apply Keeps.after; first | apply keeps_orElse | apply keeps_fieldsWrite) | intro _

theorem keeps_cmdIdentityRead : ∀ x0 s, Keeps s (cmdIdentityRead x0 s).2 := by
  intro x0 s
  unfold cmdIdentityRead
  try dsimp only
  with_reducible repeat' first
    | apply Keeps.refl | assumption | apply Keeps.ite | apply Keeps.ite2
    | (apply Keeps.after; first | apply keeps_endWith | apply keeps_putThen)

theorem keeps_fieldsRead : ∀ x0 x1 s, Keeps s (fieldsRead x0 x1 s).2 := by
  intro x0 x1 s
  fun_induction fieldsRead x0 x1 s
  all_goals try dsimp only
  with_reducible repeat' first
    | apply Keeps.refl | assumption | (apply Keeps.after; assumption) | (apply Keeps.after; apply keeps_cfgFetch)

theorem keeps_cmdFieldRead : ∀ x0 s, Keeps s (cmdFieldRead x0 s).2 := by
  intro x0 s
  unfold cmdFieldRead
  try dsimp only
  with_reducible repeat' first
    | apply Keeps.refl | assumption | apply Keeps.ite | apply Keeps.ite2
    | (apply Keeps.after; first | apply keeps_endWith | apply keeps_orElse | apply keeps_fieldsRead | apply keeps_endOk)
    | intro _

theorem keeps_cmdDeviceReset : ∀ x0 s, Keeps s (cmdDeviceReset x0 s).2 := by
  intro x0 s
  unfold cmdDeviceReset
  try dsimp only
  with_reducible repeat' first
    | apply Keeps.refl | assumption | fail_if_no_progress apply Keeps.upd | (apply Keeps.after; apply keeps_endOk)

theorem keeps_cmdDeviceIdSet : ∀ x0 s, Keeps s (cmdDeviceIdSet x0 s).2 := by
  intro x0 s
  unfold cmdDeviceIdSet
  try dsimp only
  with_reducible repeat' first
    | apply Keeps.refl | assumption | apply Keeps.ite | apply Keeps.ite2 | fail_if_no_progress apply Keeps.upd
    | (apply Keeps.after; first | apply keeps_endWith | apply keeps_endOk)

theorem keeps_cmdAttestQuote : ∀ x0 s, Keeps s (cmdAttestQuote x0 s).2 := by
  intro x0 s
  unfold cmdAttestQuote
  try dsimp only
  with_reducible repeat' first
    | apply Keeps.refl | assumption | apply Keeps.ite | apply Keeps.ite2
    | (apply Keeps.after; first | apply keeps_endWith | apply keeps_putThen)

theorem keeps_cmdFwWrite : ∀ x0 x1 s, Keeps s (cmdFwWrite x0 x1 s).2 := by
  intro x0 x1 s
  unfold cmdFwWrite
  try dsimp only
  with_reducible repeat' first
    | apply Keeps.refl | assumption | apply Keeps.ite | apply Keeps.ite2 | fail_if_no_progress apply Keeps.upd
    | (apply Keeps.after; first | apply keeps_endWith | apply keeps_getThen | apply keeps_writeCtl | apply keeps_endOk | apply keeps_flashPut)
    | intro _

theorem keeps_storeRecord : ∀ x0 s, Keeps s (storeRecord x0 s) := by
  intro x0 s
  unfold storeRecord
  try dsimp only
  with_reducible repeat' first
    | apply Keeps.refl | apply Keeps.ite | fail_if_no_progress apply Keeps.upd
    | (apply Keeps.after; first | apply keeps_areaPut | apply keeps_measureSettings)

theorem keeps_cmdSettingsStore : ∀ x0 s, Keeps s (cmdSettingsStore x0 s).2 := by
  intro x0 s
  unfold cmdSettingsStore
  try dsimp only
  with_reducible repeat' first
    | apply Keeps.refl | assumption | apply Keeps.ite | apply Keeps.ite2
    | (apply Keeps.after; first | apply keeps_endWith | apply keeps_getThen | apply keeps_endOk | apply keeps_storeRecord)
    | intro _

theorem keeps_cmdFwActivate : ∀ x0 s, Keeps s (cmdFwActivate x0 s).2 := by
  intro x0 s
  unfold cmdFwActivate
  try dsimp only
  with_reducible repeat' first
    | apply Keeps.refl | assumption | apply Keeps.ite | apply Keeps.ite2
    | (apply Keeps.after; first | apply keeps_endWith | apply keeps_endOk | apply keeps_measure | apply keeps_writeCtl)
    | split

theorem keeps_cmdFieldWriteGroup : ∀ x0 s, Keeps s (cmdFieldWriteGroup x0 s).2 := by
  intro x0 s
  unfold cmdFieldWriteGroup
  try dsimp only
  with_reducible repeat' first
    | apply Keeps.refl | assumption | apply Keeps.ite | apply Keeps.ite2
    | (apply Keeps.after; first | apply keeps_endWith | apply keeps_orElse | apply keeps_fieldsWrite) | intro _

theorem keeps_cmdDevInfo : ∀ x0 s, Keeps s (cmdDevInfo x0 s).2 := by
  intro x0 s
  unfold cmdDevInfo
  try dsimp only
  with_reducible repeat' first | apply Keeps.refl | assumption | (apply Keeps.after; apply keeps_endOk)

theorem keeps_modPins : ∀ x0 s, Keeps s (modPins x0 s) := by
  intro x0 s
  unfold modPins
  try dsimp only
  with_reducible repeat' first | apply Keeps.refl | fail_if_no_progress apply Keeps.upd

theorem keeps_jtagSet : ∀ x0 x1 x2 x3 s, Keeps s (jtagSet x0 x1 x2 x3 s) := by
  intro x0 x1 x2 x3 s
  unfold jtagSet
  try dsimp only
  with_reducible repeat' first | apply Keeps.refl | (apply Keeps.after; first | apply keeps_emit | apply keeps_modPins)

theorem keeps_doBypass : ∀ x0 s, Keeps s (doBypass x0 s) := by
  intro x0 s
  unfold doBypass
  try dsimp only
  with_reducible repeat' first | apply Keeps.refl | (apply Keeps.after; apply keeps_jtagSet)

theorem keeps_doSamplePreload : ∀ x0 x1 s, Keeps s (doSamplePreload x0 x1 s) := by
  intro x0 x1 s
  unfold doSamplePreload
  try dsimp only
  with_reducible repeat' first
    | apply Keeps.refl | assumption | apply Keeps.ite | apply Keeps.ite2
    | (apply Keeps.after; first | apply keeps_doBypass | apply keeps_freeNat | apply keeps_jtagSet | apply keeps_modPins)

theorem keeps_setI3cPtr : ∀ x0 x1 s, Keeps s (setI3cPtr x0 x1 s) := by
  intro x0 x1 s
  unfold setI3cPtr
  try dsimp only
  with_reducible repeat' first | apply Keeps.refl | (apply Keeps.after; apply keeps_modPins)

theorem keeps_doI3cRead : ∀ x0 s, Keeps s (doI3cRead x0 s) := by
  intro x0 s
  unfold doI3cRead
  try dsimp only
  with_reducible repeat' first
    | apply Keeps.refl | assumption | apply Keeps.ite | apply Keeps.ite2
    | (apply Keeps.after; first | apply keeps_readReg | apply keeps_freeNat | apply keeps_setI3cPtr | apply keeps_emit)
    | split

theorem keeps_doI3cPointer : ∀ x0 x1 s, Keeps s (doI3cPointer x0 x1 s) := by
  intro x0 x1 s
  unfold doI3cPointer
  try dsimp only
  with_reducible repeat' first
    | apply Keeps.refl | apply Keeps.ite | (apply Keeps.after; first | apply keeps_emit | apply keeps_setI3cPtr)

theorem keeps_doDaa : ∀ x0 x1 s, Keeps s (doDaa x0 x1 s) := by
  intro x0 x1 s
  unfold doDaa
  try dsimp only
  with_reducible repeat' first | apply Keeps.refl | apply Keeps.ite | (apply Keeps.after; apply keeps_modPins)

theorem keeps_doIdcode : ∀ x0 s, Keeps s (doIdcode x0 s) := by
  intro x0 s
  unfold doIdcode
  try dsimp only
  with_reducible repeat' first | apply Keeps.refl | (apply Keeps.after; apply keeps_jtagSet)

theorem keeps_doModPresent : ∀ x0 s, Keeps s (doModPresent x0 s) := by
  intro x0 s
  unfold doModPresent
  try dsimp only
  with_reducible repeat' first
    | apply Keeps.refl | apply Keeps.ite | (apply Keeps.after; first | apply keeps_modPins | apply keeps_doHostDown)

theorem keeps_doExtest : ∀ x0 s, Keeps s (doExtest x0 s) := by
  intro x0 s
  unfold doExtest
  try dsimp only
  with_reducible repeat' first
    | apply Keeps.refl | assumption | apply Keeps.ite | apply Keeps.ite2
    | (apply Keeps.after; first | apply keeps_doBypass | apply keeps_freeNat | apply keeps_jtagSet)

theorem keeps_guestError : ∀ x0 x1 s, Keeps s (guestError x0 x1 s) := by
  intro x0 x1 s
  unfold guestError
  try dsimp only
  with_reducible repeat' first
    | apply Keeps.refl | assumption | apply Keeps.ite | apply Keeps.ite2 | fail_if_no_progress apply Keeps.upd
    | (apply Keeps.after; first | apply keeps_sendCoh | apply keeps_cfgEvent)

theorem keeps_guestScratch : ∀ x0 x1 s, Keeps s (guestScratch x0 x1 s) := by
  intro x0 x1 s
  unfold guestScratch
  try dsimp only
  with_reducible repeat' first
    | apply Keeps.refl | apply Keeps.ite
    | (apply Keeps.after; first | apply keeps_sendCoh | apply keeps_guestError | apply keeps_forEach | apply keeps_scratchSector | apply keeps_scratchAdd)
    | intro _ | split

theorem keeps_sendZLink : ∀ x0 x1 s, Keeps s (sendZLink x0 x1 s) := by
  intro x0 x1 s
  unfold sendZLink
  try dsimp only
  with_reducible repeat' first
    | apply Keeps.refl | apply Keeps.ite | (apply Keeps.after; first | apply keeps_zPump | apply keeps_setBundle)

theorem keeps_badMsg : ∀ x0 s, Keeps s (badMsg x0 s) := by
  intro x0 s
  unfold badMsg
  try dsimp only
  with_reducible repeat' first | apply Keeps.refl | (apply Keeps.after; apply keeps_bumpSat)

theorem keeps_freeFlits : ∀ x0 x1 x2 s, Keeps s (freeFlits x0 x1 x2 s) := by
  intro x0 x1 x2 s
  unfold freeFlits
  try dsimp only
  with_reducible repeat' first | apply Keeps.refl | (apply Keeps.after; apply keeps_modBundle)

theorem keeps_answerMsg : ∀ x0 x1 x2 s, Keeps s (answerMsg x0 x1 x2 s) := by
  intro x0 x1 x2 s
  unfold answerMsg
  try dsimp only
  with_reducible repeat' first
    | apply Keeps.refl | apply Keeps.ite
    | (apply Keeps.after; first | apply keeps_badMsg | apply keeps_doSnoopAck | apply keeps_doSnoopData) | split

theorem keeps_badCoh : ∀ x0 s, Keeps s (badCoh x0 s) := by
  intro x0 s
  unfold badCoh
  try dsimp only
  with_reducible repeat' first | apply Keeps.refl | (apply Keeps.after; apply keeps_bumpSat)

theorem keeps_cohMsgOf : ∀ x0 x1 s, Keeps s (cohMsgOf x0 x1 s) := by
  intro x0 x1 s
  unfold cohMsgOf
  try dsimp only
  with_reducible repeat' first
    | apply Keeps.refl | assumption | apply Keeps.ite | apply Keeps.ite2 | fail_if_no_progress apply Keeps.upd
    | (apply Keeps.after; first | apply keeps_doInv | apply keeps_doRecall | apply keeps_doDowngrade | apply keeps_doCollect | apply keeps_doData | apply keeps_doGrant | apply keeps_doAckLocal | apply keeps_doAckGlobal | apply keeps_doAtomicResult | apply keeps_answerMsg | apply keeps_doAck | apply keeps_doNack | apply keeps_doRetry | apply keeps_doError | apply keeps_fromHolder | apply keeps_badCoh)
    | intro _ | split

theorem keeps_halfMsg : ∀ x0 x1 s, Keeps s (halfMsg x0 x1 s) := by
  intro x0 x1 s
  unfold halfMsg
  try dsimp only
  with_reducible repeat' first
    | apply Keeps.refl | apply Keeps.ite
    | (apply Keeps.after; first | apply keeps_cohMsgOf | apply keeps_doSignal | apply keeps_doWait | apply keeps_doWaitDone | apply keeps_doZCfg | apply keeps_routePacket | apply keeps_doBand | apply keeps_badMsg)
    | split

theorem keeps_msgDone : ∀ x0 x1 x2 s, Keeps s (msgDone x0 x1 x2 s) := by
  intro x0 x1 x2 s
  unfold msgDone
  try dsimp only
  with_reducible repeat' first
    | apply Keeps.refl | apply Keeps.ite
    | (apply Keeps.after; first | apply keeps_badMsg | apply keeps_freeFlits | apply keeps_halfMsg | apply keeps_modBundle)
    | split

theorem keeps_msgFlit : ∀ x0 x1 x2 x3 s, Keeps s (msgFlit x0 x1 x2 x3 s) := by
  intro x0 x1 x2 x3 s
  unfold msgFlit
  try dsimp only
  with_reducible repeat' first
    | apply Keeps.refl | apply Keeps.ite | (apply Keeps.after; first | apply keeps_msgDone | apply keeps_modBundle)

theorem keeps_useSlot : ∀ x0 x1 s, Keeps s (useSlot x0 x1 s) := by
  intro x0 x1 s
  unfold useSlot
  try dsimp only
  with_reducible repeat' first
    | apply Keeps.refl | apply Keeps.ite
    | (apply Keeps.after; first | apply keeps_doLinkFlit | apply keeps_msgFlit | apply keeps_badMsg | apply keeps_freeFlits)
    | split

theorem keeps_doFrame : ∀ x0 x1 s, Keeps s (doFrame x0 x1 s) := by
  intro x0 x1 s
  unfold doFrame
  try dsimp only
  with_reducible repeat' first
    | apply Keeps.refl | apply Keeps.ite
    | (apply Keeps.after; first | apply keeps_countBundle | apply keeps_sendZLink | apply keeps_modBundle | apply keeps_setBundle | apply keeps_forEach | apply keeps_useSlot)
    | intro _

theorem keeps_bundlesCheck : ∀ s, Keeps s (bundlesCheck s) := by
  intro s
  unfold bundlesCheck
  try dsimp only
  with_reducible repeat' first | apply Keeps.refl | apply Keeps.ite | (apply Keeps.after; apply keeps_fenceH1)

theorem keeps_violate : ∀ x0 x1 s, Keeps s (violate x0 x1 s) := by
  intro x0 x1 s
  unfold violate
  try dsimp only
  with_reducible repeat' first
    | apply Keeps.refl | assumption | apply Keeps.ite | apply Keeps.ite2
    | (apply Keeps.after; first | apply keeps_bumpSat | apply keeps_freeNat | apply keeps_sendCoh | apply keeps_setSite | apply keeps_fenceSite)

theorem keeps_cueFrom {f g : State → State} (hf : ∀ s, Keeps s (f s)) (hg : ∀ s, Keeps s (g s)) (src : ZSrc) (func : Fin 16)
    (cls : ZMsg) (s : State) : Keeps s (cueFrom src func cls f g s) := by
  unfold cueFrom
  try dsimp only
  with_reducible repeat' first
    | apply Keeps.refl | assumption | apply Keeps.ite | (apply Keeps.after; apply hf) | (apply Keeps.after; apply hg)
    | (apply Keeps.after; apply keeps_violate) | split

theorem keeps_guestRemote : ∀ x0 x1 s, Keeps s (guestRemote x0 x1 s) := by
  intro x0 x1 s
  unfold guestRemote
  try dsimp only
  with_reducible repeat' first
    | apply Keeps.refl | (apply Keeps.after; first | apply keeps_doFarCacheAccess | apply keeps_guestError) | split

theorem keeps_guestPass : ∀ x0 x1 s, Keeps s (guestPass x0 x1 s) := by
  intro x0 x1 s
  unfold guestPass
  try dsimp only
  with_reducible repeat' first
    | apply Keeps.refl | apply Keeps.ite
    | (apply Keeps.after; first | apply keeps_doSignal | apply keeps_sendCue | apply keeps_doWait | apply keeps_doZCfg | apply keeps_doGuestFence | apply keeps_answerMsg | apply keeps_guestError | apply keeps_guestRemote | apply keeps_guestScratch | apply keeps_fromHolder | apply keeps_badCoh)
    | split

theorem keeps_doGuestMessage : ∀ x0 x1 x2 s, Keeps s (doGuestMessage x0 x1 x2 s) := by
  intro x0 x1 x2 s
  unfold doGuestMessage
  try dsimp only
  with_reducible repeat' first
    | apply Keeps.refl | apply Keeps.ite
    | (apply Keeps.after; first | apply keeps_violate | apply keeps_popMsg | apply keeps_guestPass) | split

end Sys2Proof.Machine
end

