-- ==== Sys2Proof/Laws/Ops.lean ====
section
/-! SUPPORT. What the shared operations do: running a meaning on a resource of the part, a loop, a register store that is
performed, and Cadun's work on a command it takes. -/

namespace Sys2Proof.Machine

open Sys2Proof

/-! ### Resources of the part -/

theorem onPart_next {b : Bool} {r : Outcome} (h : b = true) : onPart b r = r := by simp [onPart, h]

theorem onPart_stop {b : Bool} {r : Outcome} (h : b = false) : onPart b r = .fault .absentOnPart := by simp [onPart, h]

theorem onHalf_next {s : State} {h : Half} {r : Outcome} (hh : hasHalf s h = true) : onHalf s h r = r := onPart_next hh

theorem onAgent_next {s : State} {ag : Agent} {r : Outcome} (ha : agentThere s ag = true) : onAgent s ag r = r := onPart_next ha

theorem onPort_next {s : State} {p : Nat} {r : Outcome} (h : hasHalf s (portHalf p) = true) : onPort s p r = r := onPart_next h

theorem onSide_next {s : State} {z : ZSrc} {r : Outcome} (h : sideThere s z) : onSide s z r = r := by
  cases z with
  | half _ => exact onPart_next (decide_eq_true h)
  | site g => exact onPart_next h

theorem onBundle_next {s : State} {b : BundleRef} {r : Outcome} (h : bundleThere s b) : onBundle s b r = r := by
  cases b with
  | z _ _ => exact onPart_next (decide_eq_true h)
  | site g _ => exact onPart_next h

theorem onSb_next {s : State} {b : SbRef} {r : Outcome} (h : sbThere s b) : onSb s b r = r := by
  cases b with
  | half _ _ => exact onPart_next (decide_eq_true h)
  | site g => exact onPart_next h

theorem KeepsR.onAgent {s u : State} {ag : Agent} {o : Outcome} (k : KeepsR s o) : KeepsR s (onAgent u ag o) := k.onPart

theorem KeepsR.onPort {s u : State} {p : Nat} {o : Outcome} (k : KeepsR s o) : KeepsR s (onPort u p o) := k.onPart

theorem KeepsR.onSide {s u : State} {z : ZSrc} {o : Outcome} (k : KeepsR s o) : KeepsR s (onSide u z o) := by
  cases z <;> exact k.onPart

theorem KeepsR.onBundle {s u : State} {b : BundleRef} {o : Outcome} (k : KeepsR s o) : KeepsR s (onBundle u b o) := by
  cases b <;> exact k.onPart

theorem KeepsR.onSb {s u : State} {b : SbRef} {o : Outcome} (k : KeepsR s o) : KeepsR s (onSb u b o) := by
  cases b <;> exact k.onPart

/-! ### Loops -/

/-- What every pass of a loop keeps, the loop keeps. -/
theorem forEach_ind {α : Type} (l : List α) (f : α → State → State) (P : State → Prop) (hf : ∀ a s, P s → P (f a s)) :
    ∀ s, P s → P (forEach l f s) := by
  induction l with
  | nil => exact fun s h => h
  | cons a l ih => exact fun s h => ih _ (hf a s h)

/-! ### Register stores (R5, R28, R487, R488) -/

/-- A store that is performed: the field's block does what it does with the value, and the store is answered. -/
theorem regStore_ok {ag : Agent} {h : Half} {r : Reg} {i v new : Nat} {s : State} (act : Nat → State → State)
    (ok : storeOk ag h r i v new s) :
    onAgent s ag (.next (regStore ag h r i v act s)) = .next (stored ag h r i (act new s)) := by
  obtain ⟨h1, h2, h3, w, h4, h5, h8, h6⟩ := ok
  have h7 : (decide (h = .h1) && decide ((regRow r).h1 = .copy)) = false := by
    by_cases hh : h = .h1 <;> simp_all
  rw [onAgent_next h1]
  simp [regStore, h4, h2, h7, h5, h6, h8, stored, Machine.when]

/-! ### Cadun's commands (R389–R392) -/

/-- Cadun's work on a command that it takes, and the end of the command. -/
theorem runCmd_taken {op : Nat} {r : CmdRef} {c : CmdIn} {s t : State} (h : cmdTaken op r c s t)
    (work : CmdIn → State → CmdEnd × State) : runCmd op r work s = endCmd c (work c t).1 (work c t).2 := by
  obtain ⟨d, h1, h2, h3, h4, h5, h6, h7⟩ := h
  subst h5 h7
  rcases h6 with h6 | ⟨h6, h8⟩
  · simp [runCmd, h1, h2, h3, h4, h6]
  · by_cases hst : d.started = true
    · simp [runCmd, h1, h2, h3, h4, hst]
    · simp [runCmd, h1, h2, h3, h4, hst, h6, h8]

theorem runCmd_ok {op : Nat} {r : CmdRef} {c : CmdIn} {s t u : State} {res : List Byte} {work : CmdIn → State → CmdEnd × State}
    (h : cmdTaken op r c s t) (hw : work c t = endOk res u) :
    (Host.Outcome.next (runCmd op r work s) : Outcome) = cmdOk c res u := by
  rw [runCmd_taken h, hw]; rfl

theorem runCmd_bad {op : Nat} {r : CmdRef} {c : CmdIn} {s t u : State} {st : Nat} {work : CmdIn → State → CmdEnd × State}
    (h : cmdTaken op r c s t) (hw : work c t = endWith st u) :
    (Host.Outcome.next (runCmd op r work s) : Outcome) = cmdBad c st u := by
  rw [runCmd_taken h, hw]; rfl

end Sys2Proof.Machine
end

