-- ==== Sys2Proof/Laws/State.lean ====
section
/-! SUPPORT. The laws of the state's updates: what each leaves as it was, and a read after a write. -/

namespace Sys2Proof.Machine

open Sys2Proof

/-! ### What an update leaves as it was -/

@[simp] theorem quietClear_frame (ag : Agent) (k : Nat) (s : State) :
    (quietClear ag k s).part = s.part ∧ (quietClear ag k s).clock = s.clock ∧
    (quietClear ag k s).pending = s.pending ∧ (quietClear ag k s).out = s.out ∧
    (quietClear ag k s).freeCtr = s.freeCtr ∧ (quietClear ag k s).regs = s.regs ∧ (quietClear ag k s).fab = s.fab ∧
    (quietClear ag k s).cues = s.cues ∧ (quietClear ag k s).takes = s.takes ∧ (quietClear ag k s).mem = s.mem ∧
    (quietClear ag k s).coh = s.coh ∧ (quietClear ag k s).dolly = s.dolly ∧ (quietClear ag k s).link = s.link ∧
    (quietClear ag k s).reg = s.reg ∧ (quietClear ag k s).zor = s.zor ∧ (quietClear ag k s).host = s.host ∧
    (quietClear ag k s).cad = s.cad ∧ (quietClear ag k s).pwr = s.pwr ∧ (quietClear ag k s).ident = s.ident ∧
    (quietClear ag k s).col0 = s.col0 ∧ (quietClear ag k s).col1 = s.col1 ∧ (quietClear ag k s).deg0 = s.deg0 ∧
    (quietClear ag k s).deg1 = s.deg1 ∧ (quietClear ag k s).pins = s.pins :=
  ⟨rfl, rfl, rfl, rfl, rfl, rfl, rfl, rfl, rfl, rfl, rfl, rfl, rfl, rfl, rfl, rfl, rfl, rfl, rfl, rfl, rfl, rfl, rfl, rfl⟩

@[simp] theorem setMaint_frame (h : Half) (f : Nat) (p : MaintPort) (s : State) :
    (setMaint h f p s).part = s.part ∧ (setMaint h f p s).clock = s.clock ∧ (setMaint h f p s).pending = s.pending ∧
    (setMaint h f p s).out = s.out ∧ (setMaint h f p s).freeCtr = s.freeCtr ∧ (setMaint h f p s).regs = s.regs ∧
    (setMaint h f p s).fab = s.fab ∧ (setMaint h f p s).cues = s.cues ∧ (setMaint h f p s).takes = s.takes ∧
    (setMaint h f p s).mem = s.mem ∧ (setMaint h f p s).coh = s.coh ∧ (setMaint h f p s).dolly = s.dolly ∧
    (setMaint h f p s).link = s.link ∧ (setMaint h f p s).reg = s.reg ∧ (setMaint h f p s).zor = s.zor ∧
    (setMaint h f p s).host = s.host ∧ (setMaint h f p s).cad = s.cad ∧ (setMaint h f p s).pwr = s.pwr ∧
    (setMaint h f p s).ident = s.ident ∧ (setMaint h f p s).col0 = s.col0 ∧ (setMaint h f p s).col1 = s.col1 ∧
    (setMaint h f p s).deg0 = s.deg0 ∧ (setMaint h f p s).deg1 = s.deg1 ∧ (setMaint h f p s).pins = s.pins :=
  ⟨rfl, rfl, rfl, rfl, rfl, rfl, rfl, rfl, rfl, rfl, rfl, rfl, rfl, rfl, rfl, rfl, rfl, rfl, rfl, rfl, rfl, rfl, rfl, rfl⟩

@[simp] theorem setCell_frame (k : Nat) (x : CellSt) (s : State) :
    (setCell k x s).part = s.part ∧ (setCell k x s).clock = s.clock ∧ (setCell k x s).pending = s.pending ∧
    (setCell k x s).out = s.out ∧ (setCell k x s).freeCtr = s.freeCtr ∧ (setCell k x s).regs = s.regs ∧
    (setCell k x s).cues = s.cues ∧ (setCell k x s).takes = s.takes ∧ (setCell k x s).buf = s.buf ∧
    (setCell k x s).mem = s.mem ∧ (setCell k x s).coh = s.coh ∧ (setCell k x s).dolly = s.dolly ∧
    (setCell k x s).link = s.link ∧ (setCell k x s).reg = s.reg ∧ (setCell k x s).zor = s.zor ∧
    (setCell k x s).host = s.host ∧ (setCell k x s).cad = s.cad ∧ (setCell k x s).pwr = s.pwr ∧
    (setCell k x s).ident = s.ident ∧ (setCell k x s).col0 = s.col0 ∧ (setCell k x s).col1 = s.col1 ∧
    (setCell k x s).deg0 = s.deg0 ∧ (setCell k x s).deg1 = s.deg1 ∧ (setCell k x s).pins = s.pins :=
  ⟨rfl, rfl, rfl, rfl, rfl, rfl, rfl, rfl, rfl, rfl, rfl, rfl, rfl, rfl, rfl, rfl, rfl, rfl, rfl, rfl, rfl, rfl, rfl, rfl⟩

@[simp] theorem setPhys_frame (k : Nat) (x : PArr) (s : State) :
    (setPhys k x s).part = s.part ∧ (setPhys k x s).clock = s.clock ∧ (setPhys k x s).pending = s.pending ∧
    (setPhys k x s).out = s.out ∧ (setPhys k x s).freeCtr = s.freeCtr ∧ (setPhys k x s).regs = s.regs ∧
    (setPhys k x s).cues = s.cues ∧ (setPhys k x s).takes = s.takes ∧ (setPhys k x s).buf = s.buf ∧
    (setPhys k x s).mem = s.mem ∧ (setPhys k x s).coh = s.coh ∧ (setPhys k x s).dolly = s.dolly ∧
    (setPhys k x s).link = s.link ∧ (setPhys k x s).reg = s.reg ∧ (setPhys k x s).zor = s.zor ∧
    (setPhys k x s).host = s.host ∧ (setPhys k x s).cad = s.cad ∧ (setPhys k x s).pwr = s.pwr ∧
    (setPhys k x s).ident = s.ident ∧ (setPhys k x s).col0 = s.col0 ∧ (setPhys k x s).col1 = s.col1 ∧
    (setPhys k x s).deg0 = s.deg0 ∧ (setPhys k x s).deg1 = s.deg1 ∧ (setPhys k x s).pins = s.pins :=
  ⟨rfl, rfl, rfl, rfl, rfl, rfl, rfl, rfl, rfl, rfl, rfl, rfl, rfl, rfl, rfl, rfl, rfl, rfl, rfl, rfl, rfl, rfl, rfl, rfl⟩

@[simp] theorem setVec_frame (key k : Nat) (v : VecSt) (s : State) :
    (setVec key k v s).part = s.part ∧ (setVec key k v s).clock = s.clock ∧ (setVec key k v s).pending = s.pending ∧
    (setVec key k v s).out = s.out ∧ (setVec key k v s).freeCtr = s.freeCtr ∧ (setVec key k v s).regs = s.regs ∧
    (setVec key k v s).cues = s.cues ∧ (setVec key k v s).takes = s.takes ∧ (setVec key k v s).buf = s.buf ∧
    (setVec key k v s).mem = s.mem ∧ (setVec key k v s).coh = s.coh ∧ (setVec key k v s).dolly = s.dolly ∧
    (setVec key k v s).link = s.link ∧ (setVec key k v s).reg = s.reg ∧ (setVec key k v s).zor = s.zor ∧
    (setVec key k v s).host = s.host ∧ (setVec key k v s).cad = s.cad ∧ (setVec key k v s).pwr = s.pwr ∧
    (setVec key k v s).ident = s.ident ∧ (setVec key k v s).col0 = s.col0 ∧ (setVec key k v s).col1 = s.col1 ∧
    (setVec key k v s).deg0 = s.deg0 ∧ (setVec key k v s).deg1 = s.deg1 ∧ (setVec key k v s).pins = s.pins :=
  ⟨rfl, rfl, rfl, rfl, rfl, rfl, rfl, rfl, rfl, rfl, rfl, rfl, rfl, rfl, rfl, rfl, rfl, rfl, rfl, rfl, rfl, rfl, rfl, rfl⟩

@[simp] theorem setColl_frame (n : Nat) (x : CollSt) (s : State) :
    (setColl n x s).part = s.part ∧ (setColl n x s).clock = s.clock ∧ (setColl n x s).pending = s.pending ∧
    (setColl n x s).out = s.out ∧ (setColl n x s).freeCtr = s.freeCtr ∧ (setColl n x s).regs = s.regs ∧
    (setColl n x s).fab = s.fab ∧ (setColl n x s).cues = s.cues ∧ (setColl n x s).takes = s.takes ∧
    (setColl n x s).buf = s.buf ∧ (setColl n x s).mem = s.mem ∧ (setColl n x s).coh = s.coh ∧
    (setColl n x s).dolly = s.dolly ∧ (setColl n x s).reg = s.reg ∧ (setColl n x s).zor = s.zor ∧
    (setColl n x s).host = s.host ∧ (setColl n x s).cad = s.cad ∧ (setColl n x s).pwr = s.pwr ∧
    (setColl n x s).ident = s.ident ∧ (setColl n x s).col0 = s.col0 ∧ (setColl n x s).col1 = s.col1 ∧
    (setColl n x s).deg0 = s.deg0 ∧ (setColl n x s).deg1 = s.deg1 ∧ (setColl n x s).pins = s.pins :=
  ⟨rfl, rfl, rfl, rfl, rfl, rfl, rfl, rfl, rfl, rfl, rfl, rfl, rfl, rfl, rfl, rfl, rfl, rfl, rfl, rfl, rfl, rfl, rfl, rfl⟩

@[simp] theorem freeSnoops_frame (sl line : Nat) (s : State) :
    (freeSnoops sl line s).part = s.part ∧ (freeSnoops sl line s).clock = s.clock ∧
    (freeSnoops sl line s).pending = s.pending ∧ (freeSnoops sl line s).out = s.out ∧
    (freeSnoops sl line s).freeCtr = s.freeCtr ∧ (freeSnoops sl line s).regs = s.regs ∧
    (freeSnoops sl line s).fab = s.fab ∧ (freeSnoops sl line s).cues = s.cues ∧
    (freeSnoops sl line s).takes = s.takes ∧ (freeSnoops sl line s).buf = s.buf ∧
    (freeSnoops sl line s).mem = s.mem ∧ (freeSnoops sl line s).dolly = s.dolly ∧
    (freeSnoops sl line s).link = s.link ∧ (freeSnoops sl line s).reg = s.reg ∧ (freeSnoops sl line s).zor = s.zor ∧
    (freeSnoops sl line s).host = s.host ∧ (freeSnoops sl line s).cad = s.cad ∧ (freeSnoops sl line s).pwr = s.pwr ∧
    (freeSnoops sl line s).ident = s.ident ∧ (freeSnoops sl line s).col0 = s.col0 ∧
    (freeSnoops sl line s).col1 = s.col1 ∧ (freeSnoops sl line s).deg0 = s.deg0 ∧
    (freeSnoops sl line s).deg1 = s.deg1 ∧ (freeSnoops sl line s).pins = s.pins :=
  ⟨rfl, rfl, rfl, rfl, rfl, rfl, rfl, rfl, rfl, rfl, rfl, rfl, rfl, rfl, rfl, rfl, rfl, rfl, rfl, rfl, rfl, rfl, rfl, rfl⟩

@[simp] theorem setSlate_frame (f : Nat) (x : SlateSt) (s : State) :
    (setSlate f x s).part = s.part ∧ (setSlate f x s).clock = s.clock ∧ (setSlate f x s).pending = s.pending ∧
    (setSlate f x s).out = s.out ∧ (setSlate f x s).freeCtr = s.freeCtr ∧ (setSlate f x s).regs = s.regs ∧
    (setSlate f x s).fab = s.fab ∧ (setSlate f x s).cues = s.cues ∧ (setSlate f x s).takes = s.takes ∧
    (setSlate f x s).buf = s.buf ∧ (setSlate f x s).mem = s.mem ∧ (setSlate f x s).dolly = s.dolly ∧
    (setSlate f x s).link = s.link ∧ (setSlate f x s).reg = s.reg ∧ (setSlate f x s).zor = s.zor ∧
    (setSlate f x s).host = s.host ∧ (setSlate f x s).cad = s.cad ∧ (setSlate f x s).pwr = s.pwr ∧
    (setSlate f x s).ident = s.ident ∧ (setSlate f x s).col0 = s.col0 ∧ (setSlate f x s).col1 = s.col1 ∧
    (setSlate f x s).deg0 = s.deg0 ∧ (setSlate f x s).deg1 = s.deg1 ∧ (setSlate f x s).pins = s.pins :=
  ⟨rfl, rfl, rfl, rfl, rfl, rfl, rfl, rfl, rfl, rfl, rfl, rfl, rfl, rfl, rfl, rfl, rfl, rfl, rfl, rfl, rfl, rfl, rfl, rfl⟩

@[simp] theorem setCtx_frame (h : Half) (i k : Nat) (c : Ctx) (s : State) :
    (setCtx h i k c s).part = s.part ∧ (setCtx h i k c s).clock = s.clock ∧ (setCtx h i k c s).pending = s.pending ∧
    (setCtx h i k c s).out = s.out ∧ (setCtx h i k c s).freeCtr = s.freeCtr ∧ (setCtx h i k c s).regs = s.regs ∧
    (setCtx h i k c s).cues = s.cues ∧ (setCtx h i k c s).takes = s.takes ∧ (setCtx h i k c s).buf = s.buf ∧
    (setCtx h i k c s).mem = s.mem ∧ (setCtx h i k c s).coh = s.coh ∧ (setCtx h i k c s).dolly = s.dolly ∧
    (setCtx h i k c s).link = s.link ∧ (setCtx h i k c s).reg = s.reg ∧ (setCtx h i k c s).zor = s.zor ∧
    (setCtx h i k c s).host = s.host ∧ (setCtx h i k c s).cad = s.cad ∧ (setCtx h i k c s).pwr = s.pwr ∧
    (setCtx h i k c s).ident = s.ident ∧ (setCtx h i k c s).col0 = s.col0 ∧ (setCtx h i k c s).col1 = s.col1 ∧
    (setCtx h i k c s).deg0 = s.deg0 ∧ (setCtx h i k c s).deg1 = s.deg1 ∧ (setCtx h i k c s).pins = s.pins :=
  ⟨rfl, rfl, rfl, rfl, rfl, rfl, rfl, rfl, rfl, rfl, rfl, rfl, rfl, rfl, rfl, rfl, rfl, rfl, rfl, rfl, rfl, rfl, rfl, rfl⟩

@[simp] theorem setCue_frame (n : Nat) (c : Cue) (s : State) :
    (setCue n c s).part = s.part ∧ (setCue n c s).clock = s.clock ∧ (setCue n c s).pending = s.pending ∧
    (setCue n c s).out = s.out ∧ (setCue n c s).freeCtr = s.freeCtr ∧ (setCue n c s).regs = s.regs ∧
    (setCue n c s).fab = s.fab ∧ (setCue n c s).takes = s.takes ∧ (setCue n c s).buf = s.buf ∧
    (setCue n c s).mem = s.mem ∧ (setCue n c s).coh = s.coh ∧ (setCue n c s).dolly = s.dolly ∧
    (setCue n c s).link = s.link ∧ (setCue n c s).reg = s.reg ∧ (setCue n c s).zor = s.zor ∧
    (setCue n c s).host = s.host ∧ (setCue n c s).cad = s.cad ∧ (setCue n c s).pwr = s.pwr ∧
    (setCue n c s).ident = s.ident ∧ (setCue n c s).col0 = s.col0 ∧ (setCue n c s).col1 = s.col1 ∧
    (setCue n c s).deg0 = s.deg0 ∧ (setCue n c s).deg1 = s.deg1 ∧ (setCue n c s).pins = s.pins :=
  ⟨rfl, rfl, rfl, rfl, rfl, rfl, rfl, rfl, rfl, rfl, rfl, rfl, rfl, rfl, rfl, rfl, rfl, rfl, rfl, rfl, rfl, rfl, rfl, rfl⟩

@[simp] theorem setQueue_frame (n : Nat) (q : QueueSt) (s : State) :
    (setQueue n q s).part = s.part ∧ (setQueue n q s).clock = s.clock ∧ (setQueue n q s).pending = s.pending ∧
    (setQueue n q s).out = s.out ∧ (setQueue n q s).freeCtr = s.freeCtr ∧ (setQueue n q s).regs = s.regs ∧
    (setQueue n q s).fab = s.fab ∧ (setQueue n q s).cues = s.cues ∧ (setQueue n q s).takes = s.takes ∧
    (setQueue n q s).buf = s.buf ∧ (setQueue n q s).mem = s.mem ∧ (setQueue n q s).coh = s.coh ∧
    (setQueue n q s).link = s.link ∧ (setQueue n q s).reg = s.reg ∧ (setQueue n q s).zor = s.zor ∧
    (setQueue n q s).host = s.host ∧ (setQueue n q s).cad = s.cad ∧ (setQueue n q s).pwr = s.pwr ∧
    (setQueue n q s).ident = s.ident ∧ (setQueue n q s).col0 = s.col0 ∧ (setQueue n q s).col1 = s.col1 ∧
    (setQueue n q s).deg0 = s.deg0 ∧ (setQueue n q s).deg1 = s.deg1 ∧ (setQueue n q s).pins = s.pins :=
  ⟨rfl, rfl, rfl, rfl, rfl, rfl, rfl, rfl, rfl, rfl, rfl, rfl, rfl, rfl, rfl, rfl, rfl, rfl, rfl, rfl, rfl, rfl, rfl, rfl⟩

@[simp] theorem setFunc_frame (f : Nat) (x : FuncSt) (s : State) :
    (setFunc f x s).part = s.part ∧ (setFunc f x s).clock = s.clock ∧ (setFunc f x s).pending = s.pending ∧
    (setFunc f x s).out = s.out ∧ (setFunc f x s).freeCtr = s.freeCtr ∧ (setFunc f x s).regs = s.regs ∧
    (setFunc f x s).fab = s.fab ∧ (setFunc f x s).cues = s.cues ∧ (setFunc f x s).takes = s.takes ∧
    (setFunc f x s).buf = s.buf ∧ (setFunc f x s).mem = s.mem ∧ (setFunc f x s).coh = s.coh ∧
    (setFunc f x s).dolly = s.dolly ∧ (setFunc f x s).link = s.link ∧ (setFunc f x s).reg = s.reg ∧
    (setFunc f x s).zor = s.zor ∧ (setFunc f x s).host = s.host ∧ (setFunc f x s).pwr = s.pwr ∧
    (setFunc f x s).ident = s.ident ∧ (setFunc f x s).col0 = s.col0 ∧ (setFunc f x s).col1 = s.col1 ∧
    (setFunc f x s).deg0 = s.deg0 ∧ (setFunc f x s).deg1 = s.deg1 ∧ (setFunc f x s).pins = s.pins :=
  ⟨rfl, rfl, rfl, rfl, rfl, rfl, rfl, rfl, rfl, rfl, rfl, rfl, rfl, rfl, rfl, rfl, rfl, rfl, rfl, rfl, rfl, rfl, rfl, rfl⟩

@[simp] theorem noteHolds_frame (k : Nat) (l : List Nat) (s : State) :
    (noteHolds k l s).part = s.part ∧ (noteHolds k l s).clock = s.clock ∧ (noteHolds k l s).pending = s.pending ∧
    (noteHolds k l s).out = s.out ∧ (noteHolds k l s).freeCtr = s.freeCtr ∧ (noteHolds k l s).regs = s.regs ∧
    (noteHolds k l s).fab = s.fab ∧ (noteHolds k l s).cues = s.cues ∧ (noteHolds k l s).takes = s.takes ∧
    (noteHolds k l s).buf = s.buf ∧ (noteHolds k l s).mem = s.mem ∧ (noteHolds k l s).coh = s.coh ∧
    (noteHolds k l s).dolly = s.dolly ∧ (noteHolds k l s).link = s.link ∧ (noteHolds k l s).reg = s.reg ∧
    (noteHolds k l s).zor = s.zor ∧ (noteHolds k l s).host = s.host ∧ (noteHolds k l s).pwr = s.pwr ∧
    (noteHolds k l s).ident = s.ident ∧ (noteHolds k l s).col0 = s.col0 ∧ (noteHolds k l s).col1 = s.col1 ∧
    (noteHolds k l s).deg0 = s.deg0 ∧ (noteHolds k l s).deg1 = s.deg1 ∧ (noteHolds k l s).pins = s.pins :=
  ⟨rfl, rfl, rfl, rfl, rfl, rfl, rfl, rfl, rfl, rfl, rfl, rfl, rfl, rfl, rfl, rfl, rfl, rfl, rfl, rfl, rfl, rfl, rfl, rfl⟩

@[simp] theorem dropHolds_frame (k : Nat) (s : State) :
    (dropHolds k s).part = s.part ∧ (dropHolds k s).clock = s.clock ∧ (dropHolds k s).pending = s.pending ∧
    (dropHolds k s).out = s.out ∧ (dropHolds k s).freeCtr = s.freeCtr ∧ (dropHolds k s).regs = s.regs ∧
    (dropHolds k s).fab = s.fab ∧ (dropHolds k s).cues = s.cues ∧ (dropHolds k s).takes = s.takes ∧
    (dropHolds k s).buf = s.buf ∧ (dropHolds k s).mem = s.mem ∧ (dropHolds k s).coh = s.coh ∧
    (dropHolds k s).dolly = s.dolly ∧ (dropHolds k s).link = s.link ∧ (dropHolds k s).reg = s.reg ∧
    (dropHolds k s).zor = s.zor ∧ (dropHolds k s).host = s.host ∧ (dropHolds k s).pwr = s.pwr ∧
    (dropHolds k s).ident = s.ident ∧ (dropHolds k s).col0 = s.col0 ∧ (dropHolds k s).col1 = s.col1 ∧
    (dropHolds k s).deg0 = s.deg0 ∧ (dropHolds k s).deg1 = s.deg1 ∧ (dropHolds k s).pins = s.pins :=
  ⟨rfl, rfl, rfl, rfl, rfl, rfl, rfl, rfl, rfl, rfl, rfl, rfl, rfl, rfl, rfl, rfl, rfl, rfl, rfl, rfl, rfl, rfl, rfl, rfl⟩

@[simp] theorem setReel_frame (k : Nat) (x : ReelSt) (s : State) :
    (setReel k x s).part = s.part ∧ (setReel k x s).clock = s.clock ∧ (setReel k x s).pending = s.pending ∧
    (setReel k x s).out = s.out ∧ (setReel k x s).freeCtr = s.freeCtr ∧ (setReel k x s).regs = s.regs ∧
    (setReel k x s).fab = s.fab ∧ (setReel k x s).cues = s.cues ∧ (setReel k x s).takes = s.takes ∧
    (setReel k x s).buf = s.buf ∧ (setReel k x s).mem = s.mem ∧ (setReel k x s).coh = s.coh ∧
    (setReel k x s).link = s.link ∧ (setReel k x s).reg = s.reg ∧ (setReel k x s).zor = s.zor ∧
    (setReel k x s).host = s.host ∧ (setReel k x s).cad = s.cad ∧ (setReel k x s).pwr = s.pwr ∧
    (setReel k x s).ident = s.ident ∧ (setReel k x s).col0 = s.col0 ∧ (setReel k x s).col1 = s.col1 ∧
    (setReel k x s).deg0 = s.deg0 ∧ (setReel k x s).deg1 = s.deg1 ∧ (setReel k x s).pins = s.pins :=
  ⟨rfl, rfl, rfl, rfl, rfl, rfl, rfl, rfl, rfl, rfl, rfl, rfl, rfl, rfl, rfl, rfl, rfl, rfl, rfl, rfl, rfl, rfl, rfl, rfl⟩

@[simp] theorem setPortQ_frame (h : Half) (i port : Nat) (l : List Nat) (s : State) :
    (setPortQ h i port l s).part = s.part ∧ (setPortQ h i port l s).clock = s.clock ∧
    (setPortQ h i port l s).pending = s.pending ∧ (setPortQ h i port l s).out = s.out ∧
    (setPortQ h i port l s).freeCtr = s.freeCtr ∧ (setPortQ h i port l s).regs = s.regs ∧
    (setPortQ h i port l s).cues = s.cues ∧ (setPortQ h i port l s).takes = s.takes ∧
    (setPortQ h i port l s).buf = s.buf ∧ (setPortQ h i port l s).mem = s.mem ∧ (setPortQ h i port l s).coh = s.coh ∧
    (setPortQ h i port l s).dolly = s.dolly ∧ (setPortQ h i port l s).link = s.link ∧
    (setPortQ h i port l s).reg = s.reg ∧ (setPortQ h i port l s).zor = s.zor ∧
    (setPortQ h i port l s).host = s.host ∧ (setPortQ h i port l s).cad = s.cad ∧
    (setPortQ h i port l s).pwr = s.pwr ∧ (setPortQ h i port l s).ident = s.ident ∧
    (setPortQ h i port l s).col0 = s.col0 ∧ (setPortQ h i port l s).col1 = s.col1 ∧
    (setPortQ h i port l s).deg0 = s.deg0 ∧ (setPortQ h i port l s).deg1 = s.deg1 ∧
    (setPortQ h i port l s).pins = s.pins :=
  ⟨rfl, rfl, rfl, rfl, rfl, rfl, rfl, rfl, rfl, rfl, rfl, rfl, rfl, rfl, rfl, rfl, rfl, rfl, rfl, rfl, rfl, rfl, rfl, rfl⟩

@[simp] theorem farHold_frame (h : Half) (ag : Agent) (ga : W64) (op : FarOp) (rtag : Nat) (s : State) :
    (farHold h ag ga op rtag s).part = s.part ∧ (farHold h ag ga op rtag s).clock = s.clock ∧
    (farHold h ag ga op rtag s).pending = s.pending ∧ (farHold h ag ga op rtag s).out = s.out ∧
    (farHold h ag ga op rtag s).freeCtr = s.freeCtr ∧ (farHold h ag ga op rtag s).regs = s.regs ∧
    (farHold h ag ga op rtag s).fab = s.fab ∧ (farHold h ag ga op rtag s).cues = s.cues ∧
    (farHold h ag ga op rtag s).takes = s.takes ∧ (farHold h ag ga op rtag s).buf = s.buf ∧
    (farHold h ag ga op rtag s).mem = s.mem ∧ (farHold h ag ga op rtag s).dolly = s.dolly ∧
    (farHold h ag ga op rtag s).link = s.link ∧ (farHold h ag ga op rtag s).reg = s.reg ∧
    (farHold h ag ga op rtag s).zor = s.zor ∧ (farHold h ag ga op rtag s).host = s.host ∧
    (farHold h ag ga op rtag s).cad = s.cad ∧ (farHold h ag ga op rtag s).pwr = s.pwr ∧
    (farHold h ag ga op rtag s).ident = s.ident ∧ (farHold h ag ga op rtag s).col0 = s.col0 ∧
    (farHold h ag ga op rtag s).col1 = s.col1 ∧ (farHold h ag ga op rtag s).deg0 = s.deg0 ∧
    (farHold h ag ga op rtag s).deg1 = s.deg1 ∧ (farHold h ag ga op rtag s).pins = s.pins :=
  ⟨rfl, rfl, rfl, rfl, rfl, rfl, rfl, rfl, rfl, rfl, rfl, rfl, rfl, rfl, rfl, rfl, rfl, rfl, rfl, rfl, rfl, rfl, rfl, rfl⟩

@[simp] theorem setRegul_frame (q : Nat) (x : RegulSt) (s : State) :
    (setRegul q x s).part = s.part ∧ (setRegul q x s).clock = s.clock ∧ (setRegul q x s).pending = s.pending ∧
    (setRegul q x s).out = s.out ∧ (setRegul q x s).freeCtr = s.freeCtr ∧ (setRegul q x s).regs = s.regs ∧
    (setRegul q x s).fab = s.fab ∧ (setRegul q x s).cues = s.cues ∧ (setRegul q x s).takes = s.takes ∧
    (setRegul q x s).buf = s.buf ∧ (setRegul q x s).mem = s.mem ∧ (setRegul q x s).coh = s.coh ∧
    (setRegul q x s).dolly = s.dolly ∧ (setRegul q x s).link = s.link ∧ (setRegul q x s).zor = s.zor ∧
    (setRegul q x s).host = s.host ∧ (setRegul q x s).cad = s.cad ∧ (setRegul q x s).pwr = s.pwr ∧
    (setRegul q x s).ident = s.ident ∧ (setRegul q x s).col0 = s.col0 ∧ (setRegul q x s).col1 = s.col1 ∧
    (setRegul q x s).deg0 = s.deg0 ∧ (setRegul q x s).deg1 = s.deg1 ∧ (setRegul q x s).pins = s.pins :=
  ⟨rfl, rfl, rfl, rfl, rfl, rfl, rfl, rfl, rfl, rfl, rfl, rfl, rfl, rfl, rfl, rfl, rfl, rfl, rfl, rfl, rfl, rfl, rfl, rfl⟩

@[simp] theorem markOld_frame (f : Nat) (s : State) :
    (markOld f s).part = s.part ∧ (markOld f s).clock = s.clock ∧ (markOld f s).pending = s.pending ∧
    (markOld f s).out = s.out ∧ (markOld f s).freeCtr = s.freeCtr ∧ (markOld f s).regs = s.regs ∧
    (markOld f s).fab = s.fab ∧ (markOld f s).cues = s.cues ∧ (markOld f s).takes = s.takes ∧
    (markOld f s).buf = s.buf ∧ (markOld f s).mem = s.mem ∧ (markOld f s).dolly = s.dolly ∧
    (markOld f s).link = s.link ∧ (markOld f s).reg = s.reg ∧ (markOld f s).zor = s.zor ∧
    (markOld f s).host = s.host ∧ (markOld f s).cad = s.cad ∧ (markOld f s).pwr = s.pwr ∧
    (markOld f s).ident = s.ident ∧ (markOld f s).col0 = s.col0 ∧ (markOld f s).col1 = s.col1 ∧
    (markOld f s).deg0 = s.deg0 ∧ (markOld f s).deg1 = s.deg1 ∧ (markOld f s).pins = s.pins :=
  ⟨rfl, rfl, rfl, rfl, rfl, rfl, rfl, rfl, rfl, rfl, rfl, rfl, rfl, rfl, rfl, rfl, rfl, rfl, rfl, rfl, rfl, rfl, rfl, rfl⟩

@[simp] theorem modHost_frame (f : HostSt → HostSt) (s : State) :
    (modHost f s).part = s.part ∧ (modHost f s).clock = s.clock ∧ (modHost f s).pending = s.pending ∧
    (modHost f s).out = s.out ∧ (modHost f s).freeCtr = s.freeCtr ∧ (modHost f s).regs = s.regs ∧
    (modHost f s).fab = s.fab ∧ (modHost f s).cues = s.cues ∧ (modHost f s).takes = s.takes ∧
    (modHost f s).buf = s.buf ∧ (modHost f s).mem = s.mem ∧ (modHost f s).coh = s.coh ∧
    (modHost f s).dolly = s.dolly ∧ (modHost f s).link = s.link ∧ (modHost f s).reg = s.reg ∧
    (modHost f s).zor = s.zor ∧ (modHost f s).cad = s.cad ∧ (modHost f s).pwr = s.pwr ∧
    (modHost f s).ident = s.ident ∧ (modHost f s).col0 = s.col0 ∧ (modHost f s).col1 = s.col1 ∧
    (modHost f s).deg0 = s.deg0 ∧ (modHost f s).deg1 = s.deg1 ∧ (modHost f s).pins = s.pins :=
  ⟨rfl, rfl, rfl, rfl, rfl, rfl, rfl, rfl, rfl, rfl, rfl, rfl, rfl, rfl, rfl, rfl, rfl, rfl, rfl, rfl, rfl, rfl, rfl, rfl⟩

@[simp] theorem setPort_frame (p : Nat) (x : PortSt) (s : State) :
    (setPort p x s).part = s.part ∧ (setPort p x s).clock = s.clock ∧ (setPort p x s).pending = s.pending ∧
    (setPort p x s).out = s.out ∧ (setPort p x s).freeCtr = s.freeCtr ∧ (setPort p x s).regs = s.regs ∧
    (setPort p x s).fab = s.fab ∧ (setPort p x s).cues = s.cues ∧ (setPort p x s).takes = s.takes ∧
    (setPort p x s).buf = s.buf ∧ (setPort p x s).mem = s.mem ∧ (setPort p x s).coh = s.coh ∧
    (setPort p x s).dolly = s.dolly ∧ (setPort p x s).reg = s.reg ∧ (setPort p x s).zor = s.zor ∧
    (setPort p x s).host = s.host ∧ (setPort p x s).cad = s.cad ∧ (setPort p x s).pwr = s.pwr ∧
    (setPort p x s).ident = s.ident ∧ (setPort p x s).col0 = s.col0 ∧ (setPort p x s).col1 = s.col1 ∧
    (setPort p x s).deg0 = s.deg0 ∧ (setPort p x s).deg1 = s.deg1 ∧ (setPort p x s).pins = s.pins :=
  ⟨rfl, rfl, rfl, rfl, rfl, rfl, rfl, rfl, rfl, rfl, rfl, rfl, rfl, rfl, rfl, rfl, rfl, rfl, rfl, rfl, rfl, rfl, rfl, rfl⟩

@[simp] theorem setMcops_frame (l : List McOp) (s : State) :
    (setMcops l s).part = s.part ∧ (setMcops l s).clock = s.clock ∧ (setMcops l s).pending = s.pending ∧
    (setMcops l s).out = s.out ∧ (setMcops l s).freeCtr = s.freeCtr ∧ (setMcops l s).regs = s.regs ∧
    (setMcops l s).fab = s.fab ∧ (setMcops l s).cues = s.cues ∧ (setMcops l s).takes = s.takes ∧
    (setMcops l s).buf = s.buf ∧ (setMcops l s).mem = s.mem ∧ (setMcops l s).coh = s.coh ∧
    (setMcops l s).dolly = s.dolly ∧ (setMcops l s).reg = s.reg ∧ (setMcops l s).zor = s.zor ∧
    (setMcops l s).host = s.host ∧ (setMcops l s).cad = s.cad ∧ (setMcops l s).pwr = s.pwr ∧
    (setMcops l s).ident = s.ident ∧ (setMcops l s).col0 = s.col0 ∧ (setMcops l s).col1 = s.col1 ∧
    (setMcops l s).deg0 = s.deg0 ∧ (setMcops l s).deg1 = s.deg1 ∧ (setMcops l s).pins = s.pins :=
  ⟨rfl, rfl, rfl, rfl, rfl, rfl, rfl, rfl, rfl, rfl, rfl, rfl, rfl, rfl, rfl, rfl, rfl, rfl, rfl, rfl, rfl, rfl, rfl, rfl⟩

@[simp] theorem setStack_frame (k : Nat) (t : StackSt) (s : State) :
    (setStack k t s).part = s.part ∧ (setStack k t s).clock = s.clock ∧ (setStack k t s).pending = s.pending ∧
    (setStack k t s).out = s.out ∧ (setStack k t s).freeCtr = s.freeCtr ∧ (setStack k t s).regs = s.regs ∧
    (setStack k t s).fab = s.fab ∧ (setStack k t s).cues = s.cues ∧ (setStack k t s).takes = s.takes ∧
    (setStack k t s).buf = s.buf ∧ (setStack k t s).coh = s.coh ∧ (setStack k t s).dolly = s.dolly ∧
    (setStack k t s).link = s.link ∧ (setStack k t s).reg = s.reg ∧ (setStack k t s).zor = s.zor ∧
    (setStack k t s).host = s.host ∧ (setStack k t s).cad = s.cad ∧ (setStack k t s).pwr = s.pwr ∧
    (setStack k t s).ident = s.ident ∧ (setStack k t s).col0 = s.col0 ∧ (setStack k t s).col1 = s.col1 ∧
    (setStack k t s).deg0 = s.deg0 ∧ (setStack k t s).deg1 = s.deg1 ∧ (setStack k t s).pins = s.pins :=
  ⟨rfl, rfl, rfl, rfl, rfl, rfl, rfl, rfl, rfl, rfl, rfl, rfl, rfl, rfl, rfl, rfl, rfl, rfl, rfl, rfl, rfl, rfl, rfl, rfl⟩

@[simp] theorem setChan_frame (c : Nat) (x : Chan) (s : State) :
    (setChan c x s).part = s.part ∧ (setChan c x s).clock = s.clock ∧ (setChan c x s).pending = s.pending ∧
    (setChan c x s).out = s.out ∧ (setChan c x s).freeCtr = s.freeCtr ∧ (setChan c x s).regs = s.regs ∧
    (setChan c x s).fab = s.fab ∧ (setChan c x s).cues = s.cues ∧ (setChan c x s).takes = s.takes ∧
    (setChan c x s).buf = s.buf ∧ (setChan c x s).coh = s.coh ∧ (setChan c x s).dolly = s.dolly ∧
    (setChan c x s).link = s.link ∧ (setChan c x s).reg = s.reg ∧ (setChan c x s).zor = s.zor ∧
    (setChan c x s).host = s.host ∧ (setChan c x s).cad = s.cad ∧ (setChan c x s).pwr = s.pwr ∧
    (setChan c x s).ident = s.ident ∧ (setChan c x s).col0 = s.col0 ∧ (setChan c x s).col1 = s.col1 ∧
    (setChan c x s).deg0 = s.deg0 ∧ (setChan c x s).deg1 = s.deg1 ∧ (setChan c x s).pins = s.pins :=
  ⟨rfl, rfl, rfl, rfl, rfl, rfl, rfl, rfl, rfl, rfl, rfl, rfl, rfl, rfl, rfl, rfl, rfl, rfl, rfl, rfl, rfl, rfl, rfl, rfl⟩

@[simp] theorem rawWrite_frame (c idx : Nat) (d : Sec256) (side : Nat) (s : State) :
    (rawWrite c idx d side s).part = s.part ∧ (rawWrite c idx d side s).clock = s.clock ∧
    (rawWrite c idx d side s).pending = s.pending ∧ (rawWrite c idx d side s).out = s.out ∧
    (rawWrite c idx d side s).freeCtr = s.freeCtr ∧ (rawWrite c idx d side s).regs = s.regs ∧
    (rawWrite c idx d side s).fab = s.fab ∧ (rawWrite c idx d side s).cues = s.cues ∧
    (rawWrite c idx d side s).takes = s.takes ∧ (rawWrite c idx d side s).buf = s.buf ∧
    (rawWrite c idx d side s).coh = s.coh ∧ (rawWrite c idx d side s).dolly = s.dolly ∧
    (rawWrite c idx d side s).link = s.link ∧ (rawWrite c idx d side s).reg = s.reg ∧
    (rawWrite c idx d side s).zor = s.zor ∧ (rawWrite c idx d side s).host = s.host ∧
    (rawWrite c idx d side s).cad = s.cad ∧ (rawWrite c idx d side s).pwr = s.pwr ∧
    (rawWrite c idx d side s).ident = s.ident ∧ (rawWrite c idx d side s).col0 = s.col0 ∧
    (rawWrite c idx d side s).col1 = s.col1 ∧ (rawWrite c idx d side s).deg0 = s.deg0 ∧
    (rawWrite c idx d side s).deg1 = s.deg1 ∧ (rawWrite c idx d side s).pins = s.pins :=
  ⟨rfl, rfl, rfl, rfl, rfl, rfl, rfl, rfl, rfl, rfl, rfl, rfl, rfl, rfl, rfl, rfl, rfl, rfl, rfl, rfl, rfl, rfl, rfl, rfl⟩

@[simp] theorem logRepair_frame (c bank row kind : Nat) (s : State) :
    (logRepair c bank row kind s).part = s.part ∧ (logRepair c bank row kind s).clock = s.clock ∧
    (logRepair c bank row kind s).pending = s.pending ∧ (logRepair c bank row kind s).out = s.out ∧
    (logRepair c bank row kind s).freeCtr = s.freeCtr ∧ (logRepair c bank row kind s).regs = s.regs ∧
    (logRepair c bank row kind s).fab = s.fab ∧ (logRepair c bank row kind s).cues = s.cues ∧
    (logRepair c bank row kind s).takes = s.takes ∧ (logRepair c bank row kind s).buf = s.buf ∧
    (logRepair c bank row kind s).coh = s.coh ∧ (logRepair c bank row kind s).dolly = s.dolly ∧
    (logRepair c bank row kind s).link = s.link ∧ (logRepair c bank row kind s).reg = s.reg ∧
    (logRepair c bank row kind s).zor = s.zor ∧ (logRepair c bank row kind s).host = s.host ∧
    (logRepair c bank row kind s).cad = s.cad ∧ (logRepair c bank row kind s).pwr = s.pwr ∧
    (logRepair c bank row kind s).ident = s.ident ∧ (logRepair c bank row kind s).col0 = s.col0 ∧
    (logRepair c bank row kind s).col1 = s.col1 ∧ (logRepair c bank row kind s).deg0 = s.deg0 ∧
    (logRepair c bank row kind s).deg1 = s.deg1 ∧ (logRepair c bank row kind s).pins = s.pins :=
  ⟨rfl, rfl, rfl, rfl, rfl, rfl, rfl, rfl, rfl, rfl, rfl, rfl, rfl, rfl, rfl, rfl, rfl, rfl, rfl, rfl, rfl, rfl, rfl, rfl⟩

@[simp] theorem zeroFill_frame (k : Nat) (s : State) :
    (zeroFill k s).part = s.part ∧ (zeroFill k s).clock = s.clock ∧ (zeroFill k s).pending = s.pending ∧
    (zeroFill k s).out = s.out ∧ (zeroFill k s).freeCtr = s.freeCtr ∧ (zeroFill k s).regs = s.regs ∧
    (zeroFill k s).fab = s.fab ∧ (zeroFill k s).cues = s.cues ∧ (zeroFill k s).takes = s.takes ∧
    (zeroFill k s).buf = s.buf ∧ (zeroFill k s).coh = s.coh ∧ (zeroFill k s).dolly = s.dolly ∧
    (zeroFill k s).link = s.link ∧ (zeroFill k s).reg = s.reg ∧ (zeroFill k s).zor = s.zor ∧
    (zeroFill k s).host = s.host ∧ (zeroFill k s).cad = s.cad ∧ (zeroFill k s).pwr = s.pwr ∧
    (zeroFill k s).ident = s.ident ∧ (zeroFill k s).col0 = s.col0 ∧ (zeroFill k s).col1 = s.col1 ∧
    (zeroFill k s).deg0 = s.deg0 ∧ (zeroFill k s).deg1 = s.deg1 ∧ (zeroFill k s).pins = s.pins :=
  ⟨rfl, rfl, rfl, rfl, rfl, rfl, rfl, rfl, rfl, rfl, rfl, rfl, rfl, rfl, rfl, rfl, rfl, rfl, rfl, rfl, rfl, rfl, rfl, rfl⟩

@[simp] theorem atTime_frame (t : Nat) (s : State) :
    (atTime t s).part = s.part ∧ (atTime t s).pending = s.pending ∧ (atTime t s).out = s.out ∧
    (atTime t s).freeCtr = s.freeCtr ∧ (atTime t s).regs = s.regs ∧ (atTime t s).fab = s.fab ∧
    (atTime t s).cues = s.cues ∧ (atTime t s).takes = s.takes ∧ (atTime t s).buf = s.buf ∧ (atTime t s).mem = s.mem ∧
    (atTime t s).coh = s.coh ∧ (atTime t s).dolly = s.dolly ∧ (atTime t s).link = s.link ∧ (atTime t s).reg = s.reg ∧
    (atTime t s).zor = s.zor ∧ (atTime t s).host = s.host ∧ (atTime t s).cad = s.cad ∧ (atTime t s).pwr = s.pwr ∧
    (atTime t s).ident = s.ident ∧ (atTime t s).col0 = s.col0 ∧ (atTime t s).col1 = s.col1 ∧
    (atTime t s).deg0 = s.deg0 ∧ (atTime t s).deg1 = s.deg1 ∧ (atTime t s).pins = s.pins :=
  ⟨rfl, rfl, rfl, rfl, rfl, rfl, rfl, rfl, rfl, rfl, rfl, rfl, rfl, rfl, rfl, rfl, rfl, rfl, rfl, rfl, rfl, rfl, rfl, rfl⟩

@[simp] theorem emit_frame (o : Out) (s : State) :
    (emit o s).part = s.part ∧ (emit o s).clock = s.clock ∧ (emit o s).pending = s.pending ∧
    (emit o s).freeCtr = s.freeCtr ∧ (emit o s).regs = s.regs ∧ (emit o s).fab = s.fab ∧ (emit o s).cues = s.cues ∧
    (emit o s).takes = s.takes ∧ (emit o s).buf = s.buf ∧ (emit o s).mem = s.mem ∧ (emit o s).coh = s.coh ∧
    (emit o s).dolly = s.dolly ∧ (emit o s).link = s.link ∧ (emit o s).reg = s.reg ∧ (emit o s).zor = s.zor ∧
    (emit o s).host = s.host ∧ (emit o s).cad = s.cad ∧ (emit o s).pwr = s.pwr ∧ (emit o s).ident = s.ident ∧
    (emit o s).col0 = s.col0 ∧ (emit o s).col1 = s.col1 ∧ (emit o s).deg0 = s.deg0 ∧ (emit o s).deg1 = s.deg1 ∧
    (emit o s).pins = s.pins :=
  ⟨rfl, rfl, rfl, rfl, rfl, rfl, rfl, rfl, rfl, rfl, rfl, rfl, rfl, rfl, rfl, rfl, rfl, rfl, rfl, rfl, rfl, rfl, rfl, rfl⟩

@[simp] theorem rput_frame (r : Reg) (i v : Nat) (s : State) :
    (rput r i v s).part = s.part ∧ (rput r i v s).clock = s.clock ∧ (rput r i v s).pending = s.pending ∧
    (rput r i v s).out = s.out ∧ (rput r i v s).freeCtr = s.freeCtr ∧ (rput r i v s).fab = s.fab ∧
    (rput r i v s).cues = s.cues ∧ (rput r i v s).takes = s.takes ∧ (rput r i v s).buf = s.buf ∧
    (rput r i v s).mem = s.mem ∧ (rput r i v s).coh = s.coh ∧ (rput r i v s).dolly = s.dolly ∧
    (rput r i v s).link = s.link ∧ (rput r i v s).reg = s.reg ∧ (rput r i v s).zor = s.zor ∧
    (rput r i v s).host = s.host ∧ (rput r i v s).cad = s.cad ∧ (rput r i v s).pwr = s.pwr ∧
    (rput r i v s).ident = s.ident ∧ (rput r i v s).col0 = s.col0 ∧ (rput r i v s).col1 = s.col1 ∧
    (rput r i v s).deg0 = s.deg0 ∧ (rput r i v s).deg1 = s.deg1 ∧ (rput r i v s).pins = s.pins :=
  ⟨rfl, rfl, rfl, rfl, rfl, rfl, rfl, rfl, rfl, rfl, rfl, rfl, rfl, rfl, rfl, rfl, rfl, rfl, rfl, rfl, rfl, rfl, rfl, rfl⟩

@[simp] theorem modPins_frame (f : PinSt → PinSt) (s : State) :
    (modPins f s).part = s.part ∧ (modPins f s).clock = s.clock ∧ (modPins f s).pending = s.pending ∧
    (modPins f s).out = s.out ∧ (modPins f s).freeCtr = s.freeCtr ∧ (modPins f s).regs = s.regs ∧
    (modPins f s).fab = s.fab ∧ (modPins f s).cues = s.cues ∧ (modPins f s).takes = s.takes ∧
    (modPins f s).buf = s.buf ∧ (modPins f s).mem = s.mem ∧ (modPins f s).coh = s.coh ∧
    (modPins f s).dolly = s.dolly ∧ (modPins f s).link = s.link ∧ (modPins f s).reg = s.reg ∧
    (modPins f s).zor = s.zor ∧ (modPins f s).host = s.host ∧ (modPins f s).cad = s.cad ∧ (modPins f s).pwr = s.pwr ∧
    (modPins f s).ident = s.ident ∧ (modPins f s).col0 = s.col0 ∧ (modPins f s).col1 = s.col1 ∧
    (modPins f s).deg0 = s.deg0 ∧ (modPins f s).deg1 = s.deg1 :=
  ⟨rfl, rfl, rfl, rfl, rfl, rfl, rfl, rfl, rfl, rfl, rfl, rfl, rfl, rfl, rfl, rfl, rfl, rfl, rfl, rfl, rfl, rfl, rfl, rfl⟩

@[simp] theorem groupApply_frame (h : Half) (g : GroupRef) (s : State) :
    (groupApply h g s).part = s.part ∧ (groupApply h g s).clock = s.clock ∧ (groupApply h g s).pending = s.pending ∧
    (groupApply h g s).out = s.out ∧ (groupApply h g s).freeCtr = s.freeCtr ∧ (groupApply h g s).fab = s.fab ∧
    (groupApply h g s).cues = s.cues ∧ (groupApply h g s).takes = s.takes ∧ (groupApply h g s).buf = s.buf ∧
    (groupApply h g s).mem = s.mem ∧ (groupApply h g s).coh = s.coh ∧ (groupApply h g s).dolly = s.dolly ∧
    (groupApply h g s).link = s.link ∧ (groupApply h g s).reg = s.reg ∧ (groupApply h g s).zor = s.zor ∧
    (groupApply h g s).host = s.host ∧ (groupApply h g s).cad = s.cad ∧ (groupApply h g s).pwr = s.pwr ∧
    (groupApply h g s).ident = s.ident ∧ (groupApply h g s).col0 = s.col0 ∧ (groupApply h g s).col1 = s.col1 ∧
    (groupApply h g s).deg0 = s.deg0 ∧ (groupApply h g s).deg1 = s.deg1 ∧ (groupApply h g s).pins = s.pins :=
  ⟨rfl, rfl, rfl, rfl, rfl, rfl, rfl, rfl, rfl, rfl, rfl, rfl, rfl, rfl, rfl, rfl, rfl, rfl, rfl, rfl, rfl, rfl, rfl, rfl⟩

@[simp] theorem groupTake_frame (h : Half) (g : GroupRef) (s : State) :
    (groupTake h g s).part = s.part ∧ (groupTake h g s).clock = s.clock ∧ (groupTake h g s).pending = s.pending ∧
    (groupTake h g s).out = s.out ∧ (groupTake h g s).freeCtr = s.freeCtr ∧ (groupTake h g s).fab = s.fab ∧
    (groupTake h g s).cues = s.cues ∧ (groupTake h g s).takes = s.takes ∧ (groupTake h g s).buf = s.buf ∧
    (groupTake h g s).mem = s.mem ∧ (groupTake h g s).coh = s.coh ∧ (groupTake h g s).dolly = s.dolly ∧
    (groupTake h g s).link = s.link ∧ (groupTake h g s).reg = s.reg ∧ (groupTake h g s).zor = s.zor ∧
    (groupTake h g s).host = s.host ∧ (groupTake h g s).cad = s.cad ∧ (groupTake h g s).pwr = s.pwr ∧
    (groupTake h g s).ident = s.ident ∧ (groupTake h g s).col0 = s.col0 ∧ (groupTake h g s).col1 = s.col1 ∧
    (groupTake h g s).deg0 = s.deg0 ∧ (groupTake h g s).deg1 = s.deg1 ∧ (groupTake h g s).pins = s.pins :=
  ⟨rfl, rfl, rfl, rfl, rfl, rfl, rfl, rfl, rfl, rfl, rfl, rfl, rfl, rfl, rfl, rfl, rfl, rfl, rfl, rfl, rfl, rfl, rfl, rfl⟩

@[simp] theorem setEbuf_frame (sl : Nat) (l : List EbEntry) (s : State) :
    (setEbuf sl l s).part = s.part ∧ (setEbuf sl l s).clock = s.clock ∧ (setEbuf sl l s).pending = s.pending ∧
    (setEbuf sl l s).out = s.out ∧ (setEbuf sl l s).freeCtr = s.freeCtr ∧ (setEbuf sl l s).regs = s.regs ∧
    (setEbuf sl l s).fab = s.fab ∧ (setEbuf sl l s).cues = s.cues ∧ (setEbuf sl l s).takes = s.takes ∧
    (setEbuf sl l s).mem = s.mem ∧ (setEbuf sl l s).coh = s.coh ∧ (setEbuf sl l s).dolly = s.dolly ∧
    (setEbuf sl l s).link = s.link ∧ (setEbuf sl l s).reg = s.reg ∧ (setEbuf sl l s).zor = s.zor ∧
    (setEbuf sl l s).host = s.host ∧ (setEbuf sl l s).cad = s.cad ∧ (setEbuf sl l s).pwr = s.pwr ∧
    (setEbuf sl l s).ident = s.ident ∧ (setEbuf sl l s).col0 = s.col0 ∧ (setEbuf sl l s).col1 = s.col1 ∧
    (setEbuf sl l s).deg0 = s.deg0 ∧ (setEbuf sl l s).deg1 = s.deg1 ∧ (setEbuf sl l s).pins = s.pins :=
  ⟨rfl, rfl, rfl, rfl, rfl, rfl, rfl, rfl, rfl, rfl, rfl, rfl, rfl, rfl, rfl, rfl, rfl, rfl, rfl, rfl, rfl, rfl, rfl, rfl⟩

@[simp] theorem setSliceArb_frame (sl : Nat) (a : ArbSt) (s : State) :
    (setSliceArb sl a s).part = s.part ∧ (setSliceArb sl a s).clock = s.clock ∧
    (setSliceArb sl a s).pending = s.pending ∧ (setSliceArb sl a s).out = s.out ∧
    (setSliceArb sl a s).freeCtr = s.freeCtr ∧ (setSliceArb sl a s).regs = s.regs ∧
    (setSliceArb sl a s).fab = s.fab ∧ (setSliceArb sl a s).cues = s.cues ∧ (setSliceArb sl a s).takes = s.takes ∧
    (setSliceArb sl a s).mem = s.mem ∧ (setSliceArb sl a s).coh = s.coh ∧ (setSliceArb sl a s).dolly = s.dolly ∧
    (setSliceArb sl a s).link = s.link ∧ (setSliceArb sl a s).reg = s.reg ∧ (setSliceArb sl a s).zor = s.zor ∧
    (setSliceArb sl a s).host = s.host ∧ (setSliceArb sl a s).cad = s.cad ∧ (setSliceArb sl a s).pwr = s.pwr ∧
    (setSliceArb sl a s).ident = s.ident ∧ (setSliceArb sl a s).col0 = s.col0 ∧ (setSliceArb sl a s).col1 = s.col1 ∧
    (setSliceArb sl a s).deg0 = s.deg0 ∧ (setSliceArb sl a s).deg1 = s.deg1 ∧ (setSliceArb sl a s).pins = s.pins :=
  ⟨rfl, rfl, rfl, rfl, rfl, rfl, rfl, rfl, rfl, rfl, rfl, rfl, rfl, rfl, rfl, rfl, rfl, rfl, rfl, rfl, rfl, rfl, rfl, rfl⟩

@[simp] theorem flashPut_frame (a : Nat) (b : List Byte) (s : State) :
    (flashPut a b s).part = s.part ∧ (flashPut a b s).clock = s.clock ∧ (flashPut a b s).pending = s.pending ∧
    (flashPut a b s).out = s.out ∧ (flashPut a b s).freeCtr = s.freeCtr ∧ (flashPut a b s).regs = s.regs ∧
    (flashPut a b s).fab = s.fab ∧ (flashPut a b s).cues = s.cues ∧ (flashPut a b s).takes = s.takes ∧
    (flashPut a b s).buf = s.buf ∧ (flashPut a b s).mem = s.mem ∧ (flashPut a b s).coh = s.coh ∧
    (flashPut a b s).dolly = s.dolly ∧ (flashPut a b s).link = s.link ∧ (flashPut a b s).reg = s.reg ∧
    (flashPut a b s).zor = s.zor ∧ (flashPut a b s).host = s.host ∧ (flashPut a b s).cad = s.cad ∧
    (flashPut a b s).pwr = s.pwr ∧ (flashPut a b s).col0 = s.col0 ∧ (flashPut a b s).col1 = s.col1 ∧
    (flashPut a b s).deg0 = s.deg0 ∧ (flashPut a b s).deg1 = s.deg1 ∧ (flashPut a b s).pins = s.pins :=
  ⟨rfl, rfl, rfl, rfl, rfl, rfl, rfl, rfl, rfl, rfl, rfl, rfl, rfl, rfl, rfl, rfl, rfl, rfl, rfl, rfl, rfl, rfl, rfl, rfl⟩

@[simp] theorem setBundle_frame (k : Nat) (x : BundleSt) (s : State) :
    (setBundle k x s).part = s.part ∧ (setBundle k x s).clock = s.clock ∧ (setBundle k x s).pending = s.pending ∧
    (setBundle k x s).out = s.out ∧ (setBundle k x s).freeCtr = s.freeCtr ∧ (setBundle k x s).regs = s.regs ∧
    (setBundle k x s).fab = s.fab ∧ (setBundle k x s).cues = s.cues ∧ (setBundle k x s).takes = s.takes ∧
    (setBundle k x s).buf = s.buf ∧ (setBundle k x s).mem = s.mem ∧ (setBundle k x s).coh = s.coh ∧
    (setBundle k x s).dolly = s.dolly ∧ (setBundle k x s).link = s.link ∧ (setBundle k x s).reg = s.reg ∧
    (setBundle k x s).host = s.host ∧ (setBundle k x s).cad = s.cad ∧ (setBundle k x s).pwr = s.pwr ∧
    (setBundle k x s).ident = s.ident ∧ (setBundle k x s).col0 = s.col0 ∧ (setBundle k x s).col1 = s.col1 ∧
    (setBundle k x s).deg0 = s.deg0 ∧ (setBundle k x s).deg1 = s.deg1 ∧ (setBundle k x s).pins = s.pins :=
  ⟨rfl, rfl, rfl, rfl, rfl, rfl, rfl, rfl, rfl, rfl, rfl, rfl, rfl, rfl, rfl, rfl, rfl, rfl, rfl, rfl, rfl, rfl, rfl, rfl⟩

@[simp] theorem setSite_frame (g : Nat) (x : SiteSt) (s : State) :
    (setSite g x s).part = s.part ∧ (setSite g x s).clock = s.clock ∧ (setSite g x s).pending = s.pending ∧
    (setSite g x s).out = s.out ∧ (setSite g x s).freeCtr = s.freeCtr ∧ (setSite g x s).regs = s.regs ∧
    (setSite g x s).fab = s.fab ∧ (setSite g x s).cues = s.cues ∧ (setSite g x s).takes = s.takes ∧
    (setSite g x s).buf = s.buf ∧ (setSite g x s).mem = s.mem ∧ (setSite g x s).coh = s.coh ∧
    (setSite g x s).dolly = s.dolly ∧ (setSite g x s).link = s.link ∧ (setSite g x s).reg = s.reg ∧
    (setSite g x s).host = s.host ∧ (setSite g x s).cad = s.cad ∧ (setSite g x s).pwr = s.pwr ∧
    (setSite g x s).ident = s.ident ∧ (setSite g x s).col0 = s.col0 ∧ (setSite g x s).col1 = s.col1 ∧
    (setSite g x s).deg0 = s.deg0 ∧ (setSite g x s).deg1 = s.deg1 ∧ (setSite g x s).pins = s.pins :=
  ⟨rfl, rfl, rfl, rfl, rfl, rfl, rfl, rfl, rfl, rfl, rfl, rfl, rfl, rfl, rfl, rfl, rfl, rfl, rfl, rfl, rfl, rfl, rfl, rfl⟩

@[simp] theorem setSb_frame (k : Nat) (x : SbSt) (s : State) :
    (setSb k x s).part = s.part ∧ (setSb k x s).clock = s.clock ∧ (setSb k x s).pending = s.pending ∧
    (setSb k x s).out = s.out ∧ (setSb k x s).freeCtr = s.freeCtr ∧ (setSb k x s).regs = s.regs ∧
    (setSb k x s).fab = s.fab ∧ (setSb k x s).cues = s.cues ∧ (setSb k x s).takes = s.takes ∧
    (setSb k x s).buf = s.buf ∧ (setSb k x s).mem = s.mem ∧ (setSb k x s).coh = s.coh ∧
    (setSb k x s).dolly = s.dolly ∧ (setSb k x s).link = s.link ∧ (setSb k x s).reg = s.reg ∧
    (setSb k x s).host = s.host ∧ (setSb k x s).cad = s.cad ∧ (setSb k x s).pwr = s.pwr ∧
    (setSb k x s).ident = s.ident ∧ (setSb k x s).col0 = s.col0 ∧ (setSb k x s).col1 = s.col1 ∧
    (setSb k x s).deg0 = s.deg0 ∧ (setSb k x s).deg1 = s.deg1 ∧ (setSb k x s).pins = s.pins :=
  ⟨rfl, rfl, rfl, rfl, rfl, rfl, rfl, rfl, rfl, rfl, rfl, rfl, rfl, rfl, rfl, rfl, rfl, rfl, rfl, rfl, rfl, rfl, rfl, rfl⟩

@[simp] theorem setCollector_frame (h : Half) (c : CollectorSt) (s : State) :
    (setCollector h c s).part = s.part ∧ (setCollector h c s).clock = s.clock ∧
    (setCollector h c s).pending = s.pending ∧ (setCollector h c s).out = s.out ∧
    (setCollector h c s).freeCtr = s.freeCtr ∧ (setCollector h c s).regs = s.regs ∧
    (setCollector h c s).fab = s.fab ∧ (setCollector h c s).cues = s.cues ∧ (setCollector h c s).takes = s.takes ∧
    (setCollector h c s).buf = s.buf ∧ (setCollector h c s).mem = s.mem ∧ (setCollector h c s).coh = s.coh ∧
    (setCollector h c s).dolly = s.dolly ∧ (setCollector h c s).link = s.link ∧ (setCollector h c s).reg = s.reg ∧
    (setCollector h c s).zor = s.zor ∧ (setCollector h c s).host = s.host ∧ (setCollector h c s).cad = s.cad ∧
    (setCollector h c s).pwr = s.pwr ∧ (setCollector h c s).ident = s.ident ∧ (setCollector h c s).deg0 = s.deg0 ∧
    (setCollector h c s).deg1 = s.deg1 ∧ (setCollector h c s).pins = s.pins :=
  by cases h <;> exact ⟨rfl, rfl, rfl, rfl, rfl, rfl, rfl, rfl, rfl, rfl, rfl, rfl, rfl, rfl, rfl, rfl, rfl, rfl, rfl, rfl, rfl, rfl, rfl⟩

@[simp] theorem daily_frame (r : DRec) (s : State) :
    (daily r s).part = s.part ∧ (daily r s).clock = s.clock ∧ (daily r s).pending = s.pending ∧
    (daily r s).out = s.out ∧ (daily r s).freeCtr = s.freeCtr ∧ (daily r s).regs = s.regs ∧ (daily r s).fab = s.fab ∧
    (daily r s).cues = s.cues ∧ (daily r s).takes = s.takes ∧ (daily r s).buf = s.buf ∧ (daily r s).mem = s.mem ∧
    (daily r s).coh = s.coh ∧ (daily r s).dolly = s.dolly ∧ (daily r s).link = s.link ∧ (daily r s).reg = s.reg ∧
    (daily r s).zor = s.zor ∧ (daily r s).host = s.host ∧ (daily r s).cad = s.cad ∧ (daily r s).pwr = s.pwr ∧
    (daily r s).ident = s.ident ∧ (daily r s).deg0 = s.deg0 ∧ (daily r s).deg1 = s.deg1 ∧ (daily r s).pins = s.pins :=
  by simp [daily]

@[simp] theorem event_frame (h : Half) (code sev : Nat) (func : Option Nat) (index addr cause : Nat) (s : State) :
    (event h code sev func index addr cause s).part = s.part ∧
    (event h code sev func index addr cause s).clock = s.clock ∧
    (event h code sev func index addr cause s).pending = s.pending ∧
    (event h code sev func index addr cause s).out = s.out ∧
    (event h code sev func index addr cause s).freeCtr = s.freeCtr ∧
    (event h code sev func index addr cause s).regs = s.regs ∧
    (event h code sev func index addr cause s).fab = s.fab ∧
    (event h code sev func index addr cause s).cues = s.cues ∧
    (event h code sev func index addr cause s).takes = s.takes ∧
    (event h code sev func index addr cause s).buf = s.buf ∧ (event h code sev func index addr cause s).mem = s.mem ∧
    (event h code sev func index addr cause s).coh = s.coh ∧
    (event h code sev func index addr cause s).dolly = s.dolly ∧
    (event h code sev func index addr cause s).link = s.link ∧
    (event h code sev func index addr cause s).reg = s.reg ∧ (event h code sev func index addr cause s).zor = s.zor ∧
    (event h code sev func index addr cause s).host = s.host ∧
    (event h code sev func index addr cause s).cad = s.cad ∧ (event h code sev func index addr cause s).pwr = s.pwr ∧
    (event h code sev func index addr cause s).ident = s.ident ∧
    (event h code sev func index addr cause s).deg0 = s.deg0 ∧
    (event h code sev func index addr cause s).deg1 = s.deg1 ∧
    (event h code sev func index addr cause s).pins = s.pins :=
  by simp [event]

@[simp] theorem eventD_frame (h : Half) (code sev : Nat) (func : Option Nat) (index addr cause detail : Nat) (s : State) :
    (eventD h code sev func index addr cause detail s).part = s.part ∧
    (eventD h code sev func index addr cause detail s).clock = s.clock ∧
    (eventD h code sev func index addr cause detail s).pending = s.pending ∧
    (eventD h code sev func index addr cause detail s).out = s.out ∧
    (eventD h code sev func index addr cause detail s).freeCtr = s.freeCtr ∧
    (eventD h code sev func index addr cause detail s).regs = s.regs ∧
    (eventD h code sev func index addr cause detail s).fab = s.fab ∧
    (eventD h code sev func index addr cause detail s).cues = s.cues ∧
    (eventD h code sev func index addr cause detail s).takes = s.takes ∧
    (eventD h code sev func index addr cause detail s).buf = s.buf ∧
    (eventD h code sev func index addr cause detail s).mem = s.mem ∧
    (eventD h code sev func index addr cause detail s).coh = s.coh ∧
    (eventD h code sev func index addr cause detail s).dolly = s.dolly ∧
    (eventD h code sev func index addr cause detail s).link = s.link ∧
    (eventD h code sev func index addr cause detail s).reg = s.reg ∧
    (eventD h code sev func index addr cause detail s).zor = s.zor ∧
    (eventD h code sev func index addr cause detail s).host = s.host ∧
    (eventD h code sev func index addr cause detail s).cad = s.cad ∧
    (eventD h code sev func index addr cause detail s).pwr = s.pwr ∧
    (eventD h code sev func index addr cause detail s).ident = s.ident ∧
    (eventD h code sev func index addr cause detail s).deg0 = s.deg0 ∧
    (eventD h code sev func index addr cause detail s).deg1 = s.deg1 ∧
    (eventD h code sev func index addr cause detail s).pins = s.pins :=
  by simp [eventD]

@[simp] theorem sideGot_frame (on : SbRef) (ty : Nat) (payload : List Byte) (s : State) :
    (sideGot on ty payload s).part = s.part ∧ (sideGot on ty payload s).clock = s.clock ∧
    (sideGot on ty payload s).pending = s.pending ∧ (sideGot on ty payload s).freeCtr = s.freeCtr ∧
    (sideGot on ty payload s).regs = s.regs ∧ (sideGot on ty payload s).fab = s.fab ∧
    (sideGot on ty payload s).cues = s.cues ∧ (sideGot on ty payload s).takes = s.takes ∧
    (sideGot on ty payload s).buf = s.buf ∧ (sideGot on ty payload s).mem = s.mem ∧
    (sideGot on ty payload s).coh = s.coh ∧ (sideGot on ty payload s).dolly = s.dolly ∧
    (sideGot on ty payload s).link = s.link ∧ (sideGot on ty payload s).reg = s.reg ∧
    (sideGot on ty payload s).zor = s.zor ∧ (sideGot on ty payload s).host = s.host ∧
    (sideGot on ty payload s).cad = s.cad ∧ (sideGot on ty payload s).pwr = s.pwr ∧
    (sideGot on ty payload s).ident = s.ident ∧ (sideGot on ty payload s).col0 = s.col0 ∧
    (sideGot on ty payload s).col1 = s.col1 ∧ (sideGot on ty payload s).deg0 = s.deg0 ∧
    (sideGot on ty payload s).deg1 = s.deg1 ∧ (sideGot on ty payload s).pins = s.pins :=
  by
  unfold sideGot sideSend
  split <;> simp [emit]

/-! ### A read after a write -/

@[simp] theorem cellSt_setCell_self (k : Nat) (x : CellSt) (s : State) : cellSt (setCell k x s) k = x := by
  simp [cellSt, setCell]

theorem cellSt_setCell_ne {k j : Nat} (x : CellSt) (s : State) (h : j ≠ k) : cellSt (setCell k x s) j = cellSt s j := by
  simp [cellSt, setCell, NMap.getD_insert_ne _ _ _ h]

@[simp] theorem physAt_setPhys_self (k : Nat) (x : PArr) (s : State) : physAt (setPhys k x s) k = x := by
  simp [physAt, setPhys]

theorem physAt_setPhys_ne {k j : Nat} (x : PArr) (s : State) (h : j ≠ k) : physAt (setPhys k x s) j = physAt s j := by
  simp [physAt, setPhys, NMap.getD_insert_ne _ _ _ h]

@[simp] theorem queueAt_setQueue_self (k : Nat) (x : QueueSt) (s : State) : queueAt (setQueue k x s) k = x := by
  simp [queueAt, setQueue]

theorem queueAt_setQueue_ne {k j : Nat} (x : QueueSt) (s : State) (h : j ≠ k) : queueAt (setQueue k x s) j = queueAt s j := by
  simp [queueAt, setQueue, NMap.getD_insert_ne _ _ _ h]

@[simp] theorem reelAt_setReel_self (k : Nat) (x : ReelSt) (s : State) : reelAt (setReel k x s) k = x := by
  simp [reelAt, setReel]

theorem reelAt_setReel_ne {k j : Nat} (x : ReelSt) (s : State) (h : j ≠ k) : reelAt (setReel k x s) j = reelAt s j := by
  simp [reelAt, setReel, NMap.getD_insert_ne _ _ _ h]

@[simp] theorem stackAt_setStack_self (k : Nat) (x : StackSt) (s : State) : stackAt (setStack k x s) k = x := by
  simp [stackAt, setStack]

theorem stackAt_setStack_ne {k j : Nat} (x : StackSt) (s : State) (h : j ≠ k) : stackAt (setStack k x s) j = stackAt s j := by
  simp [stackAt, setStack, NMap.getD_insert_ne _ _ _ h]

@[simp] theorem chanAt_setChan_self (k : Nat) (x : Chan) (s : State) : chanAt (setChan k x s) k = x := by
  simp [chanAt, setChan]

theorem chanAt_setChan_ne {k j : Nat} (x : Chan) (s : State) (h : j ≠ k) : chanAt (setChan k x s) j = chanAt s j := by
  simp [chanAt, setChan, NMap.getD_insert_ne _ _ _ h]

@[simp] theorem portAt_setPort_self (k : Nat) (x : PortSt) (s : State) : portAt (setPort k x s) k = x := by
  simp [portAt, setPort]

theorem portAt_setPort_ne {k j : Nat} (x : PortSt) (s : State) (h : j ≠ k) : portAt (setPort k x s) j = portAt s j := by
  simp [portAt, setPort, NMap.getD_insert_ne _ _ _ h]

@[simp] theorem collAt_setColl_self (k : Nat) (x : CollSt) (s : State) : collAt (setColl k x s) k = x := by
  simp [collAt, setColl]

theorem collAt_setColl_ne {k j : Nat} (x : CollSt) (s : State) (h : j ≠ k) : collAt (setColl k x s) j = collAt s j := by
  simp [collAt, setColl, NMap.getD_insert_ne _ _ _ h]

@[simp] theorem regulAt_setRegul_self (k : Nat) (x : RegulSt) (s : State) : regulAt (setRegul k x s) k = x := by
  simp [regulAt, setRegul]

theorem regulAt_setRegul_ne {k j : Nat} (x : RegulSt) (s : State) (h : j ≠ k) : regulAt (setRegul k x s) j = regulAt s j := by
  simp [regulAt, setRegul, NMap.getD_insert_ne _ _ _ h]

@[simp] theorem bundleAt_setBundle_self (k : Nat) (x : BundleSt) (s : State) : bundleAt (setBundle k x s) k = x := by
  simp [bundleAt, setBundle]

theorem bundleAt_setBundle_ne {k j : Nat} (x : BundleSt) (s : State) (h : j ≠ k) : bundleAt (setBundle k x s) j = bundleAt s j := by
  simp [bundleAt, setBundle, NMap.getD_insert_ne _ _ _ h]

@[simp] theorem siteAt_setSite_self (k : Nat) (x : SiteSt) (s : State) : siteAt (setSite k x s) k = x := by
  simp [siteAt, setSite]

theorem siteAt_setSite_ne {k j : Nat} (x : SiteSt) (s : State) (h : j ≠ k) : siteAt (setSite k x s) j = siteAt s j := by
  simp [siteAt, setSite, NMap.getD_insert_ne _ _ _ h]

@[simp] theorem sbAt_setSb_self (k : Nat) (x : SbSt) (s : State) : sbAt (setSb k x s) k = x := by
  simp [sbAt, setSb]

theorem sbAt_setSb_ne {k j : Nat} (x : SbSt) (s : State) (h : j ≠ k) : sbAt (setSb k x s) j = sbAt s j := by
  simp [sbAt, setSb, NMap.getD_insert_ne _ _ _ h]

@[simp] theorem slateAt_setSlate_self (k : Nat) (x : SlateSt) (s : State) : slateAt (setSlate k x s) k = x := by
  simp [slateAt, setSlate]

theorem slateAt_setSlate_ne {k j : Nat} (x : SlateSt) (s : State) (h : j ≠ k) : slateAt (setSlate k x s) j = slateAt s j := by
  simp [slateAt, setSlate, NMap.getD_insert_ne _ _ _ h]

@[simp] theorem funcAt_setFunc_self (k : Nat) (x : FuncSt) (s : State) : funcAt (setFunc k x s) k = x := by
  simp [funcAt, setFunc]

theorem funcAt_setFunc_ne {k j : Nat} (x : FuncSt) (s : State) (h : j ≠ k) : funcAt (setFunc k x s) j = funcAt s j := by
  simp [funcAt, setFunc, NMap.getD_insert_ne _ _ _ h]

@[simp] theorem sesAt_setSes_self (k : Nat) (x : SesSt) (s : State) : sesAt (setSes k x s) k = x := by
  simp [sesAt, setSes, modHost]

theorem sesAt_setSes_ne {k j : Nat} (x : SesSt) (s : State) (h : j ≠ k) : sesAt (setSes k x s) j = sesAt s j := by
  simp [sesAt, setSes, modHost, NMap.getD_setD_ne _ _ h]

@[simp] theorem qpAt_setQp_self (k : Nat) (x : QpSt) (s : State) : qpAt (setQp k x s) k = x := by
  simp [qpAt, setQp, modHost]

theorem qpAt_setQp_ne {k j : Nat} (x : QpSt) (s : State) (h : j ≠ k) : qpAt (setQp k x s) j = qpAt s j := by
  simp [qpAt, setQp, modHost, NMap.getD_setD_ne _ _ h]

@[simp] theorem cueAt_setCue_self (k : Nat) (x : Cue) (s : State) : cueAt (setCue k x s) k = x := by
  simp [cueAt, setCue]

theorem cueAt_setCue_ne {k j : Nat} (x : Cue) (s : State) (h : j ≠ k) : cueAt (setCue k x s) j = cueAt s j := by
  simp [cueAt, setCue, NMap.getD_setD_ne _ _ h]

@[simp] theorem ctxAt_setCtx_self (h : Half) (i k : Nat) (c : Ctx) (s : State) : ctxAt (setCtx h i k c s) h i k = c := by
  simp [ctxAt, setCtx]

theorem ctxAt_setCtx_ne {h g : Half} {i j k l : Nat} (c : Ctx) (s : State) (hk : ctxKey g j l ≠ ctxKey h i k) :
    ctxAt (setCtx h i k c s) g j l = ctxAt s g j l := by
  simp [ctxAt, setCtx, NMap.getD_insert_ne _ _ _ hk]

@[simp] theorem ctxAt_noteProgress (h : Half) (i : Nat) (g : Half) (j l : Nat) (s : State) :
    ctxAt (noteProgress h i s) g j l = ctxAt s g j l := rfl

@[simp] theorem cellSt_noteProgress (h : Half) (i k : Nat) (s : State) : cellSt (noteProgress h i s) k = cellSt s k := rfl

@[simp] theorem cellSt_setCtx (h : Half) (i k : Nat) (c : Ctx) (j : Nat) (s : State) :
    cellSt (setCtx h i k c s) j = cellSt s j := rfl

@[simp] theorem ctxAt_setCell (k : Nat) (x : CellSt) (h : Half) (i j : Nat) (s : State) :
    ctxAt (setCell k x s) h i j = ctxAt s h i j := rfl

end Sys2Proof.Machine
end

