-- ==== Sys2Proof/Tests/Slice0.lean ====
section
/-! SUPPORT. Tests: for each statement with hypotheses a state and operands that meet them all, ill-formed operands
refused, and single steps on small states. -/

set_option Elab.async false

namespace Sys2Proof.Tests
open Sys2Proof Sys2Proof.Machine

/-- A store that the management processor of H0 performs on a field of H0. -/
def storeB (h : Half) (r : Reg) (i v new : Nat) (s : State) : Bool :=
  agentThere s (.mp .h0) && !fieldGone s h r && writesAny s .mp r i && (decide (h = .h0) || decide ((regRow r).h1 ≠ .copy)) &&
    decide (planWrite s .mp r i v = ⟨new, false, false⟩)

theorem store_of {h : Half} {r : Reg} {i v new : Nat} {s : State} (k : storeB h r i v new s = true) :
    storeOk (.mp .h0) h r i v new s := by
  simp only [storeB, Bool.and_eq_true, Bool.not_eq_true', Bool.or_eq_true, decide_eq_true_eq] at k
  obtain ⟨⟨⟨⟨a, b⟩, f⟩, c⟩, d⟩ := k
  refine ⟨a, b, fun e => ?_, .mp, rfl, rfl, f, d⟩
  rcases c with c | c
  · rw [c] at e; cases e
  · exact c

/-- The state with H0's processor running the firmware and one command of F0's session 0, in progress already or not. -/
def cmdOn (started : Bool) (op : Nat) (args : List (BitVec 8)) (s : State) : State :=
  let e : ReelEntry := natLe 2 op ++ natLe 2 args.length ++ natLe 4 0 ++ natLe 4 0 ++ natLe 4 0 ++ args ++
    List.replicate (112 - args.length) 0
  let s := setSes 0 { SesSt.init with st := 1, c := 4, cmds := [⟨0, e, 0, false, started, none⟩] } s
  let s := modMp .h0 (fun x => { x with st := 1 }) s
  setFunc 0 { FuncSt.init with st := 1 } s

/-- The base after reset with F1 ACTIVE and such a command. -/
def cmdState (op : Nat) (args : List (BitVec 8)) : State :=
  cmdOn false op args (setFunc 1 { FuncSt.init with st := 1 } State.reset)

def cmdRef : CmdRef := ⟨0, 0⟩

/-- Cadun works on that command. -/
def cmdB (op : Nat) (s : State) : Bool :=
  match (sesAt s 0).cmds.find? (fun x => decide (x.index = 0)) with
  | some d => decide (entOp d.entry = op) && decide (d.due = none) && decide (s.cad.mp0.st = 1) &&
      (d.started || (mayStart s 0 d && decide (preCheck s (sesAt s 0).func d.entry = csOk)))
  | none => false

/-- The command as Cadun reads it. -/
def cmdIn (s : State) : CmdIn :=
  match (sesAt s 0).cmds.find? (fun x => decide (x.index = 0)) with
  | some d => ⟨0, 0, (sesAt s 0).func, d.entry, d.t, !d.started⟩
  | none => ⟨0, 0, 0, [], 0, true⟩

theorem cmd_of {op : Nat} {s : State} (k : cmdB op s = true) :
    cmdTaken op cmdRef (cmdIn s) s (startCmd 0 0 s) := by
  unfold cmdB at k
  split at k
  · rename_i d hd
    simp only [Bool.and_eq_true, Bool.or_eq_true, decide_eq_true_eq] at k
    obtain ⟨⟨⟨a, b⟩, c⟩, f⟩ := k
    have h : cmdIn s = ⟨0, 0, (sesAt s 0).func, d.entry, d.t, !d.started⟩ := by
      simp only [cmdIn, hd]
    refine ⟨d, hd, a, b, c, h, ?_, rfl⟩
    rcases f with f | f
    · exact .inl f
    · exact .inr ⟨f.1, by rw [h]; exact f.2⟩
  · cases k

/-! ### Ill-formed operands are refused, one for each check of `WellFormed` -/

def smallRep : TrainReport := ⟨none, none, [], [], []⟩
def smallHdr : CohHdr := ⟨.site 0, 0, 0, 0, 1, false, .base, .rlx⟩
def smallGram (n : Nat) : CtGram := ⟨0, 0, 0, 0, 0, 1, 0, 0, List.replicate n 0⟩
def smallBoot (reps : List (Fin 16 × TrainReport)) : BootReport :=
  ⟨true, [], ⟨[], []⟩, ⟨[], []⟩, reps, [], true, 0, none, none⟩
def twice : LinePart := [(1, 0, false), (1, 0, false)]

theorem test_wf_sectors_named_twice :
    Instr.wf (.wb smallHdr false twice) = false ∧ Instr.wf (.snoopData 0 0 0 ⟨.site 0, 0, false⟩ none twice) = false ∧
    Instr.wf (.wrNc smallHdr [(2, ⟨0, 0, false⟩), (1, ⟨0, 0, false⟩)]) = false ∧
    Instr.wf (.farCacheAccess (.mp .h0) 0 (.add ⟨.fp32, .add⟩ twice) 0 .none) = false ∧
    Instr.wf (.wb smallHdr false [(1, 0, false), (3, 0, false)]) = true := by decide

theorem test_wf_scratchpad_write_too_long :
    Instr.wf (.scratchpadAccess (.mp .h0) 0 ⟨.write (List.replicate 129 0), .none⟩ 0) = false ∧
    Instr.wf (.scratchpadAccess (.mp .h0) 0 ⟨.write [], .none⟩ 0) = false ∧
    Instr.wf (.scratchpadAccess (.mp .h0) 0 ⟨.write [1], .none⟩ 0) = true := by decide +kernel

theorem test_wf_mac_slice_shape :
    let m (a b sc : List Nat) : MacSlice := ⟨false, a, b, sc, [], false, false, false, false, false, false, []⟩
    wfMacSlice (m (List.range 8) (List.range 16) []) = false ∧ wfMacSlice (m (List.range 8) (List.range 8) [0]) = false ∧
    wfMacSlice (m (List.range 9) (List.range 9) []) = false ∧
    wfMacSlice (m (List.range 8) (List.range 8) (List.range 8)) = true := by
  decide +kernel

theorem test_wf_error_named_twice :
    Instr.wf (.scrubRead 0 ⟨[3, 3], false, false, []⟩) = false ∧ Instr.wf (.scrubRead 0 ⟨[3], false, false, [4, 4]⟩) = false := by decide

theorem test_wf_training_reports :
    wfTrain { smallRep with lanes := [(0, 1), (0, 2)] } = false ∧ wfTrain { smallRep with badSpares := [(0, 1), (0, 1)] } = false ∧ wfTrain { smallRep with ppr := [(0, 1, 2), (0, 1, 0)] } = false ∧
    Instr.wf (.coldBoot (smallBoot [(0, smallRep), (0, smallRep)])) = false ∧ wfTrain smallRep = true := by decide

theorem test_wf_messages_too_long :
    wfGram (smallGram 4353) = false ∧ wfGram (smallGram 4352) = true ∧
    Instr.wf (.mpWork 0 0 (List.replicate 201 0)) = false ∧ Instr.wf (.mpDone 0 0 (List.replicate 201 0)) = false ∧
    Instr.wf (.roceResponse 0 (.readData 0 (List.replicate 4097 0))) = false := by decide +kernel

theorem test_wf_small_fields :
    Instr.wf (.data .h0 0 0 .s [] 256) = false ∧ Instr.wf (.grant .h0 0 0 false 256) = false ∧
    wfClap ⟨0, 0, 0, 0, 2 ^ 24, 0, none, 0⟩ = false ∧ wfDir ⟨[0, 0, 0, 0, 0], true⟩ = false ∧ wfZoram [] = false ∧
    Instr.wf (.frameReceive (.site 0 0) ⟨0, true, []⟩) = false ∧ Instr.wf (.ctOpen ⟨0, 0, 65536, 0, 0⟩) = false ∧
    Instr.wf (.cap (.site 0) ⟨0, 0, 256, 0, 0, 0, 0, 0, 0, 0, 0⟩) = false ∧
    Instr.wf (.mcAck 0 0 0 0 ⟨65536, 0, [], false⟩) = false := by decide +kernel

theorem test_wf_lists_too_long :
    Instr.wf (.block ⟨0, 0, 0, 0, List.replicate 17 (0, false)⟩) = false ∧
    Instr.wf (.dataFlit 0 ⟨0, 0, 0, false, List.replicate 57 0, true⟩) = false ∧
    Instr.wf (.ctrlFlit 0 ⟨0, false, false, [(0, false, 1), (0, false, 1)], true⟩) = false ∧
    Instr.wf (.linkFlit (.site 0 0) ⟨0, false, false, [(0, 1), (0, 1)]⟩) = false ∧
    Instr.wf (.dieSensorRead .h0 (some [(0, 20), (0, 20)])) = false := by decide +kernel
/-! ### Witnesses: cells, arrays, contexts, cues and takes -/

/-- An image of one step, with a record of cell 17 (route `route`) whose phase 0 is one MAC issue and whose phase 1 is one other
instruction, one stream at port `port` and one cue. -/
def img (op : StepOp) (pre : Bool) (route port : Nat) : Image :=
  { addr := 0, bytes := 64, crc := 0, arith := 0, seed := 0, seedFromField := false, nextCtx := none, lsBase := 0,
    lsRows := 0, cells := [⟨17, 11, 11, 2, route, 0, 0, 0, 0, 0⟩], progs := [(17, [0x400, 0x401, 0x40 * 2 ^ 56, 0])], steps := [(op, pre)],
    streams := [⟨port, 1, 0, 64, 1, 1, 0, 0⟩], cues := [0], cueOff := 0, cueCount := 0 }

/-- A running context of that image. -/
def runCtx (op : StepOp) (pre : Bool) (route port : Nat) : Ctx :=
  { Ctx.init with st := .running, img := some (img op pre route port), lc := [3], running := [(17, 0)] }

/-- Logical array 0 of H0 on physical array 0, with context 0 as given. -/
def arrState (x : Ctx) : State :=
  { State.reset with fab := { FabricSt.init with
      phys := [(0, ⟨0, 0, []⟩)], larr := [(0, { LArr.init with phys := some 0, home := some 0 })]
      ctxs := [(0, x)] } }

/-- The same, with cell 17 as given. -/
def cellState (route : Nat) (c : CellSt) : State :=
  let s := arrState (runCtx .stEnd true route 0)
  { s with fab := { s.fab with cells := [(17, c)] } }

def cell17 : CellRef := ⟨.h0, 0, 17⟩
def word1 : SwWord := ⟨1, false⟩

/-- One column of zeros from the local store, for the bank that accumulates. -/
def slice1 : MacSlice := ⟨false, List.replicate 8 0, List.replicate 8 0, [], [], false, false, false, false, false, false, []⟩

theorem witness_CellArithmeticRuns :
    (let s := cellState 0x5500000 CellSt.init
     hasHalf s .h0 = true ∧ runningOn s .h0 0 = some (0, 0) ∧ (cellRec (ctxAt s .h0 0 0) 17).isSome = true ∧
     (cellRec (ctxAt s .h0 0 0) 17).any (fun r => decide (r.fmtA ≠ 0) &&
       (macSource (cellSt s (cellKey .h0 0 17)) r.route 4).isSome && (macSource (cellSt s (cellKey .h0 0 17)) r.route 5).isSome) = true ∧
     (nextWord (ctxAt s .h0 0 0) 17).any (fun w => decide (wordOp w = opMac) && decide (natBit 0 w.toNat = slice1.bank)) = true ∧
     slice1.bank = (cellSt s (cellKey .h0 0 17)).bank) ∧
    (let x := { runCtx .stEnd true 0 0 with running := [(17, 1)] }
     let s := { arrState x with fab := { (arrState x).fab with cells := [(17, CellSt.init)] } }
     runningOn s .h0 0 = some (0, 0) ∧ (cellRec (ctxAt s .h0 0 0) 17).isSome = true ∧
     (nextWord (ctxAt s .h0 0 0) 17).any (fun w => wordFits w (.gather 0 1)) = true ∧
     (vecOp (.gather 0 1) (.of 0xFFFFFFFF#32) false false [] 0 (vecAt s (cellKey .h0 0 17) 0) (cellSt s (cellKey .h0 0 17))).isSome = true) := by
  decide +kernel

theorem witness_CellErrorsAndSwitchWords :
    (let s := cellState 0 { CellSt.init with failed := some (0, 0) }
     runningOn s .h0 0 = some (0, 0) ∧ (cellSt s (cellKey .h0 0 17)).failed = some (0, 0)) ∧
    (cellSt (cellState 0 CellSt.init) (cellKey .h0 0 17)).failed = none ∧
    (let s := cellState (2 ^ 16) { CellSt.init with bufN := [word1] }
     runningOn s .h0 0 = some (0, 0) ∧ (bufOf (cellSt s (cellKey .h0 0 17)) .n).head? = some word1 ∧
     (takOf (cellSt s (cellKey .h0 0 17)) .n).ls = false ∧ natBit (16 + dirNum .n) (2 ^ 16) = true) ∧
    (let s := cellState 5 CellSt.init
     (outWord (cellSt s (cellKey .h0 0 17)) 5 .n 255).isSome = true ∧ neighbour 17 .n = some 1 ∧
     hasSpace (cellSt s (cellKey .h0 0 1)) (opposite .n) = true) := by
  decide +kernel

theorem witness_ContextActions :
    (storeOk (.mp .h0) .h0 .ctxCtrl (ctxKey .h0 0 0) 1 1 State.reset) ∧
    (let s := arrState { Ctx.init with st := .done }
     storeOk (.mp .h0) .h0 .ctxCtrl (ctxKey .h0 0 0) 2 2 s ∧ (larr s .h0 0).phys ≠ none ∧ (ctxAt s .h0 0 0).st = .done ∧
     activeCtx s .h0 0 = none) ∧
    (let s := arrState Ctx.init
     storeOk (.mp .h0) .h0 .ctxCtrl (ctxKey .h0 0 0) 2 2 s ∧ storeOk (.mp .h0) .h0 .ctxCtrl (ctxKey .h0 0 0) 4 4 s ∧
     (larr s .h0 0).phys ≠ none ∧ (ctxAt s .h0 0 0).st = .empty ∧ ctxActive (ctxAt s .h0 0 0) = false) ∧
    (let s := arrState (runCtx .stEnd true 0 0)
     storeOk (.mp .h0) .h0 .ctxCtrl (ctxKey .h0 0 0) 3 3 s ∧ (larr s .h0 0).phys ≠ none ∧
     ctxActive (ctxAt s .h0 0 0) = true) := by
  and_intros <;> first | exact store_of (by decide +kernel) | decide +kernel

/-- The step that may issue, and the condition that goes with it. -/
theorem witness_SequencerSteps :
    (∀ op ∈ ([.stEnd, .stPhase 1 true, .stStream 0, .stStreamWait 0, .stCueWait 0 5 true, .stCueSignal 0 1, .stLoop 0 3 0,
        .stDelay 190] : List StepOp),
      (issuable (arrState (runCtx op false 0 0)) .h0 0).map (fun q => q.2.2) = some op ∧
      streamsDone (arrState (runCtx op false 0 0)) .h0 0 = true) ∧
    handleCurrent (arrState (runCtx (.stCueWait 0 5 true) false 0 0)) (imgCue (runCtx (.stCueWait 0 5 true) false 0 0) 0) = true ∧
    (let x := { runCtx (.stCueWait 0 5 true) false 0 0 with img := some { img (.stCueWait 0 5 true) false 0 0 with cues := [0x2000] } }
     handleCurrent (arrState x) (imgCue x 0) = false ∧ (issuable (arrState x) .h0 0).isSome = true) ∧
    (1 < (runCtx (.stLoop 0 3 0) false 0 0).lc.getD 0 0) := by
  decide +kernel

theorem witness_ContextTimersAndEnds :
    (let x := { runCtx .stEnd true 0 0 with words := [(17, 1)] }
     let s := arrState x
     activeCtx s .h0 0 = some 0 ∧ (ctxAt s .h0 0 0).img.isSome = true ∧ nextWord (ctxAt s .h0 0 0) 17 = none ∧
     (ctxAt s .h0 0 0).running.findIdx? (fun r => decide (r.1 = 17)) = some 0 ∧
     ((ctxAt s .h0 0 0).running.eraseIdx 0).find? (fun r => decide (r.1 = 17)) = none) ∧
    (let s := arrState { runCtx .stEnd true 0 0 with delayUntil := some 9, stopPend := true }
     activeCtx s .h0 0 = some 0 ∧ (nextWord (ctxAt s .h0 0 0) 17).isSome = true ∧
     (ctxAt s .h0 0 0).delayUntil = some 9 ∧ curStep (ctxAt s .h0 0 0) = some (.stEnd, true) ∧
     (ctxAt s .h0 0 0).stopPend = true ∧ streamsDone s .h0 0 = true ∧ phaseWaits (ctxAt s .h0 0 0) = false ∧
     (ctxAt s .h0 0 0).issued = false ∧ (ctxAt s .h0 0 0).st = .running) ∧
    (let s := { arrState (runCtx .stEnd true 0 0) with fab := { (arrState (runCtx .stEnd true 0 0)).fab with portQ := [(0, [0])] } }
     (activeStream s .h0 0 0).map (fun q => q.2.2.2.stopped) = some false ∧
     hasSpace (cellSt s (cellKey .h0 0 1)) .n = true ∧
     (match streamGet (arrayAgent .h0 0) 0 0 s with
      | .refused => true
      | _ => false) = true) ∧
    (let s := { arrState (runCtx .stEnd true 0 0) with fab := { (arrState { runCtx .stEnd true 0 0 with
        img := some { img .stEnd true 0 0 with streams := [⟨0, 1, 0x400000000000, 64, 1, 1, 0, 0⟩] } }).fab with portQ := [(0, [0])] } }
     let s := rput .clusterOwner 0 17 (rput .wayMap 0 0xC5 (rput .partCfg 5 0x31 s))
     (activeStream s .h0 0 0).map (fun q => q.2.2.2.stopped) = some false ∧
     (match streamGet (arrayAgent .h0 0) 0 0x400000000000 s with
      | .word _ _ => true
      | _ => false) = true) := by
  decide +kernel
/-- Partition 5 belongs to function 1 and holds segment 1, on H0 alone, and way 0 of the slices of H0 as scratchpad; `cs`: the
channels in service. -/
def memState (cs : List Nat) : State :=
  let s := rput .segMap 1 (segValue 0 2 .h0 5) (rput .partCfg 5 0x31 State.reset)
  let s := rput .wayMap 0 0xC5 s
  { s with mem := { s.mem with chans := cs.map (fun c => (c, { Chan.init with inService := true })) } }

/-- The same, with array 0 of function 1 and its context 0 as given. -/
def arrMem (x : Ctx) : State :=
  let s := rput .clusterOwner 0 17 (memState [128, 129, 130, 131])
  { s with fab := (arrState x).fab }
theorem witness_LoadCompletes :
    (let m := { img .stEnd true 0 0 with addr := 0x40000000 }
     let s := arrMem { Ctx.init with st := .loading, loadImg := some m }
     let b := ((readSection (arrayAgent .h0 0) m.addr m.bytes s).1.getD ⟨[], true⟩)
     (ctxAt s .h0 0 0).st = .loading ∧ (readSection (arrayAgent .h0 0) m.addr m.bytes s).1.isSome = true ∧
     b.poison = false ∧ imageCrc m b.bytes ≠ m.crc.toNat ∧
     (let m2 := { m with crc := BitVec.ofNat 32 (imageCrc m b.bytes) }
      imageCrc m2 b.bytes = m2.crc.toNat) ∧ (ctxAt s .h0 0 0).staleAtEnd = false ∧ (ctxAt s .h0 0 0).startWhenReady = false ∧
     namesOut m (physAt s (physKeyOf .h0 (((larr s .h0 0).phys).getD 0))).mapOut = false) ∧
    (let s := arrMem { Ctx.init with st := .loading, loadFrom := some 0x40000000 }
     (ctxAt s .h0 0 0).st = .loading ∧ (ctxAt s .h0 0 0).loadImg = none ∧ (ctxAt s .h0 0 0).loadFrom = some 0x40000000) := by
  decide +kernel

theorem witness_CueWritesSetTheCue :
    storeOk (.mp .h0) (cueHalf 4095) .cueValue 4095 0xFFFFFF 0xFFFFFF State.reset ∧
    (let s := rput .cueOwner 0 17 State.reset
     storeOk (.mp .h0) (cueHalf 0) .cueOwner 0 17 17 s ∧ rget s .cueOwner 0 = lowBits 5 17) ∧
    (storeOk (.mp .h0) (cueHalf 0) .cueOwner 0 17 17 State.reset ∧ rget State.reset .cueOwner 0 ≠ lowBits 5 17) := by
  and_intros <;> first | exact store_of (by decide +kernel) | decide +kernel

theorem witness_CueWaitersAreServedInOrder :
    handleCurrent State.reset 0x1FFF = true ∧ (3 : Nat) ≤ 3 ∧
    checkWaits 3 [⟨.site 0 0, 3, true⟩, ⟨.site 0 1, 1, false⟩] = (0, [⟨.site 0 0, 3, true⟩], [⟨.site 0 1, 1, false⟩]) := by
  decide +kernel

theorem witness_TakesAdvanceWhenDue :
    (let s := { State.reset with takes := [(takeKey (.cue 5), ⟨255, some 7, true⟩)] }
     s.part = .mb2 ∧ (takeSt s (takeKey (.cue 5))).due = true) := by
  decide +kernel

/-! ### Witnesses: slices, scratchpads, maintenance, memory -/

/-- Array 0 of function 1 beside memory, its channels in service. -/
def sliceState : State := arrMem Ctx.init
def arr0 : Agent := arrayAgent .h0 0

theorem witness_AccessesReachTheSlice :
    agentThere sliceState arr0 = true ∧ targetOf sliceState (.dpa 0x40000000#48) = .dpa 0x40000000 ∧
    mayAccess sliceState arr0 0x40000000 = true ∧ farCombines sliceState arr0 0x40000000 = false ∧
    acquirePending sliceState arr0 = false ∧ region sliceState 0x40000000 ≠ .scratch ∧
    targetOf sliceState (.dpa 0x90000000#48) = .dpa 0x90000000 ∧ region sliceState 0x90000000 ≠ .scratch ∧
    mayAccess sliceState arr0 0x90000000 = false ∧
    targetOf sliceState (.dpa 0x400000000000#48) = .dpa 0x400000000000 ∧ region sliceState 0x400000000000 = .scratch ∧
    (let r : FarReq := { code := 9, ga := 0, func := 1, why := some (.access arr0 (.atomic ⟨.fetchAdd, .int64, 1, 0⟩ 0 .group .acq) 0),
                         take := 0, sentT := 0, ackedLocal := false, retryAt := none, secs := [], epoch := false, redop := 0,
                         keep := false, result := false }
     let s := { sliceState with coh := { CohSt.init with reqs := [(4, r)] } }
     agentThere s arr0 = true ∧ acquirePending s arr0 = true) := by
  decide +kernel

def fillRet0 : FillRet :=
  { line := 0, sec := 0, d := 0, poison := false, dead := false, compressed := false, reducePending := false,
    failed := false, pass := none }
def withBuf (b : BufferSt) (s : State) : State := { s with buf := b }

theorem witness_SliceReturnsAndHandovers :
    (match takeRet 32 0 (withBuf { BufferSt.init with rets := [(32, [fillRet0])] } sliceState) with
     | some (r, _) => !r.reducePending
     | none => false) = true ∧
    takeRet 32 0 sliceState = none ∧
    (let s := withBuf { BufferSt.init with ebuf := [(32, [⟨0, Quad.all .deadmark, 0⟩])] } sliceState
     (ebufAt s 32)[0]?.isSome = true ∧ ((ebufAt s 32).take 0).any (fun x => decide (chanOf 32 x.line = chanOf 32 0)) = false ∧
     (handOver 32 0 s).isSome = true) := by
  decide +kernel

theorem witness_ScratchpadsAndMaps :
    (agentThere sliceState arr0 = true ∧ mayScratch sliceState arr0 0x400000000000 = true ∧
     acquirePending sliceState arr0 = false ∧ mayScratch sliceState arr0 (0x400000000000 + 128 - 1) = true ∧
     (scratchGet (padErr 0x400000000000 128 .none sliceState) 0x400000000000 128).2 = false ∧
     mayScratch sliceState arr0 0x400000020000 = false) ∧
    (storeOk (.mp .h0) .h0 .segMap 1 (segValue 0 2 .h0 5) (segValue 0 2 .h0 5) State.reset ∧
     segValueOk State.reset 1 (segValue 0 2 .h0 5) = true) ∧
    (let s := memState []
     storeOk (.mp .h0) .h0 .segMap 2 (segValue 0 2 .h0 5) (segValue 0 2 .h0 5) s ∧
     segValueOk s 2 (segValue 0 2 .h0 5) = false) ∧
    storeOk (.mp .h0) .h0 .wayMap (16 * Half.h0.num + 15) 0x45 0x45 (memState []) ∧ natBit 6 0 = false ∧
    (withBuf { BufferSt.init with wayZero := [(3, 7)] } State.reset).buf.wayZero.find? (16 * Half.h0.num + 3) = some 7 ∧
    (let s := { State.reset with regs := (State.reset.regs.hold .maintCtl 5 3) }
     storeOk (.mp .h0) .h0 .maintCommit (portKey .h0 5) 1 1 s ∧ groupPending s .h0 (.maint 5) = true) := by
  and_intros <;> first | exact store_of (by decide +kernel) | decide +kernel

/-- A maintenance operation of code `c` over one line of function 1's memory. -/
def mop (c : Nat) : MaintOp :=
  { addr := 0x40000000, len := 128, ctl := c, recAddr := 0x40001000, cue := 0, started := true, pos := 0, result := 0,
    refused := false, present := 0, affected := 0, written := 0, locked := 0, discarded := 0, failed := 0,
    unreached := false, waitFor := [], noRec := false, blockedT := none }
/-- That operation runs at port 1 of H0. -/
def mopState (o : MaintOp) : State := withBuf { BufferSt.init with maint := [(portKey .h0 1, { MaintPort.init with run := some o })] } sliceState

theorem witness_MaintenanceOperations :
    (∀ c ∈ [1, 2, 3, 4, 5, 6], let s := mopState (mop c)
      (maintAt s .h0 1).run = some (mop c) ∧ opCode (mop c) = c ∧ opNext s .h0 (mop c) = some (some (32, 0), 1) ∧
      (opCoherent 32 0 c s).1 = true ∧ (opLine 32 0 (mop c) (opCoherent 32 0 c s).2).isSome = true ∧ opCode (mop c) ≠ 7) ∧
    (let s := { mopState (mop 3) with buf := { (mopState (mop 3)).buf with
       frames := [(16384 * 32, .held ⟨0, Quad.all (.filling none)⟩)] } }
     (opCoherent 32 0 3 s).1 = true ∧ opLine 32 0 (mop 3) (opCoherent 32 0 3 s).2 = none) ∧
    (let o := { mop 3 with pos := 1 }
     let s := mopState o
     (maintAt s .h0 1).late = [] ∧ opNext s .h0 o = none ∧ opPending s o = [] ∧ (writeRecord .h0 o s).1 = true) ∧
    (let o := { mop 3 with pos := 1, noRec := true }
     let s := mopState o
     (maintAt s .h0 1).late = [] ∧ opNext s .h0 o = none ∧ opPending s o = [] ∧ o.noRec = true) ∧
    (maintAt (withBuf { BufferSt.init with maint := [(portKey .h0 1, { MaintPort.init with late := [mop 3] })] } sliceState) .h0 1).late ≠ [] ∧
    (let o := { mop 3 with pos := 1, waitFor := [⟨32, 0, 5, 4⟩] }
     let s := mopState o
     let s := setStack 2 { stackAt s 2 with fence := 1 } { s with buf := { s.buf with ebuf := [(32, [⟨0, Quad.all .deadmark, 0⟩])] } }
     ((opPending s o).any (fun w => decide ((stackAt s (stackOfSlice w.sl)).fence ≠ 0))) = true) := by
  decide +kernel

/-- Channel 0 as given. -/
def chanState (x : Chan) : State := setChan 0 x State.reset

theorem witness_ChannelAccesses :
    (∀ k ∈ ([(.read .scrub, isRead), (.dead, isWrite), (.add ⟨⟨.int32, .add⟩, 0, false⟩, isAdd)] :
        List (ChanKind × (ChanKind → Bool))),
      let s := chanState { Chan.init with inService := true, q := [⟨0, 0, k.1, 0⟩] }
      (chanAt s 0).q[0]? = some ⟨0, 0, k.1, 0⟩ ∧ chanOpen s 0 = true ∧ k.2 k.1 = true ∧
      (chanNext s 0).map Cand.idx = some 0) ∧
    (let s := chanState { Chan.init with inService := true, q := [⟨0, 0, .read .scrub, 0⟩, ⟨9, 0, .read .scrub, 0⟩] }
     (chanAt s 0).q[1]? = some ⟨9, 0, .read .scrub, 0⟩ ∧ (chanNext s 0).map Cand.idx = some 0) ∧
    chanOpen State.reset 0 = false ∧
    (chanAt (chanState { Chan.init with wcb := [⟨0, 0, ⟨0, 1, false⟩, 4⟩] }) 0).wcb[0]?.isSome = true ∧
    (let s := chanState { Chan.init with inService := true }
     chanOpen s 0 = true ∧ chanRoom s 0 1 = true ∧ (chanAt s 0).scrubPos + 1 < 2 ^ 26) := by
  decide +kernel

/-- Stack 0 as given, trained. -/
def stackState (x : StackSt) : State := setStack 0 { x with trained := true } State.reset

theorem witness_StackHousekeepingAndLoss :
    (let s := stackState StackSt.init
     stackLive s 0 = true ∧ (stackAt s 0).band ≠ 4 ∧ (stackAt s 0).band < bandOf 90 ∧ bandOf 90 ≠ 4 ∧ bandOf 110 = 4 ∧
     (stackAt s 0).selfRefresh = false ∧ (stackAt s 0).fence ≠ 3) ∧
    (stackAt (stackState { StackSt.init with band := 4, ret := some (100, 3) }) 0).ret = some (100, 3) ∧
    ((stackAt State.reset 0).trained = false ∧ (stackAt State.reset 0).excluded = false ∧ (stackAt State.reset 0).lost = false ∧
      State.reset.ident.refused = false) ∧
    (let s := rput .tgCtl 0 1 (stackState { StackSt.init with fence := 2 })
     storeOk (.mp .h0) (chanHalf 0) .tgGo 0 1 1 s ∧ storeOk (.mp .h0) (chanHalf 0) .tgGo 0 2 2 s ∧
     (chanAt s 0).tg.run = false ∧ tgMode s 0 = 1 ∧ rget s .tgFirst 0 ≤ rget s .tgLast 0 ∧
     (stackAt s (stackOfChan 0)).fence = 2) ∧
    (let s := rput .tgPasses 0 3 (chanState { Chan.init with tg := { TgSt.init with run := true } })
     (chanAt s 0).tg.run = true ∧ rbits s .tgPasses 0 15 0 ≠ 0) ∧
    (let s := setChan 0 { Chan.init with q := [⟨0, 0, .read .scrub, 0⟩] } (stackState { StackSt.init with fence := 1 })
     (stackAt s (stackOfChan 0)).fence = 1 ∧ ⟨0, 0, .read .scrub, 0⟩ ∈ (chanAt s 0).q) ∧
    (let s := chanState { Chan.init with inService := true }
     (chanAt s 0).inService = true ∧ (stackAt s (stackOfChan 0)).fence ≠ 3 ∧
     ((chanAt s 0).parTimes.filter (fun t => decide (s.clock < t + ms 1))).length < 15) := by
  and_intros <;> first | exact store_of (by decide +kernel) | decide +kernel

/-! ### Witnesses: Continuity and Slates -/

/-- Function 1's memory on the base with device identifier 5, whose group lists member 3 (device 7). -/
def cohState : State :=
  let s := rput .segExport 1 1 (rput .member 3 0x10007 (rput .groupCfg 0 0x80000000 sliceState))
  { s with ident := { s.ident with devId := 5, idValid := true } }
def withCoh (c : CohSt) (s : State) : State := { s with coh := c }
/-- A header of the given source for a line of that memory. -/
def hdrOf (src : Holder) (ga : BitVec 64) : CohHdr := ⟨src, 0, 0, ga, 1, false, .group, .rlx⟩
def gaMine : BitVec 64 := 0x0005000040000000#64
def gaFar : BitVec 64 := 0x0007000040000000#64

/-- An outstanding request of H0, with tag 4 and take 9. -/
def farReq (code : Nat) (why : FarWhy) : FarReq :=
  { code := code, ga := gaFar, func := 1, why := some why, take := 9, sentT := 0, ackedLocal := false, retryAt := some 10,
    secs := [], epoch := false, redop := 0, keep := false, result := false }
def reqState (r : FarReq) (s : State) : State := { s with coh := { s.coh with reqs := [(4096 * Half.h0.num + 4, r)] } }

/-- Guest site 0 is function 1's, ACTIVE and coherent. -/
def guestState : State :=
  let s := rput .gsCtl 0 2 cohState
  { s with zor := { s.zor with sites := s.zor.sites.insert 0 { SiteSt.init with st := 2, coherent := true } } }

theorem witness_HomeRequestsAreChecked :
    (let hd := hdrOf (.member 3) gaMine
     let dpa := gaDpa (gaLine hd.addr)
     let s := cohState
     let s1 := epochTrigger hd dpa s
     holderThere s hd.src = true ∧ groupOpen s = true ∧ rbit s .member 3 16 = true ∧ idOk s = true ∧
     gaDev hd.addr = ownDev s ∧ region s dpa = .memory ∧ rbit s .segExport (dpa / 2 ^ 30) 0 = true ∧
     inMapped s dpa = true ∧ homeOf s dpa ≠ none ∧ homeOf s1 dpa = some (32, 0)) ∧
    (rbit cohState .member 4 16 = false ∧ gaDev gaFar ≠ ownDev cohState ∧
     (let dpa := gaDpa (gaLine 0x0005000080000000#64)
      gaDev 0x0005000080000000#64 = ownDev cohState ∧ rbit cohState .segExport (dpa / 2 ^ 30) 0 = false)) ∧
    (let hd := hdrOf (.site 0) gaMine
     let dpa := gaDpa (gaLine hd.addr)
     holderThere guestState hd.src = true ∧ inFuncMem guestState (siteFunc guestState 0) dpa = true ∧
     homeOf guestState dpa = some (32, 0) ∧
     ((guestState.zor.sites.getD 0 SiteSt.init).st = 2 ∧ (guestState.zor.sites.getD 0 SiteSt.init).coherent = true) ∧
     guestWaits guestState hd .rdS = false ∧ farCombines guestState (.guest 0 hd.func) dpa = false ∧
     guestWaits (reqState (farReq 0x05 (.access (.guest 0 1) (.write []) 6)) guestState) { hd with ord := .rel } .rdS = true) ∧
    (let hd := hdrOf (.site 0) 0x0005000080000000#64
     let dpa := gaDpa (gaLine hd.addr)
     let s := rput .segMap 2 (segValue 0 2 .h1 6) (rput .partCfg 6 0x31 (rput .partCoh 6 1 guestState))
     inFuncMem s (siteFunc s 0) dpa = true ∧ (homeOf s dpa).isSome = true ∧ guestWaits s hd (.addNc ⟨.fp32, .add⟩ []) = false ∧
     farCombines s (.guest 0 hd.func) dpa = true) ∧
    (let hd := hdrOf (.site 0) gaMine
     inFuncMem cohState (siteFunc cohState 0) (gaDpa (gaLine hd.addr)) = false ∧ wantsCopy .rdS = true ∧
     (cohState.zor.sites.getD 0 SiteSt.init).st ≠ 2) ∧
    (holderThere cohState .xFar = true ∧ inMapped cohState 0x40000000 = true ∧ homeOf cohState 0x40000000 = some (32, 0)) := by
  decide +kernel

/-- A far cache line of remote memory, and the far cache of H0 with it. -/
def farLine (ga : BitVec 64) (st : FarState) : FarLine := ⟨ga, 1, st, Quad.all (0, false), 90000, 8, false⟩
def farState (ga : BitVec 64) (st : FarState) : State :=
  withCoh { CohSt.init with far := [(farKey .h0 (farSet ga) 2, farLine ga st)] } cohState
theorem witness_SnoopsAtAFarCache :
    ((∀ d, (⟨some 7, 0, 1, 9⟩ : SnoopRef).dev = some d → groupOpen (farState gaFar .s) = true ∧
      (memberOf (farState gaFar .s) d).isSome = true)) ∧
    (∀ st ∈ [FarState.s, .e, .m, .a ⟨.fp32, .add⟩],
      let t := dropExpired .h0 gaFar (farState gaFar st)
      farFind t .h0 gaFar = some (farKey .h0 (farSet gaFar) 2, farLine gaFar st) ∧ releaseOut t .h0 gaFar = false) ∧
    releaseOut (dropExpired .h0 gaFar (reqState (farReq 0x09 (.line 0)) cohState)) .h0 gaFar = true ∧
    farFind (dropExpired .h0 gaFar cohState) .h0 gaFar = none ∧ memberOf cohState 8 = none := by
  refine ⟨fun d h => ?_, ?_⟩
  · cases h; decide +kernel
  · decide +kernel

theorem witness_AnswersAtAFarCache :
    (let s := reqState (farReq 0x03 (.line 0)) (farState gaFar .s)
     hasHalf s .h0 = true ∧ reqAt s .h0 4 = some (farReq 0x03 (.line 0)) ∧ (farReq 0x03 (.line 0)).take = 9 ∧
     (farFind (putReq .h0 4 none s) .h0 gaFar).isSome = true ∧ gaOwn s gaFar = false ∧ (farReq 0x03 (.line 0)).retryAt = some 10 ∧
     (farReq 0x03 (.line 0)).code ≠ 0x0C) ∧
    (let s := reqState (farReq 0x07 (.access arr0 (.add ⟨.fp32, .add⟩ []) 6)) cohState
     reqAt s .h0 4 = some (farReq 0x07 (.access arr0 (.add ⟨.fp32, .add⟩ []) 6))) ∧
    (let s := reqState (farReq 0x05 (.access arr0 (.write []) 6)) cohState
     reqAt s .h0 4 = some (farReq 0x05 (.access arr0 (.write []) 6)) ∧ gaOwn (farDone arr0 6 s) gaFar = false) ∧
    (let s := reqState (farReq 0x01 (.access arr0 (.read 15) 6)) cohState
     reqAt s .h0 4 = some (farReq 0x01 (.access arr0 (.read 15) 6))) := by
  decide +kernel

theorem witness_StaleAnswersAreDiscarded :
    (∀ r, reqAt cohState .h0 4 = some r → r.take ≠ (9 : BitVec 8)) ∧
    (∀ r, reqAt (reqState (farReq 0x03 (.line 0)) cohState) .h0 4 = some r → r.take ≠ (8 : BitVec 8)) ∧
    (∀ sn, cohState.coh.snoops.find? (4096 * 32 + 1) = some sn → sn.take ≠ (8 : BitVec 8)) := by
  refine ⟨fun r h => ?_, fun r h => ?_, fun r h => ?_⟩
  · exact absurd (show reqAt cohState .h0 4 = none by decide +kernel) (by rw [h]; simp)
  · have e : reqAt (reqState (farReq 0x03 (.line 0)) cohState) .h0 4 = some (farReq 0x03 (.line 0)) := by decide +kernel
    rw [e] at h; cases h; decide
  · exact absurd (show cohState.coh.snoops.find? (4096 * 32 + 1) = none by decide +kernel) (by rw [h]; simp)

/-- A transaction of line 0 of slice 32 that waits for member 3, whose snoop has tag 1 and take 9. -/
def txState (why : SnoopWhy) : State :=
  withCoh { CohSt.init with
    txs := [(lineKey 32 0, ⟨none, why, [(.member 3, 700)], false, false, false, false, false⟩)]
    snoops := [(4096 * 32 + 1, ⟨0, .member 3, 0x31, 9, 0, false⟩)] } cohState

theorem witness_SnoopAnswersAtTheHome :
    (let s := answerPoint 32 1 9 (.member 3) 1 false (txState .request)
     let r := mkReq (some (answerHdr s 32 0 1 9 (.member 3) 1 false)) none (.snoopData 1 9 none []) 32 0 s.clock false
     answerHeld s 32 0 (.member 3) = false ∧ pointHolds s r = none ∧ (slateGate r s).isSome = true ∧
     hasHalf s (halfOf 128 32) = true ∧ s.coh.snoops.find? (4096 * 32 + 1) = some ⟨0, .member 3, 0x31, 9, 0, false⟩ ∧
     waitsFor s 32 0 (.member 3) = true ∧ (txAt s 32 0).map (fun t => (t.discard, t.why)) = some (false, .request) ∧
     (txAt s 32 0).map (fun t => List.find? (fun p : Holder × Nat => decide (p.1 = .member 3)) t.waits) =
       some (some (.member 3, 700))) ∧
    (txAt (txState .rpCollect) 32 0).map (fun t => t.why) = some .rpCollect := by
  decide +kernel

theorem witness_LeasesOfAFarCache :
    (farAt (farState gaFar .m) (farKey .h0 (farSet gaFar) 2)).map (fun l => gaOwn (farState gaFar .m) l.ga) = some false ∧
    (farAt (farState gaMine .m) (farKey .h0 (farSet gaMine) 2)).map (fun l => gaOwn (farState gaMine .m) l.ga) = some true ∧
    (agentThere cohState arr0 = true ∧ orderWaits cohState arr0 (opOrder (.read 15)).1 (opOrder (.read 15)).2 = false ∧
     idOk cohState = true ∧ gaOwn cohState gaFar = false ∧ groupOpen cohState = true) ∧
    (let s := rput .groupCfg 0 0 cohState
     idOk s = true ∧ gaOwn s gaFar = false ∧ groupOpen s = false) ∧
    (idOk sliceState = false ∧ orderWaits sliceState arr0 (opOrder (.read 15)).1 (opOrder (.read 15)).2 = false) ∧
    (let op : FarOp := .atomic ⟨.fetchAdd, .int64, 1, 0⟩ 0 .group .rel
     orderWaits (reqState (farReq 0x05 (.access arr0 (.write []) 6)) cohState) arr0 (opOrder op).1 (opOrder op).2 = true) := by
  decide +kernel

def slateState (x : SlateSt) : State := withCoh { CohSt.init with slates := [(1, x)] } cohState

theorem witness_SlateSteps :
    (let s := slateState { SlateSt.init with st := .armed, devices := [7] }
     (slateAt s 1).st = .armed ∧ (slateAt s 1).pointing = false ∧ (slateAt s 1).devices.contains (memberDev s 3) = true) ∧
    (slateAt (slateState { SlateSt.init with st := .armed, pointing := true }) 1).pointing = true ∧
    (slateAt cohState 1).st ≠ .armed ∧ (slateAt cohState 1).st ≠ .streaming ∧
    (let s := slateState { SlateSt.init with st := .pointed, flushedAt := some 4 }
     (slateAt s 1).st = .pointed ∧ (slateAt s 1).flushedAt = some 4) ∧
    (let s := slateState { SlateSt.init with st := .streaming, round := 2 }
     (slateAt s 1).st = .streaming ∧ slateAllDone s 1 = true ∧ 2 ≤ (slateAt s 1).round) := by
  decide +kernel

/-- Queue 3 of H0, function 1's, as given. -/
def dqState (x : QueueSt) (ctl : Nat) : State :=
  let s := rput .dqCtl 3 ctl (rput .dqOwner 3 0x11 cohState)
  { s with dolly := { s.dolly with queues := [(queueNum .h0 3, x)] } }

theorem witness_QueueRegisterWrites :
    (let s := dqState QueueSt.init 0
     storeOk (.mp .h0) .h0 .dqCtl (queueNum .h0 3) ((0 : Nat) ||| 1) 1 s ∧ (queueAt s (queueNum .h0 3)).st = .disabled) ∧
    (let s := dqState { QueueSt.init with st := .idle } 1
     storeOk (.mp .h0) .h0 .dqCtl (queueNum .h0 3)
       ((rget s .dqCtl (queueNum .h0 3) ||| 0) - (rget s .dqCtl (queueNum .h0 3) &&& 1)) 0 s ∧
     storeOk (.mp .h0) .h0 .dqCtl (queueNum .h0 3)
       ((rget s .dqCtl (queueNum .h0 3) ||| 4) - (rget s .dqCtl (queueNum .h0 3) &&& 0)) 5 s ∧
     storeOk (.mp .h0) .h0 .dqCtl (queueNum .h0 3)
       ((rget s .dqCtl (queueNum .h0 3) ||| 8) - (rget s .dqCtl (queueNum .h0 3) &&& 0)) 9 s ∧
     storeOk (.mp .h0) .h0 .dqTail (queueNum .h0 3) 1 1 s ∧ storeOk (.mp .h0) .h0 .dqTail (queueNum .h0 3) 2 2 s ∧
     storeOk (.mp .h0) .h0 .dqRecHead (queueNum .h0 3) 2 2 s ∧ (queueAt s (queueNum .h0 3)).st = .idle ∧
     ringOverrun { queueAt s (queueNum .h0 3) with tail := 1 } = false ∧
     ringOverrun { queueAt s (queueNum .h0 3) with tail := 2 } = true) := by
  and_intros <;> first | exact store_of (by decide +kernel) | decide +kernel

/-! ### Witnesses: Dolly, streams, ports, packets, collectives -/

/-- A descriptor of zeros but for its opcode and its length, and one that has begun. -/
def descN (op : Nat) : Desc := { descOf (List.replicate 64 0) with opcode := op }
def runN (op : Nat) : DescRun := { newRun 0 (descN op) 0 with phase := .running, begun := true }
/-- Queue 3 of H0 with that descriptor active. -/
def runState (r : DescRun) : State := dqState { QueueSt.init with st := .running, tail := 1, active := [r] } 1

theorem witness_DescriptorsAreRead :
    (let s := dqState { QueueSt.init with st := .idle, ring := 0x40000000, ringLog := 2, tail := 1 } 1
     let x := queueAt s (queueNum .h0 3)
     queueRuns x = true ∧ x.head ≠ x.tail ∧ x.active = [] ∧ engineActive s (queueNum .h0 3) < 16 ∧
     queueFunc s (queueNum .h0 3) = some 1 ∧ extentIn s 1 (x.ring + 64 * (x.head.toNat % 2 ^ x.ringLog)) 64 = true ∧
     engFenced s (queueAgent (queueNum .h0 3)) 0x40000000 = false ∧ engFenced s (queueAgent (queueNum .h0 3)) 0x40000020 = false ∧
     govWaits s (queueAgent (queueNum .h0 3)) 0 0x40000000 = false ∧
     (engBytes (queueAgent (queueNum .h0 3)) 0x40000000 64 s).1.map (fun p => (p.1.length, p.2)) = some (64, false)) ∧
    (let s := dqState { QueueSt.init with st := .idle, ring := 0x90000000, ringLog := 2, tail := 1 } 1
     let x := queueAt s (queueNum .h0 3)
     queueRuns x = true ∧ x.head ≠ x.tail ∧ extentIn s 1 (x.ring + 64 * (x.head.toNat % 2 ^ x.ringLog)) 64 = false) ∧
    queueRuns (queueAt cohState (queueNum .h0 3)) = false := by
  decide +kernel

/-- The run is there and its engine serves it; and it is there while a HIGH queue's descriptor has the turn. -/
def servedB (r : DescRun) : Bool :=
  decide (runAt (runState r) (queueNum .h0 3) 0 = some r) && decide (r.phase = .running) && r.begun &&
  engineServes (runState r) (queueNum .h0 3) 0 &&
  (let s := rput .dqCtl 4 3 (runState r)
   let s := { s with dolly := { s.dolly with queues := s.dolly.queues ++ [(queueNum .h0 4, { QueueSt.init with st := .running, active := [runN 0] })] } }
   decide (runAt s (queueNum .h0 3) 0 = some r) && !engineServes s (queueNum .h0 3) 0)

def branch0 : BranchSt :=
  { addr := 0, kind := 0, group := 0, tag := 0, take := 0, pos := 0, held := [(0, false)], rtag := none, rans := none,
    lastT := 0, sent := false, failed := false, doneB := false }

theorem witness_DescriptorsRun :
    (∀ op ∈ [0, 1, 2, 3, 4, 5], servedB (runN op) = true ∧ (runN op).d.opcode = op) ∧
    (let r := { runN 6 with branches := [branch0] }
     servedB r = true ∧ r.branches ≠ [] ∧ r.branches[0]? = some branch0 ∧ branchLive branch0 = true ∧ branch0.held ≠ []) ∧
    (∀ op ∈ [7, 8], servedB { runN op with posted := true } = true) ∧
    (∀ op ∈ [7, 8], servedB (runN op) = true ∧ (runN op).posted = false ∧
      rdmaStatus (runState (runN op)) (queueNum .h0 3) (runN op).d ≠ 0) ∧
    (let r := { runN 9 with asked := 1, slot := 1 }
     let s := rput .reelId 0 0x81000009 (runState r)
     let s := { s with dolly := { s.dolly with reels := [(0, { ReelSt.init with st := 1 })] } }
     engineServes s (queueNum .h0 3) 0 = true ∧ r.posted = false ∧
     some (reelFunc s r.d.arg) = queueFunc s (queueNum .h0 3) ∧
     descTotal r.d ≤ 2 ^ (reelAt s r.d.arg).slotLog ∧ reelHalf r.d.arg = halfOf 256 (queueNum .h0 3) ∧
     (reelAt s r.d.arg).st = 1 ∧ (curTake s (reelTakeKey r.d.arg)).isSome = true ∧ r.asked ≠ 0 ∧ r.slot ≠ 0) ∧
    runAt cohState (queueNum .h0 3) 0 = none := by
  decide +kernel

theorem witness_DescriptorsComplete :
    (let r := { runN 1 with phase := .complete }
     runAt (runState r) (queueNum .h0 3) 0 = some r ∧ r.phase = .complete ∧ r.d.sigEn = false ∧ r.status = 0 ∧ r.d.recOk = false) ∧
    (let r := { runN 1 with phase := .complete, d := { descN 1 with sigEn := true } }
     let s := runState r
     runAt s (queueNum .h0 3) 0 = some r ∧ r.d.sigEn = true ∧ r.ended = false ∧ r.d.opcode ≠ 10 ∧
     (queueAt s (queueNum .h0 3)).active.takeWhile (fun d => decide (d.index ≠ 0)) = [] ∧ r.d.sigScope = false ∧
     (writeDescRec (queueNum .h0 3) r s).1 = true) ∧
    (runN 1).phase ≠ .complete ∧
    (servedB (runN 10) = true ∧ groupDone (runState (runN 10)) (queueNum .h0 3) = true ∧
     BitVec.ofNat 16 ((runN 10).d.dst.toNat / 2 ^ 48) ≠ ownDev (runState (runN 10))) ∧
    (let s := reqState (farReq 5 (.line 0)) (runState (runN 10))
     runAt s (queueNum .h0 3) 0 = some (runN 10) ∧ engineServes s (queueNum .h0 3) 0 = true ∧
     groupDone s (queueNum .h0 3) = false) ∧
    (let r := { runN 10 with posted := true }
     let s := runState r
     handleQueue s (queueHandle s (queueNum .h0 3)) = some (queueNum .h0 3) ∧ runAt s (queueNum .h0 3) 0 = some r ∧
     r.posted = true ∧ handleQueue s 0xFFFF = none) ∧
    (let s := rput .cueRemote 0 0xFFFFFFFF cohState
     let r : RSig := ⟨7, currentHandle s 4, 1, 0⟩
     handleCurrent s r.cue = true ∧ (memberOf s r.dev).isSome = true ∧ rbit s .cueRemote (cueNum r.cue / 32) (cueNum r.cue % 32) = true ∧
     (memberOf s 8).isSome = false ∧ handleCurrent s 0x3FFF = false) := by
  decide +kernel

/-- Stream 0 of H0 open, with identifier 9, after device 7 and before device 8. -/
def reelState : State :=
  let s := rput .reelId 0 0x81000009 cohState
  { s with dolly := { s.dolly with
      reels := [(0, { ReelSt.init with st := 1, prev := 7, next := 8, base := 0x40000000, slots := 2, slotLog := 10, freeDue := 1 })]
      queues := [(queueNum .h0 3, { QueueSt.init with st := .running, active := [{ runN 9 with posted := true, slot := 1 }] })] } }

theorem witness_ReelStreams :
    (storeOk (.mp .h0) .h0 .reelId (reelNum .h0 5) 0x81000005 0x81000005 cohState ∧
     rbit cohState .reelId (reelNum .h0 5) 31 = false) ∧
    (let s := rput .reelId 5 0x81000005 cohState
     storeOk (.mp .h0) .h0 .reelId (reelNum .h0 5) 0x01000005 0x01000005 s ∧ rbit s .reelId (reelNum .h0 5) 31 = true) ∧
    (reelEntry reelState 9 0 = some 0 ∧ reelEntry reelState 9 1 = none ∧ (reelAt reelState 0).prev = 7 ∧
     (reelAt reelState 0).next = 8 ∧ (reelSender reelState 0 0).isSome = true ∧
     (reelAt reelState 0).base + 32 * 1 ≤ (reelAt reelState 0).base + (reelAt reelState 0).slots * 2 ^ (reelAt reelState 0).slotLog ∧
     extentIn reelState (reelFunc reelState 0) 0x40000000 (32 * 1) = true ∧ (reelAt reelState (reelNum .h0 0)).st = 1 ∧
     0 < (reelAt reelState (reelNum .h0 0)).freeDue ∧ (curTake reelState (reelTakeKey (reelNum .h0 0))).isSome = true) := by
  and_intros <;> first | exact store_of (by decide +kernel) | decide +kernel

/-- Port 0 as given. -/
def portSt (x : PortSt) : State := setPort 0 x cohState
def upPort : PortSt := { PortSt.init with st := .upFull }
/-- What training finds, with no bad wavelength, and `skew` nanoseconds between wavelengths. -/
def training (bad : BitVec 16) (skew : Nat) : PortTraining := ⟨bad, true, false, false, [], 7, 0, true, skew⟩
def flit (seq : BitVec 16) (ok : Bool) : DataFlit := ⟨1, seq, 0, false, [], ok⟩

theorem witness_PortsTrain :
    (storeOk (.mp .h0) (portHalf 0) .portCtl 0 1 1 cohState ∧ rbit cohState .portCtl 0 0 = false) ∧
    (let s := rput .portCtl 0 1 cohState
     storeOk (.mp .h0) (portHalf 0) .portCtl 0 0 0 s ∧ rbit s .portCtl 0 0 = true) ∧
    (let s := rput .portCtl 0 1 (portSt { PortSt.init with st := .training })
     (portAt s 0).st = .training ∧ (portAt s 0).trainFails < 2 ∧ rbit s .portCtl 0 1 = false) ∧
    (let s := portSt { PortSt.init with st := .training, trainFails := 2 }
     (portAt s 0).st = .training ∧ 2 ≤ (portAt s 0).trainFails) ∧
    ((training 1 0).badLambda ≠ 0 ∧ rbit (rput .portCtl 0 1 (portSt { PortSt.init with st := .training })) .portCtl 0 1 = false ∧
     maxSkew < (training 0 65).skew ∧ (training 0 64).badLambda = 0 ∧ (training 0 64).skew ≤ maxSkew) ∧
    (let s := portSt { upPort with replay := [flit 0 true] }
     linkUp (portAt s 0) = true ∧ (portAt s 0).replay ≠ []) ∧
    linkUp (portAt cohState 0) = false := by
  and_intros <;> first | exact store_of (by decide +kernel) | decide +kernel

theorem witness_FlitsAreTakenInOrder :
    (let s := portSt { upPort with replay := [flit 0 true], rxNak := true, ackDue := true }
     hasHalf s (portHalf 0) = true ∧ linkUp (portAt s 0) = true ∧ (flit 0 true).seq = (portAt s 0).rxSeq ∧
     (flit 0 true).ftype = 1 ∧ (flit 0 true).vc.val ≠ 7 ∧ (flit 3 true).seq ≠ (portAt s 0).rxSeq ∧ (flit 3 true).intact = true ∧
     (flit 0 false).intact = false ∧ 0 < ackCount (portAt s 0) 0 ∧ (portAt s 0).rxNak = true ∧ (portAt s 0).ackDue = true) := by
  decide +kernel

/-- A packet without data, and port 0 with it at the front of class `vc`. -/
def pkt (dest : BitVec 16) (kind : BitVec 4) (op : BitVec 8) (age : Nat) (mc : Bool) : Packet :=
  { dest := dest, kind := kind, mc := mc, dl := false, age := age, src := 7, op := op, xmask := false, rsv := false,
    epoch := false, tag := 0, take := 0, func := 1, scope := 0, ord := 0, auxf := 0, poison := 0, xfield := 0,
    addr := 0, masks := [], data := [] }
def pktState (vc : Nat) (k : Packet) (s : State) : State := setPort 0 { upPort with rxPkts := [(classKey vc false, [k])] } s

theorem witness_PacketsAreRouted :
    frontPkt cohState 0 0 false = none ∧
    (let s := pktState 0 (pkt 5 2 2 0 false) cohState
     frontPkt s 0 0 false = some (pkt 5 2 2 0 false) ∧ (5 : BitVec 16) = ownDev s ∧ arrivedAge s 0 (pkt 5 2 2 0 false) < 500 ∧
     vcOf 2 2 = some 0 ∧ pktRuleOk (pkt 5 2 2 0 false) = true ∧ (handlePacket 0 (pkt 5 2 2 0 false) s).1 = true ∧
     500 ≤ arrivedAge s 0 (pkt 5 2 2 700 false)) ∧
    (let k := pkt 9 1 1 0 false
     let s := setPort 1 upPort (rput .routeEntry 7 0x11 (rput .routeEntry 9 0x11 (pktState 1 k cohState)))
     frontPkt s 0 1 false = some k ∧ k.dest ≠ ownDev s ∧ min 1023 (arrivedAge (consumePkt 0 1 false s) 0 k + 3) < 500 ∧
     routeOf (consumePkt 0 1 false s) k.dest.toNat = some (1, false) ∧
     500 ≤ min 1023 (arrivedAge (consumePkt 0 1 false s) 0 k + 600)) ∧
    (let k := pkt 9 1 1 0 false
     let s := setPort 8 upPort (rput .routeEntry 9 0x18 (pktState 1 k cohState))
     frontPkt s 0 1 false = some k ∧ routeOf (consumePkt 0 1 false s) k.dest.toNat = some (8, false) ∧
     portHalf 0 ≠ halfOf 8 8) ∧
    (let k := pkt 9 1 1 0 false
     let s := setPort 1 upPort (rput .routeEntry 7 0x11 (pktState 1 k cohState))
     routeOf (consumePkt 0 1 false s) k.dest.toNat = none ∧ k.kind = 1 ∧ k.op.toNat < 0x20 ∧
     (routeOf (countLink .noRoute (consumePkt 0 1 false s)) k.src.toNat).isSome = true) ∧
    (let k := pkt 2 4 1 0 true
     let s := rput .mgroup 2 0x20002 (pktState 4 k cohState)
     frontPkt s 0 4 false = some k ∧ k.mc = true ∧ vcOf k.kind.toNat k.op.toNat = some 4 ∧ pktRuleOk k = true ∧
     (mcReplicate (some 0) { k with age := min 1023 (arrivedAge s 0 k + 1) } s).isSome = true) ∧
    (let s := { cohState with link := { cohState.link with
        mcops := [⟨7, 0, 0, 2, none, [⟨1, [], 0, false, false, false, ⟨0, 0, [], false⟩⟩], false⟩] } }
     (s.link.mcops[0]?).map (fun o => (o.branches.find? (fun y => decide (y.port = 1))).map (fun x => (x.failed, x.acked))) =
       some (some (false, false))) := by
  decide +kernel

/-- Collective entry 2 of H0 with identifier 9, function 1's, as given. -/
def collSt (c : CollSt) : State :=
  let s := rput .collId 2 0x81000009 cohState
  { s with link := { s.link with colls := [(2, c)] } }
def clap (src round : BitVec 16) (take : BitVec 8) : ClapMsg := ⟨9, take, round, 0, 0, 0, none, src⟩
def kidCfg : CollCfg := { CollCfg.init with children := [7], parent := 8, timeout := 3, delayEn := true }

theorem witness_CollectivesRun :
    (storeOk (.mp .h0) .h0 .collId (collNum .h0 2) 0x81000009 0x81000009 cohState ∧
     rbit cohState .collId (collNum .h0 2) 31 = false) ∧
    (let s := collSt { CollSt.init with st := 1 }
     storeOk (.mp .h0) .h0 .collId (collNum .h0 2) 0x01000009 0x01000009 s ∧ rbit s .collId (collNum .h0 2) 31 = true ∧
     (collAt s (collNum .h0 2)).st = 1 ∧ slateTie s (collNum .h0 2) = none) ∧
    (let s := collSt { CollSt.init with st := 1, cfg := kidCfg }
     clapEntry s (clap 7 0 0) = some 2 ∧ (collAt s 2).round = (clap 7 0 0).round.toNat ∧ (7 : BitVec 16) ∈ (collAt s 2).cfg.children ∧
     (7 : BitVec 16) ∉ (collAt s 2).gone ∧ (7 : BitVec 16) ∉ (collAt s 2).got ∧ (collAt s 2).cfg.isRed = false ∧
     (collAt s 2).cfg.isRoot = false ∧ clapEntry s (clap 8 0 0) = some 2 ∧ (clap 8 0 0).src = (collAt s 2).cfg.parent ∧
     clapEntry s (clap 7 0 1) = none) ∧
    (7 : BitVec 16) ∈ (collAt (collSt { CollSt.init with st := 1, cfg := kidCfg, got := [7] }) 2).got ∧
    (let s := collSt { CollSt.init with st := 1, cfg := kidCfg, round := 1 }
     (collAt s 2).round = ((clap 8 0 0).round.toNat + 1) % 2 ^ 16 ∧ (collAt s 2).round ≠ (clap 8 0 0).round.toNat) := by
  and_intros <;> first | exact store_of (by decide +kernel) | decide +kernel

theorem witness_CollectiveTimers :
    (let s := collSt { CollSt.init with st := 2, cfg := kidCfg, arrT := some 4 }
     (collAt s (collNum .h0 2)).st = 2 ∧ (collAt s (collNum .h0 2)).arrT = some 4 ∧ (collAt s (collNum .h0 2)).sentT = none ∧
     (collAt s 2).cfg.children.filter (fun d => !((collAt s 2).got.contains d || (collAt s 2).gone.contains d)) ≠ []) ∧
    (let s := collSt { CollSt.init with st := 2, cfg := kidCfg, arrT := some 4, sentT := some 5 }
     (collAt s (collNum .h0 2)).st = 2 ∧ (collAt s (collNum .h0 2)).sentT = some 5) ∧
    (let s := collSt { CollSt.init with st := 1, cfg := { kidCfg with isRoot := true } }
     clapEntry s (clap 7 0 0) = some 2 ∧ (collAt s 2).st = 1 ∧ (collAt s 2).cfg.isRoot = true) ∧
    (let s := setStack 0 { stackAt (collSt { CollSt.init with st := 1, cfg := kidCfg }) 0 with band := 4 }
        (collSt { CollSt.init with st := 1, cfg := kidCfg })
     (collAt s (collNum .h0 2)).cfg.delayEn = true ∧ funcStacks s (collFunc s (collNum .h0 2)) ≠ [] ∧
     (collAt s (collNum .h0 2)).cfg.timeout < 2 * delayOf s (collNum .h0 2) ∧ (collAt s (collNum .h0 2)).notices = [] ∧
     (collAt s (collNum .h0 2)).cfg.isRoot = false) ∧
    (collAt cohState (collNum .h0 2)).st ≠ 1 := by
  decide +kernel

/-! ### Witnesses: regulators, Zoram, guests, the host port, sessions -/

theorem witness_WindowsOfARegulator :
    (regulAt State.reset (128 * Half.h0.num + 3)).active = false ∧
    (let s := setRegul 3 { RegulSt.init with active := true } State.reset
     (regulAt s 3).active = true ∧ regulClass s 3 = 0 ∧ (regulAt s 3).outstanding = 0) := by
  decide +kernel

/-- Bundle 0 of the attachment at site 0 as given. -/
def bunState (x : BundleSt) : State := setBundle 64 x cohState
def siteB : BundleRef := .site 0 0
def zmsg (cls op : Nat) : ZMsg :=
  { cls := cls, op := op, tag := 0, take := 0, func := 0, scope := 0, ord := 0, epoch := false, sect := 0, auxf := 0,
    nc := false, kp := false, ga := false, state := 0, addr := 0, masks := [], inl := 0, flits := 1, data := [] }

theorem witness_ZoramFramesAndCredits :
    bundleThere cohState siteB ∧ bundleKey siteB = 64 ∧
    (let s := bunState { BundleSt.init with st := 2 }
     bundleUp (bundleAt s 64) = true ∧ (⟨0, true, []⟩ : ZFrame).num = (bundleAt s 64).rxNext ∧
     (⟨1, true, []⟩ : ZFrame).num ≠ (bundleAt s 64).rxNext ∧ (bundleAt s 64).framesSinceAck < 15 ∧
     (⟨3, true, false, []⟩ : ZLink).ackSeq + 1 ≠ (bundleAt s 64).txAcked) ∧
    (let s := bunState { BundleSt.init with st := 2, nakTimes := List.replicate 15 0 }
     15 ≤ ((bundleAt s 64).nakTimes.filter (fun t => decide (s.clock < t + us 10))).length) ∧
    (let s := bunState { BundleSt.init with st := 2, nakTimes := List.replicate 14 0 }
     (⟨0, false, true, []⟩ : ZLink).credits = [] ∧
     ((bundleAt s 64).nakTimes.filter (fun t => decide (s.clock < t + us 10))).length < 15) ∧
    (bundleAt (bunState { BundleSt.init with st := 2, rxq := [(1, [(zmsg 3 1, 0)])] }) 64).rxq.getD 1 [] = [(zmsg 3 1, 0)] ∧
    bundleUp (bundleAt cohState 64) = false := by
  refine ⟨by change hasHalf cohState _ = true; decide +kernel, ?_⟩
  decide +kernel

theorem witness_ZoramTrains :
    (State.reset.part = .mb2 ∧ farGone State.reset = false) ∧
    (let s := { State.reset with zor := { ZoramSt.init with halves := 2 } }
     s.part = .mb2 ∧ farGone s = true) ∧
    bundlesUp State.reset .h0 = State.reset.zor.upList0 ∧
    (let s := setBundle 64 { BundleSt.init with st := 2 } (setBundle 65 { BundleSt.init with st := 2 }
        (setBundle 66 { BundleSt.init with st := 3 } (setBundle 67 { BundleSt.init with st := 2 } State.reset)))
     ∀ b ∈ [0, 1, 2, 3], bundleUp (bundleAt (siteCheck 0 s) (64 + 4 * 0 + b)) = true) ∧
    (∃ crc : BitVec 32, crc32 (bytesOf 66 (0 : BitVec 528)) = crc.toNat) ∧
    crc32 (bytesOf 66 (0 : BitVec 528)) ≠ (0 : BitVec 32).toNat := by
  refine ⟨by decide +kernel, by decide +kernel, by decide +kernel, by decide +kernel,
    ⟨BitVec.ofNat 32 (crc32 (bytesOf 66 (0 : BitVec 528))), by decide +kernel⟩, by decide +kernel⟩

/-- The sideband of site 0 as given. -/
def sbState (x : SbSt) : State := setSb 8 x cohState

theorem witness_SidebandMessages :
    sbThere cohState (.site 0) ∧
    (let s := sbState { SbSt.init with stage := 3, ts1Count := 6 }
     1 ≤ (sbAt s 8).stage ∧ (sbAt s 8).stage < 4 ∧ (sbAt s 8).ts1Count < 7 ∧ (siteAt s 0).st ≠ 2) ∧
    7 ≤ (sbAt (sbState { SbSt.init with stage := 3, ts1Count := 7 }) 8).ts1Count ∧ sbKey (.site 0) = 8 ∧
    (∀ h l, SbRef.half .h1 0 = .half h l → true = decide (h = Half.h1)) ∧
    (sbAt (sbState { SbSt.init with sent := [(⟨5, []⟩, 8, 3)] }) 8).sent = [(⟨5, []⟩, 8, 3)] ∧
    (sbAt (sbState { SbSt.init with eyeRun := true }) 8).eyeRun = true ∧
    (storeOk (.mp .h0) (halfOf 2 0) .gsEyeCtl 0 0x80000000 0x80000000 cohState ∧ (sbAt cohState 8).eyeRun = false) := by
  refine ⟨by change hasHalf cohState _ = true; decide +kernel, by decide +kernel, by decide +kernel, by decide +kernel, ?_,
    by decide +kernel, by decide +kernel, store_of (by decide +kernel), by decide +kernel⟩
  intro h l e; cases e; decide

def cap0 (rates : BitVec 8) : CapRec := ⟨2, 1, 4, rates, 1, 1, 64, 3, 4, 0, 0⟩

theorem witness_CapabilitiesAreGranted :
    (let s := setSb 0 { SbSt.init with stage := 4 } cohState
     s.part = .mb2 ∧ (sbAt s (sbKey (.half .h0 0))).stage = 4) ∧
    (let s := setSite 0 { SiteSt.init with st := 1 } (sbState { SbSt.init with stage := 4 })
     (sbAt s 8).stage = 4 ∧ (siteAt s 0).st = 1 ∧
     siteOutcome (setSite 0 { siteAt s 0 with vendor := 3, product := 4, capRec := capBytes (cap0 0) } s) 0 (cap0 0) = none) ∧
    (sbAt cohState 8).stage ≠ 4 ∧
    (storeOk (.mp .h0) (halfOf 2 0) .gsCtl 0 3 3 cohState ∧
     (domAt cohState (35 * (halfOf 2 0).num + 33 + 0 % 2)).st ≠ 2 ∧ rbit cohState .gsCtl 0 0 = false) ∧
    (let s := setSite 0 { SiteSt.init with st := 2 } (rput .gsCtl 0 3 cohState)
     storeOk (.mp .h0) (halfOf 2 0) .gsCtl 0 3 3 s ∧ rbit s .gsCtl 0 0 = true ∧ (siteAt s 0).st = 2) := by
  and_intros <;> first | exact store_of (by decide +kernel) | decide +kernel

/-- Site 0 ACTIVE for function 1, of the wide firewall class. -/
def wideSite (fw : Nat) : State := setSite 0 { SiteSt.init with st := 2, fwClass := fw } (rput .gsCtl 0 3 cohState)
def cfgA : Nat := cfgAddr .h0 (regRow .devId).cls (rowOffset (regRow .devId) 0)

theorem witness_GuestsAndHalvesAreServed :
    (let s := setBundle 64 { BundleSt.init with st := 2, rxq := [(1, [(zmsg 3 1, 0)])] } (wideSite 2)
     (siteAt s 0).st = 2 ∧ (bundleAt s 64).rxq.getD 1 [] = [(zmsg 3 1, 0)] ∧ guestDone s 0 .agent = true) ∧
    (siteAt cohState 0).st ≠ 2 ∧
    (let s := withCoh { CohSt.init with snoops := [(7, ⟨0, .site 0, 0x31, 9, 4, false⟩)] } (wideSite 2)
     (s.coh.snoops.filter (fun e => decide (e.2.holder = .site (Fin.ofNat 4 0)))).map (fun e => e.2.t) = [4]) ∧
    (let s := { cohState with zor := { cohState.zor with halves := 1, xWaits := [(5, .desc 3 0)] } }
     s.part = .mb2 ∧ s.zor.halves = 1 ∧ s.zor.xWaits.find? (4096 * Half.h0.num + 5) = some (.desc 3 0) ∧
     s.zor.xWaits.find? (4096 * Half.h0.num + 6) = none ∧ zHeard s (.half .h1) = true ∧
     (zWriter s (.half .h1) 0).2 = some (.func 0) ∧ cfgA % 4 = 0 ∧
     cfgDenied s (.func 0) (cfgSpot s (.func 0) cfgA) = none) ∧
    (let s := rput .cueOwner 4 17 (wideSite 2)
     (1 : Nat) = siteFunc s 0 ∧ (siteAt s 0).fwClass = 2 ∧ malformed 4 = false ∧ cueFunc s (cueNum 4) = some 1) ∧
    halfOf 8 9 ≠ .h0 ∧ hasHalf cohState .h1 = true := by
  decide +kernel

/-- The host link up. -/
def netState : State :=
  { cohState with host := { HostSt.init with link := 1 }
                  pwr := { cohState.pwr with doms := [(31, { DomSt.init with st := 1 })] } }
def frame (fcs tagged : Bool) (dest : BitVec 48) (b : EthBody) : EthFrame := ⟨fcs, dest, 0, tagged, b⟩

theorem witness_HostLinkAndFrames :
    cohState.host.link ≠ 1 ∧ cohState.host.link = 0 ∧ netState.host.link = 1 ∧ netState.host.held = [] ∧
    rbit (rput .hpNet 0 (2 ^ 26) netState) .hpNet 0 26 = true ∧ rbit netState .hpNet 0 26 = false ∧
    takesMac (rput .macLo 0 2 netState) 1 = false ∧ takesMac (rput .macLo 0 2 netState) 0xFFFFFFFFFFFF = true ∧ f0Open netState = false ∧
    (let s := { netState with host := HostSt.init, pins := { netState.pins with modPresentN := false } }
     s.host.link ≠ 1 ∧ s.pins.modPresentN = false ∧ (s.pwr.doms.getD 31 DomSt.init).st = 1) := by
  decide +kernel

/-- Queue pair 2 of function 1 in state `st`, and a key 1 to that function's memory with permissions `p`. -/
def qpState (st p : Nat) : State :=
  let s := rput .mkCtl 1 (1 + 16 + p) (rput .mkBaseLo 1 0x40000000 (rput .mkLenLo 1 0x1000 (rput .qpOwner 2 0x11 netState)))
  setQp 2 { QpSt.init with st := st } s
def bth (ok : Bool) (psn : BitVec 24) : Bth := ⟨2, psn, ok, false⟩

theorem witness_RdmaRequestsAreServed :
    (let s := qpState 3 0xE0
     s.host.link = 1 ∧ (bth true 0).icrcOk = true ∧ qpNamed s 2 = some 2 ∧ (qpAt s 2).st = 3 ∧
     psnFrom 0 (rget (notice (bth true 0) 2 s) .qpRqPsn 2) = 0 ∧
     keyOk (notice (bth true 0) 2 s) 2 1 6 0x40000000 1 = true ∧ keyOk (notice (bth true 0) 2 s) 2 1 5 0x40000000 8 = true ∧
     keyOk (notice (bth true 0) 2 s) 2 1 7 0x40000000 8 = true ∧
     (match hostPut (.host (Fin.ofNat 16 ((qpFunc (notice (bth true 0) 2 s) 2).getD 0))) 2 0x40000000 [5] (notice (bth true 0) 2 s) with
      | (.ok, _) => true
      | _ => false) = true ∧
     ((hostGet (.host (Fin.ofNat 16 ((qpFunc (notice (bth true 0) 2 s) 2).getD 0))) (0x40000000 + 8) 2 0x40000000 []
       (notice (bth true 0) 2 s)).1.map (fun r => (r.1.length, r.2)) = some (8, false, false)) ∧
     engFenced (notice (bth true 0) 2 s) (.host (Fin.ofNat 16 ((qpFunc (notice (bth true 0) 2 s) 2).getD 0))) 0x40000000 = false ∧
     (match locOf (notice (bth true 0) 2 s) 0x40000000 with
      | some l => (ownReady (.host 1) none .write l.sl l.line (notice (bth true 0) 2 s)).1 &&
         (match atomicAt l.sl l.line (.host 1) 1 ⟨.fetchAdd, .int64, 1, 0⟩ 0 (ownReady (.host 1) none .write l.sl l.line (notice (bth true 0) 2 s)).2 with
          | some (some _, _) => true
          | _ => false)
      | none => false) = true) ∧
    (let s := qpState 3 0
     qpNamed s 2 = some 2 ∧ keyOk (notice (bth true 0) 2 s) 2 1 6 0x40000000 1 = false ∧
     keyFits (notice (bth true 0) 2 s) 2 1 6 0x40000000 1 = false ∧
     keyFits (notice (bth true 0) 2 (rput .mkBaseLo 1 0x90000000 (qpState 3 0xE0))) 2 1 6 0x90000000 1 = true ∧
     keyOk (notice (bth true 0) 2 (rput .mkBaseLo 1 0x90000000 (qpState 3 0xE0))) 2 1 6 0x90000000 1 = false ∧
     psnFrom (bth true 3).psn.toNat (rget (notice (bth true 3) 2 s) .qpRqPsn 2) ≠ 0 ∧
     psnFrom (bth true 3).psn.toNat (rget (notice (bth true 3) 2 s) .qpRqPsn 2) < 2 ^ 23) ∧
    (bth false 0).icrcOk = false ∧ qpNamed netState 2 = none := by
  decide +kernel

def sentPkt : QpPkt := ⟨4, 1, false, 0, 0, 1, [0], 3, 0, 0, 0, 0⟩

theorem witness_RdmaResponsesMoveTheQueuePair :
    (let s := setQp 2 { QpSt.init with st := 3, sent := [sentPkt] } (rput .qpPath 2 0 (qpState 3 0))
     qpNamed s 2 = some 2 ∧ (qpAt s 2).st = 3 ∧ (qpAt s 2).sent ≠ [] ∧ (qpAt (qpAck 2 (psnFrom 4 1) s) 2).sent ≠ [] ∧
     rbits (qpAck 2 (psnFrom 4 1) s) .qpPath 2 8 6 ≤ (qpAt (qpAck 2 (psnFrom 4 1) s) 2).rnrs + 1) ∧
    (let s := qpState 3 0
     (qpAt (qpAck 2 (psnFrom 4 1) s) 2).sent = [] ∧ (qpAt s 2).sent = [] ∧ 65536 ≤ (qpAt s 2).rate) ∧
    qpNamed netState 3 = none ∧ (qpAt (setQp 2 { QpSt.init with rate := 4096 } netState) 2).rate < 65536 := by
  decide +kernel

/-- Session 0 as given, the host link up. -/
def sesState (x : SesSt) : State := setSes 0 x netState
def gram (ty : BitVec 8) (seq : BitVec 32) (p : List (BitVec 8)) : CtGram :=
  ⟨0, seq, 0, 0, ty, 1, 0x4D43, BitVec.ofNat 16 p.length, p⟩
def ses0 : SesSt := { SesSt.init with st := 1, c := 4, e := 6 }
/-- One entry of code 1 and index 0. -/
def entry1 : List (BitVec 8) := natLe 2 1 ++ List.replicate 126 0

/-- An OPEN whose check is the one that its function's key gives. -/
theorem openOk_of {s : State} {f : Fin 16} {n : BitVec 128} {c e : Nat} {k : List Byte} (h : tkey s f.val = some k) :
    openOk s ⟨f, n, c, e, ofBytes 128 (shake 16 (k ++ natLe 16 n.toNat))⟩ = true := by
  simp [openOk, h]

theorem witness_SessionsCarryCommands :
    (let s := { netState with ident := { netState.ident with active := List.replicate 0x88 0 ++ [2, 0] ++ List.replicate 768 0 } }
     (∃ o : OpenReq, o.func.val = 1 ∧ openOk s o = true) ∧ (freeSession s 1).isSome = true) ∧
    (openOk netState ⟨1, 0, 4, 6, 0⟩ = false ∧ openOk netState ⟨0, 0, 4, 6, 0⟩ = true) ∧
    freeSession (forEach [0, 1, 2, 3, 4, 5, 6, 7] (fun n s => setSes n ses0 s) netState) 0 = none ∧
    ((ctTake 0x10 (gram 0x10 1 []) (sesState ses0)).1 = some 0 ∧
     (1 : BitVec 32) = (sesAt (ctTake 0x10 (gram 0x10 1 []) (sesState ses0)).2 0).rxSeq + 1 ∧
     (ctTake 0x10 (gram 0x10 0 []) (sesState ses0)).1 = some 0 ∧
     (0 : BitVec 32) ≠ (sesAt (ctTake 0x10 (gram 0x10 0 []) (sesState ses0)).2 0).rxSeq + 1 ∧
     (ctTake 0x10 (gram 0x10 0 []) netState).1 = none ∧ (ctTake 0x20 (gram 0x20 0 []) (sesState ses0)).1 = some 0 ∧
     (ctTake 0x05 (gram 0x05 0 []) (sesState ses0)).1 = some 0) ∧
    (let g := gram 0x10 1 entry1
     let l := chunks 128 (g.payload.length / 128) g.payload
     (ctTake 0x10 g (sesState ses0)).1 = some 0 ∧ g.payload.length % 128 = 0 ∧ l.length = 1 ∧
     entriesOk (sesAt (ctTake 0x10 g (sesState ses0)).2 0).nextIndex l = true ∧
     l.length ≤ freeSlots (sesAt (ctTake 0x10 g (sesState ses0)).2 0)) ∧
    (let x := { ses0 with unacked := [⟨1, 1, [], 0⟩], resends := 8 }
     (sesAt (sesState x) 0).st = 1 ∧ (sesAt (sesState x) 0).unacked ≠ [] ∧ 8 ≤ (sesAt (sesState x) 0).resends) ∧
    (sesAt (sesState { ses0 with st := 2 }) 0).st = 2 ∧
    (let x := { ses0 with cmds := [⟨3, entry1, 0, false, false, none⟩] }
     (sesAt (sesState x) 0).cmds.find? (fun y => decide (y.index = 3)) = some ⟨3, entry1, 0, false, false, none⟩) ∧
    (storeOk (.mp .h0) .h0 .sesCmdDb 0 20 20 (sesState ses0) ∧ (sesAt (sesState ses0) 0).isLocal = false) ∧
    (let s := sesState { ses0 with isLocal := true }
     storeOk (.mp .h0) .h0 .sesCmdDb 0 20 20 s ∧ (sesAt s 0).st ≠ 0 ∧ (sesAt s 0).isLocal = true ∧
     freeSlots (sesAt s 0) < (20 + 2 ^ 32 - (sesAt s 0).nextIndex.toNat) % 2 ^ 32 ∧
     storeOk (.mp .h0) .h0 .sesCplHead 0 2 2 s) := by
  and_intros
  · exact ⟨_, rfl, openOk_of (f := 1) (n := 0) (c := 4) (e := 6) (k := slice (0x90 + 32 * 1) 32
      (List.replicate 0x88 0 ++ [2, 0] ++ List.replicate 768 0)) (by decide +kernel)⟩
  all_goals first | exact store_of (by decide +kernel) | decide +kernel

/-! ### Witnesses: Cadun's commands -/

/-- The stacks of H0 trained, and a partition 5 of function `f` with segments 1 and 3. -/
def partState (f : Nat) : State :=
  let s := rput .partCfg 5 (0x30 + f) (rput .segMap 3 (segValue 2 2 .h0 5) (memState [128, 129, 130, 131]))
  forEach (List.range 8) (fun k s => setStack k { StackSt.init with trained := true } s) s
/-- The same with function 1 ACTIVE and a command. -/
def cmdPart (started : Bool) (op : Nat) (args : List (BitVec 8)) (f : Nat) : State :=
  cmdOn started op args (setFunc 1 { FuncSt.init with st := 1 } (partState f))
/-- The bytes of numbers, each of `n` bytes. -/
def argsOf (l : List (Nat × Nat)) : List (BitVec 8) := l.flatMap (fun x => natLe x.1 x.2)
/-- The state with the command in progress. -/
def goes (s : State) : State := startCmd 0 0 s

theorem witness_CadunTakesCommandsInTurn :
    State.reset.cad.mp0.st ≠ 1 ∧ (sesAt State.reset 0).cmds.find? (fun x => decide (x.index = 0)) = none ∧
    (match (sesAt (cmdState 0x01 []) 0).cmds.find? (fun x => decide (x.index = 0)) with
     | some d => decide (entOp d.entry ≠ 0x02)
     | none => false) = true ∧
    (let s := cmdState 0x90 [1]
     match (sesAt s 0).cmds.find? (fun x => decide (x.index = 0)) with
     | some d => decide (entOp d.entry = 0x90) && !d.started && mayStart s 0 d
     | none => false) = true ∧
    (let s := cmdState 0x20 [2]
     match (sesAt s 0).cmds.find? (fun x => decide (x.index = 0)) with
     | some d => decide (entOp d.entry = 0x20) && decide (d.due = none) && decide (s.cad.mp0.st = 1) && !d.started &&
        mayStart s 0 d && decide (preCheck s (sesAt s 0).func d.entry ≠ csOk)
     | none => false) = true := by
  decide +kernel

theorem witness_FunctionCommands :
    (let s := cmdOn false 0x10 [1] State.reset
     cmdTaken 0x10 cmdRef (cmdIn s) s (goes s) ∧ (goes s).ident.refused = false ∧ (funcAt (goes s) ((cmdIn s).b 0)).st = 0) ∧
    (let s := cmdState 0x10 [1]
     cmdTaken 0x10 cmdRef (cmdIn s) s (goes s) ∧ (funcAt (goes s) ((cmdIn s).b 0)).st ≠ 0) ∧
    (∀ n ∈ [1, 2, 3], let s := cmdOn false 0x12 [1] (setFunc 1 { FuncSt.init with st := n } State.reset)
     cmdB 0x12 s = true ∧ (cmdIn s).first = true ∧ (funcAt (goes s) ((cmdIn s).b 0)).st = n) ∧
    (let s := cmdOn true 0x11 [1] (setFunc 1 { FuncSt.init with st := 3 } State.reset)
     cmdTaken 0x11 cmdRef (cmdIn s) s (goes s) ∧ (cmdIn s).first = false ∧ (funcAt (goes s) ((cmdIn s).b 0)).st = 3 ∧
     (releaseParts ((cmdIn s).b 0) (goes s)).1 = true) ∧
    (let s := cmdOn true 0x11 [1] (setFunc 1 { FuncSt.init with st := 2 } State.reset)
     cmdTaken 0x11 cmdRef (cmdIn s) s (goes s) ∧ (funcAt (goes s) ((cmdIn s).b 0)).st ≠ 3) ∧
    (let s := cmdState 0x13 [1]
     cmdTaken 0x13 cmdRef (cmdIn s) s (goes s)) ∧
    (takeSt { State.reset with takes := [(takeKey (.qp 5), ⟨255, some 7, true⟩)] } (takeKey (.qp 5))).due = true := by
  and_intros <;> first | exact cmd_of (by decide +kernel) | decide +kernel

theorem witness_ClusterAndPartitionCommands :
    (let s := { cmdState 0x20 [1, 0, 0, 0, 1] with fab := (arrState Ctx.init).fab }
     cmdTaken 0x20 cmdRef (cmdIn s) s (goes s) ∧ clusterArgs (cmdIn s) (goes s) = csOk ∧
     (∀ n ∈ clusterList ((cmdIn s).b 1) ((cmdIn s).n 4 4), hasLogical (goes s) (halfOf 18 n) (n % 18) = true ∧
       regStopped (goes s) .clusterOwner n = true ∧
       (clusterFunc (goes s) (halfOf 18 n) (n % 18) = none ∨ clusterFunc (goes s) (halfOf 18 n) (n % 18) = some ((cmdIn s).b 0)))) ∧
    (let s := rput .clusterOwner 0 18 (cmdState 0x20 [1, 0, 0, 0, 1])
     cmdTaken 0x20 cmdRef (cmdIn s) s (goes s) ∧
     (∃ n ∈ clusterList ((cmdIn s).b 1) ((cmdIn s).n 4 4), clusterFunc (goes s) (halfOf 18 n) (n % 18) = some 2)) ∧
    (let s := rput .clusterOwner 0 17 (cmdState 0x21 [1, 0, 0, 0, 1])
     cmdTaken 0x21 cmdRef (cmdIn s) s (goes s) ∧ clusterArgs (cmdIn s) (goes s) = csOk ∧
     (∀ n ∈ clusterList ((cmdIn s).b 1) ((cmdIn s).n 4 4), clusterFunc (goes s) (halfOf 18 n) (n % 18) = some ((cmdIn s).b 0) ∧
       regStopped (goes s) .clusterOwner n = true)) ∧
    (let s := cmdState 0x21 [1, 0, 0, 0, 1]
     cmdTaken 0x21 cmdRef (cmdIn s) s (goes s) ∧
     (∃ n ∈ clusterList ((cmdIn s).b 1) ((cmdIn s).n 4 4), clusterFunc (goes s) (halfOf 18 n) (n % 18) ≠ some ((cmdIn s).b 0))) ∧
    (let s := cmdPart false 0x30 [1, 2, 0, 0, 1] 1
     let c := cmdIn s
     let t := goes s
     cmdTaken 0x30 cmdRef c s t ∧ c.b 1 = 2 ∧ 0 < c.n 4 4 ∧ c.n 4 4 ≤ segCount t ∧ halfCheck t (c.b 2) = csOk ∧
     t.ident.refused = false ∧ halfOpen t (Half.ofBit (c.b 2)) = true ∧ freeRun t (c.n 4 4) = some 0 ∧ freePart t = some 0 ∧
     (mapSegs 2 (Half.ofBit (c.b 2)) 0 ((List.range (c.n 4 4)).map (fun k => 0 + k)) t).isSome = true) ∧
    (let s := cmdPart false 0x31 [5, 0, 0, 0, 1] 1
     let c := cmdIn s
     let t := goes s
     cmdTaken 0x31 cmdRef c s t ∧ 0 < c.n 4 4 ∧ c.n 4 4 < (partSegs t (c.b 0)).length ∧ c.n 4 4 ≤ segCount t ∧
     partCheck t (c.b 0) = csOk ∧ keptPart t (c.b 0) = false ∧
     (releaseSegs ((partSegs t (c.b 0)).drop (c.n 4 4)) t).1 = true) ∧
    (let s := cmdPart false 0x32 [5] 1
     let c := cmdIn s
     let t := goes s
     cmdTaken 0x32 cmdRef c s t ∧ partCheck t (c.b 0) = csOk ∧ keptPart t (c.b 0) = false ∧ (releasePartition (c.b 0) t).1 = true) ∧
    (let s := rput .partCfg 63 0x30 (cmdPart false 0x32 [63] 1)
     let c := cmdIn s
     let t := goes s
     cmdTaken 0x32 cmdRef c s t ∧ partCheck t (c.b 0) = csOk ∧ keptPart t (c.b 0) = true) ∧
    (let s := rput .partCfg 6 0x31 (rput .segMap 9 (segValue 4 1 .h0 6) (cmdPart false 0x33 [6, 0, 2, 0, 4, 0] 1))
     let c := cmdIn s
     let t := goes s
     cmdTaken 0x33 cmdRef c s t ∧ partCheck t (c.b 0) = csOk ∧ halfCheck t (c.b 1) = csOk ∧ c.n 2 2 &&& c.n 4 2 = 0 ∧
     partNear t (c.b 0) = none ∧ (∀ n ∈ waysNamed t c, rbit t .wayMap n 6 = false ∨ rbits t .wayMap n 5 0 = c.b 0) ∧
     (emptyWays (Half.ofBit (c.b 1)) ((waysChanged t c).foldl (fun m n => m + 2 ^ (n % 16)) 0)
       (forEach (waysChanged t c) (fun n s => holdWay n true s) (when c.first (noteHolds (cmdKey c.ses c.idx)
         ((waysChanged t c).filter (fun n => !rbit t .wayMap n 9))) t))).1 = true) ∧
    (let s := cmdPart false 0x34 [5, 1] 1
     let c := cmdIn s
     let t := goes s
     cmdTaken 0x34 cmdRef c s t ∧ c.b 1 < 4 ∧ partCheck t (c.b 0) = csOk ∧
     (∀ g ∈ partSegs t (c.b 0), segOutOfService t g = false) ∧ (slateAt t ((partFunc t (c.b 0)).getD 0)).st = .idle ∧
     (let l := partSegs t (c.b 0)
      let held := forEach l (fun g s => holdSeg g true s) (when c.first (noteHolds (cmdKey c.ses c.idx)
        (l.filter (fun g => !rbit t .segMap g 14))) t)
      (l.filter (fun g => decide (rget held .segExport g &&& (3 - c.b 1) ≠ 0))).foldl (fun (r : Bool × State) g =>
        match recallSeg g r.2 with
        | (ok, s) => (r.1 && ok, s)) (true, held)).1 = true) := by
  and_intros <;> first | exact cmd_of (by decide +kernel) | decide +kernel

theorem witness_AllocationCommands :
    (let s := cmdState 0x40 [1, 0, 2, 0]
     let c := cmdIn s
     let t := goes s
     cmdTaken 0x40 cmdRef c s t ∧ halfCheck t (c.b 1) = csOk ∧ 0 < c.n 2 2 ∧ c.n 2 2 ≤ 4096 ∧
     lowestRun (fun n => (cueFunc t n).isNone) (4096 * c.b 1) 4096 (c.n 2 2) = some 0) ∧
    (let s := cmdState 0x42 [1, 0, 2, 0]
     let c := cmdIn s
     let t := goes s
     cmdTaken 0x42 cmdRef c s t ∧ halfCheck t (c.b 1) = csOk ∧ 0 < c.n 2 2 ∧ c.n 2 2 ≤ 256 ∧
     lowestRun (fun n => (queueFunc t n).isNone) (256 * c.b 1) 256 (c.n 2 2) = some 0) ∧
    (let s := rput .dqOwner 128 17 (cmdState 0x42 [1, 0, 0xC0, 0])
     let c := cmdIn s
     let t := goes s
     cmdTaken 0x42 cmdRef c s t ∧ lowestRun (fun n => (queueFunc t n).isNone) (256 * c.b 1) 256 (c.n 2 2) = none) ∧
    (let s := cmdState 0x50 [1, 0, 2, 0]
     let c := cmdIn s
     let t := goes s
     cmdTaken 0x50 cmdRef c s t ∧ 0 < c.n 2 2 ∧ c.n 2 2 ≤ 4096 ∧ lowestRun (fun n => (qpFunc t n).isNone) 0 4096 (c.n 2 2) = some 0) ∧
    (let s := rput .cueOwner 7 17 (cmdState 0x41 [7, 0, 1, 0])
     let c := cmdIn s
     let t := goes s
     cmdTaken 0x41 cmdRef c s t ∧ freeCheck t (c.n 0 2) (c.n 2 2) (4096 * numHalves t) 4096 (cueFunc t) = csOk) ∧
    (let s := rput .dqOwner 7 17 (cmdState 0x43 [7, 0, 1, 0])
     let c := cmdIn s
     let t := goes s
     cmdTaken 0x43 cmdRef c s t ∧ freeCheck t (c.n 0 2) (c.n 2 2) (256 * numHalves t) 256 (queueFunc t) = csOk ∧
     (∀ n ∈ runList (c.n 0 2) (c.n 2 2), regStopped t .dqOwner n = true)) ∧
    (let s := rput .qpOwner 7 17 (cmdState 0x52 [7, 0, 1, 0])
     let c := cmdIn s
     let t := goes s
     cmdTaken 0x52 cmdRef c s t ∧ freeCheck t (c.n 0 2) (c.n 2 2) 4096 4096 (qpFunc t) = csOk ∧
     (∀ n ∈ runList (c.n 0 2) (c.n 2 2), (qpAt t n).st = 0)) ∧
    (let s := cmdState 0x44 [1, 1]
     let c := cmdIn s
     let t := goes s
     cmdTaken 0x44 cmdRef c s t ∧ halfCheck t (c.b 1) = csOk ∧
     lowestRun (fun q => (regulFunc t q).isNone) (128 * c.b 1) 128 1 = some 128) ∧
    (let s := rput .regOwner 7 17 (cmdState 0x45 [7])
     let c := cmdIn s
     let t := goes s
     cmdTaken 0x45 cmdRef c s t ∧ regulCheck t (c.b 0) = csOk) ∧
    (let s := rput .regOwner 7 17 (cmdState 0x46 [7, 0, 1, 5, 10])
     let c := cmdIn s
     let t := goes s
     cmdTaken 0x46 cmdRef c s t ∧ c.b 1 = 0 ∧ c.b 2 < 8 ∧ c.b 2 ≠ 2 ∧ c.b 2 ≠ 3 ∧ c.b 3 < 64 ∧ c.n 4 2 < 1024 ∧
     c.n 12 2 < 1024 ∧ c.b 15 = 0 ∧ regulCheck t (c.b 0) = csOk ∧
     (setGuarantee (c.b 0) ⟨0, c.b 2, 0, c.b 3, c.n 8 4, min 1000 (max 1 (c.n 4 2))⟩ (c.n 12 2) (c.b 14) t).isSome = true) ∧
    (let s := rput .qpOwner 7 17 (cmdState 0x51 ([7, 0, 1] ++ List.replicate 29 0 ++ [1]))
     let c := cmdIn s
     let t := goes s
     cmdTaken 0x51 cmdRef c s t ∧ c.n 0 2 < 4096 ∧ c.b 2 < 5 ∧ qpArgsOk c (qpAt t (c.n 0 2)).st = true ∧
     (qpFunc t (c.n 0 2)).isSome = true ∧ qpMoveOk (qpAt t (c.n 0 2)).st (c.b 2) = true ∧ qpMoveOk (qpAt t (c.n 0 2)).st 3 = false) ∧
    (let s := cmdPart false 0x53 (argsOf [(1, 0), (1, 7), (6, 0), (8, 0x40000000), (8, 128)]) 0
     let c := cmdIn s
     let t := goes s
     cmdTaken 0x53 cmdRef c s t ∧ c.b 1 < 8 ∧ c.n 16 8 ≠ 0 ∧ dpaOk t c (c.n 8 8) (c.n 16 8) = true ∧
     lowestRun (fun k => (keyOwner t k).isNone) 0 1024 1 = some 0) ∧
    (let s := rput .mkCtl 3 17 (cmdState 0x54 [3])
     let c := cmdIn s
     let t := goes s
     cmdTaken 0x54 cmdRef c s t ∧ (keyOwner t (c.n 0 4 % 1024)).isSome = true ∧
     curTake t (mkTakeKey (c.n 0 4 % 1024)) = some (natBits 17 10 (c.n 0 4)) ∧
     rbits t .mkCtl (c.n 0 4 % 1024) 29 16 = natBits 31 18 (c.n 0 4)) ∧
    (let s := cmdState 0x54 [3, 4]
     let c := cmdIn s
     let t := goes s
     cmdTaken 0x54 cmdRef c s t ∧ curTake t (mkTakeKey (c.n 0 4 % 1024)) ≠ some (natBits 17 10 (c.n 0 4))) ∧
    (let s := cmdState 0x58 [1, 4, 6]
     let c := cmdIn s
     let t := goes s
     cmdTaken 0x58 cmdRef c s t ∧ 4 ≤ c.b 1 ∧ c.b 1 ≤ 10 ∧ 6 ≤ c.b 2 ∧ c.b 2 ≤ 12 ∧ c.n 4 4 = 0 ∧ freeSession t (c.b 0) = some 1) ∧
    (let s := cmdState 0x59 [9]
     let c := cmdIn s
     let t := goes s
     cmdTaken 0x59 cmdRef c s t ∧ c.b 0 < 64 ∧ (sesAt t (c.b 0)).st = 0) := by
  and_intros <;> first | exact cmd_of (by decide +kernel) | decide +kernel

/-- The sector at a DPA holds `d`. -/
def poke (a : Nat) (d : Sec256) (s : State) : State :=
  match locOf s a with
  | some l => rawWrite (chanOf l.sl l.line) (sectorIndex l.line l.sec) d 0 s
  | none => s

/-- Partition 6 of F0 has a segment of H0 alone, collective 2 is named 9 and open, and the list of devices in memory names
this one, 5; SLATE_ARM of partition 5 with preserve partition 6. -/
def armState : State :=
  let s := cmdPart false 0x70 (argsOf [(1, 0), (1, 0), (2, 4), (2, 6), (2, 9), (8, 32), (8, 1), (8, 0x40000000)]) 0
  let s := rput .collId 2 0x80000009 (rput .partCfg 6 0x30 (rput .segMap 9 (segValue 4 1 .h0 6) s))
  poke 0x40000000 5 { s with ident := { s.ident with devId := 5, idValid := true }
                             link := { s.link with colls := [(2, { CollSt.init with st := 1 })] } }

theorem witness_GroupGuestAndStackCommands :
    (let s := cmdPart false 0x60 (argsOf [(2, 1), (2, 3), (4, 0), (8, 0x40000000)]) 0
     let c := cmdIn s
     let t := goes s
     cmdTaken 0x60 cmdRef c s t ∧ c.n 0 2 < 4096 ∧ c.n 2 2 ≤ 4096 ∧ dpaOk t c (c.n 8 8) (2 * c.n 2 2) = true ∧
     groupOpen t = false ∧ (engBytes (.mp .h0) (c.n 8 8) (2 * c.n 2 2) t).1.map (fun r => (r.1.length, r.2)) = some (6, false)) ∧
    (let s := rput .groupCfg 0 0x80000000 (cmdPart false 0x60 (argsOf [(2, 1), (2, 3), (4, 0), (8, 0x40000000)]) 0)
     let c := cmdIn s
     let t := goes s
     cmdTaken 0x60 cmdRef c s t ∧ groupOpen t = true) ∧
    (let s := cmdState 0x61 []
     cmdTaken 0x61 cmdRef (cmdIn s) s (goes s) ∧ dpaOk (goes s) (cmdIn s) ((cmdIn s).n 8 8) (4 * 65536) = false) ∧
    (let s := cmdPart false 0x61 (argsOf [(8, 0), (8, 0x40000000)]) 0
     cmdTaken 0x61 cmdRef (cmdIn s) s (goes s) ∧ dpaOk (goes s) (cmdIn s) ((cmdIn s).n 8 8) (4 * 65536) = true) ∧
    (let s := cmdState 0x70 []
     let c := cmdIn s
     cmdTaken 0x70 cmdRef c s (goes s) ∧ c.n 16 2 = 0) ∧
    (let c := cmdIn armState
     let t := goes armState
     let r := engBytes (.mp .h0) (c.n 24 8) (2 * c.n 16 2) t
     cmdTaken 0x70 cmdRef c armState t ∧ 0 < c.n 16 2 ∧ c.n 16 2 ≤ 4096 ∧ collNamed t (c.n 6 2) = some 2 ∧
     collFunc t 2 = c.b 0 ∧ dpaOk t c (c.n 24 8) (2 * c.n 16 2) = true ∧
     slateParts t (c.b 0) (c.b 4) (maskList 64 (c.n 8 8)) = csOk ∧
     (slateAt t (c.b 0)).st ∉ [.armed, .pointed, .streaming] ∧ r.1 = some (natLe 2 5, false) ∧
     ((chunks 2 (c.n 16 2) (natLe 2 5)).map leNat).findIdx? (fun d => decide (d = (ownDev r.2).toNat)) = some 0 ∧
     (exportedTo r.2 (maskList 64 (c.n 8 8))).all (fun d => ((chunks 2 (c.n 16 2) (natLe 2 5)).map leNat).contains d) = true ∧
     slateEntry r.2 (c.b 0) (c.n 2 2) = some 0) ∧
    (let s := cmdState 0x71 [1]
     let c := cmdIn s
     cmdTaken 0x71 cmdRef c s (goes s) ∧ (slateAt (goes s) (c.b 0)).st = .idle) ∧
    (let s := cmdState 0x80 [0, 1]
     let c := cmdIn s
     let t := goes s
     cmdTaken 0x80 cmdRef c s t ∧ c.b 2 < 4 ∧ c.b 3 < 2 ∧ c.b 4 < 8 ∧ siteHalfCheck t (c.b 0) = csOk ∧ c.first = true ∧
     (siteAt t (c.b 0)).st = 0) ∧
    (let s := cmdOn true 0x80 [0, 1] (setFunc 1 { FuncSt.init with st := 1 } (setSite 0 { SiteSt.init with st := 2 } State.reset))
     let c := cmdIn s
     let t := goes s
     cmdTaken 0x80 cmdRef c s t ∧ c.first = false ∧ (siteAt t (c.b 0)).st = 2) ∧
    (let s := cmdState 0x81 [0]
     let c := cmdIn s
     let t := goes s
     cmdTaken 0x81 cmdRef c s t ∧ siteHalfCheck t (c.b 0) = csOk) ∧
    (let s := cmdState 0x82 []
     let c := cmdIn s
     let t := goes s
     cmdTaken 0x82 cmdRef c s t ∧ t.part = .mb2 ∧ c.first = true ∧ farGone t = false ∧
     (∀ f ∈ List.range 16, (funcAt (fenceH1 3 t) f).st ≠ 2)) ∧
    (let s := { cmdState 0x82 [] with part := .mb1 }
     cmdTaken 0x82 cmdRef (cmdIn s) s (goes s) ∧ (goes s).part = .mb1) ∧
    (let s := cmdState 0x83 []
     let t := goes s
     cmdTaken 0x83 cmdRef (cmdIn s) s t ∧ t.part = .mb2 ∧ t.zor.halves ≠ 2) ∧
    (let s0 := cmdState 0x83 []
     let s := { s0 with zor := { s0.zor with halves := 2 } }
     let t := goes s
     cmdTaken 0x83 cmdRef (cmdIn s) s t ∧ t.part = .mb2 ∧ t.zor.halves = 2) ∧
    (let s := forEach (List.range 8) (fun k s => setStack k { StackSt.init with trained := true } s) (cmdState 0x84 [5, 1])
     let c := cmdIn s
     let t := goes s
     cmdTaken 0x84 cmdRef c s t ∧ c.b 0 < 16 ∧ c.b 1 = 1 ∧ halfCheck t (c.b 0 / 8) = csOk ∧ stackOut t (c.b 0) = false ∧
     (deg t (halfOfStack (c.b 0))).subValid = false ∧ (∀ p ∈ List.range 64, partOnStack t p (c.b 0) = false) ∧
     (maintFence (c.b 0) t).1 = true) ∧
    (let s := cmdPart false 0x85 (argsOf [(8, 0), (8, 0x40000000), (4, 5)]) 0
     let c := cmdIn s
     let t := goes s
     let w := (t.mem.retired.drop (c.n 0 4)).take (c.n 16 4)
     cmdTaken 0x85 cmdRef c s t ∧ dpaOk t c (c.n 8 8) (16 * w.length) = true ∧
     (engPut (.mp .h0) (c.n 8 8) (w.flatMap (retiredEntry t)) false t).1 = true) := by
  and_intros <;> first | exact cmd_of (by decide +kernel) | decide +kernel

/-- A settings record without options: its magic number, its version and its sequence number 5, then its CRC. -/
def recHead : Sec256 := BitVec.ofNat 256 (0x54534E4D + 2 ^ 32 + 5 * 2 ^ 64)
def recCrc : Sec256 := BitVec.ofNat 256 (crc32 (natLe 764 recHead.toNat) * 2 ^ 224)
def fwImg : FwImage := { formatOk := true, parts := 2, svn := 0, version := 3, digest := 0, sigOk := true }

/-- That record in memory, and `SETTINGS_STORE` of it. -/
def storeState : State :=
  poke 0x40000000 recHead (poke 0x400002E0 recCrc (cmdPart false 0xA0 (argsOf [(8, 0), (8, 0x40000000), (4, 768)]) 0))
def recBytes : List Byte := natLe 32 recHead.toNat ++ zeros (768 - 64) ++ natLe 32 recCrc.toNat
def storeRead : Option (List Byte × Bool) × State := engBytes (.mp .h0) 0x40000000 768 (goes storeState)

set_option maxRecDepth 100000 in
theorem storeRead_bytes : storeRead.1 = some (recBytes, false) := by decide +kernel
set_option maxRecDepth 100000 in
theorem recBytes_form : recForm 768 recBytes = true := by decide +kernel

theorem witness_DeviceCommands_settings :
    cmdTaken 0xA0 cmdRef (cmdIn storeState) storeState (goes storeState) ∧ (cmdIn storeState).n 16 4 = recLen ∧
    (cmdIn storeState).n 8 8 = 0x40000000 ∧ dpaOk (goes storeState) (cmdIn storeState) 0x40000000 768 = true ∧
    storeRead.1 = some (recBytes, false) ∧ recForm 768 recBytes = true ∧ storeRead.2.ident.setSeq < word4 recBytes 8 ∧
    recSignedOk storeRead.2 recBytes = true ∧ storeRead.2.cad.lastStoreT = none ∧
    storeRead.2.ident.storeCount < 1900000 := by
  refine ⟨cmd_of (by decide +kernel), ?_, ?_, ?_, storeRead_bytes, recBytes_form, ?_⟩ <;> decide +kernel

theorem witness_DeviceCommands :
    (let s := cmdState 0x01 []
     cmdTaken 0x01 cmdRef (cmdIn s) s (goes s)) ∧
    (let s := cmdState 0x02 [7]
     cmdTaken 0x02 cmdRef (cmdIn s) s (goes s) ∧ groupOpen (goes s) = false) ∧
    (let s := rput .groupCfg 0 0x80000000 (cmdState 0x02 [7])
     cmdTaken 0x02 cmdRef (cmdIn s) s (goes s) ∧ groupOpen (goes s) = true) ∧
    (let s := cmdState 0x03 []
     cmdTaken 0x03 cmdRef (cmdIn s) s (goes s)) ∧
    (let s := cmdState 0x90 (argsOf [(8, cfgA), (1, 2)])
     let c := cmdIn s
     cmdTaken 0x90 cmdRef c s (goes s) ∧ 0 < c.b 8 ∧ c.b 8 ≤ 26 ∧
     fieldChecks (((List.range (c.b 8)).map (fun k => c.n 0 8 + 4 * k)).map (fun a => fieldCheck (goes s) c.f a none)) = csOk) ∧
    (let s := cmdState 0x90 (argsOf [(8, 5), (1, 2)])
     let c := cmdIn s
     cmdTaken 0x90 cmdRef c s (goes s) ∧ 0 < c.b 8 ∧
     fieldChecks (((List.range (c.b 8)).map (fun k => c.n 0 8 + 4 * k)).map (fun a => fieldCheck (goes s) c.f a none)) ≠ csOk) ∧
    (let s := cmdState 0x91 (argsOf [(4, 1), (8, regAddr .groupCfg 0), (4, 5)])
     let c := cmdIn s
     cmdTaken 0x91 cmdRef c s (goes s) ∧ writeChecks c (goes s) = csOk) ∧
    (let s := cmdState 0x92 (argsOf [(4, 2), (8, regAddr .dqRingLo 3), (4, 64), (8, regAddr .dqCommit 3), (4, 1)])
     let c := cmdIn s
     cmdTaken 0x92 cmdRef c s (goes s) ∧ writeChecks c (goes s) = csOk ∧ oneGroup (goes s) c.f (fieldPairs c) = true) ∧
    (let s := cmdState 0x92 (argsOf [(4, 1), (8, regAddr .groupCfg 0), (4, 5)])
     let c := cmdIn s
     cmdTaken 0x92 cmdRef c s (goes s) ∧ writeChecks c (goes s) = csOk ∧ oneGroup (goes s) c.f (fieldPairs c) = false) ∧
    (let s0 := cmdPart false 0xA1 (argsOf [(1, 1), (7, 0), (8, 0x40000000), (4, 32)]) 0
     let s := { s0 with ident := { s0.ident with slotsWritten := [1] } }
     let c := cmdIn s
     let t := goes s
     let r := engBytes (.mp .h0) (c.n 8 8) (c.n 16 4) t
     cmdTaken 0xA1 cmdRef c s t ∧ c.b 0 < 2 ∧ c.n 4 4 % 4096 = 0 ∧ 0 < c.n 16 4 ∧ c.n 16 4 ≤ 262144 ∧
     c.n 4 4 + c.n 16 4 ≤ slotSize ∧ dpaOk t c (c.n 8 8) (c.n 16 4) = true ∧ c.b 0 ≠ b2n t.ident.runSlot ∧
     r.1.map (fun x => x.2) = some false ∧ preferSlot r.2 ≠ c.b 0 ∧ c.b 0 ∈ r.2.ident.slotsWritten) ∧
    (let s0 := cmdState 0xA2 [1, 1]
     let s := { s0 with ident := { s0.ident with images := [(1, fwImg)] } }
     let c := cmdIn s
     cmdTaken 0xA2 cmdRef c s (goes s) ∧ c.b 0 < 2 ∧ c.b 1 < 2 ∧ slotImage (goes s) (c.b 0) = some fwImg ∧
     imageFault (goes s) (some fwImg) = 0) := by
  and_intros <;> first | exact cmd_of (by decide +kernel) | decide +kernel

theorem witness_QuotesAndIdentities :
    (let s := cmdPart false 0xA3 (argsOf [(32, 0), (8, 0x40000000)]) 0
     let c := cmdIn s
     let t := goes s
     let q := quoteBytes t c.f (slice 0 32 (entArgs c.e))
     cmdTaken 0xA3 cmdRef c s t ∧ c.b 40 = 0 ∧ dpaOk t c (c.n 32 8) q.length = true ∧
     (engPut (.mp .h0) (c.n 32 8) q false t).1 = true) ∧
    (let s := cmdPart false 0xA4 (argsOf [(8, 0), (8, 0x40000000)]) 0
     let c := cmdIn s
     let t := goes s
     cmdTaken 0xA4 cmdRef c s t ∧ c.b 0 < 3 ∧ dpaOk t c (c.n 8 8) (idRecord t).length = true ∧
     (engPut (.mp .h0) (c.n 8 8) (idRecord t) false t).1 = true) := by
  and_intros <;> first | exact cmd_of (by decide +kernel) | decide +kernel

/-! ### Witnesses: power, boot, Dailies, pins, and the statements over the whole -/

/-- H0 running, and both halves running with the exchange. -/
def runsState : State := { cohState with pwr := { cohState.pwr with down := false } }
def domState (n st : Nat) (s : State) : State := modDom n (fun d => { d with st := st }) s

theorem witness_PowerDomainsAndBudget :
    (hasHalf cohState .h0 = true ∧ (domAt (domState 2 0 cohState) 2).st ≠ 1 ∧
     gateTo (rput .domCtl 2 1 (domState 2 1 cohState)) .h0 2 = none) ∧
    (let s := rput .domCtl 2 4 (domState 2 1 cohState)
     (domAt s (35 * Half.h0.num + 2)).st = 1 ∧ gateTo s .h0 2 = some 2) ∧
    (let s := rput .domCtl 2 1 (domState 2 2 cohState)
     (domAt s (35 * Half.h0.num + 2)).st = 2 ∧ gateTo s .h0 2 = none) ∧
    ((domAt (domState 1 1 runsState) (35 * 0 + 1)).st ≠ 5 ∧ runsState.pwr.down = false) ∧
    (domAt (domState 1 5 runsState) (35 * Half.h0.num + 1)).st = 5 ∧
    ({ cohState with pwr := { cohState.pwr with down := true } } : State).pwr.down = true ∧
    (let s := { runsState with part := .mb1 }
     s.part = .mb1 ∧ s.pwr.down = false ∧ halfRuns s .h0 = true ∧ ClockLossKind.corePll ≠ ClockLossKind.reference) ∧
    (hasHalf runsState .h1 = true ∧ exchanging runsState = true) ∧
    (runsState.pwr.gaf0.pendGrant = none ∧
     (modGaf .h0 (fun g => { g with pendGrant := some 100 }) runsState).pwr.gaf0.pendGrant ≠ none) ∧
    ((gafAt runsState .h0).tempHold = false ∧ (gafAt runsState .h0).vinLow = false ∧ halfRuns runsState .h1 = true) ∧
    ((120 : Int) ≤ 120 ∧ runsState.pwr.die.find? (22 * Half.h0.num + 3) = none) ∧
    farGone runsState = false ∧ farGone { runsState with zor := { runsState.zor with halves := 2 } } = true := by
  decide +kernel

/-- H0's processor runs the firmware. -/
def mp0Runs : State := modMp .h0 (fun x => { x with st := 1 }) runsState

theorem witness_BootAndProcessors :
    (cohState.pwr.resetDueT = none ∧ bootable { cohState with pins := { cohState.pins with pwrGood := false } } = false ∧
     (let s := { cohState with pins := { cohState.pins with pwrGood := true }
                               pwr := { cohState.pwr with down := true, refLost := false, tripHot := false } }
      bootable s = true ∧ s.pwr.resetDueT = none)) ∧
    (let s := { runsState with pwr := { runsState.pwr with held := true } }
     s.pwr.held = true ∧ s.pwr.down = false) ∧
    (hasHalf mp0Runs .h1 = true ∧ mp0Runs.ident.digest + 1 ≠ mp0Runs.ident.digest ∧ mp0Runs.cad.mp0.st = 1 ∧
     mp0Runs.cad.mp1.st = 0 ∧ halfRuns mp0Runs .h1 = true) ∧
    cohState.cad.mp0.st ≠ 1 ∧
    (let s := writeCtl 0 true { mp0Runs with ident := { mp0Runs.ident with bootState := 1, svn := 3, die0 := { mp0Runs.ident.die0 with floor := 2 } } }
     s.cad.mp0.st = 1 ∧ s.ident.bootState = 1 ∧ s.clock ≤ s.pwr.readyT + ms 10000 ∧ s.ident.floorChecked = false ∧
     raiseFlag s = true ∧ preferSlot s = b2n s.ident.runSlot ∧ s.ident.die0.floor < s.ident.svn) ∧
    (let s := modMp .h1 (fun x => { x with st := 1 }) mp0Runs
     s.cad.mp1.st = 1 ∧ halfRuns s .h1 = true ∧ (mpAt s .h0).st = 1 ∧ halfRuns s .h0 = true ∧ s.part = .mb2 ∧
     farGone s = false) := by
  decide +kernel

/-- The collector of H0 with a record waiting. -/
def recOf (sev : Nat) : DRec :=
  { code := 0x0702, sev := sev, func := some 1, cls := 7, half := .h0, index := 3, addr := 0, count := 2, cause := 1, detail := 0 }
def collectorState (c : CollectorSt) : State := setCollector .h0 c mp0Runs

theorem witness_DailiesAreKept :
    (collector cohState .h0).inq = [] ∧
    (let s := collectorState { (collector mp0Runs .h0) with inq := [recOf 2], on := true }
     (collector s .h0).inq = recOf 2 :: [] ∧ (collector s .h0).on = true ∧ 2 ≤ (recOf 2).sev) ∧
    (let s := collectorState { (collector mp0Runs .h0) with
        inq := [recOf 1], on := true, recent := [(foldKey (recOf 1), 0)] }
     (collector s .h0).inq = recOf 1 :: [] ∧ (collector s .h0).on = true ∧ (recOf 1).sev < 2 ∧
     ((collector s .h0).recent.filter (fun e => decide (s.clock < e.2 + ms 1))).any (fun e => decide (e.1 = foldKey (recOf 1))) = true) ∧
    (let s := collectorState { (collector mp0Runs .h0) with inq := [recOf 0], on := true }
     (collector s .h0).inq = recOf 0 :: [] ∧ (collector s .h0).on = true ∧ (recOf 0).sev = 0 ∧
     ((collector s .h0).recent.filter (fun e => decide (s.clock < e.2 + ms 1))).any (fun e => decide (e.1 = foldKey (recOf 0))) = false) ∧
    (let s := collectorState { (collector mp0Runs .h0) with ring := [⟨0, 0, 0, recOf 1⟩] }
     ringReadable s .h0 = true ∧ (collector s .h0).ring = ⟨0, 0, 0, recOf 1⟩ :: []) ∧
    rbits (rput .dailiesCtl 0 0 cohState) .dailiesCtl Half.h0.num 15 0 = 0 ∧
    (let s := rput .sampleMask 0 0 (rput .dailiesCtl 0 5 (collectorState { (collector mp0Runs .h0) with on := true }))
     rbits s .dailiesCtl Half.h0.num 15 0 ≠ 0 ∧ (collector s .h0).on = true ∧ rget s .sampleMask Half.h0.num = 0) := by
  decide +kernel

def poweredState (rst : Bool) : State := { cohState with pins := { cohState.pins with pwrGood := true, resetN := rst } }

theorem witness_PinsAndConfiguration :
    (agentThere cohState (.mp .h0) = true ∧ writerOf cohState (.mp .h0) = some .mp ∧ (BitVec.ofNat 48 cfgA).toNat % 4 = 0 ∧
     cfgDenied cohState .mp (cfgSpot cohState .mp (BitVec.ofNat 48 cfgA).toNat) = none ∧ (5 : BitVec 48).toNat % 4 ≠ 0) ∧
    storeOk (.mp .h0) .h0 .dqCommit (groupCommit .h0 (.dqRing 3)).2 1 1 cohState ∧
    ((poweredState true).pins.pwrGood = true ∧ (0 : BitVec 32).toNat / 2 ^ 24 = 0 ∧
     i3cReadable (poweredState true) .h0 0xFF000000 = false ∧ (poweredState true).pins.resetN = true ∧
     (poweredState false).pins.resetN = false ∧
     ({ cohState with pins := { cohState.pins with pwrGood := false } } : State).pins.pwrGood = false) ∧
    (cohState.host.v6LocalBad = false ∧
     ({ cohState with host := { cohState.host with v6LocalBad := true } } : State).host.v6LocalBad = true) := by
  and_intros <;> first | exact store_of (by decide +kernel) | decide +kernel

theorem witness_CommitGroupsAreApart :
    (Reg.dqRingLo, 3) ∈ groupFields .h0 (.dqRing 3) := by
  decide +kernel

theorem witness_ConfigurationAddressesNameTheirFields :
    cohState.part = .mb2 ∧ cohState.zor.halves ≠ 2 ∧ (regRow .groupCfg).h1 ≠ .own ∧ 0 < regCount .groupCfg ∧
    (regRow .dqCtl).h1 = .own ∧ 511 < 2 * regCount .dqCtl ∧ (Writer.func 0 = .mp ∨ Writer.func 0 = .func 0) := by
  decide +kernel

theorem witness_MemoryOfTheStacks : (95 < 32 * 3 ∨ 32 * 3 + 32 ≤ 95) ∧ (96 + 32 < 32 * 3 ∨ 32 * 3 + 32 ≤ 96 + 32) ∧ (2 : Nat) ≠ 3 := by
  decide

theorem witness_StepRunsFrontCommand : cohState.pending = [] := by decide +kernel

theorem witness_CommandsComplete : cohState.part = .mb2 ∧ ({ cohState with part := .mb1 } : State).part = .mb1 := by
  decide +kernel

theorem witness_StepsKeepThePartAndTheQueue :
    step State.reset = .next { State.reset with clock := State.reset.clock + 1 } ∧ memOk State.reset := by
  exact ⟨rfl, Sys2Proof.Machine.reset_mem_wf, Sys2Proof.Machine.reset_pad_wf⟩

end Sys2Proof.Tests
end

namespace Sys2Proof.Machine

open Sys2Proof

/-! ### Numbers counted over both halves (R20) -/

/-- The half, and the number there, from a number that counts H0's first. -/
theorem halfOf_ofNat_num {per : Nat} [NeZero per] (h : Half) (k : Fin per) :
    halfOf per (per * h.num + k.val) = h ∧ Fin.ofNat per (per * h.num + k.val) = k := by
  refine ⟨by cases h <;> simp [halfOf, Half.num], ?_⟩
  ext
  simp [Fin.ofNat, Nat.mod_eq_of_lt k.isLt]

/-! ### Configuration space: the offsets of a row (R27) -/

/-- An offset is that of one of a row's fields. -/
def RegRow.Has (row : RegRow) (o : Nat) : Prop :=
  ∃ a b c, a < row.count ∧ b < row.scount ∧ c < row.words ∧
    o = row.base + row.stride * a + row.sstride * b + 4 * c

/-- The fields of a row do not overlap: the words fit the inner stride, and those of an inner row the outer one. -/
def RegRow.fits (row : RegRow) : Bool :=
  (decide (row.scount = 1 ∧ row.sstride = 0) || decide (0 < row.scount ∧ 4 * row.words ≤ row.sstride)) &&
  (decide (row.count = 1 ∧ row.stride = 0) ||
    decide (0 < row.count ∧ row.sstride * (row.scount - 1) + 4 * row.words ≤ row.stride))

/-- How far past its base a row reaches, its places counted modulo `m`: a stride that `m` divides adds nothing.
Modulo 0 it is the row's whole extent. -/
def RegRow.reach (row : RegRow) (m : Nat) : Nat :=
  (if m ∣ row.stride then 0 else row.stride * (row.count - 1)) +
    (if m ∣ row.sstride then 0 else row.sstride * (row.scount - 1)) + 4 * row.words

/-- Modulo `m` the offsets of a row lie from that of its base on without a wrap. -/
def RegRow.within (row : RegRow) (m : Nat) : Bool := decide (m = 0 ∨ row.base % m + row.reach m ≤ m)

/-- Two rows have no offset in common: modulo `m`, for 0 or a stride of the first, one ends before the other begins. -/
def RegRow.apart (p q : RegRow) : Bool :=
  [0, p.stride, p.sstride].any fun m => p.within m && q.within m &&
    (decide (p.base % m + p.reach m ≤ q.base % m) || decide (q.base % m + q.reach m ≤ p.base % m))

/-- What a multiple of a stride comes to modulo `m`, by the terms of `RegRow.reach`. -/
theorem stride_mul_modEq (m s : Nat) {n k : Nat} (hk : k < n) :
    ∃ x, x ≤ (if m ∣ s then 0 else s * (n - 1)) ∧ s * k ≡ x [MOD m] := by
  split
  next hd => exact ⟨0, le_rfl, Nat.modEq_zero_iff_dvd.2 (hd.mul_right k)⟩
  next => exact ⟨s * k, Nat.mul_le_mul_left _ (by omega), rfl⟩

/-- The place of a field of a row modulo `m`. -/
theorem RegRow.Has.mod_bounds {row : RegRow} {o m : Nat} (h : row.Has o) (hw : row.within m = true) :
    row.base % m ≤ o % m ∧ o % m < row.base % m + row.reach m := by
  obtain ⟨a, b, c, ha, hb, hc, rfl⟩ := h
  obtain ⟨x, hx, ex⟩ := stride_mul_modEq m row.stride ha
  obtain ⟨y, hy, ey⟩ := stride_mul_modEq m row.sstride hb
  have hr : x + y + 4 * c < row.reach m := by unfold RegRow.reach; omega
  have ho : row.base + row.stride * a + row.sstride * b + 4 * c ≡ row.base % m + (x + y + 4 * c) [MOD m] := by
    calc _ ≡ row.base % m + x + y + 4 * c [MOD m] :=
          (((Nat.mod_modEq _ _).symm.add ex).add ey).add_right _
      _ = _ := by omega
  have he : (row.base + row.stride * a + row.sstride * b + 4 * c) % m = row.base % m + (x + y + 4 * c) := by
    rw [ho]
    rcases of_decide_eq_true hw with rfl | hlt
    · exact Nat.mod_zero _
    · exact Nat.mod_eq_of_lt (by omega)
  omega

/-- Rows that are apart share no offset. -/
theorem RegRow.not_has_of_apart {p q : RegRow} {o : Nat} (h : p.apart q = true) (hp : p.Has o) : ¬ q.Has o := by
  intro hq
  simp only [RegRow.apart, List.any_eq_true, Bool.and_eq_true, Bool.or_eq_true, decide_eq_true_eq] at h
  obtain ⟨m, -, ⟨hwp, hwq⟩, h⟩ := h
  have := hp.mod_bounds hwp
  have := hq.mod_bounds hwq
  omega

/-! ### From a position to its offset and back -/

/-- The place of a position in a row is one of the row's. -/
theorem place_bounds {row : RegRow} {j : Nat} (h : j < row.count * row.scount * row.words) :
    j / (row.scount * row.words) < row.count ∧ j / row.words % row.scount < row.scount ∧ j % row.words < row.words := by
  have hw : 0 < row.words := Nat.pos_of_mul_pos_left (Nat.zero_lt_of_lt h)
  have hs : 0 < row.scount := Nat.pos_of_mul_pos_left (Nat.pos_of_mul_pos_right (Nat.zero_lt_of_lt h))
  refine ⟨?_, Nat.mod_lt _ hs, Nat.mod_lt _ hw⟩
  rwa [Nat.div_lt_iff_lt_mul (Nat.mul_pos hs hw), ← Nat.mul_assoc]

/-- The offset of a position is the row's. -/
theorem rowOffset_has {row : RegRow} {j : Nat} (h : j < row.count * row.scount * row.words) :
    row.Has (rowOffset row j) := by
  obtain ⟨ha, hb, hc⟩ := place_bounds h
  exact ⟨_, _, _, ha, hb, hc, rfl⟩

/-- The quotient by a stride, as `rowIndex` takes it, of what lies less than the stride past a multiple of it. -/
theorem min_div_stride {s n a r : Nat} (ha : a < n) (h : n = 1 ∧ s = 0 ∨ 0 < s ∧ r < s) :
    (if s = 0 then 0 else min ((s * a + r) / s) (n - 1)) = a := by
  rcases h with ⟨hn, hs⟩ | ⟨hs, hr⟩
  · rw [if_pos hs]; omega
  · rw [if_neg (by omega), Nat.mul_add_div hs, Nat.div_eq_of_lt hr]; omega

/-- The quotient by a stride, as `rowIndex` takes it, times the stride is no more than the distance. -/
theorem stride_mul_le {s d n a : Nat} (h : (if s = 0 then 0 else min (d / s) (n - 1)) = a) : s * a ≤ d := by
  split at h
  next => subst h; exact Nat.zero_le _
  next => exact (Nat.mul_le_mul_left s (h ▸ Nat.min_le_left _ _)).trans (Nat.mul_div_le d s)

/-- The position of the field at a place of a row. -/
theorem rowIndex_place {row : RegRow} {a b c : Nat} (hf : row.fits = true) (ha : a < row.count) (hb : b < row.scount)
    (hc : c < row.words) :
    rowIndex row (row.base + row.stride * a + row.sstride * b + 4 * c) =
      some ((a * row.scount + b) * row.words + c) := by
  simp only [RegRow.fits, Bool.and_eq_true, Bool.or_eq_true, decide_eq_true_eq] at hf
  obtain ⟨hin, hout⟩ := hf
  have hsb : row.sstride * b ≤ row.sstride * (row.scount - 1) := Nat.mul_le_mul_left _ (by omega)
  have hA := min_div_stride (s := row.stride) (r := row.sstride * b + 4 * c) ha (by omega)
  have hB := min_div_stride (s := row.sstride) (r := 4 * c) hb (by omega)
  have d0 : row.base + row.stride * a + row.sstride * b + 4 * c - row.base =
    row.stride * a + (row.sstride * b + 4 * c) := by omega
  simp only [rowIndex, if_neg (show ¬ row.base + row.stride * a + row.sstride * b + 4 * c < row.base by omega), d0, hA,
    Nat.add_sub_cancel_left, hB, Bool.and_eq_true, decide_eq_true_eq]
  rw [if_pos (by omega), Nat.mul_div_cancel_left _ (by decide)]

/-- The position that the offset of a position names is that position. -/
theorem rowIndex_rowOffset {row : RegRow} {j : Nat} (hf : row.fits = true)
    (h : j < row.count * row.scount * row.words) : rowIndex row (rowOffset row j) = some j := by
  obtain ⟨ha, hb, hc⟩ := place_bounds h
  rw [rowOffset, rowIndex_place hf ha hb hc, Nat.mul_comm row.scount, ← Nat.div_div_eq_div_mul, Nat.div_add_mod',
    Nat.div_add_mod']

/-- An offset at which a row has a position is the row's. -/
theorem has_of_rowIndex {row : RegRow} {o k : Nat} (hf : row.fits = true) (h : rowIndex row o = some k) :
    row.Has o := by
  simp only [RegRow.fits, Bool.and_eq_true, Bool.or_eq_true, decide_eq_true_eq] at hf
  simp only [rowIndex, Bool.and_eq_true, decide_eq_true_eq] at h
  split at h
  · cases h
  rename_i hb
  generalize ea : (if row.stride = 0 then 0 else min ((o - row.base) / row.stride) (row.count - 1)) = a at h
  generalize eb : (if row.sstride = 0 then 0
    else min ((o - row.base - row.stride * a) / row.sstride) (row.scount - 1)) = b at h
  split at h
  · rename_i hc
    have := stride_mul_le ea
    have := stride_mul_le eb
    exact ⟨a, b, (o - row.base - row.stride * a - row.sstride * b) / 4, by split at ea <;> omega,
      by split at eb <;> omega, by omega, by omega⟩
  · cases h

/-! ### The fields of the tables -/

/-- The words of a row fit its strides. -/
theorem regRow_fits (r : Reg) : (regRow r).fits = true := by
  cases r <;> decide

/-- A field is one of its class, and the class is one that R27 lists. -/
theorem mem_regsOf (r : Reg) : (regRow r).cls < 13 ∧ r ∈ regsOf (regRow r).cls := by
  cases r <;> decide

/-- The rows of a block class are apart (R27). -/
theorem regsOf_apart {r q : Reg} (hq : q ∈ regsOf (regRow r).cls) (h : r ≠ q) : (regRow r).apart (regRow q) = true := by
  have all : ∀ c < 13, ∀ r ∈ regsOf c, ∀ q ∈ regsOf c, r ≠ q → (regRow r).apart (regRow q) = true := by
    decide +kernel
  exact all _ (mem_regsOf r).1 r (mem_regsOf r).2 q hq h

/-- The offset of a position lies within the row's extent. -/
theorem rowOffset_bounds {row : RegRow} {j : Nat} (h : j < row.count * row.scount * row.words) :
    row.base ≤ rowOffset row j ∧ rowOffset row j < row.base + row.reach 0 := by
  simpa using (rowOffset_has h).mod_bounds (m := 0) rfl

/-- A row ends within the 24 bits of an offset. -/
theorem rowOffset_lt {r : Reg} {j : Nat} (h : j < regCount r) : rowOffset (regRow r) j < 2 ^ 24 := by
  have hend : (regRow r).base + (regRow r).reach 0 ≤ 2 ^ 24 := by cases r <;> decide
  exact (rowOffset_bounds h).2.trans_le hend

/-- Among fields of its class, a field is the one found at the offset of a position of its. -/
theorem regAtIn_rowOffset {r : Reg} {j : Nat} (h : j < regCount r) {l : List Reg} (hl : l ⊆ regsOf (regRow r).cls)
    (hr : r ∈ l) : regAtIn l (rowOffset (regRow r) j) = some (r, j) := by
  induction l with
  | nil => cases hr
  | cons q l ih =>
    rw [List.cons_subset] at hl
    by_cases hq : r = q
    · simp [regAtIn, ← hq, rowIndex_rowOffset (regRow_fits r) h]
    · have hn : rowIndex (regRow q) (rowOffset (regRow r) j) = none := by
        by_contra hc
        obtain ⟨k, hk⟩ := Option.ne_none_iff_exists'.1 hc
        exact RegRow.not_has_of_apart (regsOf_apart hl.1 hq) (rowOffset_has h) (has_of_rowIndex (regRow_fits q) hk)
      simpa [regAtIn, hn] using ih hl.2 ((List.mem_cons.1 hr).resolve_left hq)

/-! ### What an offset and an address name -/

/-- The offsets of the array and cell fields lie in the physical views (R108). -/
theorem rowOffset_lt_of_phys {r : Reg} {j : Nat} (hr : r = .arrayStatus ∨ r = .cellStatus) (h : j < regCount r) :
    rowOffset (regRow r) j < 0x480000 := by
  have hend : (regRow r).base + (regRow r).reach 0 ≤ 0x480000 := by rcases hr with rfl | rfl <;> decide
  exact (rowOffset_bounds h).2.trans_le hend

/-- The offsets of the other fields of the arrays' class lie past the physical views, and in a logical view only where
the context fields are (R108). -/
theorem rowOffset_of_not_phys {r : Reg} {j : Nat} (hc : (regRow r).cls = 2)
    (hr : ¬ (r = .arrayStatus ∨ r = .cellStatus)) (h : j < regCount r) :
    0x480000 ≤ rowOffset (regRow r) j ∧
      (rowOffset (regRow r) j < 0xA00000 →
        0x100 ≤ rowOffset (regRow r) j % 0x10000 ∧ rowOffset (regRow r) j % 0x10000 < 0x1000) := by
  have all : ∀ r ∈ regsOf 2, ¬ (r = .arrayStatus ∨ r = .cellStatus) → 0x480000 ≤ (regRow r).base ∧
      (0xA00000 ≤ (regRow r).base ∨ (regRow r).within 0x10000 = true ∧ 0x100 ≤ (regRow r).base % 0x10000 ∧
        (regRow r).base % 0x10000 + (regRow r).reach 0x10000 ≤ 0x1000) := by decide
  obtain ⟨hlo, hv⟩ := all r (hc ▸ (mem_regsOf r).2) hr
  have hb := (rowOffset_bounds h).1
  refine ⟨by omega, fun hlt => ?_⟩
  rcases hv with hv | ⟨hw, hv⟩
  · omega
  · have := (rowOffset_has h).mod_bounds hw
    omega

/-- What the offset of a position names on a half that has the field. -/
theorem cfgAt_rowOffset (lp : Half → Nat → Option Nat) {h : Half} {r : Reg} {j : Nat} (hj : j < regCount r)
    (hh : h = .h0 ∨ (regRow r).h1 = .own) :
    cfgAt lp h (regRow r).cls (rowOffset (regRow r) j) = .field r (h.num * regCount r + j) false := by
  obtain ⟨hcls, hmem⟩ := mem_regsOf r
  have hne : ¬ 12 < (regRow r).cls := by omega
  by_cases hp : r = .arrayStatus ∨ r = .cellStatus
  · have hlt := rowOffset_lt_of_phys hp hj
    have hc : (regRow r).cls = 2 := by rcases hp with rfl | rfl <;> rfl
    have hat := regAtIn_rowOffset hj (l := [.arrayStatus, .cellStatus]) (by rw [hc]; decide) (by simpa using hp)
    simp [cfgAt, hc, hlt, hat]
  · have hat := regAtIn_rowOffset hj (List.Subset.refl _) hmem
    have hview := fun hc => rowOffset_of_not_phys hc hp hj
    have h1 : ¬ ((regRow r).cls = 2 ∧ rowOffset (regRow r) j < 0x480000) := by omega
    have h2 : ¬ ((((regRow r).cls = 2 ∧ 0x600000 ≤ rowOffset (regRow r) j) ∧ rowOffset (regRow r) j < 0xA00000) ∧
        (rowOffset (regRow r) j % 0x10000 < 0x100 ∨ 0x1000 ≤ rowOffset (regRow r) j % 0x10000)) := by omega
    simp only [cfgAt, Bool.and_eq_true, Bool.or_eq_true, decide_eq_true_eq, if_neg hne, if_neg h1, if_neg h2, hat]
    cases h with
    | h0 => simp [Half.num]
    | h1 => simp [hh.resolve_left (by decide), Half.num]

/-- How often both halves together have a field: H1 counts where its block is its own. -/
def regInstances (r : Reg) : Nat := if (regRow r).h1 = .own then 2 * regCount r else regCount r

/-- A number that counts over both halves lies on H0, or on H1 where its block is its own, at a position there. -/
theorem regInstance_place {r : Reg} {i : Nat} (hi : i < regInstances r) :
    regPos r i < regCount r ∧ (regHalf r i).num * regCount r + regPos r i = i ∧
      (regHalf r i = .h0 ∨ (regRow r).h1 = .own) := by
  unfold regInstances at hi
  by_cases hown : (regRow r).h1 = .own
  · rw [if_pos hown] at hi
    by_cases hlt : i < regCount r
    · simp [regPos, regHalf, halfOf, hown, hlt, Half.num]
    · have hh : regHalf r i = .h1 := by simp [regHalf, halfOf, hown, hlt]
      simp only [regPos, if_neg hlt, hh, Half.num, hown, or_true, and_true]
      omega
  · rw [if_neg hown] at hi
    have hh : regHalf r i = .h0 := by
      unfold regHalf
      split
      next h => exact absurd h hown
      next => rfl
    simp [regPos, hi, hh, Half.num]

/-- The half, class and offset that the address of a place names (R27). -/
theorem cfgAddr_parts (h : Half) {c o : Nat} (hc : c < 256) (ho : o < 2 ^ 24) :
    ¬ (cfgAddr h c o < 0x7F0000000000 ∨ 0x7F0200000000 ≤ cfgAddr h c o) ∧
      Half.ofBit ((cfgAddr h c o - 0x7F0000000000) / 2 ^ 32) = h ∧
      (cfgAddr h c o - 0x7F0000000000) / 2 ^ 24 % 256 = c ∧ (cfgAddr h c o - 0x7F0000000000) % 2 ^ 24 = o := by
  have hn : h.num ≤ 1 := by cases h <;> decide
  have hq : (cfgAddr h c o - 0x7F0000000000) / 2 ^ 32 = h.num := by unfold cfgAddr; omega
  refine ⟨by unfold cfgAddr; omega, ?_, by unfold cfgAddr; omega, by unfold cfgAddr; omega⟩
  rw [hq]
  cases h <;> rfl

/-- Configuration space finds a field at its address, on an MB2 that runs whole. -/
theorem cfgSpot_regAddr {s : State} {w : Writer} {r : Reg} {i : Nat} (hp : s.part = .mb2) (hz : s.zor.halves ≠ 2)
    (hw : w = .mp ∨ w = .func 0) (hi : i < regInstances r) : cfgSpot s w (regAddr r i) = .field (regHalf r i) r i := by
  obtain ⟨hpos, hidx, hhalf⟩ := regInstance_place hi
  have hcls := (mem_regsOf r).1
  obtain ⟨hin, hh, hc, ho⟩ := cfgAddr_parts (regHalf r i) (by omega : (regRow r).cls < 256) (rowOffset_lt hpos)
  have hgone : cfgGone s (regHalf r i) = false := by
    cases regHalf r i <;> simp [cfgGone, hp, hz]
  have hplain : (decide (w = .mp) || decide (w = .func 0)) = true := by simpa using hw
  simp only [cfgSpot, regAddr, if_neg hin, hh, hc, ho, hgone, hplain, cfgAt_rowOffset _ hpos hhalf, hidx]
  simp [absentField, hp, show ¬ 12 < (regRow r).cls by omega]

/-- Settles O55. Two fields with one address are both what configuration space finds there, so they are one. -/
theorem configurationAddressesNameTheirFields : Obligations.ConfigurationAddressesNameTheirFields := by
  refine ⟨fun s w r i hp hz hw hi => cfgSpot_regAddr hp hz hw hi, fun r q i j hi hj h => ?_⟩
  have hr := cfgSpot_regAddr (s := State.reset) (w := .mp) rfl (by decide) (.inl rfl) hi
  have hq := cfgSpot_regAddr (s := State.reset) (w := .mp) rfl (by decide) (.inl rfl) hj
  rw [h, hq] at hr
  injection hr with _ h1 h2
  exact ⟨h1.symm, h2.symm⟩

/-! ### The group of a field (R15) -/

/-- The commit group that a field is of, with the half of its block: none for a field of no group. -/
def fieldGroup : Reg × Nat → Option (Half × GroupRef)
  | (.ctxImageLo, n) | (.ctxImageHi, n) => some (halfOf 256 n, .ctxImage (Fin.ofNat 64 (n / 4)) (Fin.ofNat 4 n))
  | (.maintAddrLo, n) | (.maintAddrHi, n) | (.maintLenLo, n) | (.maintLenHi, n) | (.maintCtl, n) | (.maintRecLo, n)
  | (.maintRecHi, n) | (.maintCue, n) => some (halfOf 16 n, .maint (Fin.ofNat 16 n))
  | (.peekSel, n) => some (halfOf 1 n, .dirPeek)
  | (.dqRingLo, n) | (.dqRingHi, n) | (.dqRecLo, n) | (.dqRecHi, n) => some (halfOf 256 n, .dqRing (Fin.ofNat 256 n))
  | (.reelNext, n) | (.reelPrev, n) | (.reelBaseLo, n) | (.reelBaseHi, n) | (.reelCues, n) =>
    some (halfOf 64 n, .reel (Fin.ofNat 64 n))
  | (.vcBuf, n) => some (halfOf 8 (n / 7), .vcBuf (Fin.ofNat 8 (n / 7)))
  | (.collChild, n) => some (halfOf 128 (n / 4), .coll (Fin.ofNat 128 (n / 4)))
  | (.collTree, n) | (.collCfg, n) | (.collCues, n) | (.redSrcLo, n) | (.redSrcHi, n) | (.redDstLo, n)
  | (.redDstHi, n) =>
    some (halfOf 128 n, .coll (Fin.ofNat 128 n))
  | (.regCfg, n) | (.regWindow, n) | (.regGuar, n) | (.regLat, n) => some (halfOf 128 n, .reg (Fin.ofNat 128 n))
  | (.macLo, _) | (.macHi, _) | (.ipv4Addr, _) | (.hpNet, _) | (.ipv6, _) => some (.h0, .net)
  | (.gafferCfg, _) => some (.h0, .pkg)
  | (.dringLo, n) | (.dringHi, n) => some (halfOf 1 n, .dring)
  | _ => none

/-- A field of a group is of class C, and the group is the one that the field is of. -/
theorem fieldGroup_of_mem {h : Half} {g : GroupRef} {x : Reg × Nat} (hx : x ∈ groupFields h g) :
    (regRow x.1).isC = true ∧ fieldGroup x = some (groupHalf h g, g) := by
  have pair {m : GroupRef} {k : Half} (hk : k = h) (hm : m = g) : some (k, m) = some (h, g) := by rw [hk, hm]
  cases g <;> simp only [groupFields, List.mem_cons, List.not_mem_nil, or_false, List.mem_map, List.mem_range] at hx
  case ctxImage i k =>
    obtain ⟨-, hi⟩ := halfOf_ofNat_num h i
    have hh : halfOf 256 (4 * (64 * h.num + i.val) + k.val) = h := by cases h <;> simp [halfOf, Half.num] <;> omega
    have hj : (4 * (64 * h.num + i.val) + k.val) / 4 = 64 * h.num + i.val := by omega
    have hk : Fin.ofNat 4 (4 * (64 * h.num + i.val) + k.val) = k := by ext; simp [Fin.ofNat]
    rcases hx with rfl | rfl <;> exact ⟨rfl, pair hh (by rw [hj, hi, hk])⟩
  case maint f =>
    obtain ⟨hh, hk⟩ := halfOf_ofNat_num h f
    rcases hx with rfl | rfl | rfl | rfl | rfl | rfl | rfl | rfl <;> exact ⟨rfl, pair hh (congrArg _ hk)⟩
  case dirPeek =>
    subst hx
    exact ⟨rfl, pair (by cases h <;> rfl) rfl⟩
  case dqRing q =>
    obtain ⟨hh, hk⟩ := halfOf_ofNat_num h q
    rcases hx with rfl | rfl | rfl | rfl <;> exact ⟨rfl, pair hh (congrArg _ hk)⟩
  case reel k =>
    obtain ⟨hh, hk⟩ := halfOf_ofNat_num h k
    rcases hx with rfl | rfl | rfl | rfl | rfl <;> exact ⟨rfl, pair hh (congrArg _ hk)⟩
  case vcBuf p =>
    obtain ⟨hh, hk⟩ := halfOf_ofNat_num h p
    obtain ⟨j, hj, rfl⟩ := hx
    have hd : (7 * (8 * h.num + p.val) + j) / 7 = 8 * h.num + p.val := by omega
    exact ⟨rfl, pair (by rw [hd, hh]) (by rw [hd, hk])⟩
  case coll k =>
    obtain ⟨hh, hk⟩ := halfOf_ofNat_num h k
    have hd : ∀ j < 4, (4 * (128 * h.num + k.val) + j) / 4 = 128 * h.num + k.val := by omega
    have child : ∀ j < 4, some (halfOf 128 ((4 * (128 * h.num + k.val) + j) / 4),
        GroupRef.coll (Fin.ofNat 128 ((4 * (128 * h.num + k.val) + j) / 4))) = some (h, .coll k) := by
      intro j hj
      rw [hd j hj, hh, hk]
    rcases hx with rfl | rfl | rfl | rfl | rfl | rfl | rfl | rfl | rfl | rfl | rfl
    · exact ⟨rfl, pair hh (congrArg _ hk)⟩
    · exact ⟨rfl, child 0 (by decide)⟩
    · exact ⟨rfl, child 1 (by decide)⟩
    · exact ⟨rfl, child 2 (by decide)⟩
    · exact ⟨rfl, child 3 (by decide)⟩
    all_goals exact ⟨rfl, pair hh (congrArg _ hk)⟩
  case reg q =>
    obtain ⟨hh, hk⟩ := halfOf_ofNat_num h q
    rcases hx with rfl | rfl | rfl | rfl <;> exact ⟨rfl, pair hh (congrArg _ hk)⟩
  case net =>
    rcases hx with rfl | rfl | rfl | rfl | rfl | rfl | rfl | rfl <;> exact ⟨rfl, rfl⟩
  case pkg =>
    subst hx
    exact ⟨rfl, rfl⟩
  case dring =>
    rcases hx with rfl | rfl <;> exact ⟨rfl, pair (by cases h <;> rfl) rfl⟩

/-- A COMMIT field is of no group. -/
theorem fieldGroup_groupCommit (h : Half) (g : GroupRef) : fieldGroup (groupCommit h g) = none := by
  cases g <;> rfl

/-- A COMMIT field is no field of a group. -/
theorem groupCommit_notMem (h k : Half) (g m : GroupRef) : groupCommit h g ∉ groupFields k m := fun hx => by
  simpa [fieldGroup_groupCommit] using (fieldGroup_of_mem hx).2

/-- Settles O54: each field names its group. -/
theorem commitGroupsAreApart : Obligations.CommitGroupsAreApart := by
  refine ⟨fun h g x hx => ⟨fun e => groupCommit_notMem h h g g (e ▸ hx), (fieldGroup_of_mem hx).1⟩,
    fun h k g m x hg hm => ?_, fun h k g m => groupCommit_notMem h k g m⟩
  have e := Option.some.inj ((fieldGroup_of_mem hm).2.symm.trans (fieldGroup_of_mem hg).2)
  exact ⟨congrArg Prod.snd e, congrArg Prod.fst e⟩

/-! ### How a command ends (R5, R20, R21) -/

/-- An outcome is a next state, or on MB1 the fault of a command that names what only MB2 has. -/
def Completes (s : State) (o : Outcome) : Prop :=
  (∃ t, o = .next t) ∨ s.part = .mb1 ∧ o = .fault .absentOnPart

theorem Completes.next (s t : State) : Completes s (.next t) := .inl ⟨t, rfl⟩

/-- A resource that every MB2 has. -/
theorem Completes.onPart {s : State} {b : Bool} (t : State) (hb : s.part = .mb2 → b = true) :
    Completes s (onPart b (.next t)) := by
  cases hb' : b with
  | true => exact .inl ⟨t, rfl⟩
  | false =>
    refine .inr ⟨?_, rfl⟩
    cases hp : s.part with
    | mb1 => rfl
    | mb2 => exact absurd (hb hp) (by simp [hb'])

/-- An MB2 has both halves. -/
theorem hasHalf_of_mb2 {s : State} (h : Half) (hp : s.part = .mb2) : hasHalf s h = true := by
  cases h <;> simp [hasHalf, hp]

theorem Completes.onHalf (s : State) (h : Half) (t : State) : Completes s (onHalf s h (.next t)) :=
  .onPart t (hasHalf_of_mb2 h)

theorem Completes.onMb2 (s t : State) : Completes s (Machine.onPart (decide (s.part = .mb2)) (.next t)) :=
  .onPart t fun hp => decide_eq_true hp

theorem Completes.onAgent (s : State) (ag : Agent) (t : State) : Completes s (onAgent s ag (.next t)) :=
  .onPart t (hasHalf_of_mb2 _)

theorem Completes.onPort (s : State) (p : Nat) (t : State) : Completes s (onPort s p (.next t)) := .onHalf s _ t

theorem Completes.onSide (s : State) (z : ZSrc) (t : State) : Completes s (onSide s z (.next t)) := by
  cases z with
  | half _ => exact .onMb2 s t
  | site g => exact .onHalf s _ t

theorem Completes.onBundle (s : State) (b : BundleRef) (t : State) : Completes s (onBundle s b (.next t)) := by
  cases b with
  | z _ _ => exact .onMb2 s t
  | site g _ => exact .onHalf s _ t

theorem Completes.onSb (s : State) (b : SbRef) (t : State) : Completes s (onSb s b (.next t)) := by
  cases b with
  | half _ _ => exact .onMb2 s t
  | site g => exact .onHalf s _ t

theorem Completes.onHolder (s : State) (hd : CohHdr) (k : HKind) : Completes s (onHolder s hd k) := by
  refine .onPart _ fun hp => ?_
  cases hs : hd.src with
  | site g => exact hasHalf_of_mb2 _ hp
  | xFar => exact decide_eq_true hp
  | member _ => rfl

theorem execTakeAdvance_completes (s : State) (id : TakeId) : Completes s (execTakeAdvance id s) := by
  refine .onPart _ fun hp => ?_
  cases id with
  | cue n => exact hasHalf_of_mb2 _ hp
  | queue n => exact hasHalf_of_mb2 _ hp
  | coll h _ => exact hasHalf_of_mb2 h hp
  | reel h _ => exact hasHalf_of_mb2 h hp
  | siteTag g => exact hasHalf_of_mb2 _ hp
  | qp _ | key _ | session _ => rfl

/-- Every command completes, or is absent on MB1: the cases are told apart by the resource that the command names. -/
theorem exec_completes (c : Instr) (s : State) : Completes s (exec c s) := by
  cases c
  -- nothing that a part lacks
  case slatePoint | slateStreamStart | slateComplete | rsignalReceive | rsigAck | rsigRefused | block | arrival |
    arrivalAck | credit | mcHoldExpire | mcAck | arrive | depart | delayNotice | extend | ethFrameReceive |
    hostLinkDown | hostLinkUp | announceTimer | discover | rdmaWriteRequest | rdmaReadRequest | fetchAdd | cmpSwap |
    roceResponse | roceAckTimeout | pfcFrame | congestionNotification | rateRecovery | ctOpen | ctClose | entries |
    ctAck | ctResend | sessionLostTimeout | autoPending | devInfo | deviceIdSet | deviceReset | funcCreate |
    funcDestroy | cut | funcQuery | clusterAssign | clusterRelease | partCreate | partResize | partDestroy |
    waysSet | partExport | cueAlloc | cueFree | dqAlloc | dqFree | regAlloc | regFree | regSet | qpAlloc |
    qpModify | qpFree | mkCreate | mkDestroy | sessionLocal | sessionClose | groupSet | routeLoad | slateArm |
    slateAbort | guestOpen | guestFence | h1Fence | h1Rejoin | stackMaint | retiredList | fieldRead | fieldWrite |
    fieldWriteGroup | settingsStore | fwWrite | fwActivate | attestQuote | identityRead | vinFastThreshold |
    vinTrip | coldBoot | bootHoldRelease | floorRaise | modPresentChange | resetNAssert | pwrGoodHigh |
    vinMainRestored | refclkAonReturn | duplicateAddressDetectionEnd =>
    exact .next _ _
  -- an agent
  case configStore | commit | load | start | stop | drop | cueValueWrite | cueOwnerWrite | sliceRead | sliceWrite |
    addToLine | scratchpadAccess | segMapWrite | wayMapWrite | maintCommit | tgStart | tgStop | farCacheAccess |
    dqEnable | dqDisable | dqStop | dqResume | doorbell | dqRecHeadWrite | reelValidWrite | portEnable |
    collValidWrite | eyeGo | gsOpenWrite | sesCmdDb | sesCplHead =>
    exact .onAgent _ _ _
  -- a neighbour port
  case portTrainingTimeout | portUp | dataFlit | ctrlFlit | nakTimer | ackTimer | ackStallTimeout | lossOfSignal |
    linkInfo | packetDeliver | packetForward | mcPacket =>
    exact .onPort _ _ _
  -- a far end of Zoram
  case bundleListChange | signal | wait | cfgRd | cfgWr =>
    exact .onSide _ _ _
  -- a bundle
  case frameReceive | linkFlit | bundleRetrain | zoramAgeDiscard | splice | bundleState =>
    exact .onBundle _ _ _
  -- a sideband lane
  case sbAck | sidebandResend | sidebandStageTimeout | ts1 | tapReq | tapAck | sbLaneLoss | eyeScanDone | cap |
    capGrant =>
    exact .onSb _ _ _
  -- a holder of a line
  case rdS | rdX | upgrade | rdNc | wrNc | addNc | joinA | atomic | wb | mergeA | evictE | renew =>
    exact .onHolder _ _ _
  -- an identifier with a take
  case takeAdvance =>
    exact execTakeAdvance_completes _ _
  -- the joint of the halves
  case zoramTraining | band =>
    exact .onMb2 _ _
  -- a half
  all_goals exact .onHalf _ _ _

/-- Settles O58. -/
theorem commandsComplete : Obligations.CommandsComplete := by
  refine ⟨fun c s hp => ?_, fun c s _ => ?_, fun c s r => ?_⟩
  · rcases exec_completes c s with h | ⟨hm, -⟩
    · exact h
    · simp [hp] at hm
  · exact (exec_completes c s).imp_right And.right
  · rcases exec_completes c s with ⟨t, h⟩ | ⟨-, h⟩ <;> simp [h]

/-! ### The step and the reset state -/

/-- Settles O57. -/
theorem stepRunsFrontCommand : Obligations.StepRunsFrontCommand := by
  refine ⟨fun c rest s => rfl, fun s h => ?_⟩
  simp [step, h, tick]

/-- Reset values have 32 bits. -/
theorem regReset_lt (p : Part) (r : Reg) (i : Nat) : regReset p r i < 2 ^ 32 := by
  have hrow : (regRow r).reset < 2 ^ 32 := by cases r <;> decide
  unfold regReset
  split
  · decide
  · unfold vcBufReset
    split <;> decide
  · exact hrow

/-- Settles O59: nothing is listed in any map of the reset state, so that each place reads as its default. -/
theorem resetLeaves : Obligations.ResetLeaves := by
  have hget : ∀ r i, rget State.reset r i = regReset .mb2 r i := fun r i => by
    simpa [rget, RegFile.get, State.reset, RegFile.init, NMap.getD] using Nat.mod_eq_of_lt (regReset_lt .mb2 r i)
  have hpend : ∀ h g, groupPending State.reset h g = false := fun h g => by
    simp [groupPending, RegFile.isPending, State.reset, RegFile.init]
  have hmp : ∀ h, (mpAt State.reset h).st = 0 := fun h => by cases h <;> rfl
  exact ⟨hget, hpend, rfl, ⟨reset_mem_wf, reset_pad_wf⟩, fun _ => rfl, fun _ => rfl, fun _ => rfl, hmp, fun _ => rfl,
    fun _ => rfl, rfl, rfl⟩

/-! ### Stores and commits (R6, R17, R25, R28, R487) -/

/-- A store that is 32 bits wide, aligned and allowed. -/
theorem doConfigStore_performed {ag : Agent} {w : Writer} {s : State} {a : Nat} (v : Nat) (hw : writerOf s ag = some w)
    (ha : a % 4 = 0) (hd : cfgDenied s w (cfgSpot s w a) = none) :
    doConfigStore ag a 4 v s = emit (.cfgDone ag a) (cfgApply w ag a v (cfgSpot s w a) s) := by
  simp [doConfigStore, hw, ha, hd]

/-- A store of another width or place is not performed. -/
theorem doConfigStore_refused {ag : Agent} {w : Writer} {s : State} {a size : Nat} (v : Nat)
    (hw : writerOf s ag = some w) (h : size ≠ 4 ∨ a % 4 ≠ 0) : doConfigStore ag a size v s = cfgRefuse ag a 6 s := by
  simp only [doConfigStore, hw, if_pos h]

/-- What an access that is not performed leaves as it was; it is answered with an error. -/
theorem cfgRefuse_frame (ag : Agent) (a rule : Nat) (s : State) :
    (cfgRefuse ag a rule s).regs = s.regs ∧ (cfgRefuse ag a rule s).mem = s.mem ∧ (cfgRefuse ag a rule s).coh = s.coh ∧
      (cfgRefuse ag a rule s).cues = s.cues ∧ (cfgRefuse ag a rule s).dolly = s.dolly ∧
      (cfgRefuse ag a rule s).fab = s.fab ∧ (cfgRefuse ag a rule s).out = .cfgErr ag a :: s.out := by
  simp [cfgRefuse, cfgEvent, emit]

/-- A commit of the rings of a queue writes its COMMIT field. -/
theorem execCommit_dqRing {ag : Agent} {h : Half} {q : Fin 256} {s : State}
    (ok : storeOk ag h .dqCommit (groupCommit h (.dqRing q)).2 1 1 s) :
    execCommit ag h (.dqRing q) s = .next (stored ag h .dqCommit (groupCommit h (.dqRing q)).2
      (commitAct h (.dqRing (Fin.ofNat 256 (groupCommit h (.dqRing q)).2)) 1 s)) := by
  have hh : hOf .dqCommit (256 * h.num + q.val) = h := (halfOf_ofNat_num h q).1
  have e := regStore_ok (storeWord .dqCommit (groupCommit h (.dqRing q)).2 1) ok
  simp only [groupCommit, storeWord, hh] at e
  exact e

/-! ### I3C (R474, R476) -/

@[simp] theorem i3cPtr_setI3cPtr (h : Half) (v : W32) (s : State) : i3cPtr (setI3cPtr h v s) h = v := by
  cases h <;> rfl

/-- The identity block, class 0x00, is readable. -/
theorem i3cReadable_identity {s : State} {h : Half} {v : W32} (hv : v.toNat / 2 ^ 24 = 0) :
    i3cReadable s h v = true := by
  rw [i3cReadable, decide_eq_true hv, Bool.true_or]

theorem doI3cPointer_ack {h : Half} {v : W32} {s : State} (hp : s.pins.pwrGood = true) (hr : i3cReadable s h v = true) :
    doI3cPointer h v s = emit (.i3cAck h) (setI3cPtr h v s) := by simp [doI3cPointer, hp, hr]

theorem doI3cPointer_nack {h : Half} {v : W32} {s : State} (hp : s.pins.pwrGood = true)
    (hr : i3cReadable s h v = false) : doI3cPointer h v s = emit (.i3cNack h) s := by simp [doI3cPointer, hp, hr]

theorem doI3cPointer_off {h : Half} {v : W32} {s : State} (hp : s.pins.pwrGood = false) : doI3cPointer h v s = s := by
  simp [doI3cPointer, hp]

/-- A read moves the pointer on, whatever it gives. -/
theorem i3cPtr_doI3cRead {h : Half} {s : State} (hp : s.pins.pwrGood = true) :
    i3cPtr (doI3cRead h s) h = i3cPtr s h + 4 := by simp [doI3cRead, hp]

/-- An assignment gives the half's target its address (R476). -/
theorem dyn_doDaa {h : Half} {a : BitVec 7} {s : State} (hp : s.pins.pwrGood = true) :
    (if h = .h0 then (doDaa h a s).pins.dyn0 else (doDaa h a s).pins.dyn1) = some a := by
  cases h <;> simp [doDaa, hp, modPins]

theorem doDaa_frame (h : Half) (a : BitVec 7) (s : State) :
    (doDaa h a s).mem = s.mem ∧ (doDaa h a s).regs = s.regs := by
  unfold doDaa; split <;> simp

/-! ### The test access port and the module (R477, R478) -/

@[simp] theorem jtagSet_frame (h : Half) (ir : Nat) (drive : Option W32) (dr : Nat) (s : State) :
    (jtagSet h ir drive dr s).mem = s.mem ∧ (jtagSet h ir drive dr s).regs = s.regs ∧
      (jtagSet h ir drive dr s).pins.bsr0 = s.pins.bsr0 ∧ (jtagSet h ir drive dr s).pins.bsr1 = s.pins.bsr1 := by
  cases h <;> exact ⟨rfl, rfl, rfl, rfl⟩

/-- What the boundary of a die drives once an instruction takes effect. -/
theorem boundary_jtagSet (h : Half) (ir : Nat) (drive : Option W32) (dr : Nat) (s : State) :
    (if h = .h0 then (jtagSet h ir drive dr s).pins.boundary0 else (jtagSet h ir drive dr s).pins.boundary1) =
      drive := by
  cases h <;> rfl

/-- The boundary register after a preload. -/
theorem bsr_doSamplePreload {h : Half} (v : W32) {s : State} (hr : s.pins.resetN = false) :
    (if h = .h0 then (doSamplePreload h v s).pins.bsr0 else (doSamplePreload h v s).pins.bsr1) = v := by
  cases h <;> simp [doSamplePreload, hr, modPins]

/-- The host link is down, and fields, memory and pins are as they were. -/
theorem doHostDown_frame (s : State) :
    (doHostDown s).host.link = 0 ∧ (doHostDown s).mem = s.mem ∧ (doHostDown s).regs = s.regs ∧
      (doHostDown s).pins = s.pins := by
  unfold doHostDown
  split
  next h => exact ⟨h, rfl, rfl, rfl⟩
  next => simp [modHost, freeNat]

/-- Settles O52. -/
theorem pinsAndConfiguration : Obligations.PinsAndConfiguration := by
  refine ⟨?_, ?_, fun ag h q s ok => execCommit_dqRing ok, ?_, ?_, ?_, ?_, ?_⟩
  · intro ag a v s w hag hw ha hd
    simp only [exec, execConfigStore, onAgent_next hag, doConfigStore_performed _ hw ha hd]
  · intro ag a size v s w hag hw h
    refine ⟨_, ?_, cfgRefuse_frame ag a.toNat 6 s⟩
    simp only [exec, execConfigStore, onAgent_next hag, doConfigStore_refused _ hw h]
  · intro h v s hh
    have hx : ∀ t, onHalf s h t = t := fun _ => onHalf_next hh
    simp only [exec, execI3cPointerWrite, execI3cRead, hx]
    refine ⟨fun hp => ?_, fun hp hv => ?_, fun hp hr => ?_, fun hp => ⟨_, rfl, i3cPtr_doI3cRead hp⟩⟩
    · rw [doI3cPointer_off hp]
    · rw [doI3cPointer_ack hp (i3cReadable_identity hv)]
      exact ⟨_, rfl, i3cPtr_setI3cPtr h v s, rfl, rfl, rfl⟩
    · rw [doI3cPointer_nack hp hr]
  · intro h a k s hh hp
    exact ⟨_, onHalf_next hh, dyn_doDaa hp, doDaa_frame h a s⟩
  · intro h v s hh
    have hx : ∀ t, onHalf s h t = t := fun _ => onHalf_next hh
    refine ⟨onHalf_next hh, onHalf_next hh, fun hr => ⟨?_, ?_⟩,
      fun hr => ⟨_, onHalf_next hh, bsr_doSamplePreload v hr, ?_⟩, fun hr => ⟨_, onHalf_next hh, ?_⟩⟩
    · simp [exec, execExtest, hx, doExtest, hr, doBypass]
    · simp [exec, execSamplePreload, hx, doSamplePreload, hr, doBypass]
    · simp [doSamplePreload, hr, freeNat]
    · simp only [doExtest, hr]
      exact ⟨boundary_jtagSet .., by simp [freeNat]⟩
  · intro s
    refine ⟨⟨_, rfl, rfl, rfl, rfl, rfl, rfl⟩, ⟨_, rfl, ?_⟩⟩
    obtain ⟨hl, hm, hr, hp⟩ :=
      doHostDown_frame (modPins (fun p => { p with modPresentN := true, modResetN := false }) s)
    exact ⟨congrArg PinSt.modPresentN hp, hl, hm, hr⟩
  · intro s
    constructor <;> intro hb <;> simp [exec, execDuplicateAddressDetectionEnd, doDadEnd, modHost, hb]

end Sys2Proof.Machine

namespace Sys2Proof.Machine

open Sys2Proof

/-! ### What a step keeps (R20, R116, R157, R422) -/

/-- A store to a field keeps what the field's block keeps. -/
theorem KeepsR.store {s u : State} {ag : Agent} {h : Half} {r : Reg} {i v : Nat} {act : Nat → State → State}
    (hact : ∀ n t, Keeps t (act n t)) : KeepsR s (Machine.onAgent u ag (.next (regStore ag h r i v act s))) :=
  .onAgent (.next (keeps_regStore hact ..))

/-- A command of Cadun keeps what its work keeps. -/
theorem KeepsR.cmd {s : State} {op : Nat} {r : CmdRef} {work : CmdIn → State → CmdEnd × State}
    (hwork : ∀ c t, Keeps t (work c t).2) : KeepsR s (.next (runCmd op r work s)) :=
  .next (keeps_runCmd hwork ..)

/-- A request of a holder keeps what its arrival at the home keeps. -/
theorem KeepsR.onHolder (s : State) (hd : CohHdr) (kind : HKind) : KeepsR s (Machine.onHolder s hd kind) :=
  .onPart (.next (keeps_fromHolder ..))

/-- What every operation keeps, every command keeps: one arm per command, as `exec` has them. -/
theorem exec_keeps (c : Instr) (s : State) : KeepsR s (exec c s) :=
  match c with
  -- configuration space
  | .configStore .. => .onAgent (.next (keeps_doConfigStore ..))
  | .commit .. => .onAgent (.next (keeps_doCommit ..))
  -- cells
  | .macIssue .. => .onHalf (.next (keeps_doMacIssue ..))
  | .residueFault .. => .onHalf (.next (keeps_doResidueFault ..))
  | .vectorInstruction .. => .onHalf (.next (keeps_doVector ..))
  | .lsWriteback .. => .onHalf (.next (keeps_doLsWriteback ..))
  | .switchWord .. => .onHalf (.next (keeps_doSwitchWord ..))
  -- the array sequencer
  | .phaseEnd .. => .onHalf (.next (keeps_doPhaseEnd ..))
  | .stallWatchdog .. => .onHalf (.next (keeps_doStallWatchdog ..))
  | .load .. => .onAgent (.next (keeps_ctxAction ..))
  | .loadComplete .. => .onHalf (.next (keeps_doLoadComplete ..))
  | .start .. => .onAgent (.next (keeps_ctxAction ..))
  | .stop .. => .onAgent (.next (keeps_ctxAction ..))
  | .stopTakesEffect .. => .onHalf (.next (keeps_doStopTakes ..))
  | .drop .. => .onAgent (.next (keeps_ctxAction ..))
  | .stepEnd .. => .onHalf (.next (keeps_doEnd ..))
  | .phase .. => .onHalf (.next (keeps_doPhase ..))
  | .streamStart .. => .onHalf (.next (keeps_doStreamStart ..))
  | .streamWait .. => .onHalf (.next (keeps_doStreamWait ..))
  | .streamReadData .. => .onHalf (.next (keeps_doStreamRead ..))
  | .cueWait .. => .onHalf (.next (keeps_doCueWait ..))
  | .cueSignal .. => .onHalf (.next (keeps_doCueSignal ..))
  | .loop .. => .onHalf (.next (keeps_doLoop ..))
  | .delay .. => .onHalf (.next (keeps_doDelay ..))
  | .delayExpire .. => .onHalf (.next (keeps_doDelayExpire ..))
  -- cues and takes
  | .cueValueWrite .. => .store (keeps_doCueValue _)
  | .cueOwnerWrite .. => .store (keeps_doCueOwner _)
  | .takeAdvance .. => .onPart (.next ((keeps_doTakeAdvance ..).trans (keeps_settleCadun _)))
  -- the shared buffer
  | .sliceRead .. => .onAgent (.next (keeps_doSliceRead ..))
  | .sliceWrite .. => .onAgent (.next (keeps_doSliceWrite ..))
  | .addToLine .. => .onAgent (.next (keeps_doAddToLine ..))
  | .fillData .. => .onHalf (.next (keeps_doFillData ..))
  | .ebufHandover .. => .onHalf (.next (keeps_doEbufHandover ..))
  | .scratchpadAccess .. => .onAgent (.next (keeps_doScratchpad ..))
  | .segMapWrite .. => .onAgent (.next (keeps_doSegMapWrite ..))
  | .wayMapWrite .. => .onAgent (.next (keeps_doWayMapWrite ..))
  | .wayZeroDone .. => .onHalf (.next (keeps_doWayZeroDone ..))
  | .maintCommit .. => .onAgent (.next (keeps_doMaintCommit ..))
  | .prefetch .. => .onHalf (.next (keeps_opRun ..))
  | .prefetchLock .. => .onHalf (.next (keeps_opRun ..))
  | .flush .. => .onHalf (.next (keeps_opRun ..))
  | .invalidate .. => .onHalf (.next (keeps_opRun ..))
  | .flushInv .. => .onHalf (.next (keeps_opRun ..))
  | .markDead .. => .onHalf (.next (keeps_opRun ..))
  | .maintRecord .. => .onHalf (.next (keeps_doMaintRecord ..))
  | .maintFailTimeout .. => .onHalf (.next (keeps_doMaintFailTimeout ..))
  -- the memory stacks
  | .memorySectorRead .. => .onHalf (.next (keeps_performKind ..))
  | .memorySectorWrite .. => .onHalf (.next (keeps_performKind ..))
  | .wcbAgeExpire .. => .onHalf (.next (keeps_doWcbAge ..))
  | .memorySideAdd .. => .onHalf (.next (keeps_performKind ..))
  | .tempReading .. => .onHalf (.next (keeps_doTempReading ..))
  | .thermalReturn .. => .onHalf (.next (keeps_doThermalReturn ..))
  | .holdExpire .. => .onHalf (.next (keeps_doHoldExpire ..))
  | .recalibration .. => .onHalf (.next (keeps_doRecalibration ..))
  | .scrubRead .. => .onHalf (.next (keeps_doScrub ..))
  | .stackLost .. => .onHalf (.next (keeps_degradeStack ..))
  | .stackTempReadFail .. => .onHalf (.next (keeps_doTempReadFail ..))
  | .catastrophicTemp .. => .onHalf (.next (keeps_degradeStack ..))
  | .stackTrain .. => .onHalf (.next (keeps_doStackTrain ..))
  | .tgStart .. => .store (keeps_tgGoAct _)
  | .tgStop .. => .store (keeps_tgGoAct _)
  | .tgPassesDone .. => .onHalf (.next (keeps_doTgDone ..))
  -- requests at the home
  | .rdS .. => .onHolder ..
  | .rdX .. => .onHolder ..
  | .upgrade .. => .onHolder ..
  | .rdNc .. => .onHolder ..
  | .wrNc .. => .onHolder ..
  | .addNc .. => .onHolder ..
  | .joinA .. => .onHolder ..
  | .atomic .. => .onHolder ..
  | .wb .. => .onHolder ..
  | .mergeA .. => .onHolder ..
  | .evictE .. => .onHolder ..
  | .renew .. => .onHolder ..
  -- far caches and the home
  | .inv .. => .onHalf (.next (keeps_doInv ..))
  | .recall .. => .onHalf (.next (keeps_doRecall ..))
  | .downgrade .. => .onHalf (.next (keeps_doDowngrade ..))
  | .collect .. => .onHalf (.next (keeps_doCollect ..))
  | .data .. => .onHalf (.next (keeps_doData ..))
  | .grant .. => .onHalf (.next (keeps_doGrant ..))
  | .ackLocal .. => .onHalf (.next (keeps_doAckLocal ..))
  | .ackGlobal .. => .onHalf (.next (keeps_doAckGlobal ..))
  | .atomicResult .. => .onHalf (.next (keeps_doAtomicResult ..))
  | .snoopAck .. => .onHalf (.next (keeps_doSnoopAck ..))
  | .snoopData .. => .onHalf (.next (keeps_doSnoopData ..))
  | .ack .. => .onHalf (.next (keeps_doAck ..))
  | .nack .. => .onHalf (.next (keeps_doNack ..))
  | .retry .. => .onHalf (.next (keeps_doRetry ..))
  | .retryResend .. => .onHalf (.next (keeps_doRetryResend ..))
  | .error .. => .onHalf (.next (keeps_doError ..))
  | .farCacheAccess .. => .onAgent (.next (keeps_doFarCacheAccess ..))
  | .leaseGiveUp .. => .onHalf (.next (keeps_doLeaseGiveUp ..))
  | .leaseDeadline .. => .onHalf (.next (keeps_doLeaseDeadline ..))
  | .reqTimeout .. => .onHalf (.next (keeps_doReqTimeout ..))
  | .rpCollectTimeout .. => .onHalf (.next (keeps_doRpCollectTimeout ..))
  -- the Slate
  | .slatePoint .. => .next (keeps_doSlatePoint ..)
  | .slateStreamStart .. => .next (keeps_doSlateStream ..)
  | .slateComplete .. => .next (keeps_doSlateComplete ..)
  -- Dolly and Storyboard
  | .dqEnable .. => .store (keeps_dqCtlAct _)
  | .dqDisable .. => .onAgent (.next (keeps_dqCtlWrite ..))
  | .dqStop .. => .onAgent (.next (keeps_dqCtlWrite ..))
  | .dqResume .. => .onAgent (.next (keeps_dqCtlWrite ..))
  | .doorbell .. => .store (keeps_dqTailAct _)
  | .dqRecHeadWrite .. => .store (keeps_dqRecHeadAct _)
  | .descriptorRead .. => .onHalf (.next (keeps_doDescriptorRead ..))
  | .nop .. => .onHalf (.next (keeps_doNop ..))
  | .copy .. => .onHalf (.next (keeps_doCopy ..))
  | .add .. => .onHalf (.next (keeps_doAddDesc ..))
  | .fill .. => .onHalf (.next (keeps_doFill ..))
  | .gather .. => .onHalf (.next (keeps_doGather ..))
  | .scatter .. => .onHalf (.next (keeps_doScatter ..))
  | .mcast .. => .onHalf (.next (keeps_doMcast ..))
  | .mcastBranchTimeout .. => .onHalf (.next (keeps_doMcastTimeout ..))
  | .rdmaWrite .. => .onHalf (.next (keeps_doRdmaWrite ..))
  | .rdmaRead .. => .onHalf (.next (keeps_doRdmaRead ..))
  | .reel .. => .onHalf (.next (keeps_doReel ..))
  | .rsignal .. => .onHalf (.next (keeps_doRsignal ..))
  | .descriptorComplete .. => .onHalf (.next (keeps_doDescComplete ..))
  | .rsignalReceive .. => .next (keeps_doRsignalReceive ..)
  | .rsigAck .. => .next (keeps_doRsigAck ..)
  | .rsigRefused .. => .next (keeps_doRsigRefused ..)
  | .reelValidWrite .. => .store (keeps_reelIdAct _)
  | .block .. => .next (keeps_doBlock ..)
  | .arrival .. => .next (keeps_doArrival ..)
  | .arrivalAck .. => .next (keeps_doArrivalAck ..)
  | .reelFree .. => .onHalf (.next (keeps_doReelFree ..))
  | .credit .. => .next (keeps_doCredit ..)
  -- neighbour ports
  | .portEnable .. => .store (keeps_portCtlAct _)
  | .portTrainingTimeout .. => .onPort (.next (keeps_doPortTrainTimeout ..))
  | .portUp .. => .onPort (.next (keeps_doPortUp ..))
  | .dataFlit .. => .onPort (.next (keeps_doDataFlit ..))
  | .ctrlFlit .. => .onPort (.next (keeps_doCtrlFlit ..))
  | .nakTimer .. => .onPort (.next (keeps_doNakTimer ..))
  | .ackTimer .. => .onPort (.next (keeps_doAckTimer ..))
  | .ackStallTimeout .. => .onPort (.next (keeps_doAckStall ..))
  | .lossOfSignal .. => .onPort (.next (keeps_doLossOfSignal ..))
  | .linkInfo .. => .onPort (.next (keeps_doLinkInfo ..))
  | .packetDeliver .. => .onPort (.next (keeps_doPacketDeliver ..))
  | .packetForward .. => .onPort (.next (keeps_doPacketForward ..))
  | .mcPacket .. => .onPort (.next (keeps_doMcPacket ..))
  | .mcHoldExpire .. => .next ((keeps_doMcHoldExpire ..).trans (keeps_mcDrops _))
  | .mcAck .. => .next ((keeps_doMcAck ..).trans (keeps_mcDrops _))
  -- collectives
  | .collValidWrite .. => .store (keeps_collIdAct _)
  | .localArrival .. => .onHalf (.next (keeps_doLocalArrival ..))
  | .arrive .. => .next (keeps_doArrive ..)
  | .depart .. => .next (keeps_doDepart ..)
  | .childWaitTimeout .. => .onHalf (.next (keeps_doChildTimeout ..))
  | .departWaitTimeout .. => .onHalf (.next (keeps_doDepartTimeout ..))
  | .bandNotice .. => .onHalf (.next (keeps_doBandNotice ..))
  | .delayNotice .. => .next (keeps_doDelayNotice ..)
  | .extend .. => .next (keeps_doExtend ..)
  -- regulators
  | .windowBoundary .. => .onHalf (.next (keeps_doWindowBoundary ..))
  -- Zoram
  | .frameReceive .. => .onBundle (.next (keeps_doFrame ..))
  | .linkFlit .. => .onBundle (.next (keeps_doLinkFlit ..))
  | .bundleRetrain b _ _ => .onBundle (.next (by
    cases b with
    | z => exact .ite (.refl s) ((keeps_retrainCore ..).trans (keeps_bundlesCheck _))
    | site => exact keeps_retrainCore ..))
  | .bundleListChange .. => .onSide (.next (keeps_doBundleList ..))
  | .zoramAgeDiscard .. => .onBundle (.next (keeps_doZoramAge ..))
  | .zoramTraining .. => .onPart (.next (.ite (.refl s) ((keeps_trainAll ..).trans (keeps_bundlesCheck _))))
  -- the sideband
  | .sbAck .. => .onSb (.next (keeps_doSbAck ..))
  | .sidebandResend .. => .onSb (.next (keeps_doSbResend ..))
  | .sidebandStageTimeout .. => .onSb (.next (keeps_doSbStageTimeout ..))
  | .ts1 .. => .onSb (.next ((keeps_sideGot ..).trans (keeps_doTs1 ..)))
  | .tapReq .. => .onSb (.next ((keeps_sideGot ..).trans (keeps_doTapReq ..)))
  | .tapAck .. => .onSb (.next ((keeps_sideGot ..).trans (keeps_doTapAck ..)))
  | .sbLaneLoss .. => .onSb (.next (keeps_doSbLaneLoss ..))
  | .eyeGo _ (.half _ _) _ => .store (keeps_eyeAct _ _ _)
  | .eyeGo _ (.site _) _ => .store (keeps_eyeAct _ _ _)
  | .eyeScanDone .. => .onSb (.next (keeps_doEyeScanDone ..))
  | .cap .. => .onSb (.next ((keeps_sideGot ..).trans (keeps_doCap ..)))
  | .capGrant .. => .onSb (.next ((keeps_sideGot ..).trans (keeps_doCapGrant ..)))
  | .splice .. => .onBundle (.next ((keeps_sideGot ..).trans (keeps_doSplice ..)))
  | .bundleState .. => .onBundle (.next ((keeps_sideGot ..).trans (keeps_doBundleState ..)))
  -- halves and guest sites
  | .resetNotice .. => .onHalf (.next ((keeps_sideGot ..).trans (keeps_doResetNotice ..)))
  | .fenceH1 .. => .onHalf (.next (keeps_fenceH1 ..))
  | .h0LossAtH1 => .onHalf (.next (keeps_h1Loses ..))
  | .guestMessage .. => .onHalf (.next (keeps_doGuestMessage ..))
  | .snoopLimitExpire .. => .onHalf (.next (keeps_doSnoopLimit ..))
  | .guestSiteFence .. => .onHalf (.next (keeps_fenceSite ..))
  | .fence .. => .onHalf (.next (keeps_doGuestFence ..))
  | .gsOpenWrite .. => .store (keeps_gsWriteAct _)
  | .signal .. => .onSide (.next (keeps_cueFrom (fun _ => keeps_sendCue ..) (fun _ => keeps_doSignal ..) ..))
  | .wait .. => .onSide (.next (keeps_cueFrom (fun _ => keeps_sendCue ..) (fun _ => keeps_doWait ..) ..))
  | .waitDone .. => .onHalf (.next (keeps_doWaitDone ..))
  | .cfgRd .. => .onSide (.next (keeps_doZCfg ..))
  | .cfgWr .. => .onSide (.next (keeps_doZCfg ..))
  | .band .. => .onPart (.next (keeps_doBand ..))
  -- the host port
  | .ethFrameReceive .. => .next (keeps_doEthFrame ..)
  | .hostLinkDown => .next (keeps_doHostDown ..)
  | .hostLinkUp => .next (keeps_doHostUp ..)
  | .announceTimer => .next (keeps_doAnnounceTimer ..)
  | .discover .. => .next (keeps_doDiscover ..)
  | .rdmaWriteRequest .. => .next (keeps_doRdmaWriteReq ..)
  | .rdmaReadRequest .. => .next (keeps_doRdmaReadReq ..)
  | .fetchAdd .. => .next (keeps_hostAtomic ..)
  | .cmpSwap .. => .next (keeps_hostAtomic ..)
  | .roceResponse .. => .next (keeps_doRoceResponse ..)
  | .roceAckTimeout .. => .next (keeps_doRoceTimeout ..)
  | .pfcFrame .. => .next (keeps_doPfc ..)
  | .congestionNotification .. => .next (keeps_doCnp ..)
  | .rateRecovery .. => .next (keeps_doRateRecovery ..)
  | .ctOpen .. => .next (keeps_doOpen ..)
  | .ctClose .. => .next (keeps_doClose ..)
  | .entries .. => .next (keeps_doEntries ..)
  | .ctAck .. => .next (keeps_doCtAck ..)
  | .ctResend .. => .next (keeps_doCtResend ..)
  | .sessionLostTimeout .. => .next (keeps_doLostTimeout ..)
  | .autoPending .. => .next (keeps_doAutoPending ..)
  | .sesCmdDb .. => .store (keeps_sesCmdDbAct _)
  | .sesCplHead .. => .store (keeps_sesCplHeadAct _)
  -- commands of Cadun
  | .devInfo .. => .cmd keeps_cmdDevInfo
  | .deviceIdSet .. => .cmd keeps_cmdDeviceIdSet
  | .deviceReset .. => .cmd keeps_cmdDeviceReset
  | .funcCreate .. => .cmd keeps_cmdFuncCreate
  | .funcDestroy .. => .cmd keeps_cmdFuncDestroy
  | .cut .. => .cmd keeps_cmdCut
  | .funcQuery .. => .cmd keeps_cmdFuncQuery
  | .clusterAssign .. => .cmd keeps_cmdClusterAssign
  | .clusterRelease .. => .cmd keeps_cmdClusterRelease
  | .partCreate .. => .cmd keeps_cmdPartCreate
  | .partResize .. => .cmd keeps_cmdPartResize
  | .partDestroy .. => .cmd keeps_cmdPartDestroy
  | .waysSet .. => .cmd keeps_cmdWaysSet
  | .partExport .. => .cmd keeps_cmdPartExport
  | .cueAlloc .. => .cmd keeps_cmdCueAlloc
  | .cueFree .. => .cmd keeps_cmdCueFree
  | .dqAlloc .. => .cmd keeps_cmdDqAlloc
  | .dqFree .. => .cmd keeps_cmdDqFree
  | .regAlloc .. => .cmd keeps_cmdRegAlloc
  | .regFree .. => .cmd keeps_cmdRegFree
  | .regSet .. => .cmd keeps_cmdRegSet
  | .qpAlloc .. => .cmd keeps_cmdQpAlloc
  | .qpModify .. => .cmd keeps_cmdQpModify
  | .qpFree .. => .cmd keeps_cmdQpFree
  | .mkCreate .. => .cmd keeps_cmdMkCreate
  | .mkDestroy .. => .cmd keeps_cmdMkDestroy
  | .sessionLocal .. => .cmd keeps_cmdSessionLocal
  | .sessionClose .. => .cmd keeps_cmdSessionClose
  | .groupSet .. => .cmd keeps_cmdGroupSet
  | .routeLoad .. => .cmd keeps_cmdRouteLoad
  | .slateArm .. => .cmd keeps_cmdSlateArm
  | .slateAbort .. => .cmd keeps_cmdSlateAbort
  | .guestOpen .. => .cmd keeps_cmdGuestOpen
  | .guestFence .. => .cmd keeps_cmdGuestFence
  | .h1Fence .. => .cmd keeps_cmdH1Fence
  | .h1Rejoin .. => .cmd (keeps_cmdH1Rejoin _)
  | .stackMaint .. => .cmd (keeps_cmdStackMaint _)
  | .retiredList .. => .cmd keeps_cmdRetiredList
  | .fieldRead .. => .cmd keeps_cmdFieldRead
  | .fieldWrite .. => .cmd keeps_cmdFieldWrite
  | .fieldWriteGroup .. => .cmd keeps_cmdFieldWriteGroup
  | .settingsStore .. => .cmd keeps_cmdSettingsStore
  | .fwWrite .. => .cmd (keeps_cmdFwWrite _)
  | .fwActivate .. => .cmd keeps_cmdFwActivate
  | .attestQuote .. => .cmd keeps_cmdAttestQuote
  | .identityRead .. => .cmd keeps_cmdIdentityRead
  -- processors, power and clocks
  | .mpHello .. => .onHalf (.next ((keeps_sideGot ..).trans (keeps_doMpHello ..)))
  | .mpWork .. => .onHalf (.next ((keeps_sideGot ..).trans (keeps_doMpWork ..)))
  | .mpDone .. => .onHalf (.next ((keeps_sideGot ..).trans (keeps_doMpDone ..)))
  | .mpBeat .. => .onHalf (.next (keeps_doMpBeat ..))
  | .mpBeatLoss => .onHalf (.next (keeps_doMpBeatLoss ..))
  | .watchdogExpire .. => .onHalf (.next (keeps_doWatchdog ..))
  | .domainGate .. => .onHalf (.next (keeps_doDomainGate ..))
  | .domainWake .. => .onHalf (.next (keeps_doDomainWake ..))
  | .buckFault .. => .onHalf (.next (keeps_doBuckFault ..))
  | .vinFastThreshold => .next (keeps_doVinFast ..)
  | .vinTrip .. => .next (keeps_doVinTrip ..)
  | .gfReport .. => .onHalf (.next ((keeps_sideGot ..).trans (keeps_doGfReport ..)))
  | .gfGrant .. => .onHalf (.next ((keeps_sideGot ..).trans (keeps_doGfGrant ..)))
  | .grantAckTimeout => .onHalf (.next (keeps_doGrantTimeout ..))
  | .gafferFallback .. => .onHalf (.next (keeps_doFallback ..))
  | .throttleAdjust .. => .onHalf (.next (keeps_doThrottle ..))
  | .dieSensorRead .. => .onHalf (.next (keeps_doDieSensor ..))
  | .clockLoss .. => .onHalf (.next (keeps_doClockLoss ..))
  | .timeSet .. => .onHalf (.next ((keeps_sideGot ..).trans (keeps_doTimeSet ..)))
  | .tripNotice .. => .onHalf (.next ((keeps_sideGot ..).trans (keeps_doTripNotice ..)))
  -- boot
  | .coldBoot .. => .next (keeps_doColdBoot ..)
  | .bootHoldRelease .. => .next (keeps_doHoldRelease ..)
  | .bootGo .. => .onHalf (.next ((keeps_sideGot ..).trans (keeps_bootGoAt ..)))
  | .h1Reset => .onHalf (.next (keeps_doH1Reset ..))
  | .floorRaise => .next (keeps_doFloorRaise ..)
  -- Dailies
  | .dailiesRecord .. => .onHalf (.next (keeps_doDailiesRecord ..))
  | .dailiesRead .. => .onHalf (.next (keeps_doDailiesRead ..))
  | .sample .. => .onHalf (.next (keeps_doSample ..))
  -- pins
  | .i3cPointerWrite .. => .onHalf (.next (keeps_doI3cPointer ..))
  | .i3cRead .. => .onHalf (.next (keeps_doI3cRead ..))
  | .bypass .. => .onHalf (.next (keeps_doBypass ..))
  | .idcode .. => .onHalf (.next (keeps_doIdcode ..))
  | .samplePreload .. => .onHalf (.next (keeps_doSamplePreload ..))
  | .extest .. => .onHalf (.next (keeps_doExtest ..))
  | .modPresentChange .. => .next (keeps_doModPresent ..)
  -- timers and conditions of the blocks above
  | .commandBusParityError .. => .onHalf (.next (keeps_doCommandParity ..))
  | .leaseEnd .. => .onHalf (.next (keeps_doLeaseEnd ..))
  | .refreshManagementRequest .. => .onHalf (.next (.ite (keeps_bumpWrap ..) (.refl s)))
  | .perBankRefresh .. => .onHalf (.next (keeps_doRefresh ..))
  | .resetNAssert => .next (keeps_doResetN ..)
  | .pwrGoodHigh => .next (keeps_doPwrGood ..)
  | .vinMainRestored => .next (keeps_doVinRestored ..)
  | .refclkAonReturn => .next (keeps_doRefReturn ..)
  | .dynamicAddressAssignment .. => .onHalf (.next (keeps_doDaa ..))
  | .duplicateAddressDetectionEnd .. => .next (keeps_doDadEnd ..)

/-- Settles O60: the waiting command at the front leaves the queue, and its effect keeps the rest of it; with none
waiting, only the clock goes on. -/
theorem stepsKeepThePartAndTheQueue : Obligations.StepsKeepThePartAndTheQueue := by
  intro s s' hs
  cases hp : s.pending with
  | nil =>
    obtain rfl : tick s = s' := by simpa [step, hp] using hs
    exact ⟨rfl, hp, (keeps_tick s).clock, id⟩
  | cons c rest =>
    obtain ⟨hpart, hpending, hclock, hmem, hpad⟩ :=
      (exec_keeps c { s with pending := rest }).use (by simpa [step, hp] using hs)
    exact ⟨hpart, hpending, hclock, fun ⟨hm, hb⟩ => ⟨hmem hm, hpad hb⟩⟩

/-! ### Accesses of the base's agents (R25, R29, R119, R132) -/

section AgentAccess

variable {ag : Agent} {addr : MemAddr} {tag a : Nat} {err : SliceErr} {s : State}

/-- No access is performed before an acquire of its agent that is still out. -/
theorem doSliceRead_waits (mask : Fin 16) (h : acquirePending s ag = true) : doSliceRead ag addr mask tag err s = s := by
  simp [doSliceRead, h]

theorem doSliceWrite_waits (secs : List (Fin 4 × SecWr)) (h : acquirePending s ag = true) :
    doSliceWrite ag addr secs tag err s = s := by
  simp [doSliceWrite, h]

theorem doAddToLine_waits (ro : RedOp) (secs : LinePart) (h : acquirePending s ag = true) :
    doAddToLine ag addr ro secs tag err s = s := by
  simp [doAddToLine, h]

/-- An access to the base's own memory goes to the scratchpad, to the line, or is refused. -/
theorem doSliceRead_dpa (mask : Fin 16) (h : acquirePending s ag = false) (ht : targetOf s addr = .dpa a) :
    doSliceRead ag addr mask tag err s =
      if region s a = .scratch then padAccess ag a tag (.read mask) err s
      else if mayAccess s ag a then lineAccess ag a tag ((maskSecs mask.val).map fun i => (i.val, .read)) err s
      else refuseAccess ag a tag s := by
  simp [doSliceRead, h, ht]

theorem doSliceWrite_dpa (secs : List (Fin 4 × SecWr)) (h : acquirePending s ag = false)
    (ht : targetOf s addr = .dpa a) :
    doSliceWrite ag addr secs tag err s =
      if region s a = .scratch then padAccess ag a tag (.write secs) err s
      else if mayAccess s ag a then lineAccess ag a tag (secs.map fun x => (x.1.val, .write x.2)) err s
      else refuseAccess ag a tag s := by
  simp [doSliceWrite, h, ht]

/-- An add to the other half's memory may combine in a far cache on its way. -/
theorem doAddToLine_dpa (ro : RedOp) (secs : LinePart) (h : acquirePending s ag = false)
    (ht : targetOf s addr = .dpa a) :
    doAddToLine ag addr ro secs tag err s =
      if region s a = .scratch then padAccess ag a tag (.add ro secs) err s
      else if mayAccess s ag a then
        if farCombines s ag a then farCombine ag a ro secs tag s
        else lineAccess ag a tag (secs.map fun x => (x.1.val, .add ⟨ro, x.2.1, x.2.2⟩)) err s
      else refuseAccess ag a tag s := by
  cases hm : mayAccess s ag a <;> simp [doAddToLine, h, ht, hm]

end AgentAccess

/-- Settles O10. -/
theorem accessesReachTheSlice : Obligations.AccessesReachTheSlice := by
  refine ⟨?_, ?_, ?_, ?_, ?_, ?_⟩
  · intro ag addr mask tag a err s hag hacq ht hr hm
    simp only [exec, execSliceRead, onAgent_next hag, doSliceRead_dpa _ hacq ht, if_neg hr, if_pos hm]
  · intro ag addr secs tag a err s hag hacq ht hr hm
    simp only [exec, execSliceWrite, onAgent_next hag, doSliceWrite_dpa _ hacq ht, if_neg hr, if_pos hm]
  · intro ag addr ro secs tag a err s hag hacq ht hr hm
    simp only [exec, execAddToLine, onAgent_next hag, doAddToLine_dpa _ _ hacq ht, if_neg hr, if_pos hm]
  · intro ag addr mask secs ro part tag a err s hag hacq ht hr hm
    simp [exec, execSliceRead, execSliceWrite, execAddToLine, onAgent_next hag, doSliceRead_dpa _ hacq ht,
      doSliceWrite_dpa _ hacq ht, doAddToLine_dpa _ _ hacq ht, hr, hm]
  · intro ag addr mask secs ro part tag a err s hag hacq ht hr
    simp only [exec, execSliceRead, execSliceWrite, execAddToLine, onAgent_next hag, doSliceRead_dpa _ hacq ht,
      doSliceWrite_dpa _ hacq ht, doAddToLine_dpa _ _ hacq ht, if_pos hr, and_self]
  · intro ag addr mask secs ro part tag err s hag hacq
    simp only [exec, execSliceRead, execSliceWrite, execAddToLine, onAgent_next hag, doSliceRead_waits _ hacq,
      doSliceWrite_waits _ hacq, doAddToLine_waits _ _ hacq, and_self]

/-! ### Far caches: leases and accesses (R30, R184, R191, R207) -/

section FarCaches

variable {h : Half} {set way : Nat} {l : FarLine} {s : State}

/-- Lines of the base itself have no lease, so that neither its end nor its last quarter comes. -/
theorem doLeaseEnd_own (hl : farAt s (farKey h set way) = some l) (ho : gaOwn s l.ga = true) :
    doLeaseEnd h set way s = s := by
  simp [doLeaseEnd, hl, ho]

theorem doLeaseGiveUp_own (hl : farAt s (farKey h set way) = some l) (ho : gaOwn s l.ga = true) :
    doLeaseGiveUp h set way s = s := by
  simp [doLeaseGiveUp, hl, ho]

theorem doLeaseEnd_remote (hl : farAt s (farKey h set way) = some l) (ho : gaOwn s l.ga = false) :
    doLeaseEnd h set way s = expireLine h (farKey h set way) l (atTime l.lease s) := by
  simp [doLeaseEnd, hl, ho]

theorem doLeaseGiveUp_remote (hl : farAt s (farKey h set way) = some l) (ho : gaOwn s l.ga = false) :
    doLeaseGiveUp h set way s = (giveUp h (farKey h set way) l (atTime (l.lease - l.leaseLen * 160 + 1) s)).1 := by
  simp [doLeaseGiveUp, hl, ho]

variable {ag : Agent} {ga : W64} {op : FarOp} {rtag : Nat}

/-- An access that its order makes wait changes nothing. -/
theorem doFarCacheAccess_waits (err : SliceErr) (hw : orderWaits s ag (opOrder op).1 (opOrder op).2 = true) :
    doFarCacheAccess ag ga op rtag err s = s := by
  simp [doFarCacheAccess, hw]

/-- An access that need not wait and names no memory of this base is one of remote memory. -/
theorem doFarCacheAccess_remote (hw : orderWaits s ag (opOrder op).1 (opOrder op).2 = false)
    (ho : (idOk s && gaOwn s ga) = false) : doFarCacheAccess ag ga op rtag .none s = farAccess ag ga op rtag s := by
  simp only [doFarCacheAccess, hw, farErr, ho, Bool.false_eq_true, if_false]

/-- Without a valid identifier no GA names a device (R30). -/
theorem farAccess_noId (hi : idOk s = false) : farAccess ag ga op rtag s = farRefuse ag ga rtag s := by
  simp [farAccess, hi]

theorem farAccess_closed (hi : idOk s = true) (hg : groupOpen s = false) :
    farAccess ag ga op rtag s = farFail ag ((agentFunc s ag).getD 0) op rtag ga 0 s := by
  simp [farAccess, hi, hg]

theorem farAccess_open (hi : idOk s = true) (hg : groupOpen s = true) :
    farAccess ag ga op rtag s = farCacheOp (farHalf s ga) ag ga op rtag s := by
  simp [farAccess, hi, hg]

end FarCaches

/-- Settles O21. -/
theorem leasesOfAFarCache : Obligations.LeasesOfAFarCache := by
  refine ⟨?_, ?_, ?_, ?_, ?_, ?_⟩
  · intro h set way s l hh hl ho
    simp only [exec, execLeaseEnd, execLeaseGiveUp, onHalf_next hh, doLeaseEnd_remote hl ho,
      doLeaseGiveUp_remote hl ho, and_true]
    cases hst : l.st <;> simp only [expireLine, hst]
  · intro h set way s l hh hl ho
    simp only [exec, execLeaseEnd, execLeaseGiveUp, onHalf_next hh, doLeaseEnd_own hl ho, doLeaseGiveUp_own hl ho,
      and_self]
  · intro ag ga op rtag s hag hw hi ho hg
    have hr : (idOk s && gaOwn s ga) = false := by simp [ho]
    simp only [exec, execFarCacheAccess, onAgent_next hag, doFarCacheAccess_remote hw hr,
      farAccess_open hi hg]
  · intro ag ga op rtag s hag hw hi ho hg
    have hr : (idOk s && gaOwn s ga) = false := by simp [ho]
    simp only [exec, execFarCacheAccess, onAgent_next hag, doFarCacheAccess_remote hw hr,
      farAccess_closed hi hg]
  · intro ag ga op rtag s hag hw hi
    have hr : (idOk s && gaOwn s ga) = false := by simp [hi]
    simp only [exec, execFarCacheAccess, onAgent_next hag, doFarCacheAccess_remote hw hr,
      farAccess_noId hi]
  · intro ag ga op rtag err s hag hw
    simp only [exec, execFarCacheAccess, onAgent_next hag, doFarCacheAccess_waits err hw]

/-! ### Requests of holders at the home (R25, R28, R31, R183, R186, R187, R197) -/

/-- The requests of Continuity with what the home takes each for. -/
def holderRequests (hd : CohHdr) (mask : Fin 16) (secs : List (Fin 4 × SecWr)) (ro : RedOp) (part : LinePart)
    (a : Atomic) (off : Fin 128) (keep : Bool) : List (HKind × Instr) :=
  [(.rdS, .rdS hd), (.rdX, .rdX hd), (.upgrade, .upgrade hd), (.rdNc mask.val, .rdNc hd mask),
    (.wrNc secs, .wrNc hd secs), (.addNc ro part, .addNc hd ro part), (.joinA ro, .joinA hd ro),
    (.atomic a off.val, .atomic hd a off), (.wb keep part, .wb hd keep part), (.mergeA ro part, .mergeA hd ro part),
    (.evictE, .evictE hd), (.renew, .renew hd)]

section HolderRequests

variable {s : State} {hd : CohHdr} {kind : HKind}

/-- Each of the twelve requests is its header's request of its kind at the home. -/
theorem exec_holderRequest {mask : Fin 16} {secs : List (Fin 4 × SecWr)} {ro : RedOp} {part : LinePart} {a : Atomic}
    {off : Fin 128} {keep : Bool} {cmd : Instr} (hc : (kind, cmd) ∈ holderRequests hd mask secs ro part a off keep)
    (hh : holderThere s hd.src = true) : exec cmd s = .next (fromHolder hd kind s) := by
  have hall : ∀ x ∈ holderRequests hd mask secs ro part a off keep, exec x.2 s = onHolder s hd x.1 := by
    simp only [holderRequests, List.forall_mem_cons]
    exact ⟨rfl, rfl, rfl, rfl, rfl, rfl, rfl, rfl, rfl, rfl, rfl, rfl, List.forall_mem_nil _⟩
  exact (hall _ hc).trans (onPart_next hh)

/-! What `fromHolder` does with a request. -/

theorem fromHolder_refused {c : Nat} (h : holderCheck s hd kind hd.addr = some c) :
    fromHolder hd kind s = holderRefuse hd kind hd.addr c s := by
  simp [fromHolder, h]

theorem fromHolder_waits (h : holderCheck s hd kind hd.addr = none) (hw : guestWaits s hd kind = true) :
    fromHolder hd kind s = s := by
  simp [fromHolder, h, hw]

theorem fromHolder_goes (h : holderCheck s hd kind hd.addr = none) (hw : guestWaits s hd kind = false) :
    fromHolder hd kind s =
      settleSlates (holderGo hd kind hd.addr false (epochTrigger hd (gaDpa (gaLine hd.addr)) s)) := by
  simp [fromHolder, h, hw]

/-- A request goes to the home slice of its line, unless it is a guest's add that combines in a far cache. -/
theorem holderGo_home {ga : W64} {multi : Bool} {p : Nat × Nat} (hp : homeOf s (gaDpa (gaLine ga)) = some p)
    (hf : ∀ ag ro l, guestOf hd = some ag → kind = .addNc ro l → farCombines s ag (gaDpa (gaLine ga)) = false) :
    holderGo hd kind ga multi s = homeArrive (holderReq hd kind p s.clock multi) s := by
  simp only [holderGo, hp]
  split
  next ro l ag hg => simp [hf ag ro l hg rfl]
  next => rfl

theorem holderGo_combines {ga : W64} {multi : Bool} {p : Nat × Nat} {ag : Agent} {ro : RedOp} {l : LinePart}
    (hp : homeOf s (gaDpa (gaLine ga)) = some p) (hg : guestOf hd = some ag)
    (hf : farCombines s ag (gaDpa (gaLine ga)) = true) :
    holderGo hd (.addNc ro l) ga multi s = farCombine ag (gaDpa (gaLine ga)) ro l hd.tag.val s := by
  simp only [holderGo, hp, hg, if_pos hf]

/-! A member's request (R186). -/

section Member

variable {m : Fin 4096} (hs : hd.src = .member m)
include hs

theorem holderCheck_notMember (h : groupOpen s = false ∨ rbit s .member m.val 16 = false) :
    holderCheck s hd kind hd.addr = some 1 := by
  rcases h with h | h <;> simp [holderCheck, hs, h]

/-- What a member that is listed in the open group may be refused for. -/
theorem holderCheck_member (hg : groupOpen s = true) (hm : rbit s .member m.val 16 = true) :
    holderCheck s hd kind hd.addr =
      if idOk s = false ∨ gaDev hd.addr ≠ ownDev s then some 3
      else if region s (gaDpa (gaLine hd.addr)) ≠ .memory ∨
        rbit s .segExport (gaDpa (gaLine hd.addr) / 2 ^ 30) 0 = false then some 2
      else if inMapped s (gaDpa (gaLine hd.addr)) = false ∨ homeOf s (gaDpa (gaLine hd.addr)) = none then some 3
      else none := by
  simp [holderCheck, hs, hg, hm]

/-- A member's request that passes the checks. -/
theorem holderCheck_member_served (hg : groupOpen s = true) (hm : rbit s .member m.val 16 = true)
    (hi : idOk s = true) (hd' : gaDev hd.addr = ownDev s) (hr : region s (gaDpa (gaLine hd.addr)) = .memory)
    (he : rbit s .segExport (gaDpa (gaLine hd.addr) / 2 ^ 30) 0 = true)
    (hmap : inMapped s (gaDpa (gaLine hd.addr)) = true) (hh : homeOf s (gaDpa (gaLine hd.addr)) ≠ none) :
    holderCheck s hd kind hd.addr = none := by
  rw [holderCheck_member hs hg hm, if_neg (by simp [hi, hd']),
    if_neg (not_or.2 ⟨not_not.2 hr, ne_false_of_eq_true he⟩), if_neg (by simp [hmap, hh])]

theorem guestOf_member : guestOf hd = none := by simp [guestOf, hs]

theorem guestWaits_member : guestWaits s hd kind = false := by simp [guestWaits, guestOf_member hs]

theorem holderRefuse_member (c : Nat) (ga : W64) :
    holderRefuse hd kind ga c s =
      let t := if c = 2 ∧ region s (gaDpa (gaLine ga)) = .config then
        cfgEvent (.remote (memberDev s m.val)) (gaDpa (gaLine ga)) 25 s else s
      answerError (mkReq (some hd) none kind 0 0 t.clock false) c t := by
  simp only [holderRefuse, hs]

end Member

/-! A guest's request (R183, R187). -/

section Guest

variable {g : Fin 4} (hs : hd.src = .site g)
include hs

/-- A guest die reaches its function's memory, and holds copies while its site is attached as a coherent agent. -/
theorem holderCheck_guest :
    holderCheck s hd kind hd.addr =
      if inFuncMem s (siteFunc s g.val) (gaDpa (gaLine hd.addr)) = false ∨ homeOf s (gaDpa (gaLine hd.addr)) = none ∨
        wantsCopy kind = true ∧ ((s.zor.sites.getD g.val SiteSt.init).st ≠ 2 ∨
          (s.zor.sites.getD g.val SiteSt.init).coherent = false) then some 3
      else none := by
  simp [holderCheck, hs, or_assoc]

theorem holderCheck_guest_served {p : Nat × Nat}
    (hf : inFuncMem s (siteFunc s g.val) (gaDpa (gaLine hd.addr)) = true)
    (hp : homeOf s (gaDpa (gaLine hd.addr)) = some p)
    (hc : wantsCopy kind = true → (s.zor.sites.getD g.val SiteSt.init).st = 2 ∧
      (s.zor.sites.getD g.val SiteSt.init).coherent = true) : holderCheck s hd kind hd.addr = none := by
  rw [holderCheck_guest hs, if_neg]
  rintro (h | h | ⟨hw, h⟩)
  · simp [h] at hf
  · simp [h] at hp
  · simp [hc hw] at h

theorem guestOf_guest : guestOf hd = some (.guest g hd.func) := by simp [guestOf, hs]

/-- No guest brings a Slate point: participants are other devices. -/
theorem epochTrigger_guest (dpa : Nat) : epochTrigger hd dpa s = s := by simp [epochTrigger, hs]

theorem holderRefuse_guest (c : Nat) (ga : W64) :
    holderRefuse hd kind ga c s =
      let t := cfgEvent (.guest g hd.func) (gaDpa (gaLine ga)) 25 s
      answerError (mkReq (some hd) none kind 0 0 t.clock false) c t := by
  simp only [holderRefuse, hs]

end Guest

/-! A request of the other half's far cache (R182). -/

section OtherHalf

variable (hs : hd.src = .xFar)
include hs

theorem holderCheck_xFar (hm : inMapped s (gaDpa (gaLine hd.addr)) = true) {p : Nat × Nat}
    (hp : homeOf s (gaDpa (gaLine hd.addr)) = some p) : holderCheck s hd kind hd.addr = none := by
  simp [holderCheck, hs, hm, hp]

theorem guestOf_xFar : guestOf hd = none := by simp [guestOf, hs]

theorem guestWaits_xFar : guestWaits s hd kind = false := by simp [guestWaits, guestOf_xFar hs]

theorem epochTrigger_xFar (dpa : Nat) : epochTrigger hd dpa s = s := by simp [epochTrigger, hs]

end OtherHalf

end HolderRequests

/-- Settles O16. -/
theorem homeRequestsAreChecked : Obligations.HomeRequestsAreChecked := by
  intro hd mask secs ro part a off keep kind cmd s hc hh dpa s1 refusal
  rw [exec_holderRequest hc hh]
  refine ⟨?_, ?_, ?_, ?_, ?_, ?_, ?_⟩
  · intro m p hs hg hm hi hd' hr he hmap hhome hp
    have hck := holderCheck_member_served (kind := kind) hs hg hm hi hd' hr he hmap hhome
    rw [fromHolder_goes hck (guestWaits_member hs),
      holderGo_home hp (fun ag ro l hga => by simp [guestOf_member hs] at hga)]
  · intro m hs hn
    rw [fromHolder_refused (holderCheck_notMember hs hn), holderRefuse_member hs]
    rfl
  · intro m hs hg hm hn
    rw [fromHolder_refused ((holderCheck_member hs hg hm).trans (if_pos hn)), holderRefuse_member hs]
    rfl
  · intro m hs hg hm hi hd' hn
    have hck : holderCheck s hd kind hd.addr = some 2 := by
      rw [holderCheck_member hs hg hm, if_neg (by simp [hi, hd']), if_pos hn]
    rw [fromHolder_refused hck, holderRefuse_member hs]
    simp only [true_and]
    rfl
  · intro g p ag hs hag hf hp hcp
    have hck := holderCheck_guest_served hs hf hp hcp
    subst hag
    refine ⟨fun hw => by rw [fromHolder_waits hck hw], fun hw hfar => ?_, fun hw ro l hk hfar => ?_⟩
    all_goals rw [fromHolder_goes hck hw, epochTrigger_guest hs]
    · rw [holderGo_home hp]
      intro ag ro l hga hk
      rw [guestOf_guest hs] at hga
      cases hga
      exact hfar ro l hk
    · rw [hk, holderGo_combines hp (guestOf_guest hs) hfar]
  · intro g hs hn
    have hck : holderCheck s hd kind hd.addr = some 3 := by
      rw [holderCheck_guest hs, if_pos (hn.imp_right .inr)]
    rw [fromHolder_refused hck, holderRefuse_guest hs]
  · intro p hs hm hp
    rw [fromHolder_goes (holderCheck_xFar hs hm hp) (guestWaits_xFar hs), epochTrigger_xFar hs,
      holderGo_home hp (fun ag ro l hga => by simp [guestOf_xFar hs] at hga)]

/-! ### Cadun's work on the commands of the device (R30, R391, R404, R405, R423, R429, R435, R436, R441, R445) -/

section CommandWork

variable {c : CmdIn} {t u : State}

@[simp] theorem orElse_ok (s : State) (go : State → CmdEnd × State) : orElse csOk s go = go s := if_pos rfl

theorem orElse_bad {st : Nat} {s : State} {go : State → CmdEnd × State} (h : st ≠ csOk) :
    orElse st s go = endWith st s := if_neg h

/-- A command that has read its bytes goes on with them. -/
theorem getThen_read {a n : Nat} {b : List Byte} {go : List Byte → State → CmdEnd × State}
    (h : engBytes (.mp .h0) a n t = (some (b, false), u)) : getThen a n t go = go b u := by
  simp [getThen, h]

/-- A command that has written its bytes ends. -/
theorem putThen_written {a : Nat} {b res : List Byte} (h : engPut (.mp .h0) a b false t = (true, u)) :
    putThen a b res t = endOk res u := by
  simp [putThen, h]

/-! The device. -/

theorem cmdDeviceIdSet_open (hg : groupOpen t = true) : cmdDeviceIdSet c t = endWith csBusy t := if_pos hg

theorem cmdDeviceIdSet_closed (hg : groupOpen t = false) :
    cmdDeviceIdSet c t =
      endOk [] { t with ident := { t.ident with devId := BitVec.ofNat 16 (c.n 0 2), idValid := true } } :=
  if_neg (by simp [hg])

/-! Fields. -/

/-- The addresses that a FIELD_READ names: 32-bit fields from its address on. -/
def readAddrs (c : CmdIn) : List Nat := (List.range (c.b 8)).map (fun k => c.n 0 8 + 4 * k)

theorem cmdFieldRead_some (h0 : 0 < c.b 8) (h26 : c.b 8 ≤ 26) :
    cmdFieldRead c t = orElse (fieldChecks ((readAddrs c).map fun a => fieldCheck t c.f a none)) t fun s =>
      endOk (natLe 4 (c.b 8) ++ (fieldsRead c.f (readAddrs c) s).1) (fieldsRead c.f (readAddrs c) s).2 :=
  if_neg (by omega)

theorem cmdFieldWrite_checked (h : writeChecks c t = csOk) :
    cmdFieldWrite c t = fieldsWrite c.f 0 (fieldPairs c) t := by
  simp [cmdFieldWrite, h]

theorem cmdFieldWriteGroup_checked (h : writeChecks c t = csOk) :
    cmdFieldWriteGroup c t =
      if oneGroup t c.f (fieldPairs c) then fieldsWrite c.f 0 (fieldPairs c) t else endWith csBadArg t := by
  have harg : csOk ≠ csBadArg := by decide
  have hfen : csOk ≠ csFenced := by decide
  cases ho : oneGroup t c.f (fieldPairs c) <;> simp [cmdFieldWriteGroup, h, ho, harg, hfen]

/-! Settings and firmware. -/

/-- A record that passes the checks is stored, unless one was stored before. -/
theorem cmdSettingsStore_good {b : List Byte} (hlen : c.n 16 4 = recLen ∨ c.n 16 4 = recSigned)
    (hdpa : dpaOk t c (c.n 8 8) (c.n 16 4) = true)
    (hread : engBytes (.mp .h0) (c.n 8 8) (c.n 16 4) t = (some (b, false), u))
    (hform : recForm (c.n 16 4) b = true) (hseq : u.ident.setSeq < word4 b 8) (hsig : recSignedOk u b = true)
    (hlast : u.cad.lastStoreT = none) (hcount : u.ident.storeCount < 1900000) :
    cmdSettingsStore c t = endOk (natLe 4 (word4 b 8)) (storeRecord b u) := by
  have hargs : ¬((c.n 16 4 ≠ recLen ∧ c.n 16 4 ≠ recSigned) ∨ (!dpaOk t c (c.n 8 8) (c.n 16 4)) = true) := by
    rintro (⟨h1, h2⟩ | hd)
    · exact hlen.elim h1 h2
    · simp [hdpa] at hd
  rw [cmdSettingsStore, if_neg hargs, getThen_read hread]
  simp [hform, hsig, hlast, Nat.not_le.2 hseq, Nat.not_le.2 hcount]

section FwWrite

variable {b : List Byte} (hslot : c.b 0 < 2) (hoff : c.n 4 4 % 4096 = 0) (hpos : 0 < c.n 16 4)
  (hmax : c.n 16 4 ≤ 262144) (hfit : c.n 4 4 + c.n 16 4 ≤ slotSize) (hdpa : dpaOk t c (c.n 8 8) (c.n 16 4) = true)
  (hrun : c.b 0 ≠ b2n t.ident.runSlot)
  (hread : engBytes (.mp .h0) (c.n 8 8) (c.n 16 4) t = (some (b, false), u))
include hslot hoff hpos hmax hfit hdpa hrun hread

/-- A write of good arguments to the slot that does not run goes on with the bytes that it has read; one whose read-back
fails changes nothing (R390). -/
theorem cmdFwWrite_read (rb : Bool) :
    cmdFwWrite rb c t =
      if rb then
        let s := if preferSlot u = c.b 0 then writeCtl (b2n u.ident.runSlot) false u else u
        endOk [] (flashPut (slotBase (c.b 0) + c.n 4 4) b { s with ident := { s.ident with
          slotsWritten := if s.ident.slotsWritten.contains (c.b 0) then s.ident.slotsWritten
            else s.ident.slotsWritten ++ [c.b 0] } })
      else endWith csFailed u := by
  have hargs : ¬(2 ≤ c.b 0 ∨ c.n 4 4 % 4096 ≠ 0 ∨ c.n 16 4 = 0 ∨ 262144 < c.n 16 4 ∨ slotSize < c.n 4 4 + c.n 16 4 ∨
      (!dpaOk t c (c.n 8 8) (c.n 16 4)) = true) := by
    simp only [hdpa, Bool.not_true, Bool.false_eq_true, or_false]
    omega
  rw [cmdFwWrite, if_neg hargs, if_neg hrun, getThen_read hread]
  cases rb <;> rfl

/-- Where the slot is not the preferred one and was written before, its bytes are all that a good write changes. -/
theorem cmdFwWrite_good (hpref : preferSlot u ≠ c.b 0) (hwritten : c.b 0 ∈ u.ident.slotsWritten) :
    cmdFwWrite true c t = endOk [] (flashPut (slotBase (c.b 0) + c.n 4 4) b u) := by
  rw [cmdFwWrite_read hslot hoff hpos hmax hfit hdpa hrun hread, if_pos rfl]
  simp only [if_neg hpref, List.contains_iff_mem.2 hwritten, if_true]

end FwWrite

theorem cmdFwActivate_good {m : FwImage} (hslot : c.b 0 < 2) (hflag : c.b 1 < 2)
    (himg : slotImage t (c.b 0) = some m) (hfault : imageFault t (some m) = 0) :
    cmdFwActivate c t = endOk [] (measure 1 4 none (bytesOf 64 m.digest) (natLe 1 (c.b 0) ++ natLe 1 (c.b 1))
      (writeCtl (c.b 0) (decide (c.b 1 = 1)) t)) := by
  rw [cmdFwActivate, if_neg (by omega), himg, hfault]
  rfl

/-! Quotes and identity. -/

/-- A quote without entries of the log is written at the address named. -/
theorem cmdAttestQuote_written (hmore : c.b 40 = 0)
    (hdpa : dpaOk t c (c.n 32 8) (quoteBytes t c.f (slice 0 32 (entArgs c.e))).length = true)
    (hput : engPut (.mp .h0) (c.n 32 8) (quoteBytes t c.f (slice 0 32 (entArgs c.e))) false t = (true, u)) :
    cmdAttestQuote c t = endOk (natLe 4 (quoteBytes t c.f (slice 0 32 (entArgs c.e))).length ++
      natLe 4 t.ident.mlog.length) u := by
  have hbit : natBit 0 0 = false := by decide
  simp [cmdAttestQuote, hmore, hbit, hdpa, putThen_written hput]

/-- What an IDENTITY_READ writes: the identity record, or one of the two certificates. -/
def identityBytes (t : State) (k : Nat) : List Byte :=
  if k = 0 then idRecord t else if k = 1 then deviceCert t else aliasCert t

/-- What is asked for is written at the address named. -/
theorem cmdIdentityRead_written (hkind : c.b 0 < 3)
    (hdpa : dpaOk t c (c.n 8 8) (identityBytes t (c.b 0)).length = true)
    (hput : engPut (.mp .h0) (c.n 8 8) (identityBytes t (c.b 0)) false t = (true, u)) :
    cmdIdentityRead c t = endOk (natLe 4 (identityBytes t (c.b 0)).length) u := by
  have hsel : cmdIdentityRead c t =
      if 3 ≤ c.b 0 ∨ (!dpaOk t c (c.n 8 8) (identityBytes t (c.b 0)).length) = true then endWith csBadArg t
      else putThen (c.n 8 8) (identityBytes t (c.b 0)) (natLe 4 (identityBytes t (c.b 0)).length) t := by
    unfold cmdIdentityRead identityBytes
    split
    next h => rw [h]; rfl
    next h => rw [h]; rfl
    next h0 h1 => rw [if_neg h0, if_neg h1]
  rw [hsel, hdpa, if_neg (by simpa using hkind), putThen_written hput]

end CommandWork

/-- Settles O48. -/
theorem deviceCommands : Obligations.DeviceCommands := by
  refine ⟨?_, ?_, ?_, ?_, ?_, ?_, ?_, ?_, ?_, ?_, ?_⟩
  · intro r c s t h
    exact runCmd_ok h rfl
  · intro r c s t h
    exact ⟨fun hg => runCmd_bad h (cmdDeviceIdSet_open hg), fun hg => runCmd_ok h (cmdDeviceIdSet_closed hg)⟩
  · intro r c s t h
    exact runCmd_ok h rfl
  · intro r c s t h h0 h26 l
    refine ⟨fun hck => runCmd_ok h ?_, fun hck => runCmd_bad h ?_⟩
    · rw [cmdFieldRead_some h0 h26]
      exact if_pos hck
    · rw [cmdFieldRead_some h0 h26]
      exact if_neg hck
  · intro r c s t h hck
    simp only [exec, execFieldWrite, runCmd_taken h, cmdFieldWrite_checked hck]
  · intro r c s t h hck
    refine ⟨fun ho => runCmd_bad h ?_, fun ho => ?_⟩
    · rw [cmdFieldWriteGroup_checked hck, if_neg (by simp [ho])]
    · simp only [exec, execFieldWriteGroup, runCmd_taken h, cmdFieldWriteGroup_checked hck, if_pos ho]
  · intro r c s t u b h hlen hdpa hread hform hseq hsig hlast hcount
    exact runCmd_ok h (cmdSettingsStore_good hlen hdpa hread hform hseq hsig hlast hcount)
  · intro r rb c s t u b h hslot hoff hpos hmax hfit hdpa hrun hread
    refine ⟨?_, ?_⟩
    · rintro rfl
      exact runCmd_bad h (cmdFwWrite_read hslot hoff hpos hmax hfit hdpa hrun hread false)
    · rintro rfl hpref hw
      exact runCmd_ok h (cmdFwWrite_good hslot hoff hpos hmax hfit hdpa hrun hread hpref hw)
  · intro r c s t m h hslot hflag himg hfault
    exact runCmd_ok h (cmdFwActivate_good hslot hflag himg hfault)
  · intro r c s t u h hmore q hdpa hput
    exact runCmd_ok h (cmdAttestQuote_written hmore hdpa hput)
  · intro r c s t u b h hkind hb hdpa hput
    subst hb
    exact runCmd_ok h (cmdIdentityRead_written hkind hdpa hput)

end Sys2Proof.Machine

namespace Sys2Proof.Machine

open Sys2Proof

/-! ### Lanes of a vector register (R41, R57) -/

/-- A bit of a bit-field. -/
theorem testBit_natBits (hi lo x j : Nat) :
    (natBits hi lo x).testBit j = (decide (j < hi + 1 - lo) && x.testBit (lo + j)) := by
  simp [natBits, Nat.testBit_mod_two_pow, Nat.testBit_div_two_pow, Nat.add_comm]

/-- A replaced bit-field lies between what was above it and what was below it. -/
theorem setBits_eq (hi lo new old : Nat) :
    setBits hi lo new old =
      2 ^ lo * (2 ^ (hi + 1 - lo) * (old / 2 ^ lo / 2 ^ (hi + 1 - lo)) + new % 2 ^ (hi + 1 - lo)) + old % 2 ^ lo := by
  have hlow := Nat.div_add_mod old (2 ^ lo)
  have hhigh := congrArg (2 ^ lo * ·) (Nat.div_add_mod (old / 2 ^ lo) (2 ^ (hi + 1 - lo)))
  simp only [Nat.mul_add] at hhigh
  rw [setBits, natBits, Nat.mul_add, Nat.mul_comm _ (2 ^ lo), Nat.mul_comm _ (2 ^ lo)]
  omega

/-- A bit of a number with a bit-field replaced. -/
theorem testBit_setBits {hi lo : Nat} (h : lo ≤ hi) (new old j : Nat) :
    (setBits hi lo new old).testBit j =
      if lo ≤ j ∧ j ≤ hi then new.testBit (j - lo) else old.testBit j := by
  rw [setBits_eq, Nat.testBit_two_pow_mul_add _ (Nat.mod_lt _ (Nat.two_pow_pos _)),
    Nat.testBit_two_pow_mul_add _ (Nat.mod_lt _ (Nat.two_pow_pos _))]
  by_cases hlo : j < lo
  · simp [hlo, show ¬ lo ≤ j by omega]
  · by_cases hhi : j ≤ hi
    · simp [hlo, hhi, show lo ≤ j by omega, show j - lo < hi + 1 - lo by omega]
    · simp only [hlo, hhi, show ¬ j - lo < hi + 1 - lo by omega, and_false, if_false, Nat.testBit_div_two_pow]
      congr 1
      omega

/-- A bit of a lane. -/
theorem testBit_laneOf (r : VReg) (l b : Nat) :
    (laneOf r l).testBit b = (decide (b < 32) && r.lanes.toNat.testBit (32 * l + b)) := by
  rw [laneOf, testBit_natBits, show 32 * l + 31 + 1 - 32 * l = 32 by omega]

/-- A lane holds a word of 32 bits. -/
theorem laneOf_lt (r : VReg) (l : Nat) : laneOf r l < 2 ^ 32 := by
  rw [laneOf, natBits, show 32 * l + 31 + 1 - 32 * l = 32 by omega]
  exact Nat.mod_lt _ (Nat.two_pow_pos 32)

/-- A lane reads what was written in it, and the other lanes read as before. -/
theorem laneOf_setBits {l j : Nat} (hl : l < 32) (hj : j < 32) (v : Nat) (r : VReg) (po : W32) :
    laneOf ⟨BitVec.ofNat 1024 (setBits (32 * l + 31) (32 * l) v r.lanes.toNat), po⟩ j =
      if j = l then v % 2 ^ 32 else laneOf r j := by
  refine Nat.eq_of_testBit_eq fun b => ?_
  rw [testBit_laneOf, BitVec.testBit_toNat, BitVec.getLsbD_ofNat, testBit_setBits (by omega)]
  by_cases hb : b < 32
  · by_cases h : j = l
    · rw [if_pos h, if_pos (by omega), Nat.testBit_mod_two_pow, h, Nat.add_sub_cancel_left]
      simp [hb, show 32 * l + b < 1024 by omega]
    · rw [if_neg h, if_neg (by omega), testBit_laneOf]
      simp [show 32 * j + b < 1024 by omega]
  · by_cases h : j = l
    · simp only [if_pos h, Nat.testBit_mod_two_pow, hb, decide_false, Bool.false_and]
    · simp only [if_neg h, testBit_laneOf, hb, decide_false, Bool.false_and]

/-! ### The last write of a sequence (R57, R60) -/

/-- What is read after a sequence of steps, when a step that hits leaves its value there and one that does not leaves what
was there: the value of the last step that hits. -/
theorem read_foldl_last {σ ι β : Type} (read : σ → β) (step : σ → ι → σ) (hit : ι → Bool) (val : ι → β) (l : List ι)
    (h : ∀ x, ∀ i ∈ l, read (step x i) = if hit i then val i else read x) (x : σ) :
    read (l.foldl step x) = ((l.reverse.find? hit).map val).getD (read x) := by
  induction l using List.reverseRecOn with
  | nil => rfl
  | append_singleton l i ih =>
    rw [List.foldl_append, List.foldl_cons, List.foldl_nil, h _ i (by simp),
      ih fun x j hj => h x j (List.mem_append_left _ hj), List.reverse_append, List.reverse_singleton,
      List.singleton_append, List.find?_cons]
    cases hit i <;> rfl

/-- A search for one member that a condition holds of finds it if it is there. -/
theorem find?_eq_and {ι : Type} [DecidableEq ι] {l : List ι} {i : ι} (hi : i ∈ l) (p : ι → Bool) :
    l.find? (fun j => decide (j = i) && p j) = if p i then some i else none := by
  cases hf : l.find? (fun j => decide (j = i) && p j) with
  | none =>
    have hp : p i = false := by simpa using List.find?_eq_none.1 hf i hi
    simp [hp]
  | some j =>
    obtain ⟨rfl, hp⟩ : j = i ∧ p j = true := by simpa using List.find?_some (p := fun j => decide (j = i) && p j) hf
    simp [hp]

/-- An active lane holds its result, and a lane that is masked off keeps its value (R57). -/
theorem laneOf_writeLanes (old : VReg) (mask : LaneMask) (g : Nat → LaneRes) {j : Nat} (hj : j < 32) :
    laneOf (writeLanes old mask (fun l => some (g l))).1 j =
      if natBit j mask.on.toNat then (g j).v % 2 ^ 32 else laneOf old j := by
  rw [writeLanes, read_foldl_last (fun acc : VReg × Flags => laneOf acc.1 j) _
    (fun l => decide (l = j) && natBit l mask.on.toNat) (fun l => (g l).v % 2 ^ 32) _ ?_,
    find?_eq_and (List.mem_reverse.2 (List.mem_range.2 hj))]
  · split <;> rfl
  · intro acc l hl
    cases natBit l mask.on.toNat
    · simp only [Bool.and_false, Bool.false_eq_true, if_false]
      split <;> rfl
    · simp only [Bool.and_true, laneOf_setBits (List.mem_range.1 hl) hj, decide_eq_true_eq, eq_comm (a := j)]

/-! ### Local store words (R60, R64) -/

theorem lsWordAt_stride_zero (a l : Nat) : lsWordAt a 0 l = a % 16384 / 4 := by
  unfold lsWordAt
  omega

theorem lsWordAt_lt (a : Nat) (st : Int) (l : Nat) : lsWordAt a st l < 4096 := by
  unfold lsWordAt
  omega

@[simp] theorem lsGet_lsPut (x : CellSt) (v : LsWord) {u w : Nat} (hu : u < 4096) (hw : w < 4096) :
    lsGet (lsPut u v x) w = if u = w then v else lsGet x w := by
  simp only [lsGet, lsPut, Nat.mod_eq_of_lt hu, Nat.mod_eq_of_lt hw]
  split
  next h => rw [h, NMap.getD_setD_self]
  next h => exact NMap.getD_setD_ne _ _ (Ne.symm h)

@[simp] theorem vreg_setD_self (v : VecSt) (d : Nat) (r : VReg) :
    vreg { v with v := v.v.setD d VReg.init r } d = r := NMap.getD_setD_self _ _ _

section LaneAddresses

variable (mask : LaneMask) (sto sat : Bool) (errs : List LsErr) (route : Nat) (v : VecSt) (x : CellSt)

/-- A gather reads for each active lane the word that the lane's address names, and leaves the cell as it was. -/
theorem vecOp_gather (d ix : Fin 32) :
    ∃ r, vecOp (.gather d ix) mask sto sat errs route v x = some r ∧ r.x = x ∧ ∀ l, l < 32 →
      laneOf (vreg r.v d) l =
        if natBit l mask.on.toNat then (lsGet x (lsWordAt (laneOf (vreg v ix) l) 0 0)).v.toNat
        else laneOf (vreg v d) l := by
  refine ⟨_, rfl, rfl, fun l hl => ?_⟩
  rw [vreg_setD_self, laneOf_writeLanes _ _ _ hl, laneOk, Nat.mod_eq_of_lt (BitVec.isLt _)]

/-- A scatter leaves the vector registers as they were, and in each word the value of the last active lane that names it. -/
theorem vecOp_scatter (a ix : Fin 32) :
    ∃ r, vecOp (.scatter a ix) mask sto sat errs route v x = some r ∧ r.v = v ∧ ∀ w, w < 4096 →
      (lsGet r.x w).v.toNat =
        (((List.range 32).reverse.find? fun l =>
          natBit l mask.on.toNat && decide (lsWordAt (laneOf (vreg v ix) l) 0 0 = w)).map
            (laneOf (vreg v a))).getD (lsGet x w).v.toNat := by
  refine ⟨_, rfl, rfl, fun w hw => ?_⟩
  refine read_foldl_last (fun y => (lsGet y w).v.toNat) _ _ _ _ (fun y l _ => ?_) x
  cases natBit l mask.on.toNat
  · rfl
  · simp only [if_true, Bool.true_and, decide_eq_true_eq, lsGet_lsPut _ _ (lsWordAt_lt _ _ _) hw]
    split
    · exact Nat.mod_eq_of_lt (laneOf_lt _ _)
    · rfl

end LaneAddresses

/-- Settles O53. -/
theorem gathersAndScatters : Obligations.GathersAndScatters := by
  refine ⟨fun a => lsWordAt_stride_zero a 0, fun d ix mask sto sat errs route v x =>
    vecOp_gather mask sto sat errs route v x d ix, fun a ix mask sto sat errs route v x => ?_⟩
  obtain ⟨r, hr, hv, hw⟩ := vecOp_scatter mask sto sat errs route v x a ix
  refine ⟨r, hr, hv, fun w hlt => (hw w hlt).trans ?_⟩
  split <;> simp [*]

/-! ### What the records of a cell's errors leave as they were (R62, R67, R68, R78) -/

/-- Memory, the directory, the configuration fields and the cues are as they were, and so are the vector registers of
every context and the accumulators of every cell: what the flags, counts and faults of a cell's run leave alone. -/
structure KeepsResults (s t : State) : Prop where
  part : t.part = s.part
  mem : t.mem = s.mem
  coh : t.coh = s.coh
  regs : t.regs = s.regs
  cues : t.cues = s.cues
  vecs : t.fab.vecs = s.fab.vecs
  accs : ∀ key, (cellSt t key).accs = (cellSt s key).accs

namespace KeepsResults

variable {s t u : State}

theorem refl (s : State) : KeepsResults s s := ⟨rfl, rfl, rfl, rfl, rfl, rfl, fun _ => rfl⟩

theorem trans (a : KeepsResults s t) (b : KeepsResults t u) : KeepsResults s u :=
  ⟨b.part.trans a.part, b.mem.trans a.mem, b.coh.trans a.coh, b.regs.trans a.regs, b.cues.trans a.cues,
    b.vecs.trans a.vecs, fun key => (b.accs key).trans (a.accs key)⟩

theorem after (b : KeepsResults t u) (a : KeepsResults s t) : KeepsResults s u := a.trans b

theorem vecAt (a : KeepsResults s t) (key k : Nat) : Machine.vecAt t key k = Machine.vecAt s key k := by
  rw [Machine.vecAt, Machine.vecAt, a.vecs]

theorem rget (a : KeepsResults s t) (r : Reg) (i : Nat) : Machine.rget t r i = Machine.rget s r i := by
  rw [Machine.rget, Machine.rget, a.regs, a.part]

theorem forEach {α : Type} {f : α → State → State} (hf : ∀ a s, KeepsResults s (f a s)) (l : List α) (s : State) :
    KeepsResults s (forEach l f s) :=
  forEach_ind l f (KeepsResults s) (fun a t ht => ht.trans (hf a t)) s (.refl s)

end KeepsResults

theorem keepsResults_noteProgress (h : Half) (i : Nat) (s : State) : KeepsResults s (noteProgress h i s) :=
  ⟨rfl, rfl, rfl, rfl, rfl, rfl, fun _ => rfl⟩

theorem keepsResults_setCtx (h : Half) (i k : Nat) (x : Ctx) (s : State) : KeepsResults s (setCtx h i k x s) :=
  ⟨rfl, rfl, rfl, rfl, rfl, rfl, fun _ => rfl⟩

theorem keepsResults_wordDone (h : Half) (i k c : Nat) (s : State) : KeepsResults s (wordDone h i k c s) :=
  keepsResults_setCtx ..

theorem keepsResults_event (h : Half) (code sev : Nat) (func : Option Nat) (index addr cause : Nat) (s : State) :
    KeepsResults s (event h code sev func index addr cause s) := by
  constructor <;> simp [cellSt]

theorem keepsResults_eventD (h : Half) (code sev : Nat) (func : Option Nat) (index addr cause detail : Nat)
    (s : State) : KeepsResults s (eventD h code sev func index addr cause detail s) := by
  constructor <;> simp [cellSt]

theorem keepsResults_setCell {key : Nat} {x : CellSt} {s : State} (hx : x.accs = (cellSt s key).accs) :
    KeepsResults s (setCell key x s) := by
  refine ⟨rfl, rfl, rfl, rfl, rfl, rfl, fun j => ?_⟩
  by_cases hj : j = key
  · rw [hj, cellSt_setCell_self, hx]
  · rw [cellSt_setCell_ne _ _ hj]

theorem keepsResults_modCell {f : CellSt → CellSt} (key : Nat) (s : State)
    (hf : ∀ x, (f x).accs = x.accs := by intro; rfl) : KeepsResults s (modCell key f s) :=
  keepsResults_setCell (hf _)

theorem keepsResults_faultCtx (h : Half) (i k reason detail : Nat) (s : State) :
    KeepsResults s (faultCtx h i k reason detail s) :=
  (keepsResults_eventD ..).after (keepsResults_setCtx ..)

theorem keepsResults_cellFault (h : Half) (i k reason detail : Nat) (s : State) :
    KeepsResults s (cellFault h i k reason detail s) := by
  unfold cellFault
  split
  · exact keepsResults_faultCtx ..
  · exact keepsResults_eventD ..

/-- A residue check that fails poisons what follows, and leaves what is there (R78). -/
theorem keepsResults_residueFail (b : Bool) (key i k : Nat) (s : State) :
    KeepsResults s (when b (residueFail key i k) s) := by
  cases b
  · exact .refl s
  · exact keepsResults_setCell rfl

theorem keepsResults_setFlags (h : Half) (p c i k : Nat) (f : Flags) (s : State) :
    KeepsResults s (setFlags h p c i k f s) := by
  unfold setFlags
  dsimp only
  split
  · exact (keepsResults_event ..).after ((keepsResults_setCtx ..).after (keepsResults_setCell rfl))
  · exact keepsResults_setCell rfl

theorem keepsResults_lsCe (h : Half) (p c i w : Nat) (s : State) : KeepsResults s (lsCe h p c i w s) :=
  (keepsResults_event ..).after (keepsResults_modCell ..)

theorem keepsResults_lsUe (h : Half) (p c i k : Nat) (s : State) : KeepsResults s (lsUe h p c i k s) :=
  (keepsResults_cellFault ..).after (keepsResults_modCell ..)

theorem keepsResults_noteLsErrs (h : Half) (p c i k : Nat) (errs : List LsErr) (s : State) :
    KeepsResults s (noteLsErrs h p c i k errs s) := by
  refine .forEach (fun e t => ?_) errs s
  split
  · exact keepsResults_lsCe ..
  · exact keepsResults_lsUe ..

theorem keepsResults_freeNat (w : Nat) (s : State) : KeepsResults s (freeNat w s).2 :=
  ⟨rfl, rfl, rfl, rfl, rfl, rfl, fun _ => rfl⟩

theorem keepsResults_countWaits (key : Nat) (ws : List Nat) (s : State) : KeepsResults s (countWaits key ws s) := by
  unfold countWaits
  split
  · exact .refl s
  · exact (keepsResults_modCell ..).after (keepsResults_freeNat ..)

/-! ### A MAC issue and a vector instruction of the running context (R44, R57, R78, R88) -/

@[simp] theorem takeHead_accs (route : Nat) (d : Dir) (f : HeadTaken → HeadTaken) (x : CellSt) :
    (takeHead route d f x).accs = x.accs := by
  unfold takeHead
  dsimp only
  split <;> cases d <;> rfl

/-- The forwarding and the release of the operands leave the accumulators as the slice has left them. -/
theorem macApply_accs (r : CellRec) (sl : MacSlice) (srcA srcB : MacSrc) (x : CellSt) :
    (macApply r sl srcA srcB x).1.accs =
      (macSlice (macFmt r.fmtA) (macFmt r.fmtB) (macRead x (macFmt r.fmtA) (macFmt r.fmtB) srcA srcB sl) sl.last
        x).1.accs := by
  unfold macApply
  extract_lets fa fb res y ya yb inPort used
  have hya : ya.accs = res.1.accs := by
    unfold ya y
    split <;> rfl
  have hyb : yb.accs = ya.accs := by
    unfold yb
    split <;> rfl
  have hused : ∀ go j f z, (used go j f z).accs = z.accs := by
    intro go j f z
    unfold used
    split
    · exact takeHead_accs ..
    · rfl
  rw [hused, hused, hyb, hya]

/-- The record of a word that a cell ran leaves the cell as it was, with and without a failed residue check. -/
theorem cellSt_residueFail_wordDone (b : Bool) (key : Nat) (h : Half) (i k c : Nat) (s : State) :
    cellSt (when b (residueFail key i k) (noteProgress h i (wordDone h i k c s))) key =
      cellSt (when b (residueFail key i k) s) key := by
  cases b <;> simp [Machine.when, residueFail, modCell, wordDone]

/-- The lanes that a vector instruction acts on: those of its mask register, or all of them (R57). -/
def vecMask (v : VecSt) : Option (Fin 8) → LaneMask
  | some j => ⟨mreg v j, mregP v j⟩
  | none => .of 0xFFFFFFFF#32

section RunningCell

variable {h : Half} {p c i k : Nat} {s : State} {r : CellRec} {w : W64} (hrun : runningOn s h p = some (i, k))
  (hrec : cellRec (ctxAt s h i k) c = some r) (hword : nextWord (ctxAt s h i k) c = some w)
include hrun hrec hword

/-- An issue whose word and operands are there leaves the cell as the slice makes it, with the residue checks of the
issue: all else that it does is the records. -/
theorem doMacIssue_runs {sl : MacSlice} {srcA srcB : MacSrc} (hfmt : r.fmtA ≠ 0) (hop : wordOp w = opMac)
    (hbank : natBit 0 w.toNat = sl.bank) (hacc : sl.bank = (cellSt s (cellKey h p c)).bank)
    (hA : macSource (cellSt s (cellKey h p c)) r.route 4 = some srcA)
    (hB : macSource (cellSt s (cellKey h p c)) r.route 5 = some srcB) :
    ∃ t, KeepsResults s t ∧ KeepsResults (setCell (cellKey h p c) (macApply r sl srcA srcB
      (cellSt (when sl.residueFail (residueFail (cellKey h p c) i k) s) (cellKey h p c))).1 t)
        (doMacIssue h p c sl s) := by
  refine ⟨when sl.residueFail (residueFail (cellKey h p c) i k) (noteProgress h i (wordDone h i k c s)),
    (keepsResults_residueFail ..).after ((keepsResults_noteProgress ..).after (keepsResults_wordDone ..)), ?_⟩
  simp only [doMacIssue, hrun, hrec, hword, hA, hB, hfmt, hop, hbank, ← hacc, cellSt_residueFail_wordDone, ne_eq,
    not_true_eq_false, decide_false, Bool.or_false, Bool.false_eq_true, if_false]
  exact (keepsResults_noteLsErrs ..).after (keepsResults_setFlags ..)

/-- A vector instruction that can issue leaves its results in the vector registers and the cell: all else that it does is
the count of its waits and the records. -/
theorem doVector_runs {op : VOp} {mask : Option (Fin 8)} {resid : Bool} {errs : List LsErr} {res : VecRes}
    (hfit : wordFits w op = true)
    (hres : vecOp op (vecMask (vecAt s (cellKey h p c) k) mask) (natBit 0 (rget s .arithMode (ctxKey h i k)))
      (natBit 1 (rget s .arithMode (ctxKey h i k))) errs r.route (vecAt s (cellKey h p c) k)
      (cellSt (when (resid && residueChecked op) (residueFail (cellKey h p c) i k) s) (cellKey h p c)) = some res) :
    ∃ t, KeepsResults s t ∧ KeepsResults (setVec (cellKey h p c) k res.v (setCell (cellKey h p c) res.x t))
      (doVector h p c op mask resid errs s) := by
  have hbefore := keepsResults_residueFail (resid && residueChecked op) (cellKey h p c) i k s
  refine ⟨_, hbefore, ?_⟩
  cases mask
  all_goals
    simp only [vecMask] at hres
    simp only [doVector, hrun, hrec, hword, hfit, hbefore.vecAt, hbefore.rget, hres, Bool.not_true,
      Bool.false_eq_true, if_false]
    exact (keepsResults_noteLsErrs ..).after ((keepsResults_setFlags ..).after ((keepsResults_countWaits ..).after
      ((keepsResults_noteProgress ..).after (keepsResults_wordDone ..))))

end RunningCell

@[simp] theorem vecAt_setVec_self (key k : Nat) (v : VecSt) (s : State) : vecAt (setVec key k v s) key k = v := by
  simp [vecAt, setVec]

/-- Settles O1. -/
theorem cellArithmeticRuns : Obligations.CellArithmeticRuns := by
  refine ⟨?_, ?_⟩
  · intro c sl s i k r w srcA srcB x hh hrun hrec hword hfmt hop hbank hacc hA hB hx
    obtain ⟨t, hbefore, hafter⟩ := doMacIssue_runs hrun hrec hword hfmt hop hbank hacc hA hB
    refine ⟨_, onHalf_next hh, ?_, hafter.mem.trans hbefore.mem, hafter.coh.trans hbefore.coh,
      hafter.regs.trans hbefore.regs, hafter.cues.trans hbefore.cues⟩
    rw [hafter.accs, cellSt_setCell_self, macApply_accs, hx]
  · intro c op mask resid errs s i k r w res hh hrun hrec hword hfit hres
    obtain ⟨t, hbefore, hafter⟩ := doVector_runs hrun hrec hword hfit (mask := mask) (resid := resid)
      (by cases mask <;> exact hres)
    refine ⟨_, onHalf_next hh, ?_, hafter.mem.trans hbefore.mem, hafter.coh.trans hbefore.coh,
      hafter.regs.trans hbefore.regs, hafter.cues.trans hbefore.cues⟩
    rw [hafter.vecAt, vecAt_setVec_self]

/-! ### Phase ends, delays, stops, stalls and stream reads of an array's context (R75, R88, R93, R98, R100) -/

section ActiveContext

variable {h : Half} {i k : Nat} {s : State} (ha : activeCtx s h i = some k)
include ha

/-- A cell whose phase has no word left gives its place among the running phases up, when no later phase waits for it. -/
theorem doPhaseEnd_over {c n : Nat} {m : Image} (resid : Bool) (hm : (ctxAt s h i k).img = some m)
    (hw : nextWord (ctxAt s h i k) c = none)
    (hn : (ctxAt s h i k).running.findIdx? (fun r => decide (r.1 = c)) = some n)
    (hr : ((ctxAt s h i k).running.eraseIdx n).find? (fun r => decide (r.1 = c)) = none) :
    doPhaseEnd h i c resid s = noteProgress h i
      (setCtx h i k { ctxAt s h i k with running := (ctxAt s h i k).running.eraseIdx n } s) := by
  simp only [doPhaseEnd, ha, hm, hw, hn, hr]

theorem doPhaseEnd_early {c : Nat} {w : W64} (resid : Bool) (hw : nextWord (ctxAt s h i k) c = some w) :
    doPhaseEnd h i c resid s = s := by
  simp only [doPhaseEnd, ha, hw]
  split
  next hnone => cases hnone
  next => rfl

theorem doDelayExpire_due {t : Nat} (ht : (ctxAt s h i k).delayUntil = some t) :
    doDelayExpire h i s = stepOn h i k (atTime t s) := by
  simp only [doDelayExpire, ha, ht]

/-- At a stop point, with its streams complete and no step under way, a context with a STOP pending is READY and held. -/
theorem doStopTakes_atStop {op : StepOp} (hc : curStep (ctxAt s h i k) = some (op, true))
    (hs : (ctxAt s h i k).stopPend = true) (hd : streamsDone s h i = true)
    (hp : phaseWaits (ctxAt s h i k) = false) (hi : (ctxAt s h i k).issued = false) :
    doStopTakes h i s = setCtx h i k { ctxAt s h i k with
      st := .ready, held := true, stopPend := false, issued := false, running := [], phaseWait := none }
      (withdraw (.ctx h i k) s) := by
  simp [doStopTakes, ha, hc, hs, hd, hp, hi]

theorem doStallWatchdog_running (hr : (ctxAt s h i k).st = .running) :
    doStallWatchdog h i s = faultCtx h i k 4 (ctxAt s h i k).step (atTime ((larr s h i).progress + 5519) s) := by
  simp only [doStallWatchdog, ha, hr, if_true]

end ActiveContext

section StreamRead

variable {h : Half} {i port k j : Nat} {r : StreamRec} {st : StreamSt} {s : State}
  (ha : activeStream s h i port = some (k, j, r, st)) (hst : st.stopped = false)
  (hsp : hasSpace (cellSt s (cellKey h (((larr s h i).phys).getD 0) (portEdge r).1)) (portEdge r).2 = true)
include ha hst hsp

theorem doStreamRead_word {t : State} {w : SwWord}
    (hg : streamGet (arrayAgent h i) port (streamAddr r st.pos) s = .word w t) :
    doStreamRead h i port s = streamOn h i port k j r st
      (modCell (cellKey h (((larr s h i).phys).getD 0) (portEdge r).1) (pushWord (portEdge r).2 w) t) := by
  simp [doStreamRead, ha, hst, hsp, hg]

theorem doStreamRead_refused (hg : streamGet (arrayAgent h i) port (streamAddr r st.pos) s = .refused) :
    doStreamRead h i port s = streamStop h i k j st (streamAddr r st.pos) s := by
  simp [doStreamRead, ha, hst, hsp, hg]

end StreamRead

/-- Settles O5. -/
theorem contextTimersAndEnds : Obligations.ContextTimersAndEnds := by
  refine ⟨?_, ?_, ?_, ?_, ?_, ?_, ?_⟩
  · intro h i c resid s k n m hh ha hm hw hn hr
    simp only [exec, execPhaseEnd, onHalf_next hh, doPhaseEnd_over ha resid hm hw hn hr]
  · intro h i c resid s k w hh ha hw
    simp only [exec, execPhaseEnd, onHalf_next hh, doPhaseEnd_early ha resid hw]
  · intro h i s k t hh ha ht
    simp only [exec, execDelayExpire, onHalf_next hh, doDelayExpire_due ha ht]
  · intro h i s k op hh ha hc hs hd hp hi
    simp only [exec, execStopTakesEffect, onHalf_next hh, doStopTakes_atStop ha hc hs hd hp hi]
  · intro h i s k hh ha hr
    simp only [exec, execStallWatchdog, onHalf_next hh, doStallWatchdog_running ha hr]
  · intro h i port s t k j r st w hh ha hst hsp hg
    simp only [exec, execStreamReadData, onHalf_next hh, doStreamRead_word ha hst hsp hg]
  · intro h i port s k j r st hh ha hst hsp hg
    simp only [exec, execStreamReadData, onHalf_next hh, doStreamRead_refused ha hst hsp hg]

end Sys2Proof.Machine

namespace Sys2Proof.Machine

open Sys2Proof

/-! ### What sending over Zoram leaves as it was (R337, R339–R344) -/

/-- The second state differs from the first at most in configuration fields, in what the base has sent and in its Zoram
links: all that a message queued at a bundle can change. -/
def OnlySends (s t : State) : Prop := t = { s with regs := t.regs, out := t.out, zor := t.zor }

namespace OnlySends

variable {s t u : State}

theorem refl (s : State) : OnlySends s s := rfl

theorem after (b : OnlySends t u) (a : OnlySends s t) : OnlySends s u :=
  b.trans (congrArg (fun x => ({ x with regs := u.regs, out := u.out, zor := u.zor } : State)) a)

theorem cues (a : OnlySends s t) : t.cues = s.cues := by
  unfold OnlySends at a
  rw [a]

end OnlySends

theorem onlySends_bumpSat (r : Reg) (i hi lo n : Nat) (s : State) : OnlySends s (bumpSat r i hi lo n s) := rfl

theorem onlySends_emit (o : Out) (s : State) : OnlySends s (emit o s) := rfl

theorem onlySends_setBundle (k : Nat) (x : BundleSt) (s : State) : OnlySends s (setBundle k x s) := rfl

theorem onlySends_closeFrame (k : Nat) (s : State) : OnlySends s (closeFrame k s) := by
  unfold closeFrame
  dsimp only
  split
  · exact .refl s
  · exact (onlySends_emit ..).after (onlySends_setBundle ..)

theorem onlySends_putSlot (k : Nat) (sl : ZSlot) (s : State) : OnlySends s (putSlot k sl s) := by
  unfold putSlot
  dsimp only
  split
  · exact (onlySends_closeFrame ..).after (onlySends_setBundle ..)
  · exact onlySends_setBundle ..

theorem onlySends_sendSlot (k zc rr : Nat) (s : State) : OnlySends s (sendSlot k zc rr s) := by
  unfold sendSlot
  dsimp only
  split
  case h_1 => exact .refl s
  case h_2 m rest _ =>
    have htake : ∀ x, OnlySends s (when (!m.begun) (emit m.out) (setBundle k x s)) := fun x => by
      cases m.begun <;> rfl
    split
    · exact htake _
    · exact (onlySends_putSlot ..).after (htake _)
    · exact (onlySends_putSlot ..).after (htake _)

theorem onlySends_zPumpGo (k n : Nat) (s : State) : OnlySends s (zPumpGo k n s) := by
  induction n generalizing s with
  | zero => exact onlySends_closeFrame k s
  | succ n ih =>
    unfold zPumpGo
    dsimp only
    split
    · exact .refl s
    · split
      case h_1 => exact (ih _).after ((onlySends_putSlot ..).after (onlySends_setBundle ..))
      case h_2 => exact (ih _).after ((onlySends_putSlot ..).after (onlySends_setBundle ..))
      case h_3 =>
        split
        · exact onlySends_closeFrame k s
        · exact (ih _).after (onlySends_sendSlot ..)

theorem onlySends_zAgeQueue (k : Nat) (h : Half) (s : State) : OnlySends s (zAgeQueue k h s) := by
  unfold zAgeQueue
  dsimp only
  split
  · exact .refl s
  · exact (onlySends_bumpSat ..).after (onlySends_setBundle ..)

theorem onlySends_zPump (k : Nat) (h : Half) (s : State) : OnlySends s (zPump k h s) := by
  unfold zPump
  dsimp only
  split
  · exact (onlySends_zPumpGo ..).after (onlySends_zAgeQueue ..)
  · exact onlySends_zAgeQueue ..

theorem onlySends_zSend (dst : ZSrc) (zc : Nat) (o : Out) (s : State) : OnlySends s (zSend dst zc o s) := by
  unfold zSend zPlace
  dsimp only
  split
  · cases dst with
    | half _ => exact onlySends_bumpSat ..
    | site _ => exact .refl s
  · exact (onlySends_zPump ..).after (onlySends_setBundle ..)

/-! ### The check of a cue's waiters (R95) -/

section CheckWaits

variable {v : Nat} {w : CueWaitSt} {ws : List CueWaitSt}

/-- The value after a wait was served. -/
abbrev afterServing (v : Nat) (w : CueWaitSt) : Nat := if w.consume then v - w.threshold else v

theorem checkWaits_cons_served (h : w.threshold ≤ v) :
    checkWaits v (w :: ws) = ((checkWaits (afterServing v w) ws).1, w :: (checkWaits (afterServing v w) ws).2.1,
      (checkWaits (afterServing v w) ws).2.2) := if_pos h

theorem checkWaits_cons_left (h : v < w.threshold) :
    checkWaits v (w :: ws) = ((checkWaits v ws).1, (checkWaits v ws).2.1, w :: (checkWaits v ws).2.2) :=
  if_neg (Nat.not_le.mpr h)

variable (v ws)

theorem checkWaits_served_sublist : (checkWaits v ws).2.1.Sublist ws := by
  induction ws generalizing v with
  | nil => exact .slnil
  | cons w ws ih =>
    rcases Nat.lt_or_ge v w.threshold with h | h
    · rw [checkWaits_cons_left h]
      exact (ih v).cons w
    · rw [checkWaits_cons_served h]
      exact (ih _).cons_cons w

theorem checkWaits_left_sublist : (checkWaits v ws).2.2.Sublist ws := by
  induction ws generalizing v with
  | nil => exact .slnil
  | cons w ws ih =>
    rcases Nat.lt_or_ge v w.threshold with h | h
    · rw [checkWaits_cons_left h]
      exact (ih v).cons_cons w
    · rw [checkWaits_cons_served h]
      exact (ih _).cons w

/-- Each waiter is either served or left. -/
theorem checkWaits_perm : ((checkWaits v ws).2.1 ++ (checkWaits v ws).2.2).Perm ws := by
  induction ws generalizing v with
  | nil => exact .nil
  | cons w ws ih =>
    rcases Nat.lt_or_ge v w.threshold with h | h
    · rw [checkWaits_cons_left h]
      exact List.perm_middle.trans ((ih v).cons w)
    · rw [checkWaits_cons_served h]
      exact (ih _).cons w

/-- What the served waiters consumed and the value left are together the old value. -/
theorem checkWaits_conserves :
    (checkWaits v ws).1 + (((checkWaits v ws).2.1.filter (fun w => w.consume)).map (fun w => w.threshold)).sum = v := by
  induction ws generalizing v with
  | nil => rfl
  | cons w ws ih =>
    rcases Nat.lt_or_ge v w.threshold with h | h
    · rw [checkWaits_cons_left h]
      exact ih v
    · rw [checkWaits_cons_served h]
      have hrest := ih (afterServing v w)
      cases hc : w.consume <;> simp only [afterServing, hc, if_true, Bool.false_eq_true, if_false] at hrest ⊢
      · simpa [hc] using hrest
      · simp only [List.filter_cons, hc, if_true, List.map_cons, List.sum_cons]
        omega

theorem checkWaits_value_le : (checkWaits v ws).1 ≤ v :=
  (Nat.le_add_right _ _).trans_eq (checkWaits_conserves v ws)

/-- A waiter that the value did not meet is not met by the value left either: the value only falls. -/
theorem checkWaits_left_unmet : ∀ w ∈ (checkWaits v ws).2.2, (checkWaits v ws).1 < w.threshold := by
  induction ws generalizing v with
  | nil => exact fun _ hw => absurd hw List.not_mem_nil
  | cons w ws ih =>
    rcases Nat.lt_or_ge v w.threshold with h | h
    · rw [checkWaits_cons_left h]
      exact List.forall_mem_cons.mpr ⟨(checkWaits_value_le v ws).trans_lt h, ih v⟩
    · rw [checkWaits_cons_served h]
      exact ih _

end CheckWaits

/-! ### A cue after its check, and its operations (R95) -/

/-- What a satisfied wait does leaves every cue as it was. -/
theorem wake_cues (hdl : W32) (w : CueWaitSt) (s : State) : (wake hdl w s).cues = s.cues := by
  unfold wake
  split
  case h_3 => exact (onlySends_zSend ..).cues
  case h_4 => exact (onlySends_zSend ..).cues
  all_goals rfl

theorem cueAt_congr {s t : State} (h : t.cues = s.cues) (n : Nat) : cueAt t n = cueAt s n :=
  congrArg (fun m => NMap.getD m n Cue.init) h

theorem cueAt_cueCheck (n : Nat) (s : State) :
    cueAt (cueCheck n s) n = ⟨(checkWaits (cueAt s n).value (cueAt s n).waits).1,
      (checkWaits (cueAt s n).value (cueAt s n).waits).2.2⟩ := by
  unfold cueCheck
  dsimp only
  rw [cueAt_congr (forEach_ind _ _ (fun t => t.cues = _) (fun w t ht => (wake_cues _ w t).trans ht) _ rfl),
    cueAt_setCue_self]

/-- A signal adds up to the largest value, and one that saturates is counted and recorded. -/
theorem cueAdd_eq (n inc : Nat) (s : State) :
    cueAdd n inc s = cueCheck n (if 0xFFFFFF < (cueAt s n).value + inc then
        event (cueHalf n) 0x0204 0 (cueFunc s n) n 0 95
          (bumpSat .cueStats (cueHalf n).num 31 16 1 (setCue n { cueAt s n with value := 0xFFFFFF } s))
      else setCue n { cueAt s n with value := (cueAt s n).value + inc } s) := by
  unfold cueAdd
  dsimp only
  split
  case isTrue hsat =>
    rw [Nat.min_eq_right hsat.le, decide_eq_true hsat]
    rfl
  case isFalse hsat =>
    rw [Nat.min_eq_left (Nat.not_lt.mp hsat), decide_eq_false hsat]
    rfl

/-- Settles O8. -/
theorem cueWaitersAreServedInOrder : Obligations.CueWaitersAreServedInOrder := by
  refine ⟨?_, ?_, ?_, fun _ => rfl, ?_, fun _ _ _ h => checkWaits_cons_left h, ?_⟩
  · rintro hdl inc s hcur n c rfl rfl
    rw [cueSignal, if_pos hcur, cueAdd_eq]
  · rintro hdl w s hcur n c rfl rfl
    rw [cueWait, if_pos hcur]
  · rintro n s r rfl
    exact ⟨rfl, cueAt_cueCheck n s⟩
  · rintro v w ws h u rfl
    exact checkWaits_cons_served h
  · exact fun v ws => ⟨checkWaits_served_sublist v ws, checkWaits_left_sublist v ws, checkWaits_perm v ws,
      checkWaits_conserves v ws, checkWaits_left_unmet v ws⟩

/-! ### Stores to a cue's value and owner (R108) -/

theorem doCueOwner_same {n v : Nat} {s : State} (h : rget s .cueOwner n = lowBits 5 v) : doCueOwner n v s = s :=
  if_pos h

theorem doCueOwner_other {n v : Nat} {s : State} (h : rget s .cueOwner n ≠ lowBits 5 v) :
    doCueOwner n v s = rput .cueOwner n (lowBits 5 v) (cueRelease n false s) :=
  if_neg h

/-- Settles O7. -/
theorem cueWritesSetTheCue : Obligations.CueWritesSetTheCue := by
  refine ⟨fun ag n v new s ok => regStore_ok (doCueValue n) ok, fun ag n v new s ok h => ?_, fun ag n v new s ok h => ?_⟩
  · exact (regStore_ok (doCueOwner n) ok).trans (by rw [doCueOwner_same h])
  · exact (regStore_ok (doCueOwner n) ok).trans (by rw [doCueOwner_other h])

/-! ### The actions of CTX_CTRL (R89, R100) -/

/-- An action code that is stored acts on the context. -/
theorem ctxAction_ok {ag : Agent} {h : Half} {i k act new : Nat} {s : State}
    (ok : storeOk ag h .ctxCtrl (ctxKey h i k) act new s) :
    onAgent s ag (.next (ctxAction ag h i k act s)) =
      .next (stored ag h .ctxCtrl (ctxKey h i k) (ctxCtrlAct h i k new s)) :=
  regStore_ok (ctxCtrlAct h i k) ok

section Actions

variable {h : Half} {i k : Nat} {s : State}

theorem doStart_unready (hst : ¬((ctxAt s h i k).st = .ready ∨ (ctxAt s h i k).st = .done)) :
    doStart h i k s = ctxResult h i k 1 s :=
  if_pos (.inr hst)

variable (hp : (larr s h i).phys ≠ none)
include hp

theorem doStart_stopped (hst : (ctxAt s h i k).st = .ready ∨ (ctxAt s h i k).st = .done) (ha : activeCtx s h i = none) :
    doStart h i k s = startCtx h i k (ctxResult h i k 0 s) := by
  simp [doStart, hp, hst, ha]

theorem doStop_active (ha : ctxActive (ctxAt s h i k) = true) :
    doStop h i k s = setCtx h i k { ctxAt s h i k with lastResult := 0, stopPend := true } s :=
  if_pos ⟨Option.isSome_iff_ne_none.mpr hp, ha⟩

theorem doDrop_inactive (ha : ctxActive (ctxAt s h i k) = false) :
    doDrop h i k s = ctxResult h i k 0 (emptyCtx h i k s) := by
  simp [doDrop, hp, ha]

end Actions

/-- The result of an action on a context that it has just emptied. -/
theorem ctxResult_emptyCtx (h : Half) (i k r : Nat) (s : State) :
    ctxResult h i k r (emptyCtx h i k s) = setCtx h i k { Ctx.init with lastResult := r } (emptyCtx h i k s) := by
  rw [ctxResult, emptyCtx, ctxAt_setCtx_self]

/-- Settles O3. -/
theorem contextActions : Obligations.ContextActions := by
  refine ⟨?_, ?_, ?_, ?_, ?_⟩
  · intro ag h i k s ok
    exact ctxAction_ok ok
  · intro ag h i k s ok hp hst ha
    rw [← doStart_stopped hp hst ha]
    exact ctxAction_ok ok
  · intro ag h i k s ok hp hst
    rw [← doStart_unready hst]
    exact ctxAction_ok ok
  · intro ag h i k s ok hp ha
    rw [← doStop_active hp ha]
    exact ctxAction_ok ok
  · intro ag h i k s ok hp ha
    rw [← emptyCtx, ← ctxResult_emptyCtx, ← doDrop_inactive hp ha]
    exact ctxAction_ok ok

/-! ### The write stage of a load (R54, R79, R89) -/

/-- Memory and what serves each logical array are as they were: what setting up the cells of an image leaves alone. -/
structure KeepsArrays (s t : State) : Prop where
  mem : t.mem = s.mem
  larr : t.fab.larr = s.fab.larr
  phys : t.fab.phys = s.fab.phys

namespace KeepsArrays

variable {s t u : State}

theorem refl (s : State) : KeepsArrays s s := ⟨rfl, rfl, rfl⟩

theorem after (b : KeepsArrays t u) (a : KeepsArrays s t) : KeepsArrays s u :=
  ⟨b.mem.trans a.mem, b.larr.trans a.larr, b.phys.trans a.phys⟩

/-- The cells mapped out of a logical array's physical array stay so. -/
theorem mapOut (a : KeepsArrays s t) (h : Half) (i : Nat) :
    (physAt t (physKeyOf h (((Machine.larr t h i).phys).getD 0))).mapOut =
      (physAt s (physKeyOf h (((Machine.larr s h i).phys).getD 0))).mapOut := by
  rw [physAt, physAt, Machine.larr, Machine.larr, a.phys, a.larr]

end KeepsArrays

theorem keepsArrays_rput (r : Reg) (n v : Nat) (s : State) : KeepsArrays s (rput r n v s) := ⟨rfl, rfl, rfl⟩

theorem keepsArrays_placeCells (h : Half) (i k : Nat) (m : Image) (b : List Byte) (seed : Nat) (s : State) :
    KeepsArrays s (placeCells h i k m b seed s) := by
  unfold placeCells
  refine forEach_ind _ _ (KeepsArrays s) (fun r t ht => ?_) s (.refl s)
  exact ⟨ht.mem, ht.larr, ht.phys⟩

/-- What the write stage of a good image sets: the fields that the image gives, and its cells. -/
def imagePlaced (h : Half) (i k : Nat) (m : Image) (b : List Byte) (s : State) : State :=
  let n := ctxKey h i k
  let s := rput .arithMode n m.arith s
  let s := if m.seedFromField then s else rput .srSeed n m.seed.toNat s
  placeCells h i k m b (rget s .srSeed n) s

theorem keepsArrays_imagePlaced (h : Half) (i k : Nat) (m : Image) (b : List Byte) (s : State) :
    KeepsArrays s (imagePlaced h i k m b s) := by
  unfold imagePlaced
  cases m.seedFromField
  · exact (keepsArrays_placeCells ..).after ((keepsArrays_rput ..).after (keepsArrays_rput ..))
  · exact (keepsArrays_placeCells ..).after (keepsArrays_rput ..)

section LoadComplete

variable {h : Half} {i k : Nat} {s : State} (hst : (ctxAt s h i k).st = .loading)
include hst

theorem doLoadComplete_unread {a : Nat} (himg : (ctxAt s h i k).loadImg = none)
    (ha : (ctxAt s h i k).loadFrom = some a) : doLoadComplete h i k s = loadChecks h i k a s := by
  simp only [doLoadComplete, hst, himg, ha]

variable {t : State} {m : Image} {b : Section} (himg : (ctxAt s h i k).loadImg = some m)
  (hread : readSection (arrayAgent h i) m.addr m.bytes s = (some b, t))
include himg hread

theorem doLoadComplete_bad (hbad : b.poison = true ∨ imageCrc m b.bytes ≠ m.crc.toNat) :
    doLoadComplete h i k s = ctxResult h i k 3 (emptyCtx h i k t) := by
  simp [doLoadComplete, hst, himg, hread, hbad]

/-- A good image none of whose cells is mapped out, with no START waiting for it, leaves the context READY. -/
theorem doLoadComplete_good (hpoison : b.poison = false) (hcrc : imageCrc m b.bytes = m.crc.toNat)
    (hstale : (ctxAt s h i k).staleAtEnd = false) (hstart : (ctxAt s h i k).startWhenReady = false)
    (hout : namesOut m (physAt t (physKeyOf h (((larr t h i).phys).getD 0))).mapOut = false) :
    doLoadComplete h i k s = setCtx h i k { Ctx.init with st := .ready, img := some m, lastResult := 0 }
      (imagePlaced h i k m b.bytes t) := by
  rw [← (keepsArrays_imagePlaced h i k m b.bytes t).mapOut] at hout
  unfold imagePlaced at hout ⊢
  simp [doLoadComplete, hst, himg, hread, hpoison, hcrc, hstale, hstart, hout]

end LoadComplete

/-- Settles O6. -/
theorem loadCompletes : Obligations.LoadCompletes := by
  refine ⟨?_, ?_, ?_⟩
  · intro h i k s t m b hh hst himg hread hbad
    simp only [exec, execLoadComplete, onHalf_next hh, doLoadComplete_bad hst himg hread hbad]
  · intro h i k s t m b hh hst himg hread hpoison hcrc hstale hstart hout
    refine ⟨_, onHalf_next hh, ?_⟩
    rw [doLoadComplete_good hst himg hread hpoison hcrc hstale hstart hout, ctxAt_setCtx_self]
    exact ⟨rfl, rfl, (keepsArrays_imagePlaced ..).mem⟩
  · intro h i k s a hh hst himg ha
    simp only [exec, execLoadComplete, onHalf_next hh, doLoadComplete_unread hst himg ha]

/-! ### The steps of the sequencer (R93, R95–R98, R101) -/

/-- Memory is as it was, and the context is at the same step, waits for the same phase and has the same phases running:
what a cell's entry into a phase leaves alone. -/
structure KeepsSequencer (h : Half) (i k : Nat) (s t : State) : Prop where
  mem : t.mem = s.mem
  step : (ctxAt t h i k).step = (ctxAt s h i k).step
  phaseWait : (ctxAt t h i k).phaseWait = (ctxAt s h i k).phaseWait
  running : (ctxAt t h i k).running = (ctxAt s h i k).running

namespace KeepsSequencer

variable {h : Half} {i k : Nat} {s t u : State}

theorem refl (s : State) : KeepsSequencer h i k s s := ⟨rfl, rfl, rfl, rfl⟩

theorem after (b : KeepsSequencer h i k t u) (a : KeepsSequencer h i k s t) : KeepsSequencer h i k s u :=
  ⟨b.mem.trans a.mem, b.step.trans a.step, b.phaseWait.trans a.phaseWait, b.running.trans a.running⟩

end KeepsSequencer

section Sequencer

variable {h : Half} {i k : Nat}

theorem keepsSequencer_setCell (key : Nat) (x : CellSt) (s : State) : KeepsSequencer h i k s (setCell key x s) :=
  ⟨rfl, rfl, rfl, rfl⟩

theorem keepsSequencer_event (g : Half) (code sev : Nat) (func : Option Nat) (index addr cause : Nat) (s : State) :
    KeepsSequencer h i k s (event g code sev func index addr cause s) := by
  constructor <;> simp [ctxAt]

/-- A context that is replaced by one at the same step, waiting for the same phase, with the same phases running. -/
theorem keepsSequencer_setCtx {x : Ctx} {s : State} (hstep : x.step = (ctxAt s h i k).step := by rfl)
    (hwait : x.phaseWait = (ctxAt s h i k).phaseWait := by rfl)
    (hrun : x.running = (ctxAt s h i k).running := by rfl) :
    KeepsSequencer h i k s (setCtx h i k x s) := by
  constructor
  · rfl
  all_goals rwa [ctxAt_setCtx_self]

theorem keepsSequencer_setFlags (p c : Nat) (f : Flags) (s : State) :
    KeepsSequencer h i k s (setFlags h p c i k f s) := by
  unfold setFlags
  dsimp only
  split
  · exact (keepsSequencer_event ..).after ((keepsSequencer_setCtx ..).after (keepsSequencer_setCell ..))
  · exact keepsSequencer_setCell ..

theorem keepsSequencer_residueFail (b : Bool) (key : Nat) (s : State) :
    KeepsSequencer h i k s (when b (residueFail key i k) s) := by
  cases b
  · exact .refl s
  · exact keepsSequencer_setCell ..

theorem keepsSequencer_enterPhase (c p : Nat) (m : Image) (resid : Bool) (s : State) :
    KeepsSequencer h i k s (enterPhase h i k c p m resid s) := by
  have hwords : KeepsSequencer h i k s
      (setCtx h i k { ctxAt s h i k with words := (ctxAt s h i k).words.erase c } s) :=
    keepsSequencer_setCtx
  unfold enterPhase
  dsimp only
  split
  · exact hwords
  · exact (keepsSequencer_setFlags ..).after ((keepsSequencer_setCell ..).after
      ((keepsSequencer_residueFail ..).after hwords))

@[simp] theorem ctxAt_stepOn (s : State) : ctxAt (stepOn h i k s) h i k =
    { ctxAt s h i k with step := (ctxAt s h i k).step + 1, issued := false, phaseWait := none, delayUntil := none } := by
  rw [stepOn, ctxAt_noteProgress, ctxAt_setCtx_self]

variable {s : State} {x : Ctx}

/-- The end of a context with no next one. -/
theorem doEnd_last (hi : issuable s h i = some (k, x, .stEnd)) (hdone : streamsDone s h i = true)
    (hnext : (x.img.bind fun m => m.nextCtx) = none) :
    doEnd h i s = noteProgress h i (setCtx h i k { x with
      st := .done, stopPend := false, running := [], phaseWait := none, held := false } s) := by
  simp [doEnd, hi, hdone, hnext]

/-- The cells that have the phase run it after what they run, and the sequencer is at the next step. -/
theorem doPhase_starts {p : Nat} {w : Bool} {m : Image} (resid : List (Fin 256))
    (hi : issuable s h i = some (k, x, .stPhase p w)) (hm : x.img = some m) :
    KeepsSequencer h i k (setCtx h i k { x with
        step := x.step + 1, issued := false, delayUntil := none, phaseWait := if w then some p else none
        running := x.running ++ (m.cells.filter (fun r => decide (p < r.phases))).map (fun r => (r.cell, p)) } s)
      (doPhase h i resid s) := by
  simp only [doPhase, hi, hm]
  refine forEach_ind _ _ _ (fun c t ht => (keepsSequencer_enterPhase ..).after ht) _ ?_
  refine ⟨rfl, ?_, ?_, ?_⟩ <;> simp [Function.comp_def]

theorem doStreamStart_queues {j : Nat} {r : StreamRec} (hi : issuable s h i = some (k, x, .stStream j))
    (hr : (x.img.bind fun m => m.streams[j]?) = some r) :
    doStreamStart h i s = stepOn h i k (setPortQ h i r.port (portQAt s h i r.port ++ [j]) (setCtx h i k
      { x with streams := if portQAt s h i r.port = [] then x.streams.insert j StreamSt.init else x.streams } s)) := by
  simp only [doStreamStart, hi, hr]

theorem doStreamWait_waits {j : Nat} {r : StreamRec} (hi : issuable s h i = some (k, x, .stStreamWait j))
    (hr : (x.img.bind fun m => m.streams[j]?) = some r) :
    doStreamWait h i s = if (portQAt s h i r.port).contains j then s else stepOn h i k s := by
  simp only [doStreamWait, hi, hr]

section CueWait

variable {j t : Nat} {c : Bool} (hi : issuable s h i = some (k, x, .stCueWait j t c))
include hi

theorem doCueWait_current (hcur : handleCurrent s (imgCue x j) = true) :
    doCueWait h i s = waitFrom h (imgCue x j) ⟨.ctx h i k, t, c⟩
      (setCtx h i k { x with st := .waiting, issued := true } s) := by
  simp only [doCueWait, hi, hcur, if_true]

theorem doCueWait_stale (hcur : handleCurrent s (imgCue x j) = false) : doCueWait h i s = faultCtx h i k 6 j s := by
  simp only [doCueWait, hi, hcur, Bool.false_eq_true, if_false]

end CueWait

theorem doCueSignal_current {j inc : Nat} (hi : issuable s h i = some (k, x, .stCueSignal j inc))
    (hcur : handleCurrent s (imgCue x j) = true) (hdone : streamsDone s h i = true) :
    doCueSignal h i s = signalFrom h (imgCue x j) inc (stepOn h i k s) := by
  simp only [doCueSignal, hi, hcur, hdone, Bool.not_true, Bool.false_eq_true, if_false, if_true]

/-- A loop counter above 1 counts down, and the sequencer goes back. -/
theorem doLoop_back {target count j : Nat} (hi : issuable s h i = some (k, x, .stLoop target count j))
    (hlc : 1 < x.lc.getD j 0) :
    doLoop h i s = setCtx h i k { x with
        lc := x.lc.set j (x.lc.getD j 0 - 1), step := target, issued := false, phaseWait := none, delayUntil := none }
      (stepOn h i k (setCtx h i k { x with lc := x.lc.set j (x.lc.getD j 0 - 1) } s)) := by
  have hzero : x.lc.getD j 0 ≠ 0 := by omega
  have hone : x.lc.getD j 0 - 1 ≠ 0 := by omega
  simp only [doLoop, hi, hzero, hone, if_false, ctxAt_stepOn, ctxAt_setCtx_self]

theorem doDelay_waits {n : Nat} (hi : issuable s h i = some (k, x, .stDelay n)) :
    doDelay h i s = setCtx h i k { x with issued := true, delayUntil := some (s.clock + (n + 189) / 190) } s := by
  simp only [doDelay, hi]

end Sequencer

/-- Settles O4. -/
theorem sequencerSteps : Obligations.SequencerSteps := by
  refine ⟨?_, ?_, ?_, ?_, ?_, ?_, ?_, ?_, ?_⟩
  · intro h i s k x hh hi hdone hnext
    simp only [exec, execStepEnd, onHalf_next hh, doEnd_last hi hdone hnext]
  · intro h i s k p x w m resid hh hi hm
    have hkeeps := doPhase_starts resid hi hm
    exact ⟨_, onHalf_next hh, hkeeps.mem, by simpa using hkeeps.step, by simpa using hkeeps.phaseWait,
      by simpa using hkeeps.running⟩
  · intro h i s k j x r hh hi hr
    simp only [exec, execStreamStart, onHalf_next hh, doStreamStart_queues hi hr]
  · intro h i s k j x r hh hi hr
    simp only [exec, execStreamWait, onHalf_next hh, doStreamWait_waits hi hr]
  · intro h i s k j t x c hh hi hcur
    simp only [exec, execCueWait, onHalf_next hh, doCueWait_current hi hcur]
  · intro h i s k j t x c hh hi hcur
    simp only [exec, execCueWait, onHalf_next hh, doCueWait_stale hi hcur]
  · intro h i s k j inc x hh hi hcur hdone
    simp only [exec, execCueSignal, onHalf_next hh, doCueSignal_current hi hcur hdone]
  · intro h i s k target count j x hh hi hlc
    refine ⟨_, onHalf_next hh, ?_⟩
    rw [doLoop_back hi hlc, ctxAt_setCtx_self]
    exact ⟨rfl, rfl, rfl, rfl, rfl⟩
  · intro h i s k n x hh hi
    simp only [exec, execDelay, onHalf_next hh, doDelay_waits hi]

end Sys2Proof.Machine

namespace Sys2Proof.Machine

open Sys2Proof

/-! ### Returned sectors and eviction buffer entries (R119, R130) -/

/-- A list without an n-th sector. -/
theorem doFillData_none {sl n : Nat} {s : State} (htake : takeRet sl n s = none) : doFillData sl n s = s := by
  simp only [doFillData, htake]

/-- A sector that the home need not complete first enters the slice. -/
theorem doFillData_arrives {sl n : Nat} {s t : State} {r : FillRet} (htake : takeRet sl n s = some (r, t))
    (hpend : (r.reducePending && !r.failed) = false) :
    doFillData sl n s = settleSlates (redriveSlice sl (retryStalled sl (fillArrive sl r t))) := by
  simp only [doFillData, htake, hpend, Bool.false_eq_true, if_false]

/-- The entry that no older one of its channel precedes is handed over. -/
theorem doEbufHandover_oldest {sl n : Nat} {s t : State} {e : EbEntry} (hent : (ebufAt s sl)[n]? = some e)
    (hold : ((ebufAt s sl).take n).any (fun x => decide (chanOf sl x.line = chanOf sl e.line)) = false)
    (hover : handOver sl n s = some t) :
    doEbufHandover sl n s = settleSlates (redriveSlice sl (retryStalled sl t)) := by
  simp only [doEbufHandover, hent, hold, hover, Bool.false_eq_true, if_false]

/-- Settles O11: each command by what its meaning does in the case. -/
theorem sliceReturnsAndHandovers : Obligations.SliceReturnsAndHandovers := by
  refine ⟨?_, ?_, ?_⟩
  · intro sl n s t r hh htake hpend
    simp only [exec, execFillData, onHalf_next hh, doFillData_arrives htake hpend]
  · intro sl n s hh htake
    simp only [exec, execFillData, onHalf_next hh, doFillData_none htake]
  · intro sl n s t e hh hent hold hover
    simp only [exec, execEbufHandover, onHalf_next hh, doEbufHandover_oldest hent hold hover]

/-! ### The running operation of a maintenance port (R136, R140, R141, R144, R145, R148, R149) -/

@[simp] theorem maintAt_setMaint_self (h : Half) (f : Nat) (p : MaintPort) (s : State) :
    maintAt (setMaint h f p s) h f = p := by
  simp [maintAt, setMaint]

/-- The commands that act on lines of a port's running operation, each with the code of the operations it serves. -/
def lineCommands (h : Half) (f : Fin 16) (n : Nat) : List (Nat × Instr) :=
  [(1, .prefetch h f n), (2, .prefetchLock h f n), (3, .flush h f n), (4, .invalidate h f n), (5, .flushInv h f n),
    (6, .markDead h f n)]

theorem exec_lineCommand {h : Half} {f : Fin 16} {n code : Nat} {cmd : Instr} {s : State} (hh : hasHalf s h = true)
    (hcmd : (code, cmd) ∈ lineCommands h f n) : exec cmd s = .next (opRun h f.val code n s) := by
  rw [← onHalf_next (r := .next (opRun h f.val code n s)) hh]
  simp only [lineCommands, List.mem_cons, Prod.mk.injEq, List.not_mem_nil, or_false] at hcmd
  obtain ⟨rfl, rfl⟩ | ⟨rfl, rfl⟩ | ⟨rfl, rfl⟩ | ⟨rfl, rfl⟩ | ⟨rfl, rfl⟩ | ⟨rfl, rfl⟩ := hcmd <;> rfl

section LineOfOperation

variable {h : Half} {f code : Nat} {s : State} {o : MaintOp} (hrun : (maintAt s h f).run = some o)
include hrun

theorem opRun_otherCode (n : Nat) (hcode : opCode o ≠ code) : opRun h f code n s = s := by
  cases n with
  | zero => rfl
  | succ n => simp only [opRun, hrun, hcode, ne_eq, not_false_eq_true, if_true]

variable {sl line pos : Nat} {s1 : State} (hcode : opCode o = code) (hnext : opNext s h o = some (some (sl, line), pos))
  (hreach : halfOf 128 sl = .h1 → farGone s = false) (hcoh : opCoherent sl line code s = (true, s1))
include hcode hnext hreach hcoh

/-- One line, reachable and coherent: the operation acts there and goes to the next line, or stays and notes since
when. -/
theorem opRun_one : opRun h f code 1 s =
    match opLine sl line o s1 with
    | some (o2, s2) =>
      setMaint h f { maintAt s2 h f with run := some { o2 with pos := pos, blockedT := none } } s2
    | none =>
      setMaint h f { maintAt s1 h f with run := some { o with blockedT := some (o.blockedT.getD s1.clock) } } s1 := by
  have hthere : (decide (halfOf 128 sl = .h1) && farGone s) = false := by simpa using hreach
  simp only [opRun, hrun, hcode, hnext, hthere, hcoh, ne_eq, not_true_eq_false, Bool.false_eq_true, if_false]
  cases opLine sl line o s1 <;> rfl

end LineOfOperation

section MaintRecord

variable {h : Half} {f : Nat} {s : State}

theorem doMaintRecord_late (hlate : (maintAt s h f).late ≠ []) : doMaintRecord h f s = lateRecord h f s := by
  simp only [doMaintRecord, hlate, ne_eq, not_false_eq_true, if_true]

/-- A finished operation whose record is written gives way to the next. -/
theorem doMaintRecord_finished {t : State} {o : MaintOp} (hlate : (maintAt s h f).late = [])
    (hrun : (maintAt s h f).run = some o) (hnext : opNext s h o = none) (hpend : opPending s o = [])
    (hrec : writeRecord h o s = (true, t)) : doMaintRecord h f s = nextOp h f t := by
  simp [doMaintRecord, hlate, hrun, hnext, hpend, hrec]

theorem writeRecord_noRec {o : MaintOp} (hno : o.noRec = true) : writeRecord h o s = (true, maintCueSignal h o s) := by
  simp only [writeRecord, hno, if_true]

end MaintRecord

/-! ### What a maintenance operation gives up on a fenced stack (R149) -/

/-- A place of an operation is behind the line found next from it. -/
theorem pos_lt_of_opNext {s : State} {h : Half} {o : MaintOp} {x : Option (Nat × Nat)} {p : Nat}
    (hnext : opNext s h o = some (x, p)) : o.pos < p := by
  unfold opNext at hnext
  split at hnext
  · exact absurd hnext (by simp)
  · split at hnext
    · obtain ⟨l, hl, hlp⟩ := Option.map_eq_some_iff.mp hnext
      obtain ⟨e, -, he⟩ := List.exists_of_findSome?_eq_some hl
      split at he
      · have hpos : o.pos ≤ l.1 := by simpa using List.find?_some he
        simp only [Prod.mk.injEq] at hlp
        omega
      · exact absurd he (by simp)
    · split at hnext
      · simp only [Option.some.injEq, Prod.mk.injEq] at hnext
        omega
      · exact absurd hnext (by simp)

/-- Without a line that it stays at an operation is not blocked. -/
theorem opBlocked_of_blockedT_none {s : State} {h : Half} {o : MaintOp} (hb : o.blockedT = none) :
    opBlocked s h o = none := by
  simp only [opBlocked, hb]

/-- What the timeout can leave of a port's running operation: it does not go back, forgets no failure and waits for no
new entry, and one that stayed at no line is where it was. -/
structure GivesUp (o o' : MaintOp) : Prop where
  pos : o.pos ≤ o'.pos
  stays : o.blockedT = none → o'.pos = o.pos
  failed : o.failed ≤ o'.failed
  waitFor : o'.waitFor.Sublist o.waitFor

/-- The timeout moves the clock on to the time of the first entry or line that is due, and touches the running operation
only. -/
theorem doMaintFailTimeout_due {h : Half} {f : Nat} {s : State} {o : MaintOp} (hrun : (maintAt s h f).run = some o)
    (hfenced : (opPending s o).any (fun w => sliceFenced s w.sl) = true) :
    ∃ c o', doMaintFailTimeout h f s = setMaint h f { maintAt s h f with run := some o' } (atTime c s) ∧
      GivesUp o o' := by
  have hlate : (opPending s o).filter (fun w => sliceFenced s w.sl) ≠ [] := by
    simpa [List.filter_eq_nil_iff] using hfenced
  simp only [doMaintFailTimeout, hrun]
  split
  case h_1 hdues => exact absurd (List.map_eq_nil_iff.mp (List.append_eq_nil_iff.mp hdues).1) hlate
  case h_2 d ds hdues =>
    refine ⟨_, _, rfl, ?_⟩
    split
    case h_1 sl line t x pos hstuck hnext =>
      have hblocked : o.blockedT ≠ none := fun hb => by simp [opBlocked_of_blockedT_none hb] at hstuck
      split
      · exact ⟨(pos_lt_of_opNext hnext).le, fun hb => absurd hb hblocked,
          (Nat.le_add_right ..).trans (Nat.le_add_right ..), List.filter_sublist⟩
      · exact ⟨le_rfl, fun _ => rfl, Nat.le_add_right .., List.filter_sublist⟩
    case h_2 => exact ⟨le_rfl, fun _ => rfl, Nat.le_add_right .., List.filter_sublist⟩

/-- Settles O13: the commands on lines by one pass of `opRun`, the timeout by what the operation gives up (`GivesUp`). -/
theorem maintenanceOperations : Obligations.MaintenanceOperations := by
  refine ⟨?_, ?_, ?_, ?_, ?_, ?_⟩
  · intro h f code sl line pos cmd s s1 s2 o o2 hh hcmd hrun hcode hnext hreach hcoh
    rw [exec_lineCommand hh hcmd, opRun_one hrun hcode hnext hreach hcoh]
    exact ⟨fun hline => by rw [hline], fun hline => by rw [hline]⟩
  · intro h f code n cmd s o hh hcmd hrun hcode
    rw [exec_lineCommand hh hcmd, opRun_otherCode hrun n hcode]
  · intro h f s t o hh hlate hrun hnext hpend hrec
    simp only [exec, execMaintRecord, onHalf_next hh, doMaintRecord_finished hlate hrun hnext hpend hrec]
  · intro h f s o hh hlate hrun hnext hpend hno
    simp only [exec, execMaintRecord, onHalf_next hh,
      doMaintRecord_finished hlate hrun hnext hpend (writeRecord_noRec hno)]
  · intro h f s hh hlate
    simp only [exec, execMaintRecord, onHalf_next hh, doMaintRecord_late hlate]
  · intro h f s o hh hrun hfenced
    obtain ⟨c, o', heq, hgives⟩ := doMaintFailTimeout_due hrun hfenced
    refine ⟨_, onHalf_next hh, ?_⟩
    rw [heq, maintAt_setMaint_self]
    exact ⟨le_max_left .., rfl, rfl, rfl, o', rfl, hgives.pos, hgives.stays, hgives.failed, hgives.waitFor⟩

end Sys2Proof.Machine

namespace Sys2Proof.Machine

open Sys2Proof

/-! ### Bytes in address order and back (R4) -/

/-- The bytes of a number, least first, give back its low `8 * n` bits. -/
theorem leNat_bytes (n x : Nat) :
    leNat ((List.range n).map fun i => BitVec.ofNat 8 (x / 2 ^ (8 * i))) = x % 2 ^ (8 * n) := by
  induction n generalizing x with
  | zero => simp [leNat, Nat.mod_one]
  | succ n ih =>
    have hshift : ∀ i, x / 2 ^ (8 * (i + 1)) = x / 256 / 2 ^ (8 * i) := fun i => by
      rw [Nat.div_div_eq_div_mul, Nat.mul_add, Nat.pow_add, Nat.mul_comm]
    calc leNat ((List.range (n + 1)).map fun i => BitVec.ofNat 8 (x / 2 ^ (8 * i)))
        = x % 256 + 256 * (x / 256 % 2 ^ (8 * n)) := by
          simp [List.range_succ_eq_map, leNat, Function.comp_def, hshift, ih]
      _ = x % 2 ^ (8 * (n + 1)) := by rw [← Nat.mod_mul, Nat.mul_add, Nat.pow_add, Nat.mul_comm]

/-- A bit vector is the one made of its bytes. -/
theorem ofBytes_bytesOf {w n : Nat} (hw : w ≤ 8 * n) (v : BitVec w) : ofBytes w (bytesOf n v) = v := by
  have hlt : v.toNat < 2 ^ (8 * n) := v.isLt.trans_le (Nat.pow_le_pow_right (by decide) hw)
  have hnat : leNat (bytesOf n v) = v.toNat := (leNat_bytes n v.toNat).trans (Nat.mod_eq_of_lt hlt)
  rw [ofBytes, hnat, BitVec.ofNat_toNat, BitVec.setWidth_eq]

/-! ### Sectors of the stacks' memory (R157, R163) -/

/-- A sector is known by its 32 bytes. -/
theorem dramSector_eq_of_bytes {m : MemSt} {k : Nat} {d : Sec256}
    (hbytes : ∀ i < 32, dramByte m (32 * k + i) = byteAt d i) : dramSector m k = d := by
  have hlist : (List.range 32).map (fun i => dramByte m (32 * k + i)) = bytesOf 32 d :=
    List.map_congr_left fun i hi => hbytes i (List.mem_range.1 hi)
  rw [dramSector, hlist, ofBytes_bytesOf (by decide)]

/-- Two memories with the same 32 bytes hold the same sector. -/
theorem dramSector_congr {m m' : MemSt} {k : Nat}
    (hbytes : ∀ i < 32, dramByte m (32 * k + i) = dramByte m' (32 * k + i)) : dramSector m k = dramSector m' k := by
  rw [dramSector, dramSector, List.map_congr_left fun i hi => hbytes i (List.mem_range.1 hi)]

@[simp] theorem dramSector_dramWrite_self (k : Nat) (d : Sec256) (side : Nat) (m : MemSt) :
    dramSector (dramWrite k d side m) k = d :=
  dramSector_eq_of_bytes fun i hi => by
    rw [dramByte_dramWrite_self k i d side m (by simpa [bytesOf] using hi)]
    simp [bytesOf]

theorem dramSector_dramWrite_ne {k j : Nat} (d : Sec256) (side : Nat) (m : MemSt) (hj : j ≠ k) :
    dramSector (dramWrite k d side m) j = dramSector m j :=
  dramSector_congr fun i hi => dramByte_dramWrite_other k d side _ m (by omega)

@[simp] theorem side_dramWrite_self (k : Nat) (d : Sec256) (side : Nat) (m : MemSt) :
    NMap.getD (dramWrite k d side m).side k 0 = side := NMap.getD_setD_self ..

theorem side_dramWrite_ne {k j : Nat} (d : Sec256) (side : Nat) (m : MemSt) (hj : j ≠ k) :
    NMap.getD (dramWrite k d side m).side j 0 = NMap.getD m.side j 0 := NMap.getD_setD_ne _ _ hj

/-- Where nothing is listed a sector holds the zero fill of training. -/
theorem dramSector_init (k : Nat) : dramSector MemSt.init k = 0 :=
  dramSector_eq_of_bytes fun i _ => by simp [dramByte, MemSt.init, NMap.getD, dramDefault, byteAt]

/-- Settles O56: a sector is known by its bytes, and each byte by the laws of a sector write. -/
theorem memoryOfTheStacks : Obligations.MemoryOfTheStacks := by
  refine ⟨fun m k d side => ⟨dramSector_dramWrite_self .., side_dramWrite_self .., ?_, ?_⟩,
    fun k => ⟨dramSector_init k, rfl⟩⟩
  · intro b hb
    exact dramByte_dramWrite_other k d side b m (by omega)
  · intro j hj
    exact ⟨dramSector_dramWrite_ne d side m hj, side_dramWrite_ne d side m hj⟩

/-! ### The accesses of a channel's queue (R163–R170) -/

section ChannelQueue

variable {c n : Nat} {err : ReadErr} {s : State}

/-- The access that the arbitration grants is performed, and the arbitration notes the grant. -/
theorem performGranted_granted {d : Cand} (hnext : chanNext s c = some d) (hidx : d.idx = n)
    (hopen : chanOpen s c = true) : performGranted c n err s =
      performNth c n err (setChan c { chanAt s c with arb := arbAfter (chanAt s c).arb (chanCands s c) d } s) := by
  simp only [performGranted, hnext, hidx, hopen, decide_true, Bool.and_true, if_true]

/-- Any other access is not performed. -/
theorem performGranted_other {d : Cand} (hnext : chanNext s c = some d) (hidx : d.idx ≠ n) :
    performGranted c n err s = s := by
  simp only [performGranted, hnext, hidx, decide_false, Bool.false_and, Bool.false_eq_true, if_false]

/-- An open channel takes up an access of the command's kind, and what waited at the slice goes on. -/
theorem performKind_open {kind : ChanKind → Bool} {o : ChanOp} (hq : (chanAt s c).q[n]? = some o)
    (hkind : kind o.op = true) (hopen : chanOpen s c = true) :
    performKind c n err kind s = afterChan c (performGranted c n err s) := by
  simp only [performKind, hq, hkind, hopen, Bool.and_true, if_true]

/-- A closed channel performs no access of its queue. -/
theorem performKind_closed (kind : ChanKind → Bool) (hopen : chanOpen s c = false) :
    performKind c n err kind s = s := by
  unfold performKind
  cases (chanAt s c).q[n]? with
  | none => rfl
  | some o => simp only [hopen, Bool.and_false, Bool.false_eq_true, if_false]

/-- An entry that reaches its age goes to the end of the queue and is performed from there. -/
theorem doWcbAge_entry {w : WcbEnt} (hent : (chanAt s c).wcb[n]? = some w) :
    doWcbAge c n err s = afterChan c (performGranted c
      ((chanAt (flushWcb c w.line w.sec (atTime (w.t + wcbAge s c) s)) c).q.length - 1) err
      (flushWcb c w.line w.sec (atTime (w.t + wcbAge s c) s))) := by
  simp only [doWcbAge, hent]

theorem doScrub_closed (hopen : chanOpen s c = false) : doScrub c err s = s := by
  simp only [doScrub, hopen, Bool.not_false, Bool.true_or, if_true]

/-- The scrub goes to the channel's next sector: its read follows what is combined for that sector in the queue. -/
def scrubQueued (c : Nat) (s : State) : State :=
  let lc := lineOfIndex c (chanAt s c).scrubPos
  enqueue c lc.1 lc.2 (.read .scrub)
    (flushWcb c lc.1 lc.2 (setChan c { chanAt s c with scrubPos := (chanAt s c).scrubPos + 1 } s))

/-- Before the last sector of a pass. -/
theorem doScrub_nextSector (hopen : chanOpen s c = true) (hroom : chanRoom s c 1 = true)
    (hpos : (chanAt s c).scrubPos + 1 < 2 ^ 26) : doScrub c err s =
      performGranted c ((chanAt (scrubQueued c s) c).q.length - 1) err (scrubQueued c s) := by
  have hlast : (chanAt s c).scrubPos + 1 ≠ 2 ^ 26 := hpos.ne
  simp only [doScrub, scrubQueued, hopen, hroom, hlast, b2n, Bool.not_true, Bool.or_false, Bool.false_eq_true,
    decide_false, if_false, Nat.add_zero]

end ChannelQueue

/-- Settles O14: each command by what the channel does with the access it names. -/
theorem channelAccesses : Obligations.ChannelAccesses := by
  refine ⟨?_, ?_, ?_, ?_⟩
  · intro c n err s o d cmd kind hh hq hopen hkind hnext hcmd
    have hexec : exec cmd s = .next (afterChan c (performGranted c n err s)) := by
      rw [← performKind_open hq hkind hopen]
      obtain ⟨rfl, rfl⟩ | ⟨rfl, rfl⟩ | ⟨rfl, rfl⟩ := hcmd <;> exact onHalf_next hh
    rw [hexec]
    exact ⟨fun hidx => by rw [performGranted_granted hnext hidx hopen],
      fun hidx => by rw [performGranted_other hnext hidx]⟩
  · intro c n err s cmd hh hopen hcmd
    obtain rfl | rfl | rfl | rfl := hcmd
    · simp only [exec, execMemorySectorRead, onHalf_next hh, performKind_closed isRead hopen]
    · simp only [exec, execMemorySectorWrite, onHalf_next hh, performKind_closed isWrite hopen]
    · simp only [exec, execMemorySideAdd, onHalf_next hh, performKind_closed isAdd hopen]
    · simp only [exec, execScrubRead, onHalf_next hh, doScrub_closed hopen]
  · intro c n err s w hh hent
    exact ⟨_, onHalf_next hh, doWcbAge_entry hent⟩
  · intro c err s hh hopen hroom hpos
    exact (onHalf_next hh).trans (congrArg _ (doScrub_nextSector hopen hroom hpos))

end Sys2Proof.Machine

namespace Sys2Proof.Machine

open Sys2Proof

/-! ### Counters in configuration fields (R7) -/

/-- A field has 32 bits. -/
@[simp] theorem rget_rput_self (r : Reg) (i v : Nat) (s : State) : rget (rput r i v s) r i = v % 2 ^ 32 := by
  simp [rget, rput, RegFile.get, RegFile.put]

theorem rbits_rputBits_self {hi lo : Nat} (h : lo ≤ hi) (hw : hi < 32) (r : Reg) (i v : Nat) (s : State) :
    rbits (rputBits r i hi lo v s) r i hi lo = v % 2 ^ (hi + 1 - lo) := by
  refine Nat.eq_of_testBit_eq fun j => ?_
  rw [rbits, rputBits, rget_rput_self, testBit_natBits, Nat.testBit_mod_two_pow, Nat.testBit_mod_two_pow,
    testBit_setBits h]
  by_cases hj : j < hi + 1 - lo
  · simp [hj, show lo + j < 32 by omega, show lo + j ≤ hi by omega]
  · simp [hj]

/-- A saturating count goes on to its limit. -/
theorem rbits_bumpSat_self {hi lo : Nat} (h : lo ≤ hi) (hw : hi < 32) (r : Reg) (i n : Nat) (s : State) :
    rbits (bumpSat r i hi lo n s) r i hi lo = min (2 ^ (hi + 1 - lo) - 1) (rbits s r i hi lo + n) := by
  have hpos := Nat.two_pow_pos (hi + 1 - lo)
  rw [bumpSat, rbits_rputBits_self h hw, satAdd, Nat.mod_eq_of_lt (by omega)]

/-- A count changes configuration fields only. -/
theorem bumpSat_eq (r : Reg) (i hi lo n : Nat) (s : State) :
    bumpSat r i hi lo n s = { s with regs := (bumpSat r i hi lo n s).regs } := rfl

/-! ### Stale messages (R222) -/

/-- The record of the first stale message in 1 ms. -/
def recordStale (h : Half) (s : State) : State :=
  event h 0x0401 0 none 0 0 222 { s with coh := { s.coh with staleSeen := s.coh.staleSeen.insert h.num s.clock } }

theorem staleMsg_cases (h : Half) (s : State) :
    staleMsg h s = bumpSat .staleDiscards h.num 31 0 1 s ∨
    staleMsg h s = recordStale h (bumpSat .staleDiscards h.num 31 0 1 s) := by
  unfold staleMsg
  dsimp only
  split
  · split
    · exact .inr rfl
    · exact .inl rfl
  · exact .inr rfl

@[simp] theorem recordStale_frame (h : Half) (s : State) :
    (recordStale h s).part = s.part ∧ (recordStale h s).regs = s.regs ∧ (recordStale h s).out = s.out ∧
    (recordStale h s).fab = s.fab ∧ (recordStale h s).cues = s.cues ∧ (recordStale h s).buf = s.buf ∧
    (recordStale h s).mem = s.mem ∧ (recordStale h s).dolly = s.dolly ∧
    (recordStale h s).coh = { s.coh with staleSeen := s.coh.staleSeen.insert h.num s.clock } := by
  simp [recordStale]

/-- A stale message leaves everything that it might have acted on. -/
@[simp] theorem staleMsg_frame (h : Half) (s : State) :
    (staleMsg h s).coh.far = s.coh.far ∧ (staleMsg h s).coh.reqs = s.coh.reqs ∧
    (staleMsg h s).coh.snoops = s.coh.snoops ∧ (staleMsg h s).coh.dir = s.coh.dir ∧
    (staleMsg h s).coh.txs = s.coh.txs ∧ (staleMsg h s).mem = s.mem ∧ (staleMsg h s).cues = s.cues ∧
    (staleMsg h s).dolly = s.dolly ∧ (staleMsg h s).fab = s.fab ∧ (staleMsg h s).buf = s.buf ∧
    (staleMsg h s).out = s.out := by
  rcases staleMsg_cases h s with hs | hs <;> rw [hs, bumpSat_eq] <;> simp

/-- It is counted. -/
theorem rbits_staleMsg (h : Half) (s : State) :
    rbits (staleMsg h s) .staleDiscards h.num 31 0 = min (2 ^ 32 - 1) (rbits s .staleDiscards h.num 31 0 + 1) := by
  rw [← rbits_bumpSat_self (Nat.zero_le 31) (by decide)]
  rcases staleMsg_cases h s with hs | hs
  · rw [hs]
  · simp only [hs, rbits, rget, recordStale_frame]

section Stale

variable {h : Half} {tag : Nat} {take : BitVec 8} {s : State}

/-- An answer whose tag and take name no outstanding request. -/
theorem withReq_stale {f : FarReq → State → State} (hst : ∀ r, reqAt s h tag = some r → r.take ≠ take) :
    withReq h tag take f s = staleMsg h s := by
  unfold withReq
  split
  next => rfl
  next r hr => exact if_neg (hst r hr)

variable {sl : Nat} (hst : ∀ sn, s.coh.snoops.find? (4096 * sl + tag) = some sn → sn.take ≠ take)
include hst

/-- A tag and take that name no snoop name no line. -/
theorem snoopLine_stale : snoopLine s sl tag take = none := by
  unfold snoopLine
  split
  next sn hsn => exact if_neg (hst sn hsn)
  next => rfl

theorem answerPoint_stale (src : Holder) (func : Fin 16) (epoch : Bool) :
    answerPoint sl tag take src func epoch s = s := by
  simp [answerPoint, snoopLine_stale hst]

theorem doSnoopAck_stale (src : Holder) (pend : Bool) (func : Fin 16) (epoch : Bool) :
    doSnoopAck sl tag take src pend func epoch s = staleMsg (homeHalf sl) s := by
  simp [doSnoopAck, answerPoint_stale hst, snoopLine_stale hst]

theorem doSnoopData_stale (src : Holder) (ro : Option RedOp) (secs : LinePart) (func : Fin 16) (epoch : Bool) :
    doSnoopData sl tag take src ro secs func epoch s = staleMsg (homeHalf sl) s := by
  simp [doSnoopData, answerPoint_stale hst, snoopLine_stale hst]

end Stale

/-- Settles O19: each of the nine answers, and each of the two answers to a snoop, ends in `staleMsg`. -/
theorem staleAnswersAreDiscarded : Obligations.StaleAnswersAreDiscarded := by
  refine ⟨?_, ?_⟩
  · intro h tag take g secs lease nc old cause cmd s hh hcmd hst
    have hexec : exec cmd s = .next (staleMsg h s) := by
      simp only [List.mem_cons, List.not_mem_nil, or_false] at hcmd
      obtain rfl | rfl | rfl | rfl | rfl | rfl | rfl | rfl | rfl := hcmd <;>
        exact (onHalf_next hh).trans (congrArg _ (withReq_stale hst))
    exact ⟨_, hexec, by simp [rbits_staleMsg]⟩
  · intro sl tag take src pend ro secs func epoch cmd s hh hcmd hst
    have hexec : exec cmd s = .next (staleMsg (homeHalf sl) s) := by
      obtain rfl | rfl := hcmd
      · exact (onHalf_next hh).trans (congrArg _ (doSnoopAck_stale hst src pend func epoch))
      · exact (onHalf_next hh).trans (congrArg _ (doSnoopData_stale hst src ro secs func epoch))
    exact ⟨_, hexec, by simp⟩

/-! ### Advances of takes (R222) -/

/-- The take after an advance is current. -/
theorem curTake_stepTake (k : Nat) (s : State) : curTake (stepTake k s) k = some (((takeSt s k).take + 1) % 256) := by
  simp [curTake, stepTake, takeSt]

theorem last_stepTake (k : Nat) (s : State) : (takeSt (stepTake k s) k).last = some s.clock := by
  simp [stepTake, takeSt]

theorem doTakeAdvance_due {k : Nat} {s : State} (h : (takeSt s k).due = true) :
    doTakeAdvance k s = stepTake k (atTime ((takeSt s k).last.getD 0 + ms 1) s) := by
  simp [doTakeAdvance, h]

/-- An MB2 has every unit with a take. -/
theorem exec_takeAdvance {s : State} (id : TakeId) (hp : s.part = .mb2) :
    exec (.takeAdvance id) s = .next (settleCadun (doTakeAdvance (takeKey id) s)) := by
  cases id with
  | cue n => exact onHalf_next (hasHalf_of_mb2 _ hp)
  | queue n => exact onHalf_next (hasHalf_of_mb2 _ hp)
  | coll h k => exact onHalf_next (hasHalf_of_mb2 _ hp)
  | reel h k => exact onHalf_next (hasHalf_of_mb2 _ hp)
  | siteTag g => exact onHalf_next (hasHalf_of_mb2 _ hp)
  | qp n => exact onPart_next rfl
  | key n => exact onPart_next rfl
  | session n => exact onPart_next rfl

/-- Settles O9. -/
theorem takesAdvanceWhenDue : Obligations.TakesAdvanceWhenDue := by
  refine ⟨?_, ?_, fun k s => ⟨curTake_stepTake k s, last_stepTake k s⟩⟩
  · intro n s hp hdue
    rw [exec_takeAdvance _ hp, doTakeAdvance_due hdue]
  · intro id s hp hdue
    exact ⟨_, exec_takeAdvance id hp, by rw [doTakeAdvance_due hdue]⟩

/-! ### Snoops at a far cache (R186, R197, R207, R212, R213, R215) -/

@[simp] theorem releaseOut_putFar (k : Nat) (l : Option FarLine) (s : State) (h : Half) (ga : W64) :
    releaseOut (putFar k l s) h ga = releaseOut s h ga := by
  cases l <;> rfl

section Snoops

variable {h : Half} {ga : W64} {sn : SnoopRef} {s t : State} {k : Nat} {l : FarLine}

/-- A snoop of the base itself, or of a member of the open group. -/
def snoopServed (sn : SnoopRef) (s : State) : Prop :=
  ∀ d, sn.dev = some d → groupOpen s = true ∧ (memberOf s d).isSome = true

/-- It acts on the line that is there once an ended lease has dropped it. -/
theorem onSnoop_served (hm : snoopServed sn s) (f : Option (Nat × FarLine) → State → State) :
    onSnoop h ga sn f s = f (farFind (dropExpired h ga s) h ga) (dropExpired h ga s) := by
  unfold onSnoop
  cases hd : sn.dev with
  | none => rfl
  | some d =>
    obtain ⟨hg, hmem⟩ := hm d hd
    simp [hg, Option.isSome_iff_ne_none.1 hmem]

/-- A snoop of a device that is no member acts on no line. -/
theorem onSnoop_refused {d : BitVec 16} (hd : sn.dev = some d) (hn : groupOpen s = false ∨ memberOf s d = none)
    (f : Option (Nat × FarLine) → State → State) :
    onSnoop h ga sn f s = sendCoh (.dev d)
      { blankCoh with code := 0x3A, tag := sn.tag.val, take := sn.take, addr := ga, cause := 1 } s := by
  rcases hn with hn | hn <;> simp [onSnoop, snoopDst, hd, hn]

section Served

variable (hm : snoopServed sn s) (ht : t = dropExpired h ga s)
include hm ht

/-! A line that is held, and one that is not. -/

theorem doInv_shared (hl : farFind t h ga = some (k, l)) (hs : l.st = .s) :
    doInv h ga sn s = answerSnoop sn ga (some l) 0x35 [] 0 false (putFar k none t) := by
  simp only [doInv, onSnoop_served hm, ← ht, hl, if_pos hs]

theorem doInv_notShared (hl : farFind t h ga = some (k, l)) (hs : l.st ≠ .s) :
    doInv h ga sn s = answerSnoop sn ga (some l) 0x35 [] 0 (releaseOut t h ga) t := by
  simp only [doInv, onSnoop_served hm, ← ht, hl, if_neg hs]

theorem doInv_absent (hl : farFind t h ga = none) :
    doInv h ga sn s = answerSnoop sn ga none 0x35 [] 0 (releaseOut t h ga) t := by
  simp only [doInv, onSnoop_served hm, ← ht, hl]

section NoRelease

variable (hout : releaseOut t h ga = false)
include hout

theorem doRecall_held (hl : farFind t h ga = some (k, l)) :
    doRecall h ga sn s =
      match l.st with
      | .m => answerSnoop sn ga (some l) 0x36 (lineSecs l.data) 0 false (putFar k none t)
      | .a ro => answerSnoop sn ga (some l) 0x36 (lineSecs l.data) (redopCode ro) false (putFar k none t)
      | _ => answerSnoop sn ga (some l) 0x35 [] 0 false (putFar k none t) := by
  cases hst : l.st <;>
    simp only [doRecall, onSnoop_served hm, ← ht, hl, releaseOut_putFar, hout, hst, Bool.false_eq_true, if_false]

theorem doDowngrade_held (hl : farFind t h ga = some (k, l)) :
    doDowngrade h ga sn s =
      match l.st with
      | .m => answerSnoop sn ga (some l) 0x36 (lineSecs l.data) 0 false
          (putFar k (some { l with st := .s, old := false }) t)
      | .e => answerSnoop sn ga (some l) 0x35 [] 0 false (putFar k (some { l with st := .s }) t)
      | _ => answerSnoop sn ga (some l) 0x35 [] 0 false t := by
  cases hst : l.st <;> simp only [doDowngrade, onSnoop_served hm, ← ht, hl, hout, hst, Bool.false_eq_true, if_false]

theorem doCollect_partial {ro : RedOp} (hl : farFind t h ga = some (k, l)) (hs : l.st = .a ro) :
    doCollect h ga sn s =
      answerSnoop sn ga (some l) 0x36 (lineSecs l.data) (redopCode ro) false (putFar k none t) := by
  simp only [doCollect, onSnoop_served hm, ← ht, hl, hout, hs, Bool.false_eq_true, if_false]

/-- Of a line that is not there, each of them brings nothing. -/
theorem doRecall_absent (hl : farFind t h ga = none) :
    doRecall h ga sn s = answerSnoop sn ga none 0x35 [] 0 false t := by
  simp only [doRecall, onSnoop_served hm, ← ht, hl, hout, Bool.false_eq_true, if_false]

theorem doDowngrade_absent (hl : farFind t h ga = none) :
    doDowngrade h ga sn s = answerSnoop sn ga none 0x35 [] 0 false t := by
  simp only [doDowngrade, onSnoop_served hm, ← ht, hl, hout, Bool.false_eq_true, if_false]

theorem doCollect_absent (hl : farFind t h ga = none) :
    doCollect h ga sn s = answerSnoop sn ga none 0x35 [] 0 false t := by
  simp only [doCollect, onSnoop_served hm, ← ht, hl, hout, Bool.false_eq_true, if_false]

end NoRelease

/-! A message of the line that its home has not acknowledged is out. -/

section Release

variable (hout : releaseOut t h ga = true)
include hout

theorem doRecall_pending :
    doRecall h ga sn s = answerSnoop sn ga ((farFind t h ga).map Prod.snd) 0x35 [] 0 true
      (match farFind t h ga with
        | some (k, _) => putFar k none t
        | none => t) := by
  simp only [doRecall, onSnoop_served hm, ← ht]
  cases farFind t h ga <;> simp [hout]

theorem doDowngrade_pending :
    doDowngrade h ga sn s = answerSnoop sn ga ((farFind t h ga).map Prod.snd) 0x35 [] 0 true t := by
  simp only [doDowngrade, onSnoop_served hm, ← ht, hout, if_true]

theorem doCollect_pending :
    doCollect h ga sn s = answerSnoop sn ga ((farFind t h ga).map Prod.snd) 0x35 [] 0 true t := by
  simp only [doCollect, onSnoop_served hm, ← ht, hout, if_true]

end Release

end Served

end Snoops

/-- Settles O17: each snoop by the state in which it finds the line. -/
theorem snoopsAtAFarCache : Obligations.SnoopsAtAFarCache := by
  refine ⟨?_, ?_⟩
  · intro h ga sn s t hh hm ht
    simp only [exec, execInv, execRecall, execDowngrade, execCollect, onHalf_next hh]
    refine ⟨?_, ?_, fun hout => ⟨?_, ?_, ?_, ?_, ?_⟩, ?_⟩
    · intro k l hl hs
      rw [doInv_shared hm ht hl hs]
    · intro k l hl hs
      rw [doInv_notShared hm ht hl hs]
    · intro k l hl hs
      simp only [doRecall_held hm ht hout hl, doDowngrade_held hm ht hout hl, hs, and_self]
    · intro k l hl hs
      simp only [doRecall_held hm ht hout hl, doDowngrade_held hm ht hout hl, hs, and_self]
    · intro k l hl hs
      simp only [doRecall_held hm ht hout hl, hs]
    · intro k l ro hl hs
      simp only [doRecall_held hm ht hout hl, doCollect_partial hm ht hout hl hs, hs, and_self]
    · intro hl
      rw [doInv_absent hm ht hl, doRecall_absent hm ht hout hl, doDowngrade_absent hm ht hout hl,
        doCollect_absent hm ht hout hl, hout]
      exact ⟨rfl, rfl, rfl, rfl⟩
    · rintro hout l rfl
      rw [doRecall_pending hm ht hout, doDowngrade_pending hm ht hout, doCollect_pending hm ht hout]
      exact ⟨rfl, rfl, rfl⟩
  · intro h ga sn d cmd s hh hd hn hcmd
    simp only [List.mem_cons, List.not_mem_nil, or_false] at hcmd
    obtain rfl | rfl | rfl | rfl := hcmd <;>
      exact (onHalf_next hh).trans (congrArg _ (onSnoop_refused hd hn _))

/-! ### Answers at a far cache (R190, R199, R205, R206, R211, R213, R222) -/

section Answers

variable {h : Half} {tag : Nat} {take : BitVec 8} {s : State} {r : FarReq}

/-- REQ_TIMEOUT and the resend name a request by its tag alone. -/
theorem doReqTimeout_out (hr : reqAt s h tag = some r) :
    doReqTimeout h tag s = reqFails h tag r 16 (atTime (r.sentT + reqTimeoutLen s h) s) := by
  simp only [doReqTimeout, hr]

theorem doRetryResend_due {t : Nat} (hr : reqAt s h tag = some r) (ht : r.retryAt = some t) :
    doRetryResend h tag s = sendCoh (farHome (atTime t s) r.ga) (fullMsg tag r)
      (putReq h tag (some { r with retryAt := none }) (atTime t s)) := by
  simp only [doRetryResend, hr, ht]

variable (hr : reqAt s h tag = some r) (ht : r.take = take)
include hr ht

theorem withReq_current (f : FarReq → State → State) : withReq h tag take f s = f r s := by
  simp only [withReq, hr, if_pos ht]

/-! DATA and GRANT. -/

theorem doData_shared (secs : LinePart) (lease : Nat) :
    doData h tag take .s secs lease s =
      farReplay h (farInstall h r .s (secsLine secs) lease (putReq h tag none s)) :=
  withReq_current hr ht _

theorem doData_exclusive (secs : LinePart) (lease : Nat) :
    doData h tag take .e secs lease s =
      farReplay h (farInstall h r .e (secsLine secs) lease (putReq h tag none s)) :=
  withReq_current hr ht _

theorem doGrant_upgrade {k : Nat} {l : FarLine} (lease : Nat) (hc : r.code = 0x03)
    (hl : farFind (putReq h tag none s) h r.ga = some (k, l)) :
    doGrant h tag take false lease s = farReplay h (farInstall h r .e l.data lease (putReq h tag none s)) := by
  rw [doGrant, withReq_current hr ht]
  simp [hc, hl]

theorem doGrant_join {ag : Agent} {ro : RedOp} {ps : LinePart} {rtag : Nat} (lease : Nat) (hc : r.code = 0x07)
    (hw : r.why = some (.access ag (.add ro ps) rtag)) :
    doGrant h tag take false lease s = farReplay h
      (farInstall h r (.a ro) (Quad.all (identitySec ro, false)) lease (putReq h tag none s)) := by
  rw [doGrant, withReq_current hr ht]
  simp [hc, hw]

/-! A write performed at its home. -/

theorem doAckLocal_write {ag : Agent} {ws : List (Fin 4 × SecWr)} {rtag : Nat}
    (hw : r.why = some (.access ag (.write ws) rtag)) (ho : gaOwn (farDone ag rtag s) r.ga = false) :
    doAckLocal h tag take s = putReq h tag (some { r with ackedLocal := true }) (farDone ag rtag s) := by
  rw [doAckLocal, withReq_current hr ht]
  simp [hw, ho]

theorem doAckLocal_line {key : Nat} (hw : r.why = some (.line key)) (ho : gaOwn s r.ga = false) :
    doAckLocal h tag take s = putReq h tag (some { r with ackedLocal := true }) s := by
  rw [doAckLocal, withReq_current hr ht]
  simp [hw, ho]

theorem doAckGlobal_current : doAckGlobal h tag take s = farReplay h (putReq h tag none s) :=
  withReq_current hr ht _

/-! Releases and renewals. -/

/-- Only the ACK of a RENEW changes a lease. -/
theorem doAck_release (hc : r.code ≠ 0x0C) : doAck h tag take s = farReplay h (putReq h tag none s) := by
  rw [doAck, withReq_current hr ht]
  simp [hc]

theorem doNack_current : doNack h tag take s = farReplay h (putReq h tag none s) := withReq_current hr ht _

/-! The rest. -/

theorem doRetry_current :
    doRetry h tag take s = putReq h tag (some { r with retryAt := some (s.clock + us 1) }) s :=
  withReq_current hr ht _

theorem doAtomicResult_access {ag : Agent} {op : FarOp} {rtag : Nat} (old : W64)
    (hw : r.why = some (.access ag op rtag)) :
    doAtomicResult h tag take old s =
      emit (.atomOld ag rtag old) (putReq h tag (some { r with result := true }) s) := by
  rw [doAtomicResult, withReq_current hr ht]
  simp only [hw]

theorem doError_current (cause : Nat) : doError h tag take cause s = reqFails h tag r cause s :=
  withReq_current hr ht _

end Answers

/-- Settles O18: each answer by the request that it names. -/
theorem answersAtAFarCache : Obligations.AnswersAtAFarCache := by
  refine ⟨?_, ?_, ?_, ?_, ?_, ?_, ?_, ?_⟩
  · intro h tag take secs lease s r hh hr ht
    simp only [exec, execData, onHalf_next hh, doData_shared hr ht, doData_exclusive hr ht, and_self]
  · intro h tag take lease k s r l hh hr ht hc hl
    simp only [exec, execGrant, onHalf_next hh, doGrant_upgrade hr ht lease hc hl]
  · intro h tag take lease s r ag ro ps rtag hh hr ht hc hw
    simp only [exec, execGrant, onHalf_next hh, doGrant_join hr ht lease hc hw]
  · rintro h tag take s u r ag ws rtag hh hr ht hw rfl ho
    simp only [exec, execAckLocal, onHalf_next hh, doAckLocal_write hr ht hw ho]
  · intro h tag take s r key hh hr ht hw ho
    simp only [exec, execAckLocal, execAckGlobal, execNack, execRetry, execAck, onHalf_next hh,
      doAckLocal_line hr ht hw ho, doAckGlobal_current hr ht, doNack_current hr ht, doRetry_current hr ht, true_and]
    intro hc
    rw [doAck_release hr ht hc]
  · intro h tag take old cause s r ag op rtag hh hr ht hw
    simp only [exec, execAtomicResult, execError, onHalf_next hh, doAtomicResult_access hr ht old hw,
      doError_current hr ht, and_self]
  · intro h tag s r t hh hr ht
    simp only [exec, execRetryResend, onHalf_next hh, doRetryResend_due hr ht]
  · intro h tag s r hh hr
    simp only [exec, execReqTimeout, onHalf_next hh, doReqTimeout_out hr]

/-! ### Answers of holders at the home, deadlines and collections (R197, R208–R210, R212, R213, R215, R216) -/

section SnoopAnswers

variable {sl tag : Nat} {take : BitVec 8} {src : Holder} {func : Fin 16} {epoch : Bool} {s s1 : State} {sn : SnoopOut}

/-- A snoop tag with its current take names the snoop's line. -/
theorem snoopLine_current (hsn : s.coh.snoops.find? (4096 * sl + tag) = some sn) (ht : sn.take = take) :
    snoopLine s sl tag take = some sn.line := by
  simp only [snoopLine, hsn, if_pos ht]

/-- An answer of a holder that the line's transaction waits for. -/
theorem withSnoop_current (hsn : s.coh.snoops.find? (4096 * sl + tag) = some sn) (ht : sn.take = take)
    (hw : waitsFor s sl sn.line src = true) (f : SnoopOut → State → State) :
    withSnoop sl tag take src f s = f sn s := by
  simp [withSnoop, hsn, ht, hw]

section Current

variable (hs1 : s1 = answerPoint sl tag take src func epoch s)
  (hsn : s1.coh.snoops.find? (4096 * sl + tag) = some sn) (ht : sn.take = take)
include hs1 hsn ht

/-- An acknowledgement takes its holder off the line's transaction, unless its message is still to come. -/
theorem doSnoopAck_current (pend : Bool) (hw : waitsFor s1 sl sn.line src = true) :
    doSnoopAck sl tag take src pend func epoch s =
      settleSlates (if pend then s1 else advanceTx sl sn.line (holderDone sl sn.line src sn.code s1)) := by
  simp only [doSnoopAck, ← hs1, snoopLine_current hsn ht, withSnoop_current hsn ht hw]

theorem doSnoopData_current (ro : Option RedOp) (secs : LinePart) :
    doSnoopData sl tag take src ro secs func epoch s =
      settleSlates (applySnoop (mkReq (some (answerHdr s1 sl sn.line tag take src func epoch)) none
        (.snoopData tag take ro secs) sl sn.line s1.clock false) s1) := by
  simp only [doSnoopData, ← hs1, snoopLine_current hsn ht]

end Current

/-- Data that no Slate holds is written or merged before its holder is taken off the line's transaction. -/
theorem applySnoop_performed {r : HReq} {s2 : State} {t : HomeTx} {hd : CohHdr} {ro : Option RedOp}
    {secs : LinePart} (hhd : r.hd = some hd) (hsrc : hd.src = src)
    (hkind : r.kind = .snoopData tag take ro secs) (hsl : r.sl = sl)
    (hsn : s.coh.snoops.find? (4096 * sl + tag) = some sn) (ht : sn.take = take)
    (hw : waitsFor s sl sn.line src = true) (htx : txAt s sl sn.line = some t) (hdisc : t.discard = false)
    (hwhy : t.why = .request) (hpoint : pointHolds s r = none) (hgate : slateGate r s = some s2) :
    applySnoop r s = advanceTx sl sn.line (holderDone sl sn.line src sn.code (performCopy r
      (match (generalizing := false) ro with
        | some ro => mergePart sl sn.line ro secs s2
        | none => mergeData sl sn.line secs s2))) := by
  have hmerge : SnoopWhy.request ≠ .rpCollect := by decide
  cases ro <;>
    simp only [applySnoop, hhd, hsrc, hkind, hsl, withSnoop_current hsn ht hw, htx, hpoint, hgate, Option.map_some,
      Option.getD_some, hdisc, hwhy, hmerge, Bool.false_eq_true, if_false]

end SnoopAnswers

section Deadlines

variable {sl line : Nat} {s : State} {t : HomeTx}

/-- A member that the line's transaction waits for loses its copy at its deadline. -/
theorem doLeaseDeadline_waited {m : Fin 4096} {d : Nat} (htx : txAt s sl line = some t)
    (hheld : answerHeld s sl line (.member m) = false)
    (hw : t.waits.find? (fun p : Holder × Nat => decide (p.1 = .member m)) = some (.member m, d)) :
    doLeaseDeadline sl line m s = settleSlates (holderLost sl line (.member m) m.val (atTime d s)) := by
  simp only [doLeaseDeadline, htx, hw, hheld, Option.map_some, Bool.false_eq_true, if_false]

/-- A collection that reaches its limit waits for nobody any more. -/
theorem doRpCollectTimeout_collect (htx : txAt s sl line = some t) (hwhy : t.why = .rpCollect) :
    doRpCollectTimeout sl line s = settleSlates (advanceTx sl line (putTx sl line (some { t with waits := [] })
      (atTime (t.waits.foldl (fun m p => max m p.2) 0) s))) := by
  simp only [doRpCollectTimeout, htx, hwhy]

end Deadlines

/-- Settles O20. -/
theorem snoopAnswersAtTheHome : Obligations.SnoopAnswersAtTheHome := by
  refine ⟨?_, ?_, ?_, ?_⟩
  · intro sl tag take src pend func epoch s s1 sn hh hs1 hsn ht hw
    exact (onHalf_next hh).trans (congrArg _ (doSnoopAck_current hs1 hsn ht pend hw))
  · intro sl tag take src ro secs func epoch s s1 s2 sn t r hh hs1 hsn ht hw htx hdisc hwhy hr hpoint hgate
    have hhd : r.hd = some (answerHdr s1 sl sn.line tag take src func epoch) := by rw [hr]; rfl
    have hkind : r.kind = .snoopData tag take ro secs := by rw [hr]; rfl
    have hsl : r.sl = sl := by rw [hr]; rfl
    have happly := applySnoop_performed hhd rfl hkind hsl hsn ht hw htx hdisc hwhy hpoint hgate
    have hdata := doSnoopData_current hs1 hsn ht ro secs
    rw [← hr, happly] at hdata
    exact (onHalf_next hh).trans (congrArg _ hdata)
  · intro sl line m s t d hh htx hheld hw
    exact (onHalf_next hh).trans (congrArg _ (doLeaseDeadline_waited htx hheld hw))
  · intro sl line s t hh htx hwhy
    exact (onHalf_next hh).trans (congrArg _ (doRpCollectTimeout_collect htx hwhy))

/-! ### The steps of a Slate (R225, R226, R231, R232) -/

section Slates

variable {f : Nat} {s : State}

/-- An armed Slate comes to its point. -/
theorem reachPoint_armed {u : State} (harm : (slateAt s f).st = .armed) (hpt : (slateAt s f).pointing = false)
    (hu : u = markOld f (mergeXPartials f s)) :
    reachPoint f s = tryFlip f (setSlate f { slateAt u f with pointing := true } u) := by
  simp [reachPoint, harm, hpt, ← hu]

/-- Any other reaches none. -/
theorem reachPoint_notArmed (harm : (slateAt s f).st ≠ .armed) : reachPoint f s = s := by
  simp [reachPoint, harm]

theorem doSlatePoint_participant {m : Fin 4096}
    (hm : (slateAt s f).devices.contains (memberDev s m.val) = true) :
    doSlatePoint f (.message m) s = reachPoint f s := if_pos hm

theorem tryFlip_pointing (hpt : (slateAt s f).pointing = true) :
    tryFlip f s = if slateGuestLines (snoopSlateGuests f s) f = [] then flipEpoch f (snoopSlateGuests f s)
      else snoopSlateGuests f s := by
  simp [tryFlip, hpt]

theorem doSlateStream_flushed {t : Nat} (hst : (slateAt s f).st = .pointed) (hfl : (slateAt s f).flushedAt = some t) :
    doSlateStream f s = setSlate f { slateAt s f with st := .streaming } (atTime (t + 5000) s) := by
  simp only [doSlateStream, hst, hfl]

theorem doSlateComplete_done (hst : (slateAt s f).st = .streaming) (hall : slateAllDone s f = true)
    (hround : 2 ≤ (slateAt s f).round) :
    doSlateComplete f s = setSlate f { slateAt s f with st := .complete, grans := [], copies := [] } s :=
  if_pos ⟨hst, hall, hround⟩

theorem doSlateComplete_notStreaming (hst : (slateAt s f).st ≠ .streaming) : doSlateComplete f s = s :=
  if_neg fun ⟨h, _⟩ => hst h

end Slates

/-- Settles O22. -/
theorem slateSteps : Obligations.SlateSteps := by
  refine ⟨?_, ?_, ?_, ?_, ?_, ?_, ?_⟩
  · intro f m s _ hm
    exact ⟨rfl, congrArg _ (doSlatePoint_participant hm)⟩
  · exact fun f s u harm hpt hu => reachPoint_armed harm hpt hu
  · exact fun f s hpt => tryFlip_pointing hpt
  · exact fun f s harm => congrArg _ (reachPoint_notArmed harm)
  · exact fun f s t hst hfl => congrArg _ (doSlateStream_flushed hst hfl)
  · exact fun f s hst hall hround => congrArg _ (doSlateComplete_done hst hall hround)
  · exact fun f s hst => congrArg _ (doSlateComplete_notStreaming hst)

/-! ### Cadun's work on the group, routes, Slates, guest sites, H1 and stacks (R186, R224, R234, R291, R359, R360,
R363, R391, R426) -/

section ContinuityCommands

variable {c : CmdIn} {t u : State} {b : List Byte}

/-! The group and the routes. -/

section GroupSet

variable (hself : c.n 0 2 < 4096) (hsize : c.n 2 2 ≤ 4096) (hdpa : dpaOk t c (c.n 8 8) (2 * c.n 2 2) = true)
include hself hsize hdpa

theorem cmdGroupSet_args :
    cmdGroupSet c t =
      if groupOpen t then endWith csBusy t
      else getThen (c.n 8 8) (2 * c.n 2 2) t (fun b s =>
        endOk [] (forEach (List.range 4096) (fun m s =>
          rput .member m (if m < c.n 2 2 then fieldAt b (2 * m) 2 + 2 ^ 16 else 0) s)
          (rputBits .groupCfg 0 24 0 (c.n 0 2 + 2 ^ 12 * c.n 2 2) s))) := by
  refine if_neg ?_
  simp only [hdpa, Bool.not_true, Bool.false_eq_true, or_false]
  omega

theorem cmdGroupSet_open (hg : groupOpen t = true) : cmdGroupSet c t = endWith csBusy t := by
  rw [cmdGroupSet_args hself hsize hdpa, if_pos hg]

/-- The members are written while the group is closed. -/
theorem cmdGroupSet_closed (hg : groupOpen t = false)
    (hread : engBytes (.mp .h0) (c.n 8 8) (2 * c.n 2 2) t = (some (b, false), u)) :
    cmdGroupSet c t = endOk [] (forEach (List.range 4096) (fun m s =>
      rput .member m (if m < c.n 2 2 then fieldAt b (2 * m) 2 + 2 ^ 16 else 0) s)
      (rputBits .groupCfg 0 24 0 (c.n 0 2 + 2 ^ 12 * c.n 2 2) u)) := by
  rw [cmdGroupSet_args hself hsize hdpa, if_neg (by simp [hg]), getThen_read hread]

end GroupSet

/-- A command whose bytes are poisoned fails, and one whose bytes are not there yet goes on later. -/
theorem getThen_poisoned {a n : Nat} {go : List Byte → State → CmdEnd × State}
    (h : engBytes (.mp .h0) a n t = (some (b, true), u)) : getThen a n t go = endWith csFailed u := by
  simp [getThen, h]

theorem getThen_none {a n : Nat} {go : List Byte → State → CmdEnd × State}
    (h : engBytes (.mp .h0) a n t = (none, u)) : getThen a n t go = (.again, u) := by
  simp [getThen, h]

theorem cmdRouteLoad_outside (hdpa : dpaOk t c (c.n 8 8) (4 * 65536) = false) :
    cmdRouteLoad c t = endWith csBadArg t := by
  simp only [cmdRouteLoad, hdpa, Bool.not_false, if_true]

theorem cmdRouteLoad_inside (hdpa : dpaOk t c (c.n 8 8) (4 * 65536) = true) :
    cmdRouteLoad c t = getThen (c.n 8 8) (4 * 65536) t (fun b s =>
      endOk [] (forEach (chunks 4 65536 b).zipIdx (fun x s => rput .routeEntry x.2 (leNat x.1 % 2 ^ 11) s) s)) := by
  simp only [cmdRouteLoad, hdpa, Bool.not_true, Bool.false_eq_true, if_false]

/-! Slates. -/

theorem cmdSlateArm_noDevices (hcount : c.n 16 2 = 0) : cmdSlateArm c t = endWith csBadArg t :=
  if_pos (.inl hcount)

/-- The Slate that SLATE_ARM leaves, and its collective open (R224). -/
def armSlate (c : CmdIn) (k p : Nat) (epoch : Bool) (devs : List Nat) (s : State) : State :=
  openSlateColl k (c.b 0) (c.n 2 2) p devs
    (forEach [c.b 0, 16 + c.b 0] (fun i s => rput .slateHeld i 0 (rput .slatePreserved i 0 s))
      (setSlate (c.b 0) { SlateSt.init with
        st := .armed, epoch := epoch, id := c.n 2 2, preserve := c.b 4, barrier := c.n 6 2
        parts := maskList 64 (c.n 8 8), devices := devs.map (BitVec.ofNat 16) } s))

section SlateArm

variable {e k p : Nat} {devs : List Nat} (hpos : 0 < c.n 16 2) (hmax : c.n 16 2 ≤ 4096)
  (hbar : collNamed t (c.n 6 2) = some e) (hfunc : collFunc t e = c.b 0)
  (hdpa : dpaOk t c (c.n 24 8) (2 * c.n 16 2) = true)
  (hparts : slateParts t (c.b 0) (c.b 4) (maskList 64 (c.n 8 8)) = csOk)
  (hidle : (slateAt t (c.b 0)).st ∉ [.armed, .pointed, .streaming])
include hpos hmax hbar hfunc hdpa hparts hidle

/-- Partitions that may be saved, a barrier of the function, and a list of devices with the own one among them. -/
theorem cmdSlateArm_good (hread : engBytes (.mp .h0) (c.n 24 8) (2 * c.n 16 2) t = (some (b, false), u))
    (hdevs : devs = (chunks 2 (c.n 16 2) b).map leNat)
    (hown : devs.findIdx? (fun d => decide (d = (ownDev u).toNat)) = some p)
    (hexp : (exportedTo u (maskList 64 (c.n 8 8))).all (fun d => devs.contains d) = true)
    (hent : slateEntry u (c.b 0) (c.n 2 2) = some k) :
    cmdSlateArm c t = endOk [] (armSlate c k p (slateAt t (c.b 0)).epoch devs u) := by
  have hcount : ¬(c.n 16 2 = 0 ∨ 4096 < c.n 16 2) := by omega
  have hst : ¬((slateAt t (c.b 0)).st = .armed ∨ (slateAt t (c.b 0)).st = .pointed ∨
      (slateAt t (c.b 0)).st = .streaming) := by simpa using hidle
  subst hdevs
  simp only [cmdSlateArm, hbar, hfunc, hdpa, ← or_assoc, hcount, decide_true, Bool.not_true, Bool.false_eq_true,
    or_false, if_false, hparts, orElse_ok]
  rw [if_neg (by simpa only [or_assoc] using hst), getThen_read hread]
  simp only [hown, hexp, hent, Bool.not_true, Bool.false_eq_true, if_false]
  rfl

end SlateArm

theorem cmdSlateAbort_running (hst : (slateAt t (c.b 0)).st = .armed ∨ (slateAt t (c.b 0)).st = .pointed ∨
    (slateAt t (c.b 0)).st = .streaming) : cmdSlateAbort c t = endOk [] (failSlate (c.b 0) 4 t) := if_pos hst

theorem cmdSlateAbort_notRunning (hst : ¬((slateAt t (c.b 0)).st = .armed ∨ (slateAt t (c.b 0)).st = .pointed ∨
    (slateAt t (c.b 0)).st = .streaming)) : cmdSlateAbort c t = endWith csBusy t := if_neg hst

/-! Guest sites. -/

section GuestOpen

variable (hcap : c.b 2 < 4) (hcoh : c.b 3 < 2) (hcls : c.b 4 < 8) (hhalf : siteHalfCheck t (c.b 0) = csOk)
include hcap hcoh hcls hhalf

theorem cmdGuestOpen_begins (hfirst : c.first = true) (hst : (siteAt t (c.b 0)).st = 0) :
    cmdGuestOpen c t = (.again, gsWriteAct (c.b 0)
      (setBits 10 0 (1 + 2 * c.b 1 + 2 ^ 5 * c.b 2 + 2 ^ 7 * c.b 3 + 2 ^ 8 * c.b 4) (rget t .gsCtl (c.b 0))) t) := by
  rw [cmdGuestOpen, if_neg (by omega), hhalf, orElse_ok]
  simp [hfirst, hst]

/-- A later turn of the command ends it when the site is ACTIVE or fenced. -/
theorem cmdGuestOpen_active (hfirst : c.first = false) (hst : (siteAt t (c.b 0)).st = 2) :
    cmdGuestOpen c t = endOk (natLe 1 2 ++ natLe 1 (siteAt t (c.b 0)).fwClass ++
      natLe 1 (b2n (siteAt t (c.b 0)).coherent)) t := by
  rw [cmdGuestOpen, if_neg (by omega), hhalf, orElse_ok]
  simp [hfirst, hst]

theorem cmdGuestOpen_fenced (hfirst : c.first = false) (hst : (siteAt t (c.b 0)).st = 3) :
    cmdGuestOpen c t = endWith csFenced t := by
  rw [cmdGuestOpen, if_neg (by omega), hhalf, orElse_ok]
  simp [hfirst, hst]

end GuestOpen

theorem cmdGuestFence_good (hhalf : siteHalfCheck t (c.b 0) = csOk) :
    cmdGuestFence c t = endOk [] (fenceSite (c.b 0) 4 t) := by
  rw [cmdGuestFence, hhalf, orElse_ok]

/-! The other half. -/

theorem cmdH1Fence_mb1 (hp : t.part = .mb1) : cmdH1Fence c t = endWith csBadArg t := if_pos hp

/-- Its first turn fences H1. It ends with the last Cut. -/
theorem cmdH1Fence_cut (hp : t.part = .mb2) (hgone : c.first = true → farGone t = false)
    (hu : u = if c.first then fenceH1 3 t else t) (hcut : ∀ f ∈ List.range 16, (funcAt u f).st ≠ 2) :
    cmdH1Fence c t = endOk [] u := by
  have hfenced : ¬(c.first = true ∧ farGone t = true) := fun ⟨h1, h2⟩ => by simp [hgone h1] at h2
  have hany : (List.range 16).any (fun f => decide ((funcAt u f).st = 2)) = false := by
    simpa [List.any_eq_false] using hcut
  rw [cmdH1Fence, if_neg (by simp [hp]), if_neg hfenced]
  simp only [← hu, hany, Bool.false_eq_true, if_false]

theorem cmdH1Rejoin_whole {rep : BootReport} (hp : t.part = .mb2) (hh : t.zor.halves ≠ 2) :
    cmdH1Rejoin rep c t = endWith csBusy t := by
  simp [cmdH1Rejoin, hp, hh]

theorem cmdH1Rejoin_parted {rep : BootReport} (hp : t.part = .mb2) (hh : t.zor.halves = 2) :
    cmdH1Rejoin rep c t =
      if (rejoinH1 rep t).1 = true then endOk (natLe 1 (bundlesUp (rejoinH1 rep t).2 .h0).length) (rejoinH1 rep t).2
      else endWith (if (rejoinH1 rep t).2.ident.refused = true then csFailed else csTimeout) (rejoinH1 rep t).2 := by
  rw [cmdH1Rejoin, if_neg (by simp [hp]), if_neg (by simp [hh])]
  rcases rejoinH1 rep t with ⟨_ | _, u⟩ <;> simp

/-! Stacks. -/

/-- A stack that no partition uses is fenced for maintenance. -/
theorem cmdStackMaint_fence {rep : TrainReport} (hstack : c.b 0 < 16) (hop : c.b 1 = 1)
    (hhalf : halfCheck t (c.b 0 / 8) = csOk) (hin : stackOut t (c.b 0) = false)
    (hsub : (deg t (halfOfStack (c.b 0))).subValid = false)
    (hfree : ∀ p ∈ List.range 64, partOnStack t p (c.b 0) = false) (hfence : maintFence (c.b 0) t = (true, u)) :
    cmdStackMaint rep c t = endOk [] u := by
  have hused : (List.range 64).any (fun p =>
      (partFunc t p).isSome && decide (partFunc t p ≠ some 0) && partOnStack t p (c.b 0)) = false := by
    rw [List.any_eq_false]
    intro p hp
    simp [hfree p hp]
  rw [cmdStackMaint, if_neg (by omega)]
  simp only [hhalf, orElse_ok, hin, hop, hused, hsub, hfence, Bool.false_eq_true, or_self, if_true, if_false]

theorem cmdRetiredList_written
    (hdpa : dpaOk t c (c.n 8 8) (16 * ((t.mem.retired.drop (c.n 0 4)).take (c.n 16 4)).length) = true)
    (hput : engPut (.mp .h0) (c.n 8 8)
      (((t.mem.retired.drop (c.n 0 4)).take (c.n 16 4)).flatMap (retiredEntry t)) false t = (true, u)) :
    cmdRetiredList c t = endOk (natLe 4 ((t.mem.retired.drop (c.n 0 4)).take (c.n 16 4)).length ++
      natLe 4 t.mem.retired.length) u := by
  simp only [cmdRetiredList, hdpa, Bool.not_true, Bool.false_eq_true, if_false]
  exact putThen_written hput

end ContinuityCommands

/-- Settles O47. -/
theorem groupGuestAndStackCommands : Obligations.GroupGuestAndStackCommands := by
  refine ⟨?_, ?_, ?_, ?_, ?_, ?_, ?_, ?_, ?_, ?_⟩
  · intro r c s t u b h hself hsize hdpa
    exact ⟨fun hg => runCmd_bad h (cmdGroupSet_open hself hsize hdpa hg),
      fun hg hread => runCmd_ok h (cmdGroupSet_closed hself hsize hdpa hg hread)⟩
  · intro r c s t h
    refine ⟨fun hdpa => runCmd_bad h (cmdRouteLoad_outside hdpa), fun hdpa => ?_⟩
    have hload := cmdRouteLoad_inside hdpa
    split
    next b u hread => exact runCmd_ok h (hload.trans (getThen_read hread))
    next b u hread => exact runCmd_bad h (hload.trans (getThen_poisoned hread))
    next u hread => simp only [exec, execRouteLoad, runCmd_taken h, hload, getThen_none hread]
  · intro r c s t u b k p h
    refine ⟨fun hcount => runCmd_bad h (cmdSlateArm_noDevices hcount), ?_⟩
    rintro hpos hmax ⟨e, hbar, hfunc⟩ hdpa hparts hidle hread devs hown hexp hent
    exact runCmd_ok h (cmdSlateArm_good hpos hmax hbar hfunc hdpa hparts hidle hread rfl hown hexp hent)
  · intro r c s t h
    split
    next hst => exact runCmd_ok h (cmdSlateAbort_running hst)
    next hst => exact runCmd_bad h (cmdSlateAbort_notRunning hst)
  · intro r c s t h hcap hcoh hcls hhalf
    refine ⟨fun hfirst hst => ?_, fun hfirst hst => ?_, fun hfirst hst => ?_⟩
    · simp only [exec, execGuestOpen, runCmd_taken h, cmdGuestOpen_begins hcap hcoh hcls hhalf hfirst hst, endCmd]
    · exact runCmd_ok h (cmdGuestOpen_active hcap hcoh hcls hhalf hfirst hst)
    · exact runCmd_bad h (cmdGuestOpen_fenced hcap hcoh hcls hhalf hfirst hst)
  · intro r c s t h hhalf
    exact runCmd_ok h (cmdGuestFence_good hhalf)
  · intro r c s t h
    refine ⟨fun hp => runCmd_bad h (cmdH1Fence_mb1 hp), fun hp hfirst hgone hcut => ?_, fun hp hfirst hcut => ?_⟩
    · exact runCmd_ok h (cmdH1Fence_cut hp (fun _ => hgone) (if_pos hfirst).symm hcut)
    · exact runCmd_ok h (cmdH1Fence_cut hp (by simp [hfirst]) (if_neg (by simp [hfirst])).symm hcut)
  · intro r rep c s t h hp
    refine ⟨fun hh => runCmd_bad h (cmdH1Rejoin_whole hp hh), fun hh => ?_⟩
    split
    next hok => exact runCmd_ok h ((cmdH1Rejoin_parted hp hh).trans (if_pos hok))
    next hok => exact runCmd_bad h ((cmdH1Rejoin_parted hp hh).trans (if_neg hok))
  · intro r rep c s t u h hstack hop hhalf hin hsub hfree hfence
    exact runCmd_ok h (cmdStackMaint_fence hstack hop hhalf hin hsub hfree hfence)
  · intro r c s t u h w hdpa hput
    exact runCmd_ok h (cmdRetiredList_written hdpa hput)

end Sys2Proof.Machine

namespace Sys2Proof.Machine

open Sys2Proof

/-! ### Queues and their descriptors (R239, R242, R258) -/

@[simp] theorem queueAt_modQueue_self (n : Nat) (f : QueueSt → QueueSt) (s : State) :
    queueAt (modQueue n f s) n = f (queueAt s n) := queueAt_setQueue_self ..

theorem modQueue_frame (n : Nat) (f : QueueSt → QueueSt) (s : State) :
    (modQueue n f s).mem = s.mem ∧ (modQueue n f s).coh = s.coh ∧ (modQueue n f s).cues = s.cues := ⟨rfl, rfl, rfl⟩

theorem cfgEvent_frame (ag : Agent) (a rule : Nat) (s : State) :
    (cfgEvent ag a rule s).mem = s.mem ∧ (cfgEvent ag a rule s).coh = s.coh ∧ (cfgEvent ag a rule s).cues = s.cues ∧
      (cfgEvent ag a rule s).dolly = s.dolly := by simp [cfgEvent]

/-- A change of the descriptor with a running index is what a look-up by that index finds. -/
theorem runAt_modRun {n : Nat} {idx : W32} {f : DescRun → DescRun} (s : State) (hf : ∀ d, (f d).index = d.index) :
    runAt (modRun n idx f s) n idx = (runAt s n idx).map f := by
  have hkeep : (fun d : DescRun => decide ((if d.index = idx then f d else d).index = idx)) =
      fun d => decide (d.index = idx) := by
    funext d
    split <;> simp [hf]
  simp only [runAt, modRun, queueAt_modQueue_self, setRun, List.find?_map, Function.comp_def, hkeep]
  cases hr : (queueAt s n).active.find? (fun d => decide (d.index = idx)) with
  | none => rfl
  | some r =>
    have hidx : r.index = idx := by simpa using List.find?_some hr
    simp [hidx]

/-- No descriptor waits to start, so that none leaves the queue. -/
theorem dropUnstarted_none {n : Nat} {s : State} (h : ∀ d ∈ (queueAt s n).active, d.phase ≠ .waiting) :
    dropUnstarted n s = modQueue n (fun q => q) s := by
  have hun : (queueAt s n).active.filter (fun d => decide (d.phase = .waiting)) = [] := by simpa using h
  have hall : (queueAt s n).active.filter (fun d => decide (d.phase ≠ .waiting)) = (queueAt s n).active := by
    simpa using h
  simp only [dropUnstarted, hun, forEach, List.foldl_nil, modQueue, hall]

/-- A failure of the only descriptor of a queue, not a REEL, puts the queue in ERROR and does nothing beyond it: there is
no later descriptor to abandon, no credit to give back and no stream to fail. -/
theorem failDesc_only {n : Nat} {r : DescRun} {s : State} (status : Nat) (hact : (queueAt s n).active = [r])
    (hop : r.d.opcode ≠ opReel) :
    (queueAt (failDesc n r.index status s) n).st = .error ∧
      (queueAt (failDesc n r.index status s) n).errStatus = status ∧
      (failDesc n r.index status s).mem = s.mem ∧ (failDesc n r.index status s).coh = s.coh ∧
      (failDesc n r.index status s).cues = s.cues := by
  have hrun : runAt s n r.index = some r := by simp [runAt, hact]
  have hcredit : creditBack r s = s := by
    rw [creditBack, if_neg]
    rintro ⟨hreel, -⟩
    exact hop hreel
  have hdrop := dropUnstarted_none (n := n) (s := modRun n r.index (fun d =>
    { d with phase := .complete, status := status, ended := true, waitIn := false, piece := [] }) s)
    (by simp [modRun, setRun, hact])
  simp only [failDesc, hrun, Option.toList_some, forEach, List.foldl_cons, List.foldl_nil, hcredit, hdrop]
  simp [modRun, setRun, hact, hop, modQueue_frame]

/-! ### The read of a descriptor (R239, R240, R243) -/

/-- The slot at `HEAD` of a queue's ring. -/
def slotAddr (x : QueueSt) : Nat := x.ring + 64 * (x.head.toNat % 2 ^ x.ringLog)

/-- The queue after a read: the descriptor stands behind the active ones, with its own number. -/
def putRead (n : Nat) (d : Desc) (s : State) : State :=
  modQueue n (fun x => { x with active := x.active ++ [newRun x.head d (issueEngTag n s).1] }) (issueEngTag n s).2

@[simp] theorem queueAt_issueEngTag (n m : Nat) (s : State) : queueAt (issueEngTag n s).2 m = queueAt s m := rfl

theorem active_putRead (n : Nat) (d : Desc) (s : State) : (queueAt (putRead n d s) n).active =
    (queueAt s n).active ++ [newRun (queueAt s n).head d (issueEngTag n s).1] := by simp [putRead]

/-- A queue that does not run, offers nothing, has four active descriptors, or whose engine has sixteen, reads none. -/
theorem doDescriptorRead_idle {h : Half} {q : Nat} {s : State}
    (hidle : queueRuns (queueAt s (queueNum h q)) = false ∨
      (queueAt s (queueNum h q)).head = (queueAt s (queueNum h q)).tail ∨
      4 ≤ (queueAt s (queueNum h q)).active.length ∨ 16 ≤ engineActive s (queueNum h q)) :
    doDescriptorRead h q s = s := by
  rw [doDescriptorRead]
  refine if_pos ?_
  obtain h | h | h | h := hidle <;> simp [h]

section OfferedDescriptor

variable {h : Half} {q f : Nat} {s : State} {x : QueueSt} (hx : x = queueAt s (queueNum h q))
  (hruns : queueRuns x = true) (hoffer : x.head ≠ x.tail) (hact : x.active = [])
  (hroom : engineActive s (queueNum h q) < 16) (hfunc : queueFunc s (queueNum h q) = some f)
include hx hruns hoffer hact hroom hfunc

/-- A descriptor within the function's memory that can be read joins its queue, and is checked and started. -/
theorem doDescriptorRead_good {t v : State} {b : List Byte} (hin : extentIn s f (slotAddr x) 64 = true)
    (hlo : engFenced s (queueAgent (queueNum h q)) (slotAddr x) = false)
    (hhi : engFenced s (queueAgent (queueNum h q)) (slotAddr x + 32) = false)
    (hgov : govWaits s (queueAgent (queueNum h q)) 0 (slotAddr x) = false)
    (hread : engBytes (queueAgent (queueNum h q)) (slotAddr x) 64 s = (some (b, false), t))
    (hv : v = putRead (queueNum h q) (descOf b) (govEngine (queueAgent (queueNum h q)) 0 (slotAddr x) 64 true t)) :
    doDescriptorRead h q s =
      if descOk v b (descOf b) = false then failDesc (queueNum h q) x.head dsBadDesc v
      else if descCuesOk v f (descOf b) = false then failDesc (queueNum h q) x.head stCue v
      else tryStart (queueNum h q) v := by
  subst hx hv
  rw [slotAddr] at hin hlo hhi hgov hread
  simp [doDescriptorRead, hruns, hoffer, hact, hroom.not_ge, hfunc, hin, hlo, hhi, hgov, hread, putRead,
    slotAddr] <;> rfl

/-- A slot outside the function's memory is recorded, and a blank descriptor ends with ADDRESS in its place. -/
theorem doDescriptorRead_outside (hout : extentIn s f (slotAddr x) 64 = false) :
    doDescriptorRead h q s = failDesc (queueNum h q) x.head dsAddress
      (putRead (queueNum h q) blankDesc (cfgEvent (queueAgent (queueNum h q)) (slotAddr x) 25 s)) := by
  subst hx
  rw [slotAddr] at hout
  simp [doDescriptorRead, hruns, hoffer, hact, hroom.not_ge, hfunc, hout, putRead, slotAddr]

/-- Such a read puts the queue in ERROR with ADDRESS and changes neither memory nor cues. -/
theorem doDescriptorRead_outside_error (hout : extentIn s f (slotAddr x) 64 = false) :
    (queueAt (doDescriptorRead h q s) (queueNum h q)).st = .error ∧
      (queueAt (doDescriptorRead h q s) (queueNum h q)).errStatus = dsAddress ∧
      (doDescriptorRead h q s).mem = s.mem ∧ (doDescriptorRead h q s).coh = s.coh ∧
      (doDescriptorRead h q s).cues = s.cues := by
  rw [doDescriptorRead_outside hx hruns hoffer hact hroom hfunc hout]
  obtain ⟨hmem, hcoh, hcues, hdolly⟩ := cfgEvent_frame (queueAgent (queueNum h q)) (slotAddr x) 25 s
  generalize cfgEvent (queueAgent (queueNum h q)) (slotAddr x) 25 s = u at *
  have hqueue : queueAt u (queueNum h q) = x := by rw [hx, queueAt, hdolly, queueAt]
  have hblank := active_putRead (queueNum h q) blankDesc u
  rw [hqueue, hact, List.nil_append] at hblank
  obtain ⟨hst, herr, hmem', hcoh', hcues'⟩ := failDesc_only dsAddress hblank (show (0 : Nat) ≠ 9 by decide)
  exact ⟨hst, herr, hmem'.trans hmem, hcoh'.trans hcoh, hcues'.trans hcues⟩

end OfferedDescriptor

/-- Settles O24: the queue reads nothing, reads a descriptor, or finds its slot outside the function's memory. -/
theorem descriptorsAreRead : Obligations.DescriptorsAreRead := by
  refine ⟨?_, ?_, fun h q s hh hidle => (onHalf_next hh).trans (congrArg _ (doDescriptorRead_idle hidle))⟩
  · intro h q s t f b x hh hx hruns hoffer hact hroom hfunc hin hlo hhi hgov hread
    exact (onHalf_next hh).trans
      (congrArg _ (doDescriptorRead_good hx hruns hoffer hact hroom hfunc hin hlo hhi hgov hread rfl))
  · intro h q s f x hh hx hruns hoffer hact hroom hfunc hout
    exact ⟨_, onHalf_next hh, doDescriptorRead_outside_error hx hruns hoffer hact hroom hfunc hout⟩

/-! ### Branches of a multicast (R264) -/

/-- A branch for which no data waits does not time out, whatever it still awaits. -/
theorem doMcastTimeout_nothingHeld {h : Half} {q d : Nat} {idx : W32} {s : State} {r : DescRun} {b : BranchSt}
    (hrun : runAt s (queueNum h q) idx = some r) (hphase : r.phase = .running) (hb : r.branches[d]? = some b)
    (hheld : b.held = []) : doMcastTimeout h q idx d s = s := by
  simp [doMcastTimeout, hrun, hphase, hb, hheld]

/-- The multicast hold time is not 0. -/
theorem mcHold_pos (s : State) : 0 < mcHold s := by
  rw [mcHold]
  omega

/-- The base after reset with one active descriptor in queue 0 of H0. -/
def oneActive (r : DescRun) : State :=
  setQueue 0 { QueueSt.init with st := .running, head := 1, tail := 1, active := [r] } State.reset

/-- An MGROUP branch that has its request tag and has passed on the 64 bytes read so far. -/
def drainedBranch : BranchSt :=
  { addr := 0, kind := 4, group := 1, tag := 5, take := 0, pos := 64, held := [], rtag := some 5, rans := none,
    lastT := 0, sent := false, failed := false, doneB := false }

/-- An MCAST of 128 bytes to that branch, half of them read. -/
def mcastHalfway : DescRun :=
  { newRun 0 { blankDesc with opcode := opMcast, arg := 1, rowBytes := 128, count1 := 1, count2 := 1 } 0 with
    phase := .running, begun := true, pos := 64, bytes := 64, branches := [drainedBranch] }

/-- A branch that times out does so no earlier than its hold time ends. -/
theorem le_clock_doMcast_failBranch (h : Half) (q n i time : Nat) (idx : W32) (errs : List ArrErr) (s : State) :
    time ≤ (doMcast h q idx errs (failBranch n idx i (atTime time s))).clock :=
  (Nat.le_max_right ..).trans ((keeps_failBranch n idx i (atTime time s)).trans (keeps_doMcast h q idx errs _)).clock

/-- Refutes O25: a branch times out only while data waits for it. That of `mcastHalfway` has a request tag and holds
nothing, so that the command leaves the state alone, where the statement lets the clock pass the branch's hold time. -/
theorem not_descriptorsRun : ¬ Obligations.DescriptorsRun := by
  rintro ⟨-, hmcast, -⟩
  have htimeout := (hmcast .h0 0 0 [] (oneActive mcastHalfway) mcastHalfway rfl rfl rfl rfl rfl
    (List.cons_ne_nil _ _)).2 0 drainedBranch rfl rfl (.inr (Option.some_ne_none _))
  have hnothing : exec (.mcastBranchTimeout .h0 0 0 0) (oneActive mcastHalfway) = .next (oneActive mcastHalfway) :=
    congrArg _ (doMcastTimeout_nothingHeld rfl rfl rfl rfl)
  rw [hnothing, Host.Outcome.next.injEq] at htimeout
  have hclock := congrArg State.clock htimeout ▸ le_clock_doMcast_failBranch ..
  have hstill : (oneActive mcastHalfway).clock = 0 := rfl
  have hpos := mcHold_pos (oneActive mcastHalfway)
  omega

/-! ### The acknowledgement of a Reel send (R257, R266) -/

/-- An end with OK or POISON keeps the count of bytes that the descriptor's record tells. -/
theorem bytes_completeDesc (n : Nat) (idx : W32) (s : State) :
    (runAt (completeDesc n idx s) n idx).map DescRun.bytes = (runAt s n idx).map DescRun.bytes := by
  cases hr : runAt s n idx with
  | none => simp [completeDesc, hr]
  | some d =>
    have hrun := runAt_modRun (n := n) (idx := idx) (f := fun e =>
      { e with phase := .complete, status := if d.poisoned then dsPoison else 0 }) s (fun _ => rfl)
    rw [hr] at hrun
    have hnote : runAt (completeDesc n idx s) n idx = runAt (modRun n idx (fun e =>
        { e with phase := .complete, status := if d.poisoned then dsPoison else 0 }) s) n idx := by
      simp only [completeDesc, hr]
      split
      · simp only [runAt, queueAt_modQueue_self]
      · rfl
    rw [hnote, hrun]
    rfl

/-- The acknowledgement of the successor completes the `REEL` that sent the block, whose record tells the bytes sent. -/
theorem doArrivalAck_sender {coll dev : BitVec 16} {take : BitVec 8} {sendNo k n : Nat} {d : DescRun} {s : State}
    (hentry : reelEntry s coll take = some k) (hnext : dev = (reelAt s k).next)
    (hsender : reelSender s k sendNo = some (n, d)) : doArrivalAck coll take dev sendNo s =
      completeDesc n d.index (modRun n d.index (fun r => { r with bytes := r.pos }) s) := by
  simp [doArrivalAck, hentry, hnext, hsender]

/-- A `REEL` of 64 bytes at stream 0 that has sent its block and awaits the acknowledgement. -/
def reelSent : DescRun :=
  { newRun 0 { blankDesc with opcode := opReel, rowBytes := 64, count1 := 1, count2 := 1 } 0 with
    phase := .running, begun := true, posted := true, pos := 64, asked := 1, slot := 1 }

/-- The base with that descriptor, and stream 0 open before device 8. -/
def reelSentState : State :=
  setReel 0 { ReelSt.init with st := 1, next := 8, slots := 2, slotLog := 11, credits := 1, sent := 1 }
    (oneActive reelSent)

/-- Refutes O27: the acknowledgement also gives the `REEL` its count of bytes (R257), 64 for `reelSent`, where the
statement leaves the 0 it had. -/
theorem not_reelStreams : ¬ Obligations.ReelStreams := by
  rintro ⟨-, -, hmessages, -⟩
  obtain ⟨-, -, -, -, hack, -⟩ := hmessages 0 0 8 0 ⟨0, 0, 0, 0, []⟩ reelSentState
  have hentry : reelEntry reelSentState 0 0 = some 0 := rfl
  have hsender : reelSender reelSentState 0 (0 : BitVec 16).toNat = some (0, reelSent) := rfl
  have hstate := hack 0 0 reelSent hentry rfl hsender
  have hbytes := congrArg (fun t => (runAt t 0 reelSent.index).map DescRun.bytes)
    ((doArrivalAck_sender hentry rfl hsender).symm.trans (Host.Outcome.next.inj hstate))
  simp only [bytes_completeDesc] at hbytes
  exact absurd hbytes (by decide)

end Sys2Proof.Machine

namespace Sys2Proof.Machine

open Sys2Proof

/-! ### Ports: enabling and training (R276, R277, R281, R294) -/

/-- A port of the part: the command's meaning is the next state. -/
theorem onPort_done {s t u : State} {p : Nat} (hh : hasHalf s (portHalf p) = true) (h : t = u) :
    onPort s p (.next t) = .next u := (onPort_next hh).trans (congrArg _ h)

section Ports

variable {p : Nat} {s : State}

theorem portCtlAct_enable {new : Nat} (hnew : natBit 0 new = true) (hwas : rbit s .portCtl p 0 = false) :
    portCtlAct p new s = setPort p { portAt s p with
      st := .training, trainFails := 0, trainT := s.clock, trainStep2 := false } (rput .portCtl p new s) :=
  if_pos (by rw [hnew, hwas]; rfl)

theorem portCtlAct_disable {new : Nat} (hnew : natBit 0 new = false) (hwas : rbit s .portCtl p 0 = true) :
    portCtlAct p new s = portDown p .down (rput .portCtl p new s) := by
  simp [portCtlAct, hnew, hwas]

theorem trainFail_again (hfails : (portAt s p).trainFails < 2) :
    trainFail p s = setPort p { portAt s p with
      trainFails := (portAt s p).trainFails + 1, trainT := s.clock, trainStep2 := true } s :=
  if_neg (by omega)

theorem trainFail_third (hfails : 2 ≤ (portAt s p).trainFails) :
    trainFail p s = event (portHalf p) 0x0801 0 none p 0 276
      (setPort p { portAt s p with st := .failed, trainFails := (portAt s p).trainFails + 1 } s) :=
  if_pos (by omega)

@[simp] theorem portAt_event (h : Half) (code sev : Nat) (func : Option Nat) (index addr cause : Nat) (s : State)
    (q : Nat) : portAt (event h code sev func index addr cause s) q = portAt s q := by simp [portAt]

@[simp] theorem portAt_atTime (t : Nat) (s : State) (q : Nat) : portAt (atTime t s) q = portAt s q := rfl

@[simp] theorem clock_atTime (t : Nat) (s : State) : (atTime t s).clock = max s.clock t := rfl

@[simp] theorem portAt_modPort_self (f : PortSt → PortSt) (s : State) : portAt (modPort p f s) p = f (portAt s p) :=
  portAt_setPort_self ..

variable {tr : PortTraining}

/-- The port that comes up at full width (R276, R277): a new sequence, and the credits that its peer grants. -/
def fullPort (tr : PortTraining) (now : Nat) (x : PortSt) : PortSt :=
  { x with
    st := .upFull, txSpare := tr.txSpare, rxSpare := tr.rxSpare, halfGroup := false, badLambda := 0
    trainFails := 0, txSeq := 0, rxSeq := 0, replay := [], unacked := []
    credits := tr.credits.foldl (fun m c => NMap.insert m (classKey c.1.val c.2.1) c.2.2) []
    rxNak := false, ackDue := false, nakTimes := [], rxBytes := [], rxFlits := [], freed := []
    lastAdvance := now, txWave := 0, txBlocks := [], txWords := [] }

/-- The peer of a port that came up is noted, LINK_INFO goes out, and what waited for the port goes on (R294). -/
def greetPeer (p : Nat) (tr : PortTraining) (s : State) : State :=
  let v := meetPeer p tr.peerDev tr.peerPort.toNat tr.peerValid s
  mcDrain p (pumpAll p (emit (.linkInfo p (ownDev v) (idOk v)) v))

section Training

variable (htrain : (portAt s p).st = .training)
include htrain

theorem doPortTrainTimeout_training : doPortTrainTimeout p s =
    trainFail p (atTime ((portAt s p).trainT + ms (if (portAt s p).trainStep2 then 3 else 1)) s) := if_pos htrain

/-- A training that may not come up counts as a failure, and the wavelengths it found bad are noted. -/
theorem doPortUp_fails (hbad : maxSkew < tr.skew ∨ tr.badLambda ≠ 0 ∧ rbit s .portCtl p 1 = false) :
    doPortUp p tr s = trainFail p (modPort p (fun x => { x with badLambda := tr.badLambda })
      (atTime ((portAt s p).trainT + us 2100) s)) := by
  have hhalf : rbit (atTime ((portAt s p).trainT + us 2100) s) .portCtl p 1 = rbit s .portCtl p 1 := rfl
  rcases hbad with hskew | ⟨hlambda, hfull⟩
  · simp [doPortUp, htrain, hskew.not_ge]
  · have hne : tr.badLambda.toNat ≠ 0 := fun h => hlambda (BitVec.eq_of_toNat_eq h)
    simp [doPortUp, htrain, hhalf, hfull, hne]

/-- The first two failures in a row lead back to the second step of training. -/
theorem doPortUp_tries (hbad : maxSkew < tr.skew ∨ tr.badLambda ≠ 0 ∧ rbit s .portCtl p 1 = false)
    (hfails : (portAt s p).trainFails < 2) :
    (portAt (doPortUp p tr s) p).st = .training ∧ (portAt (doPortUp p tr s) p).badLambda = tr.badLambda ∧
      (portAt (doPortUp p tr s) p).trainStep2 = true ∧
      (portAt (doPortUp p tr s) p).trainFails = (portAt s p).trainFails + 1 ∧ (doPortUp p tr s).mem = s.mem := by
  rw [doPortUp_fails htrain hbad, trainFail_again (by simpa using hfails)]
  simp [htrain, modPort]

theorem doPortUp_full (hlambda : tr.badLambda = 0) (hskew : tr.skew ≤ maxSkew) {u : State}
    (hu : u = applyVcBuf p (atTime ((portAt s p).trainT + us 2100) s)) :
    doPortUp p tr s = greetPeer p tr (modPort p (fullPort tr u.clock) u) := by
  subst hu
  simp [doPortUp, htrain, hlambda, hskew, greetPeer] <;> rfl

end Training

/-! What retrains a port, and what sets its peer, acts on a port that is up only. -/

theorem doLossOfSignal_up (hup : linkUp (portAt s p) = true) : doLossOfSignal p false s = retrain p s := if_pos hup

theorem doAckStall_up (hup : linkUp (portAt s p) = true) (hreplay : (portAt s p).replay ≠ []) :
    doAckStall p s = retrain p (atTime ((portAt s p).lastAdvance + us 100) s) := by simp [doAckStall, hup, hreplay]

theorem doLinkInfo_up (hup : linkUp (portAt s p) = true) (dev : BitVec 16) (pp : BitVec 4) (valid : Bool) :
    doLinkInfo p dev pp valid s = setPeer p dev pp.toNat valid s := if_pos hup

section Down

variable (hdown : linkUp (portAt s p) = false)
include hdown

theorem doLossOfSignal_down (otherWay : Bool) : doLossOfSignal p otherWay s = s := by simp [doLossOfSignal, hdown]
theorem doAckStall_down : doAckStall p s = s := by simp [doAckStall, hdown]
theorem doNakTimer_down : doNakTimer p s = s := by simp [doNakTimer, hdown]
theorem doAckTimer_down : doAckTimer p s = s := by simp [doAckTimer, hdown]

end Down

end Ports

/-- Settles O28: the stores to PORT_CTL, what ends a training, and what a port that is up or down does with the
events of its link. -/
theorem portsTrain : Obligations.PortsTrain := by
  refine ⟨?_, ?_, ?_, ?_, ?_, ?_, ?_, ?_, ?_⟩
  · intro ag p v new s ok hnew hwas
    rw [← portCtlAct_enable hnew hwas]
    exact regStore_ok (portCtlAct p) ok
  · intro ag p v new s ok hnew hwas
    rw [← portCtlAct_disable hnew hwas]
    exact regStore_ok (portCtlAct p) ok
  · intro p s hh htrain hfails
    refine ⟨_, onPort_next hh, ?_⟩
    rw [doPortTrainTimeout_training htrain, trainFail_again (by simpa using hfails)]
    simp [htrain]
  · intro p s hh htrain hfails
    refine ⟨_, onPort_next hh, ?_⟩
    rw [doPortTrainTimeout_training htrain, trainFail_third (by simpa using hfails)]
    simp
  · intro p tr s hh htrain hlambda hfull hfails
    obtain ⟨hst, hbad, -, hcount, hmem⟩ := doPortUp_tries htrain (.inr ⟨hlambda, hfull⟩) hfails
    exact ⟨_, onPort_next hh, hst, hbad, hcount, hmem⟩
  · intro p tr s hh htrain hskew hfails
    obtain ⟨hst, -, hstep, hcount, hmem⟩ := doPortUp_tries htrain (.inl hskew) hfails
    exact ⟨_, onPort_next hh, hst, hstep, hcount, hmem⟩
  · intro p tr s hh htrain hlambda hskew
    exact onPort_done hh (doPortUp_full htrain hlambda hskew rfl)
  · intro p s hh hup
    exact ⟨onPort_done hh (doLossOfSignal_up hup),
      fun hreplay => onPort_done hh (doAckStall_up hup hreplay),
      fun dev pp valid => onPort_done hh (doLinkInfo_up hup dev pp valid)⟩
  · intro p s hh hdown
    exact ⟨onPort_done hh (doLossOfSignal_down hdown false),
      onPort_done hh (doAckStall_down hdown),
      onPort_done hh (doNakTimer_down hdown),
      onPort_done hh (doAckTimer_down hdown)⟩

/-! ### The packet at the front of a class (R282, R290–R293, R295–R297, R342) -/

section Packets

variable {p vc : Nat} {dl : Bool} {s : State}

section Empty

variable (hnone : frontPkt s p vc dl = none)
include hnone

theorem doPacketDeliver_empty : doPacketDeliver p vc dl s = s := by simp [doPacketDeliver, hnone]
theorem doPacketForward_empty (x : Nat) : doPacketForward p vc dl x s = s := by simp [doPacketForward, hnone]
theorem doMcPacket_empty (x : Nat) : doMcPacket p vc dl x s = s := by simp [doMcPacket, hnone]

end Empty

variable {k : Packet} (hk : frontPkt s p vc dl = some k) (hid : idOk s = true)
include hk hid

section Own

variable (hmc : k.mc = false) (hdest : k.dest = ownDev s)
include hmc hdest

theorem doPacketDeliver_handled {t : State} (hage : arrivedAge s p k < 500)
    (hvc : vcOf k.kind.toNat k.op.toNat = some vc) (hrule : pktRuleOk k = true)
    (hdone : handlePacket p k s = (true, t)) :
    doPacketDeliver p vc dl s = mcDeliverLocal (consumePkt p vc dl t) := by
  have hcode : ¬(k.kind = 1#4 ∧ vcOf 1 k.op.toNat = none) := by
    rintro ⟨hkind, hnone⟩
    simp [hkind, hnone] at hvc
  simp [doPacketDeliver, hk, hid, hmc, hdest, hage.not_ge, hcode, hvc, hrule, hdone]

theorem doPacketDeliver_aged (hage : 500 ≤ arrivedAge s p k) :
    doPacketDeliver p vc dl s = consumePkt p vc dl (countLink .aged s) := by
  simp [doPacketDeliver, hk, hid, hmc, hdest, hage]

end Own

section Away

variable {x age : Nat} {u : State} (hmc : k.mc = false) (hdest : k.dest ≠ ownDev s) (hu : u = consumePkt p vc dl s)
  (ha : age = min 1023 (arrivedAge u p k + x))
include hmc hdest hu ha

theorem doPacketForward_aged (hage : 500 ≤ age) : doPacketForward p vc dl x s = countLink .aged u := by
  subst hu ha
  simp [doPacketForward, hk, hmc, hid, hdest, hage]

theorem doPacketForward_routed (hage : age < 500) {q : Nat} {cross : Bool}
    (hroute : routeOf u k.dest.toNat = some (q, cross)) :
    doPacketForward p vc dl x s = forwardTo p vc q cross { k with age := age } u := by
  subst hu ha
  simp [doPacketForward, hk, hmc, hid, hdest, hage.not_ge, hroute]

/-- A Continuity request without a route is answered ERROR with NO_ROUTE where its sender can be reached. -/
theorem doPacketForward_noRoute (hage : age < 500) (hroute : routeOf u k.dest.toNat = none) (hkind : k.kind = 1)
    (hop : k.op.toNat < 0x20) (hback : (routeOf (countLink .noRoute u) k.src.toNat).isSome = true) :
    doPacketForward p vc dl x s = sendCoh (.dev k.src)
      { blankCoh with code := 0x3A, tag := k.tag.toNat, take := k.take, addr := k.addr, cause := 6 }
      (countLink .noRoute u) := by
  subst hu ha
  simp [doPacketForward, hk, hmc, hid, hdest, hage.not_ge, hroute, hkind, hop, hback]

end Away

theorem doMcPacket_replicated {x age : Nat} {t : State} (hmc : k.mc = true)
    (ha : age = min 1023 (arrivedAge s p k + x)) (hage : age < 500)
    (hvc : vcOf k.kind.toNat k.op.toNat = some vc) (hrule : pktRuleOk k = true) (hgroup : k.dest.toNat < 4096)
    (hcopies : mcReplicate (some p) { k with age := age } s = some t) :
    doMcPacket p vc dl x s = mcDeliverLocal (consumePkt p vc dl t) := by
  subst ha
  rw [hmc] at hcopies
  simp [doMcPacket, hk, hid, hmc, hage.not_ge, hvc, hrule, hgroup.not_ge, hcopies]

end Packets

theorem forwardTo_sameHalf {p q : Nat} (h : portHalf p = halfOf 8 q) (vc : Nat) (cross : Bool) (k : Packet)
    (s : State) : forwardTo p vc q cross k s = queuePkt q vc { k with dl := k.dl || cross } s := if_pos h

theorem forwardTo_otherHalf {p q : Nat} (h : portHalf p ≠ halfOf 8 q) (vc : Nat) (cross : Bool) (k : Packet)
    (s : State) : forwardTo p vc q cross k s =
      zSend (.half (halfOf 8 q)) (if vc = 0 then 0 else 4) (.zPacket (.half (halfOf 8 q)) p vc k) s := if_neg h

/-- A branch that has neither failed nor acknowledged fails at the end of its hold time. -/
theorem doMcHoldExpire_waiting {n b : Nat} {s : State} {o : McOp} {x : McBranch} (ho : s.link.mcops[n]? = some o)
    (hx : o.branches.find? (fun y => decide (y.port = b)) = some x) (hfailed : x.failed = false)
    (hacked : x.acked = false) :
    doMcHoldExpire n b s = mcSettle (modBranch (isMcOp o.src o.tag o.take) b
      (fun y => { y with failed := true, held := [] }) (atTime (x.lastT + mcHold s) s)) := by
  simp [doMcHoldExpire, ho, hx, hfailed, hacked]

/-- Settles O30: each fate of the packet at the front of a class, and the branches of a multicast operation. -/
theorem packetsAreRouted : Obligations.PacketsAreRouted := by
  refine ⟨?_, ?_, ?_, ?_, ?_, ?_, ?_, ?_, ?_⟩
  · intro p vc dl x s hh hnone
    exact ⟨onPort_done hh (doPacketDeliver_empty hnone),
      onPort_done hh (doPacketForward_empty hnone x),
      onPort_done hh (doMcPacket_empty hnone x)⟩
  · intro p vc dl s t k hh hk hmc hid hdest hage hvc hrule hdone
    exact onPort_done hh (doPacketDeliver_handled hk hid hmc hdest hage hvc hrule hdone)
  · intro p vc dl s k hh hk hmc hid hdest hage
    exact onPort_done hh (doPacketDeliver_aged hk hid hmc hdest hage)
  · intro p vc dl x q cross s k hh hk hmc hid hdest hage hroute
    have hforward := doPacketForward_routed hk hid hmc hdest rfl rfl hage hroute
    exact ⟨fun hsame => onPort_done hh (hforward.trans (forwardTo_sameHalf hsame ..)),
      fun hother => onPort_done hh (hforward.trans (forwardTo_otherHalf hother ..))⟩
  · intro p vc dl x s k hh hk hmc hid hdest hage
    exact onPort_done hh (doPacketForward_aged hk hid hmc hdest rfl rfl hage)
  · intro p vc dl x s k hh hk hmc hid hdest hage hroute hkind hop hback
    exact onPort_done hh (doPacketForward_noRoute hk hid hmc hdest rfl rfl hage hroute hkind hop hback)
  · intro p vc dl x s t k hh hk hmc hid hage hvc hrule hgroup hcopies
    exact onPort_done hh (doMcPacket_replicated hk hid hmc rfl hage hvc hrule hgroup hcopies)
  · intro n b s o x ho hx hfailed hacked
    exact congrArg (fun t => Host.Outcome.next (mcDrops t)) (doMcHoldExpire_waiting ho hx hfailed hacked)
  · exact fun src tag take b info s => rfl

end Sys2Proof.Machine

namespace Sys2Proof.Machine

open Sys2Proof

/-! ### Windows of regulators (R316, R321, R329) -/

/-- A regulator with no access outstanding as its next window opens at `now`, the closing one `w` µs long. -/
def nextWindow (now w : Nat) (x : RegulSt) : RegulSt :=
  { x with
    winStart := now, count := 0, busyUs := 0, busyLast := 0, reads := 0, lates := 0, deliv := x.count / 64
    demanding := decide (9 * w ≤ 10 * min w x.busyUs) }

section Windows

variable {q : Nat} {s : State}

@[simp] theorem regulClass_atTime (t q : Nat) (s : State) : regulClass (atTime t s) q = regulClass s q := rfl

theorem doWindowBoundary_inactive (hactive : (regulAt s q).active = false) : doWindowBoundary q s = s := by
  simp [doWindowBoundary, hactive]

/-- Class 0 guarantees nothing, so the closing window of best effort is never judged a miss (R321, R329). -/
theorem doWindowBoundary_bestEffort {x : RegulSt} {u v : State} (hx : regulAt s q = x) (hactive : x.active = true)
    (hclass : regulClass s q = 0) (hidle : x.outstanding = 0)
    (hu : u = atTime (x.winStart + us (regulWindow s q)) s)
    (hv : v = regulTake q (setRegul q (nextWindow u.clock (regulWindow s q) x) u)) :
    doWindowBoundary q s =
      releaseHeld q (modRegul q (fun y => { y with worst := partTrouble v (regulPart v q) (v.clock + 1) }) v) := by
  subst hu hv
  simp [doWindowBoundary, when, nextWindow, hx, hactive, hclass, hidle]

end Windows

/-- Settles O33: a regulator with no window running, and one of best effort at the end of its window. -/
theorem windowsOfARegulator : Obligations.WindowsOfARegulator := by
  refine ⟨?_, ?_⟩
  · intro h q s hh hactive
    exact (onHalf_next hh).trans (congrArg Host.Outcome.next (doWindowBoundary_inactive hactive))
  · intro h q s n x hh hn hx hactive hclass hidle
    subst hn
    exact (onHalf_next hh).trans
      (congrArg Host.Outcome.next (doWindowBoundary_bestEffort hx.symm hactive hclass hidle rfl rfl))

end Sys2Proof.Machine

namespace Sys2Proof.Machine

open Sys2Proof

/-! ### The turn of a command (R389–R392) -/

section CommandTurn

variable {op : Nat} {r : CmdRef} {s : State} {work : CmdIn → State → CmdEnd × State}

theorem runCmd_absent (hfind : (sesAt s r.ses.val).cmds.find? (fun x => decide (x.index = r.index)) = none) :
    runCmd op r work s = s := by
  simp only [runCmd, hfind]

/-- Without the firmware on H0's management processor no command runs. -/
theorem runCmd_stopped (hmp : s.cad.mp0.st ≠ 1) : runCmd op r work s = s := by
  cases hfind : (sesAt s r.ses.val).cmds.find? (fun x => decide (x.index = r.index)) with
  | none => exact runCmd_absent hfind
  | some d =>
    simp only [runCmd, hfind]
    exact if_pos (.inr (.inr (.inl hmp)))

section Found

variable {d : CmdSt} (hfind : (sesAt s r.ses.val).cmds.find? (fun x => decide (x.index = r.index)) = some d)
include hfind

/-- A command of another code, a decided one and one before its turn wait. -/
theorem runCmd_waits
    (hwait : entOp d.entry ≠ op ∨ d.due ≠ none ∨ (d.started = false ∧ mayStart s r.ses.val d = false)) :
    runCmd op r work s = s := by
  simp only [runCmd, hfind]
  refine if_pos ?_
  rcases hwait with hop | hdue | ⟨hnew, hturn⟩
  · exact .inl hop
  · exact .inr (.inl (Option.isSome_iff_ne_none.2 hdue))
  · exact .inr (.inr (.inr (by simp [hnew, hturn])))

/-- A command that starts and fails the checks before its own (R392): its work is not done. -/
theorem runCmd_refused (hop : entOp d.entry = op) (hdue : d.due = none) (hmp : s.cad.mp0.st = 1)
    (hnew : d.started = false) (hturn : mayStart s r.ses.val d = true)
    (hcheck : preCheck s (sesAt s r.ses.val).func d.entry ≠ csOk) :
    runCmd op r work s = finishCmd r.ses.val r.index (preCheck s (sesAt s r.ses.val).func d.entry) []
      (startCmd r.ses.val r.index s) := by
  simp [runCmd, hfind, hop, hdue, hmp, hnew, hturn, hcheck]

end Found

end CommandTurn

/-- The instruction `cmd` is, in every state, Cadun's turn on the command `r` of code `op`. -/
def WorksOn (op : Nat) (r : CmdRef) (cmd : Instr) : Prop :=
  ∃ work : CmdIn → State → CmdEnd × State, ∀ s, exec cmd s = .next (runCmd op r work s)

/-- Settles O43: each command is Cadun's work under its code, and the turn is decided before the work. -/
theorem cadunTakesCommandsInTurn : Obligations.CadunTakesCommandsInTurn := by
  intro r rep tr rb op cmd s hmem
  obtain ⟨work, hwork⟩ : WorksOn op r cmd := by
    simp only [List.mem_cons, Prod.mk.injEq, List.not_mem_nil, or_false] at hmem
    casesm* _ ∨ _
    all_goals
      obtain ⟨rfl, rfl⟩ := hmem
      exact ⟨_, fun _ => rfl⟩
  have hexec {t : State} (hrun : runCmd op r work s = t) : exec cmd s = .next t :=
    (hwork s).trans (congrArg Host.Outcome.next hrun)
  refine ⟨?_, ?_, ?_, ?_⟩
  · exact fun hmp => hexec (runCmd_stopped hmp)
  · exact fun hfind => hexec (runCmd_absent hfind)
  · exact fun d hfind hwait => hexec (runCmd_waits hfind hwait)
  · exact fun d hfind hop hdue hmp hnew hturn hcheck =>
      hexec (runCmd_refused hfind hop hdue hmp hnew hturn hcheck)

end Sys2Proof.Machine

namespace Sys2Proof.Machine

open Sys2Proof

/-! ### FUNC_CREATE, CUT and FUNC_DESTROY (R395, R401–R403) -/

section FunctionWork

variable {c : CmdIn} {t u : State}

theorem cmdFuncCreate_free (hid : t.ident.refused = false) (hst : (funcAt t (c.b 0)).st = 0) :
    cmdFuncCreate c t = endOk [] (event .h0 0x0101 0 (some (c.b 0)) (c.b 0) 0 395
      (setFunc (c.b 0) { funcAt t (c.b 0) with st := 1 } t)) :=
  (if_neg (by simp [hid])).trans (if_neg (not_not_intro hst))

theorem cmdFuncCreate_notFree (hid : t.ident.refused = false) (hst : (funcAt t (c.b 0)).st ≠ 0) :
    cmdFuncCreate c t = endWith csBusy t :=
  (if_neg (by simp [hid])).trans (if_pos hst)

section FirstTurn

variable (hfirst : c.first = true)
include hfirst

/-- A CUT of an ACTIVE function waits for the Cut that it begins. -/
theorem cmdCut_active (hst : (funcAt t (c.b 0)).st = 1) :
    cmdCut c t = (.again, cutFunc (c.b 0) 1 false (setFunc (c.b 0)
      { funcAt t (c.b 0) with cutWaits := (funcAt t (c.b 0)).cutWaits ++ [(c.ses, c.idx)] } t)) := by
  simp [cmdCut, hfirst, hst, modFunc]

/-- One of a function that is CUTTING waits for the Cut that runs. -/
theorem cmdCut_cutting (hst : (funcAt t (c.b 0)).st = 2) :
    cmdCut c t = (.again, setFunc (c.b 0)
      { funcAt t (c.b 0) with cutWaits := (funcAt t (c.b 0)).cutWaits ++ [(c.ses, c.idx)] } t) := by
  simp [cmdCut, hfirst, hst, modFunc]

theorem cmdCut_releasing (hst : (funcAt t (c.b 0)).st = 3) : cmdCut c t = endWith csBusy t := by
  simp [cmdCut, hfirst, hst]

end FirstTurn

section LaterTurn

variable (hfirst : c.first = false)
include hfirst

theorem cmdFuncDestroy_notCut (hst : (funcAt t (c.b 0)).st ≠ 3) : cmdFuncDestroy c t = (.again, t) := by
  simp [cmdFuncDestroy, hfirst, hst]

/-- Once the function is cut and its partitions are released, the rest is released and it is FREE. -/
theorem cmdFuncDestroy_cut (hst : (funcAt t (c.b 0)).st = 3) (hparts : releaseParts (c.b 0) t = (true, u)) :
    cmdFuncDestroy c t = endOk [] (event .h0 0x0101 0 (some (c.b 0)) (c.b 0) 0 403
      (modFunc (c.b 0) (fun x => { x with st := 0, destroy := false }) (releaseRest (c.b 0) u))) := by
  simp [cmdFuncDestroy, hfirst, hst, hparts]

end LaterTurn

end FunctionWork

/-- A command whose work is not at its end leaves the state that the work came to, and comes again. -/
theorem runCmd_again {op : Nat} {r : CmdRef} {c : CmdIn} {s t u : State} {work : CmdIn → State → CmdEnd × State}
    (h : cmdTaken op r c s t) (hw : work c t = (.again, u)) :
    (Host.Outcome.next (runCmd op r work s) : Outcome) = .next (settleAll u) := by
  rw [runCmd_taken h, hw]; rfl

/-- Settles O44. -/
theorem functionCommands : Obligations.FunctionCommands := by
  refine ⟨?_, ?_, ?_, ?_, ?_⟩
  · intro r c s t h hid
    exact ⟨fun hst => runCmd_ok h (cmdFuncCreate_free hid hst), fun hst => runCmd_bad h (cmdFuncCreate_notFree hid hst)⟩
  · intro r c s t h hfirst
    exact ⟨fun hst => runCmd_again h (cmdCut_active hfirst hst), fun hst => runCmd_again h (cmdCut_cutting hfirst hst),
      fun hst => runCmd_bad h (cmdCut_releasing hfirst hst)⟩
  · intro r c s t u h hfirst
    exact ⟨fun hst => runCmd_again h (cmdFuncDestroy_notCut hfirst hst),
      fun hst hparts => runCmd_ok h (cmdFuncDestroy_cut hfirst hst hparts)⟩
  · intro r c s t h
    exact runCmd_ok h rfl
  · intro n s hdue
    exact congrArg (fun u => Host.Outcome.next (settleCadun u)) (doTakeAdvance_due hdue)

end Sys2Proof.Machine

namespace Sys2Proof.Machine

open Sys2Proof

/-! ### The sideband, the halves and their processors (R347, R387, R388) -/

theorem onHalf_done {s t u : State} {h : Half} (hh : hasHalf s h = true) (heq : t = u) :
    onHalf s h (.next t) = .next u := by
  rw [onHalf_next hh, heq]

/-- A sideband message changes what the base has sent and the lanes' lists of messages only. -/
@[simp] theorem sideSend_frame (from_ : SbRef) (ty : Nat) (payload : List Byte) (s : State) :
    (sideSend from_ ty payload s).part = s.part ∧ (sideSend from_ ty payload s).clock = s.clock ∧
    (sideSend from_ ty payload s).regs = s.regs ∧ (sideSend from_ ty payload s).mem = s.mem ∧
    (sideSend from_ ty payload s).cad = s.cad ∧ (sideSend from_ ty payload s).pwr = s.pwr := by
  unfold sideSend
  split
  · simp
  · dsimp only
    split <;> simp [modSb]

@[simp] theorem halfRuns_sideGot (on : SbRef) (ty : Nat) (payload : List Byte) (s : State) (h : Half) :
    halfRuns (sideGot on ty payload s) h = halfRuns s h := by
  simp [halfRuns, farGone]

@[simp] theorem exchanging_sideGot (on : SbRef) (ty : Nat) (payload : List Byte) (s : State) :
    exchanging (sideGot on ty payload s) = exchanging s := by
  simp [exchanging]

theorem down_of_halfRuns {s : State} {h : Half} (hrun : halfRuns s h = true) : s.pwr.down = false := by
  simp only [halfRuns, Bool.and_eq_true, Bool.not_eq_true'] at hrun
  exact hrun.1

@[simp] theorem mpAt_modMp_self (h : Half) (f : MpSt → MpSt) (s : State) : mpAt (modMp h f s) h = f (mpAt s h) := by
  cases h <;> rfl

@[simp] theorem mpAt_modMp_other (h : Half) (f : MpSt → MpSt) (s : State) : mpAt (modMp h.other f s) h = mpAt s h := by
  cases h <;> rfl

theorem mpAt_congr {s t : State} (h : Half) (hcad : s.cad = t.cad) : mpAt s h = mpAt t h := by
  cases h <;> simp only [mpAt, hcad]

@[simp] theorem modMp_frame (h : Half) (f : MpSt → MpSt) (s : State) :
    (modMp h f s).part = s.part ∧ (modMp h f s).clock = s.clock ∧ (modMp h f s).mem = s.mem ∧
    (modMp h f s).regs = s.regs ∧ (modMp h f s).ident = s.ident := by
  cases h <;> exact ⟨rfl, rfl, rfl, rfl, rfl⟩

/-! ### Domains (R408–R411, R413) -/

section Domains

variable {h : Half} {i : Nat} {s : State}

theorem doDomainGate_stays (hstay : (domAt s (35 * h.num + i)).st ≠ 1 ∨ gateTo s h i = none) :
    doDomainGate h i s = s := by
  by_cases hon : (domAt s (35 * h.num + i)).st = 1
  · simp [doDomainGate, hon, hstay.resolve_left (not_not_intro hon)]
  · simp [doDomainGate, hon]

/-- HOST apart, a domain that leaves ON for GATED changes nothing else. -/
theorem doDomainGate_gated (hon : (domAt s (35 * h.num + i)).st = 1) (hgate : gateTo s h i = some 2) (hi : i ≠ 31) :
    doDomainGate h i s = modDom (35 * h.num + i) (fun d => { d with st := 2 }) s := by
  simp [doDomainGate, hon, hgate, hi]

theorem doDomainWake_gated (hst : (domAt s (35 * h.num + i)).st = 2) (hgate : gateTo s h i = none) (hi : i ≠ 32) :
    doDomainWake h i s = modDom (35 * h.num + i) (fun d => { d with st := 1, wakes := (d.wakes + 1) % 2 ^ 16 })
      (atTime (s.clock + wakeTime i) s) := by
  simp [doDomainWake, hst, hgate, hi]

/-- H0 goes down with its AON, FABRIC and MGMT domains. -/
theorem doBuckFault_h0 {k : BuckFaultKind} (hi : i = 0 ∨ i = 1 ∨ i = 28)
    (hst : (domAt s (35 * Half.h0.num + i)).st ≠ 5) (hdown : s.pwr.down = false) :
    doBuckFault .h0 i k s =
      takeDown 4 5 i (modDom (35 * Half.h0.num + i) (fun d => { d with st := 5, cause := faultCode k }) s) := by
  have hzor : i ≠ 32 := by omega
  rw [doBuckFault, if_neg (by simp [hst, hdown, hzor]), if_pos hi]

theorem doBuckFault_over {k : BuckFaultKind} (hover : (domAt s (35 * h.num + i)).st = 5 ∨ s.pwr.down = true) :
    doBuckFault h i k s = s :=
  if_pos (hover.elim .inl fun hdown => .inr (.inl hdown))

end Domains

/-! ### Supplies, the Gaffers, trips (R414–R421) -/

section Gaffers

variable {s : State}

theorem doVinFast_down (hdown : s.pwr.down = true) : doVinFast s = s := if_pos hdown

theorem doVinFast_mb1 (hp : s.part = .mb1) (hdown : s.pwr.down = false) :
    doVinFast s = setLevel .h0 (max 8 s.pwr.gaf0.throttle) (modGaf .h0 (fun g => { g with vinLow := true }) s) := by
  rw [doVinFast, if_neg (by simp [hdown]), halves, hp]
  rfl

/-- The end of a low supply lowers no throttle level by itself. -/
theorem doVinRestored_frame (s : State) :
    (doVinRestored s).pwr.gaf0.vinLow = false ∧ (doVinRestored s).pwr.gaf0.throttle = s.pwr.gaf0.throttle ∧
    (doVinRestored s).mem = s.mem ∧ (doVinRestored s).regs = s.regs := by
  unfold doVinRestored halves
  cases s.part <;> exact ⟨rfl, rfl, rfl, rfl⟩

theorem doGfReport_exchanging {demand : Nat} (hex : exchanging s = true) :
    doGfReport demand s =
      (let t := groupTake .h0 .pkg s
      let r := grantOf (t.pwr.gaf0.power + t.pwr.gaf0.removed) demand t
      let n := (t.pwr.gaf0.exchange + 1) % 2 ^ 16
      let v := sideSend (.half .h0 0) 0x19 (natLe 2 (pkgLimit r.2 - r.1) ++ natLe 2 n) r.2
      modGaf .h0 (fun g => { g with
        exchange := n, lastMsg := v.clock, fallback := false, grant := if r.1 ≤ g.grant then r.1 else g.grant
        pendGrant := if r.1 ≤ g.grant then none else some r.1 }) v) :=
  if_neg (by simp [hex])

theorem doGfGrant_exchanging {grant exchange : Nat} (hex : exchanging s = true) :
    doGfGrant grant exchange s = modGaf .h1 (fun g => { g with
      grant := grant, exchange := exchange, lastMsg := s.clock, fallback := false }) s :=
  if_neg (by simp [hex])

theorem doGrantTimeout_none (hpend : s.pwr.gaf0.pendGrant = none) : doGrantTimeout s = s := if_pos (by simp [hpend])

theorem doGrantTimeout_some (hpend : s.pwr.gaf0.pendGrant ≠ none) :
    doGrantTimeout s =
      modGaf .h0 (fun g => { g with pendGrant := none }) (atTime (s.pwr.gaf0.lastMsg + us 30) s) :=
  if_neg (by simpa using hpend)

theorem doFallback_h1 (hex : exchanging s = true) :
    doFallback .h1 s = (let t := atTime (s.pwr.gaf1.lastMsg + us 300) s
      modGaf .h1 (fun g => { g with grant := pkgLimit t / 2, fallback := true }) t) :=
  if_neg (by simp [hex])

theorem doFallback_h0 (hex : exchanging s = true) :
    doFallback .h0 s = (let t := atTime (s.pwr.gaf0.lastMsg + us 300) s
      let n := (s.pwr.gaf0.exchange + 1) % 2 ^ 16
      modGaf .h0 (fun g => { g with
        exchange := n, fallback := true, grant := min (pkgLimit t / 2) s.pwr.gaf0.grant
        pendGrant := if pkgLimit t / 2 ≤ s.pwr.gaf0.grant then none else some (pkgLimit t / 2) })
        (sideSend (.half .h0 0) 0x19 (natLe 2 (pkgLimit t / 2) ++ natLe 2 n) t)) := by
  rw [doFallback, if_neg (by simp [hex])]
  simp [modGaf, gafAt]

/-- With neither `T_THROTTLE` nor a low supply in the way, the level follows the power. -/
theorem doThrottle_free {h : Half} {p c : Nat} (hrun : halfRuns s h = true) (htemp : (gafAt s h).tempHold = false)
    (hvin : (gafAt s h).vinLow = false) :
    doThrottle h p c s = setLevel h (if (gafAt s h).grant < p then min 15 ((gafAt s h).throttle + 1)
      else if 100 * p < 95 * (gafAt s h).grant then (gafAt s h).throttle - 1 else (gafAt s h).throttle)
      (noteGafPower h p (c * (gafAt s h).throttle / (16 - (gafAt s h).throttle)) s) := by
  simp [doThrottle, hrun, htemp, hvin]

theorem doDieSensor_lost {h : Half} (hrun : halfRuns s h = true) : doDieSensor h none s = trip h 2 s := if_pos hrun

/-- A first reading of 120 °C or more is kept, and trips its half. -/
theorem doDieSensor_hot {h : Half} {k : Fin 22} {x : Int} (hrun : halfRuns s h = true) (hx : 120 ≤ x)
    (hfirst : s.pwr.die.find? (22 * h.num + k.val) = none) :
    doDieSensor h (some [(k, x)]) s =
      trip h 1 { s with pwr := { s.pwr with die := s.pwr.die.insert (22 * h.num + k.val) (x, x) } } := by
  have hkeep (m : NMap (Int × Int)) : halfRuns { s with pwr := { s.pwr with die := m } } h = true := hrun
  simp only [doDieSensor, NMap.getD, hfirst, List.foldl, Option.getD_none, max_self]
  rw [if_neg (by simp [down_of_halfRuns hrun]), if_neg (by simp only [hkeep]; decide), if_pos (by simpa using hx)]

theorem doClockLoss_h0 {k : ClockLossKind} (hrun : halfRuns s .h0 = true) (hk : k ≠ .reference) :
    doClockLoss .h0 k s = trip .h0 3 s := by
  cases k with
  | reference => exact absurd rfl hk
  | corePll => simp [doClockLoss, hrun]

end Gaffers

/-- Settles O49. -/
theorem powerDomainsAndBudget : Obligations.PowerDomainsAndBudget := by
  refine ⟨?_, ?_, ?_, ?_, ?_, ?_, ?_, ?_, ?_, ?_, ?_, ?_, ?_, ?_, ?_, ?_, ?_, ?_, ?_, ?_, ?_⟩
  · exact fun h i s hh hstay => onHalf_done hh (doDomainGate_stays hstay)
  · exact fun h i s hh hon hgate hi => onHalf_done hh (doDomainGate_gated hon hgate hi)
  · exact fun h i s hh hst hgate hi => onHalf_done hh (doDomainWake_gated hst hgate hi)
  · exact fun i k s hi hst hdown => onHalf_done (s := s) (h := .h0) rfl (doBuckFault_h0 hi hst hdown)
  · exact fun h i k s hh hover => onHalf_done hh (doBuckFault_over hover)
  · exact fun s hdown => congrArg _ (doVinFast_down hdown)
  · exact fun s hp hdown => congrArg _ (doVinFast_mb1 hp hdown)
  · exact fun s => ⟨_, rfl, doVinRestored_frame s⟩
  · exact fun s => rfl
  · intro d p l hot s hh hex
    exact onHalf_done hh (doGfReport_exchanging (by rw [exchanging_sideGot, hex]))
  · intro g x s hh hex
    refine onHalf_done hh ((doGfGrant_exchanging (by rw [exchanging_sideGot, hex])).trans ?_)
    simp only [sideGot_frame]
  · exact fun s hh => ⟨fun hpend => onHalf_done hh (doGrantTimeout_none hpend),
      fun hpend => onHalf_done hh (doGrantTimeout_some hpend)⟩
  · exact fun s hh hex => onHalf_done hh (doFallback_h1 hex)
  · exact fun s hh hex => onHalf_done hh (doFallback_h0 hex)
  · exact fun h p c s hh hrun htemp hvin => onHalf_done hh (doThrottle_free hrun htemp hvin)
  · exact fun h s hh hrun => onHalf_done hh (doDieSensor_lost hrun)
  · exact fun h k x s hh hrun hx hfirst => onHalf_done hh (doDieSensor_hot hrun hx hfirst)
  · exact fun k s _ hrun hk => onHalf_done (s := s) (h := .h0) rfl (doClockLoss_h0 hrun hk)
  · intro x s hh
    refine onHalf_done hh ?_
    simp only [doTimeSet, sideGot_frame]
  · exact fun c s hh => ⟨onHalf_done hh rfl, onHalf_done hh rfl⟩
  · exact fun s hh => ⟨fun hgone => onHalf_done hh (if_pos hgone), fun hgone => onHalf_done hh (if_neg (by simp [hgone]))⟩

end Sys2Proof.Machine

namespace Sys2Proof.Machine

open Sys2Proof

/-! ### The cold boot and the firmware (R423–R426, R434, R442, R475) -/

section Boot

variable {rep : BootReport} {s : State}

theorem doColdBoot_unbootable (hdue : s.pwr.resetDueT = none) (hboot : bootable s = false) : doColdBoot rep s = s := by
  simp [doColdBoot, hdue, hboot]

/-- A hold strap stops the boot after its front half. -/
theorem doColdBoot_bootable (hdue : s.pwr.resetDueT = none) (hboot : bootable s = true)
    (hup : (bootFront rep s).pwr.down = false) :
    doColdBoot rep s = if (bootFront rep s).pins.straps.getLsbD 4 then
        { bootFront rep s with pwr := { (bootFront rep s).pwr with held := true } }
      else bootBack rep (bootFront rep s) := by
  simp [doColdBoot, hdue, hboot, hup]

theorem doHoldRelease_held (hheld : s.pwr.held = true) (hdown : s.pwr.down = false) :
    doHoldRelease rep s =
      bootBack rep { s with pins := { s.pins with bootHoldBall := false }, pwr := { s.pwr with held := false } } :=
  if_pos ⟨hheld, by simp [hdown]⟩

theorem bootGoAt_otherDigest {d : W512} {n : Nat} (hd : d ≠ s.ident.digest) : bootGoAt d n s = s :=
  if_neg fun ⟨_, _, _, h⟩ => hd h

theorem bootGoAt_measuredDigest {d : W512} {n : Nat} (h0 : s.cad.mp0.st = 1) (h1 : s.cad.mp1.st = 0)
    (hrun : halfRuns s .h1 = true) (hd : d = s.ident.digest) :
    bootGoAt d n s = measure 2 6 none (bytesOf 64 d) (natLe 1 n)
      (modMp .h1 (fun x => { x with st := 1, fwSlot := s.ident.runSlot, beatSeenT := s.clock }) s) :=
  if_pos ⟨h0, h1, hrun, hd⟩

theorem doFloorRaise_halted (hmp : s.cad.mp0.st ≠ 1) : doFloorRaise s = s := if_neg fun ⟨h, _⟩ => hmp h

/-- The running image of the preferred slot raises the floor to its own number. -/
theorem doFloorRaise_due (hmp : s.cad.mp0.st = 1) (hboot : s.ident.bootState = 1)
    (htime : s.clock ≤ s.pwr.readyT + ms 10000) (hnew : s.ident.floorChecked = false) (hflag : raiseFlag s = true)
    (hpref : preferSlot s = b2n s.ident.runSlot) (hlow : s.ident.die0.floor < s.ident.svn) :
    doFloorRaise s = (
      let t := writeCtl (b2n s.ident.runSlot) false
        { s with ident := { s.ident with floorChecked := true, die0 := { s.ident.die0 with floor := s.ident.svn } } }
      measure 1 5 none (shake 64 (natLe 1 t.ident.svn)) (natLe 1 t.ident.svn) t) :=
  if_pos ⟨hmp, .inl hboot, htime, by simp [hnew], hflag, hpref, hlow⟩

end Boot

/-! ### Messages between the management processors (R387, R388) -/

section Processors

variable {s : State}

/-- Beat `n` of a half as a message and its `ACK`, where Zoram is not up. -/
def tellBeat (h : Half) (n : Nat) (s : State) : State :=
  when (decide (s.zor.halves = 0)) (fun s => sideGot (.half h.other 0) 0x13 (natLe 4 n)
    (sideSend (.half h 0) 0x13 (natLe 4 n) s)) s

@[simp] theorem tellBeat_frame (h : Half) (n : Nat) (s : State) :
    (tellBeat h n s).part = s.part ∧ (tellBeat h n s).clock = s.clock ∧ (tellBeat h n s).cad = s.cad ∧
    (tellBeat h n s).mem = s.mem ∧ (tellBeat h n s).regs = s.regs := by
  unfold tellBeat when
  split <;> simp

section Beat

variable {h : Half} (hst : (mpAt s h).st = 1) (hrun : halfRuns s h = true)
include hst hrun

/-- A half that runs counts its beat and tells it, and the other half notes when. -/
theorem doMpBeat_runs :
    doMpBeat h s = (
      let n := ((mpAt s h).beat + 1) % 2 ^ 32
      let t := tellBeat h n (modMp h (fun m => { m with beat := n }) s)
      if t.part = .mb1 then t else modMp h.other (fun m => { m with beatSeenT := t.clock }) t) :=
  if_neg (by simp [hst, hrun])

theorem doMpBeat_beat : (mpAt (doMpBeat h s) h).beat = ((mpAt s h).beat + 1) % 2 ^ 32 := by
  have htold (n : Nat) (t : State) : mpAt (tellBeat h n t) h = mpAt t h := mpAt_congr h (by simp)
  rw [doMpBeat_runs hst hrun]
  dsimp only
  split <;> simp [htold]

theorem doMpBeat_seen (hp : s.part = .mb2) : (mpAt (doMpBeat h s) h.other).beatSeenT = s.clock := by
  simp [doMpBeat_runs hst hrun, hp]

theorem doMpBeat_frame : (doMpBeat h s).mem = s.mem ∧ (doMpBeat h s).regs = s.regs := by
  rw [doMpBeat_runs hst hrun]
  dsimp only
  split <;> simp

end Beat

/-- H1 takes an item up, and H0 lists it. -/
theorem doMpWork_runs {item : Nat} (hst : s.cad.mp1.st = 1) (hrun : halfRuns s .h1 = true) :
    (doMpWork item s).cad.mp1.works = s.cad.mp1.works ++ [item] ∧ item ∈ (doMpWork item s).cad.mp0.works ∧
    (doMpWork item s).mem = s.mem ∧ (doMpWork item s).regs = s.regs := by
  rw [doMpWork, if_neg (by simp [hst, hrun])]
  refine ⟨rfl, ?_, rfl, rfl⟩
  show item ∈ if s.cad.mp0.works.contains item then s.cad.mp0.works else s.cad.mp0.works ++ [item]
  split
  next hin => exact List.contains_iff_mem.1 hin
  next => exact List.mem_append_right _ List.mem_cons_self

/-- An item that is over is on neither list. -/
theorem doMpDone_works (item : Nat) (s : State) :
    item ∉ (doMpDone item s).cad.mp0.works ∧ item ∉ (doMpDone item s).cad.mp1.works ∧
    (doMpDone item s).mem = s.mem ∧ (doMpDone item s).regs = s.regs := by
  simp [doMpDone, modMp]

theorem doMpBeatLoss_due (hp : s.part = .mb2) (hgone : farGone s = false) (hst : s.cad.mp0.st = 1) :
    doMpBeatLoss s = fenceH1 3 (atTime (s.cad.mp0.beatSeenT + ms 30) s) :=
  if_neg (by simp [hp, hgone, hst])

theorem doWatchdog_runs {h : Half} (hrun : halfRuns s h = true) :
    doWatchdog h s = if h = .h0 then takeDown 1 0 0 (sideSend (.half h 0) 0x09 [] s)
      else h1Down 1 0 0 (sideSend (.half h 0) 0x09 [] s) := by
  cases h <;> simp [doWatchdog, hrun]

end Processors

/-- Settles O50. -/
theorem bootAndProcessors : Obligations.BootAndProcessors := by
  refine ⟨?_, ?_, ?_, ?_, ?_, ?_, ?_, ?_, ?_, ?_, ?_, ?_, ?_⟩
  · exact fun s => ⟨_, rfl, rfl, rfl, rfl, rfl, rfl, rfl⟩
  · exact fun s => ⟨rfl, rfl⟩
  · exact fun rep s hdue hboot => congrArg _ (doColdBoot_unbootable hdue hboot)
  · exact fun rep s hdue hboot hup => congrArg _ (doColdBoot_bootable hdue hboot hup)
  · exact fun rep s hheld hdown => congrArg _ (doHoldRelease_held hheld hdown)
  · intro d n s u hh hu
    subst hu
    refine ⟨fun hd => onHalf_done hh (bootGoAt_otherDigest (by simpa using hd)), fun h0 h1 hrun hd => ?_⟩
    have hgo := bootGoAt_measuredDigest (s := sideGot (.half .h1 0) 0x1A (bytesOf 64 d ++ natLe 4 n.toNat) s) (n := 0)
      (by simpa using h0) (by simpa using h1) (by simpa using hrun) (by simpa using hd)
    refine onHalf_done hh (hgo.trans ?_)
    simp only [sideGot_frame]
  · exact fun s hmp => congrArg _ (doFloorRaise_halted hmp)
  · exact fun s hmp hboot htime hnew hflag hpref hlow => congrArg _ (doFloorRaise_due hmp hboot htime hnew hflag hpref hlow)
  · intro fw slot s hh
    refine ⟨_, onHalf_next hh, rfl, rfl, ?_⟩
    simp [doMpHello, modMp]
  · intro n op l st s hh
    refine ⟨fun hst hrun => ⟨_, onHalf_next hh, ?_⟩, _, onHalf_next hh, ?_⟩
    · have hwork := doMpWork_runs (item := n.toNat)
        (s := sideGot (.half .h1 0) 0x11 (natLe 2 n.toNat ++ natLe 2 op.toNat ++ l) s) (by simpa using hst) (by simpa using hrun)
      simpa only [sideGot_frame] using hwork
    · have hdone := doMpDone_works n.toNat (sideGot (.half .h0 0) 0x12 (natLe 2 n.toNat ++ [st] ++ l) s)
      simpa only [sideGot_frame] using hdone
  · exact fun h s hh hst hrun => ⟨_, onHalf_next hh, doMpBeat_beat hst hrun, doMpBeat_seen hst hrun, doMpBeat_frame hst hrun⟩
  · exact fun s hp hgone hst => onHalf_done (hasHalf_of_mb2 .h1 hp) (doMpBeatLoss_due hp hgone hst)
  · exact fun h s hh hrun => onHalf_done hh (doWatchdog_runs hrun)

end Sys2Proof.Machine
